-- ==== Sys2Proof/Word.lean ====
section
/-! DEFINITION. The word types of the part and their plainest arithmetic. -/

namespace Sys2Proof

/-- One byte. -/
abbrev Byte := BitVec 8

/-- One mailbox request or result word (R431), one FP32 value (R280). -/
abbrev W32 := BitVec 32

/-- One register of BAR0 (R464), one scalar register of a recipe run (R308). -/
abbrev W64 := BitVec 64

/-- A sparse table: entries in rising key order; a key with no entry reads as the table's default. -/
abbrev Tab (α : Type) := List (Nat × α)

/-- A pair of like things, one for each half of the package (R53). -/
structure Halves (α : Type) where
  h0 : α
  h1 : α
  deriving DecidableEq, Repr

end Sys2Proof
end

