-- ==== Sys2Proof/Syntax.lean ====
section
/-! DEFINITION. The commands of the part: one constructor of `Instr` for each row of opcode_table.json, and
the things a command carries (packets, blocks, messages, readings). Operand forms are the model's own, since
the table gives the rows no fields. -/

namespace Sys2Proof

/-- A packet: the header of R116 and its payload. -/
structure Packet where
  dest : Nat
  cls : Nat
  epoch : Nat
  mark : Bool
  hops : Nat
  src : Nat
  length : Nat
  resend : Bool
  id : Nat
  seq : Nat
  crc : Nat
  payload : List Byte
  deriving DecidableEq, Repr

/-- What became of a link block on its way in (R120 to R122): good, failing its CRC-32C after correction, or with a bit in an
uncorrectable codeword. -/
inductive BlockCheck where
  | good | crcFail | uncorrectable
  deriving DecidableEq, Repr

/-- What the decoder of a lane reports with a block (R121): the symbols corrected, and the uncorrectable codewords, of the codewords
that have ended since the lane's last report. -/
structure Fec where
  corrected : Nat := 0
  uncorr : Nat := 0
  deriving DecidableEq, Repr

/-- What became of the HBM granules that a transfer read (R382): good, good after `n` symbols were corrected, or uncorrectable. -/
inductive HbmCheck where
  | good | corrected (n page : Nat) | bad (page : Nat)
  deriving DecidableEq, Repr

/-- What the reads of a Bench meet (R278): the byte address of an uncorrectable word, if there is one, and the single-bit errors
corrected; and for a store what its access to HBM meets (R314, R382). -/
structure BenchRead where
  bad : Option Nat := none
  corrected : Nat := 0
  hbm : HbmCheck := .good
  deriving DecidableEq, Repr

/-- The return of a piece of a Showdown, and what its reads of the Bench meet. -/
structure PieceReturn where
  piece : Nat
  read : BenchRead := {}
  deriving DecidableEq, Repr

/-- A Deal of a full copy pass of half `half`'s Roll; `bad` are slots of it whose read is uncorrectable (R217, R395). -/
structure CopyPass where
  half : Nat
  bad : List Nat := []
  deriving DecidableEq, Repr

/-- TYPE of a block (R114); `reserved` for a reserved code. IDLE and CONTROL blocks come so only to say what became of them
(R122); a NOTICE that a good CONTROL block carries is a command of its own. -/
inductive DataType where
  | first | middle | last | only | reserved | idle | control
  deriving DecidableEq, Repr

/-- A data block after a packet's first: its header (R114, R115), how it came, and its lane's decoder. -/
structure DataBlock where
  kind : DataType
  bseq : Nat
  lanes : Nat
  abort : Bool
  check : BlockCheck
  fec : Fec := {}
  deriving DecidableEq, Repr

/-- The four NOTICEs (R118). -/
inductive NoticeKind where
  | laneLeave | laneJoin | resize | disable
  deriving DecidableEq, Repr

/-- A NOTICE body (R119). -/
structure Notice where
  lanes : Nat
  target : Nat
  nseq : Nat
  deriving DecidableEq, Repr

/-- A MARKER body (R119) and how it came: half nanoseconds from the expected instant. -/
structure Marker where
  deal : Nat
  lanes : Nat
  aligned : Bool
  ftState : Nat
  check : BlockCheck
  fec : Fec := {}
  dev : Int
  deriving DecidableEq, Repr

/-- A TRAINING body (R119). -/
structure TrainingBody where
  cls : Nat
  lotMode : Nat
  port : Nat
  nest : Nat
  role : Nat
  lanes : Nat
  aligned : Bool
  done : Bool
  xidx : Nat
  xvalid : Bool
  ridx : Nat
  tdep : Nat
  turnPs : Nat
  deriving DecidableEq, Repr

/-- A TRAINING body that arrives: what became of it, whether its PATTERN matches (R119), the lane by its bit in the port's masks,
that lane's decoder, and the arrival instant, FT in ns. -/
structure TrainingBlock extends TrainingBody where
  check : BlockCheck
  pattern : Bool
  lane : Nat
  fec : Fec := {}
  arrival : Nat
  deriving DecidableEq, Repr

/-- An Announce message (R31): `identity` is the grandmaster's, `source` the port identity of its sender. -/
structure Announce where
  domain : Nat
  transport : Nat
  priority1 : Nat
  clockClass : Nat
  accuracy : Nat
  variance : Nat
  priority2 : Nat
  identity : Nat
  stepsRemoved : Nat
  source : Nat
  utcOffset : Int
  deriving DecidableEq, Repr

/-- What a Sync, Follow_Up or Delay_Resp message carries beside its times: its domain, the transport it came over (0 UDP over
IPv4, 1 IEEE 802.3), the source port identity and its log message interval (R31). -/
structure PtpHeader where
  domain : Nat
  transport : Nat
  identity : Nat
  interval : Int
  deriving DecidableEq, Repr

/-- Where a telemetry read on the I3C bus starts: the address it names, and the byte index (R68, R69). -/
structure TelemetryIndex where
  addr : Nat
  index : Nat
  deriving DecidableEq, Repr

/-- A byte offset of BAR0 or of BAR2 (R466). -/
inductive BarOffset where
  | bar0 (off : Nat)
  | bar2 (off : Nat)
  deriving DecidableEq, Repr

/-- Who makes a register access (R467). -/
inductive Requester where
  | host | steward | jtag
  deriving DecidableEq, Repr

/-- The supported I3C common command codes (R68). -/
inductive Ccc where
  | entdaa (addr : Nat) | setdasa (addr : Nat) | rstdaa | enec | disec
  | getpid | getbcr | getdcr | getstatus | getmxds
  deriving DecidableEq, Repr

/-- Failures of the bring-up stage that ends (R499): cause and unit. -/
abbrev StageFailure := Nat × Nat

/-- An outcome of the checks of a Moelo image's cryptography (R455), found outside the model. -/
structure ImageCheck where
  magicOk : Bool
  keyOk : Bool
  sigOk : Bool
  digestOk : Bool
  version : Nat
  svn : Nat
  keySlot : Nat
  revokeLower : Bool
  liveOk : Bool
  deriving DecidableEq, Repr

/-- The commands: every operation and event of opcode_table.json. A mailbox command carries the mailbox
(0 to 15) or in-band slot (16 to 31) whose oldest rung command firmware accepts (R433). -/
inductive Instr where
  /-- RESET_ACCEPT (R510). A low level on RESET_N passes the input filter and holds the whole package in reset, ending any freeze. -/
  | resetAccept
  /-- RESET_RELEASE (R510). RESET_N rises after acceptance: LT starts at zero, the straps are sampled and the ROM starts boot. -/
  | resetRelease (straps : Nat)
  /-- FREEZE_ACCEPT (R487). FREEZE_N passes its filter and the Punar begins stopping its 97 frozen domains in the fixed order. -/
  | freezeAccept
  /-- FREEZE_COMPLETE (R487). The last domain stops; firmware records ST_FREEZE, writes pending coalesced records, raises DEVICE_FROZEN and signals vector 19. -/
  | freezeComplete (cycle : Nat)
  /-- PERST_ASSERT (R428). PERST_N is asserted: the PCIe controller resets, MSI-X is masked, the event ring turns off and the host mailboxes clear. -/
  | perstAssert
  /-- PERST_RELEASE (R497). PERST_N is released and the PCIe function answers configuration requests within 100 ms. -/
  | perstRelease
  /-- FUNCTION_LEVEL_RESET (R428). A PCIe Function Level Reset resets PCIe state, masks vectors, turns the event ring off and clears the host mailboxes. -/
  | functionLevelReset
  /-- RAIL_OUT_OF_TOLERANCE (R497). A supply rail leaves tolerance in service, which counts as a loss of power. -/
  | railOutOfTolerance
  /-- TAP_RESET (R493). TRST_N resets the JTAG TAP only. -/
  | tapReset
  /-- JTAG_INSTRUCTION (R493). A JTAG instruction is shifted and updated, selecting its data register and setting measurement 5 for freeze codes. -/
  | jtagInstruction (ir : Nat)
  /-- FRZ_DATA_CAPTURE (R493). A Capture-DR of FRZ_DATA returns eight bytes of the selected frozen space and advances the offset by 8. -/
  | frzDataCapture
  /-- DEAL_IN_EDGE (R34). A rising edge on DEAL_IN inside the window is accepted as a Deal boundary and FT is set from the Deal number. -/
  | dealInEdge (wait : Nat)
  /-- DEAL_IN_MISS (R35). The DEAL_IN window closes with no edge; the boundary is placed from the own count and DEAL_IN_FAULT is raised. -/
  | dealInMiss
  /-- TIME_CAP_EDGE (R43). A selected edge on TIME_CAPn is recorded in FT, or counted as missed while a capture is held. -/
  | timeCapEdge (n : Nat) (rising : Bool)
  /-- TIME_CAPTURED (R43). 32 core cycles after the edge the capture reads VALID and TIME_CAPTURED is raised. -/
  | timeCaptured (n : Nat)
  /-- DEAL_BOUNDARY (R21). Fabric time reaches a Deal boundary and every boundary-applied change, Tally close and Deal start takes place. -/
  | dealBoundary
  /-- GUARD_START (R12). The guard of a Deal begins; the late-work check runs, swap lanes go idle and partial spill pages are written. -/
  | guardStart
  /-- MONITOR_CONVERSION_START (R41). At the middle of each Deal the optical monitor converters start a conversion. -/
  | monitorConversionStart
  /-- MONITOR_RESULT (R42). A monitor conversion ends after 256 core cycles and its fade samples are ready for the next boundary. -/
  | monitorResult (samples : List (Nat × List Nat))
  /-- SPARE_WARMED (R92). A spare laser ends its 2.0 ms bias ramp and enters ALIGNING. -/
  | spareWarmed (half laser : Nat)
  /-- SPARE_READY (R92). A spare laser ends alignment and enters READY, awaiting its swap boundary. -/
  | spareReady (half laser : Nat)
  /-- SPARE_TIMEOUT (R93). A spare not READY within 5.0 ms enters FAILED and the next spare starts. -/
  | spareTimeout (half laser : Nat)
  /-- HEATER_SWEEP_TICK (R82). Each microsecond a sweeping side raises its heater code, stopping at a resonance or failing at code 4095. -/
  | heaterSweepTick (lane : Nat) (rx resonance : Bool)
  /-- ID_CHECK_END (R82). The 250 µs pilot-tone integration ends and the side enters LOCKED or fails its identity check. -/
  | idCheckEnd (lane : Nat) (rx : Bool) (tones : List Nat)
  /-- LOCK_LOOP_UPDATE (R84). Each microsecond the lock loop updates a LOCKED side and detects a lost lock. -/
  | lockLoopUpdate (lane : Nat) (rx : Bool) (code : Nat) (outside : Bool)
  /-- LIGHT_LOSS (R83). A receive side sees no light for 256 core cycles and enters NOLIGHT. -/
  | lightLoss (lane : Nat)
  /-- LIGHT_ARRIVAL (R83). Light returns to a NOLIGHT receive side and it starts a lock attempt. -/
  | lightArrival (lane : Nat)
  /-- OCS_CIRCUIT_DARK (R98). A matrix output in circuit sees no light for 256 core cycles and the event is raised. -/
  | ocsCircuitDark (half out : Nat)
  /-- TRAINING_BLOCK (R106). A TRAINING block arrives, moving a DOWN port to TRAIN and advancing lock, exchanges and delay measurement. -/
  | trainingBlock (port : Nat) (block : TrainingBlock)
  /-- PORT_TRAIN_TIMEOUT (R107). Training has not ended 1 ms after the port entered TRAIN. -/
  | portTrainTimeout (port : Nat)
  /-- MARKER_BLOCK (R29). A Deal marker arrives and is checked against the expected instant. -/
  | markerBlock (port : Nat) (marker : Marker)
  /-- MARKER_WINDOW_CLOSE (R29). The 48 ns marker window closes with no good marker and a miss is declared. -/
  | markerWindowClose (port : Nat)
  /-- PORT_SILENCE (R109). No valid block has arrived for 2048 core cycles and the port goes DOWN. -/
  | portSilence (port : Nat)
  /-- NOTICE_RESIZE (R505). A RESIZE NOTICE arrives and the port stops placing data blocks until the agreed target. -/
  | noticeResize (port : Nat) (notice : Notice)
  /-- NOTICE_LANE_LEAVE (R505). A LANE_LEAVE NOTICE arrives and the leaving lanes stop carrying data. -/
  | noticeLaneLeave (port : Nat) (notice : Notice)
  /-- NOTICE_LANE_JOIN (R505). A LANE_JOIN NOTICE arrives and the announced lanes are taken into use from the target. -/
  | noticeLaneJoin (port : Nat) (notice : Notice)
  /-- NOTICE_DISABLE (R505). A DISABLE NOTICE arrives; data stops and the port goes DOWN at the target boundary. -/
  | noticeDisable (port : Nat) (notice : Notice)
  /-- NOTICE_ECHO (R119). An echo of a sent NOTICE arrives and the sender stops repeating it. -/
  | noticeEcho (port : Nat) (kind : NoticeKind) (notice : Notice)
  /-- NOTICE_REPEAT (R119). Every 64 core cycles an unechoed NOTICE is sent again on every active lane. -/
  | noticeRepeat (port : Nat)
  /-- RECEIVE_DRAIN_END (R111). 2 × delay + 128 core cycles after a planned departure the receive side takes its new state. -/
  | receiveDrainEnd (port : Nat)
  /-- PACKET_FIRST_BLOCK (R163). A packet's first data block reaches the Crossing and is metered, looked up and admitted, evicted, spilled or dropped. -/
  | packetFirstBlock (port : Nat) (pkt : Packet) (block : DataBlock)
  /-- DATA_BLOCK (R122). A later data block of a packet arrives and is checked, reordered and forwarded or the packet is dropped. -/
  | dataBlock (port : Nat) (block : DataBlock)
  /-- EGRESS_SCHEDULE (R188). At each free block time a port's scheduler picks a packet by gates, fit and class order, or sends IDLE. -/
  | egressSchedule (port : Nat)
  /-- SPILL_READBACK (R170). The spill engine reads a queue's oldest page back when the queue has room. -/
  | spillReadback (half point cls : Nat) (check : HbmCheck)
  /-- CAL_ENTRY_OPEN (R193). A Calendar entry's duration ends and the next entry's gates open. -/
  | calEntryOpen (half cal : Nat)
  /-- TIME_EXCHANGE_SEND (R23). At the first C0 slot of a Deal that is a multiple of 16 a follower sends TIME_REQ to its parent. -/
  | timeExchangeSend
  /-- TIME_REQ (R24). A time request arrives and the parent answers with TIME_RSP. -/
  | timeReq (port : Nat) (pkt : Packet) (t2 : Nat)
  /-- TIME_RSP (R24). A time response arrives and the child computes delay and offset and runs its FT servo. -/
  | timeRsp (port : Nat) (pkt : Packet) (t4 : Nat)
  /-- HOLDOVER_EXPIRY (R25). 400 ms in HOLDOVER pass and DEAL_ALIGNED clears. -/
  | holdoverExpiry
  /-- PTP_ANNOUNCE (R31). An Announce message is taken into best-master selection. -/
  | ptpAnnounce (msg : Announce)
  /-- PTP_SYNC (R31). A Sync message arrives and is timestamped. -/
  | ptpSync (msg : PtpHeader) (seq : Nat) (twoStep : Bool) (t1 t2 : Nat)
  /-- PTP_FOLLOW_UP (R31). A Follow_Up message supplies the master's departure time. -/
  | ptpFollowUp (msg : PtpHeader) (seq t1 : Nat)
  /-- PTP_DELAY_RESP (R32). A Delay_Resp arrives and PT steps or slews. -/
  | ptpDelayResp (msg : PtpHeader) (seq t4 : Nat)
  /-- PTP_DELAY_REQ_TIMER (R31). The Delay_Req interval passes and a Delay_Req is sent. -/
  | ptpDelayReqTimer
  /-- PTP_ANNOUNCE_TIMEOUT (R32). announceReceiptTimeout expires, the port leaves SLAVE and PT_LOCK_LOST is raised. -/
  | ptpAnnounceTimeout
  /-- THERMAL_COMPARE (R74). Every 1 µs the sensors are compared against warn and trip thresholds. -/
  | thermalCompare (readings : List (Nat × Int))
  /-- TELEMETRY_UPDATE (R69). Every 1 ms the telemetry registers update and the power cap is checked. -/
  | telemetryUpdate (values : List (Nat × Nat))
  /-- I3C_CCC (R68). A supported I3C common command code is received and answered. -/
  | i3cCcc (ccc : Ccc)
  /-- I3C_READ (R69). The tray controller reads telemetry bytes over I3C. -/
  | i3cRead (start : TelemetryIndex) (count : Nat)
  /-- ANTE (R235). An Ante arrives at Kitty control and is refused or summed, learned and counted. -/
  | ante (half port : Nat) (pkt : Packet)
  /-- ACK (R251). A contributor's ACK confirms a round's result. -/
  | ack (half : Nat) (pkt : Packet)
  /-- RNACK (R251). A contributor's RNACK makes Kitty control resend the listed chunks to it. -/
  | rnack (half : Nat) (pkt : Packet)
  /-- RESULT (R256). A parent's RESULT arrives at a child Kitty and is relayed to its contributors. -/
  | result (half : Nat) (pkt : Packet)
  /-- ANACK (R255). A parent's ANACK makes a child resend the listed upward Antes. -/
  | anack (half : Nat) (pkt : Packet)
  /-- KITTY_DEADLINE (R243). A round still collecting reaches d + WAIT; ANACKs are sent and POLICY decides the round. -/
  | kittyDeadline (half slot : Nat)
  /-- SHOWDOWN_RETURN (R246). A piece's recipe result is moved back into the bank and enqueued for sending. -/
  | showdownReturn (half slot : Nat) (piece : PieceReturn)
  /-- KITTY_RESULT_RESEND (R251). RTO Deals pass with unconfirmed contributors and the result is resent to them. -/
  | kittyResultResend (half slot : Nat)
  /-- CHILD_ANTE_RESEND (R255). A child's RTO passes with no RESULT and it resends its upward Antes. -/
  | childAnteResend (half slot : Nat)
  /-- ROLL_MISS_FILL (R208). The HBM read of a Roll miss completes and the waiting lookup or insert proceeds. -/
  | rollMissFill (half way : Nat) (check : HbmCheck)
  /-- ROLL_SWEEP (R214). Each Deal the sweep reads its slots, ages entries, removes purged ones and finishes purges. -/
  | rollSweep (half : Nat) (bad : List Nat)
  /-- ROLL_READ (R222). RL_CMD READ loads an entry into RL_DATA. -/
  | rollRead (half set : Nat)
  /-- ROLL_WRITE (R222). RL_CMD WRITE stores an entry by MODE and KEEP_COUNTS. -/
  | rollWrite (half set mode : Nat) (keep : Bool)
  /-- ROLL_DELETE (R222). RL_CMD DELETE frees an entry. -/
  | rollDelete (half set : Nat)
  /-- ROLL_READ_INDEX (R222). RL_CMD READ_INDEX loads a slot of a way, free entries included. -/
  | rollReadIndex (half set index : Nat)
  /-- ROLL_PURGE (R216). RL_CMD PURGE puts a Kitty ID on the purge list. -/
  | rollPurge (half set : Nat)
  /-- ROLL_TOUCH (R222). RL_CMD TOUCH brings an entry into the cache. -/
  | rollTouch (half set : Nat)
  /-- ROLL_CMD_RESERVED (R222). An RL_CMD with a reserved operation or mode ends with BAD_OP. -/
  | rollCmdReserved (half set op mode : Nat)
  /-- ROLL_OP_DONE (R221). A Roll command operation ends and BUSY clears with its status. -/
  | rollOpDone (half set : Nat) (bad : List Nat)
  /-- ROLL_SET_WRITE (R221). A write to RL_KEY or RL_DATA stores the value or is discarded with COLLIDE while BUSY. -/
  | rollSetWrite (half set reg value : Nat)
  /-- RECIPE_SLOT_START (R296). A slot start trigger fires and the slot's run starts or waits behind the run in progress. -/
  | recipeSlotStart (loom slot : Nat)
  /-- NOP (R304). A recipe issues nop. -/
  | nop (loom : Nat) (imem : Bool)
  /-- MM (R305). A recipe issues an array instruction. -/
  | mm (loom : Nat) (imem : Bool)
  /-- VECTOR_OP (R306). A recipe issues a vector arithmetic instruction. -/
  | vectorOp (loom : Nat) (imem : Bool)
  /-- VCVT (R307). A recipe issues a conversion instruction. -/
  | vcvt (loom : Nat) (imem : Bool)
  /-- VRED_SUM (R307). A recipe issues a segmented cross-lane sum. -/
  | vredSum (loom : Nat) (imem : Bool)
  /-- VRED_MAX (R307). A recipe issues a segmented cross-lane max. -/
  | vredMax (loom : Nat) (imem : Bool)
  /-- VRED_TOPK (R317). A recipe issues top-k selection writing one record per segment. -/
  | vredTopk (loom : Nat) (imem : Bool)
  /-- SCALAR_REG (R308). A recipe issues a register-with-register scalar operation. -/
  | scalarReg (loom : Nat) (imem : Bool)
  /-- SCALAR_IMM (R308). A recipe issues a register-with-immediate scalar operation. -/
  | scalarImm (loom : Nat) (imem : Bool)
  /-- LOAD_IMMEDIATE (R308). A recipe issues li or lih. -/
  | loadImmediate (loom : Nat) (imem : Bool)
  /-- LD (R308). A recipe issues a scalar load from the Bench. -/
  | ld (loom : Nat) (imem : Bool) (read : BenchRead)
  /-- ST (R308). A recipe issues a scalar store to the Bench. -/
  | st (loom : Nat) (imem : Bool)
  /-- SCALAR_FP (R308). A recipe issues a scalar FP32 operation. -/
  | scalarFp (loom : Nat) (imem : Bool)
  /-- MFS (R308). A recipe issues move from special. -/
  | mfs (loom : Nat) (imem : Bool)
  /-- BRANCH (R308). A recipe issues a conditional branch. -/
  | branch (loom : Nat) (imem : Bool)
  /-- JMP (R308). A recipe issues a jump. -/
  | jmp (loom : Nat) (imem : Bool)
  /-- COPY (R310). A recipe issues a Bench to Bench copy. -/
  | copy (loom : Nat) (imem : Bool)
  /-- LFETCH (R314). A recipe issues a fetch from HBM into the Bench. -/
  | lfetch (loom : Nat) (imem : Bool)
  /-- LSTORE (R314). A recipe issues a store from the Bench into HBM. -/
  | lstore (loom : Nat) (imem : Bool) (read : BenchRead)
  /-- EMIT (R315). A recipe issues emit, copying a packet into the emit buffer. -/
  | emit (loom : Nat) (imem : Bool) (read : BenchRead)
  /-- SIEVE (R316). A recipe issues an optical projection to the Sieve. -/
  | sieveOp (loom : Nat) (imem : Bool)
  /-- SYNC_CYCLE (R318). A recipe issues sync CYCLE to wait for a loom cycle of the Deal. -/
  | syncCycle (loom : Nat) (imem : Bool)
  /-- SYNC_FILLS (R318). A recipe issues sync FILLS to wait for its transfers. -/
  | syncFills (loom : Nat) (imem : Bool)
  /-- SYNC_DRAIN (R318). A recipe issues sync DRAIN to wait for instructions in flight. -/
  | syncDrain (loom : Nat) (imem : Bool)
  /-- SYNC_YIELD (R300). A recipe yields, ending its Deal's work and keeping its state. -/
  | syncYield (loom : Nat) (imem : Bool)
  /-- END (R318). A recipe issues end, which waits for fills and drain and ends the run DONE. -/
  | endRun (loom : Nat) (imem : Bool)
  /-- INSTRUCTION_WAIT_END (R311). A held instruction's register, range or limit wait ends and it issues. -/
  | instructionWaitEnd (loom : Nat) (read : BenchRead)
  /-- INSTRUCTION_COMPLETE (R273). An array, vector or copy instruction completes and writes its result. -/
  | instructionComplete (loom index : Nat) (recompute : Bool) (bad : Option Nat) (corrected : Nat)
  /-- LOOM_CHECK_FAIL (R291). The recompute also mismatches and the recipe faults with ARRAY_CHECK. -/
  | loomCheckFail (loom array index : Nat)
  /-- FILL_LANDED (R277). A fill's last byte for a granule lands and its pending bit clears. -/
  | fillLanded (loom granule : Nat) (check : HbmCheck)
  /-- LOOM_SAMPLE (R327). Every PERIOD loom cycles a sample is recorded in the ring or lost. -/
  | loomSample (loom stall : Nat)
  /-- SIEVE_INSTRUCTION_START (R316). The Sieve, free, takes the next sieve instruction in order. -/
  | sieveInstructionStart
  /-- SIEVE_INSTRUCTION_DONE (R316). A sieve instruction completes and its outputs are written. -/
  | sieveInstructionDone
  /-- SIEVE_TRIM_WINDOW (R365). At a Deal multiple of TRIM_N a trim window probes and corrects one bank. -/
  | sieveTrimWindow
  /-- SIEVE_TRIM_END (R366). A trim window ends and the bank's state follows its measured bits. -/
  | sieveTrimEnd (effs : List Nat)
  /-- SIEVE_LOAD_READY (R362). Firmware finishes checking and decomposing P and the load result becomes ready. -/
  | sieveLoadReady (bank : Nat) (check : HbmCheck)
  /-- SIEVE_CALIBRATION_DONE (R362). A bank's full calibration ends and it becomes READY or FAILED. -/
  | sieveCalibrationDone (bank bits : Nat)
  /-- TOKEN (R342). A TOKEN part arrives and is refused or joins a batch. -/
  | token (half : Nat) (pkt : Packet)
  /-- GATE_CAPACITY_CHECK (R346). After the dispatch runs end, records are merged and capacity and policy decide each choice. -/
  | gateCapacityCheck (half gate : Nat)
  /-- REPLY (R352). An expert's REPLY arrives and is refused or held in the combine Kitty. -/
  | reply (half : Nat) (pkt : Packet)
  /-- GATE_COMBINE_DEADLINE (R353). At t + COMBINE_WAIT reply collection ends and missing tokens are suppressed. -/
  | gateCombineDeadline (half gate : Nat)
  /-- LARDER_GRANT (R376). The head of the wait list is granted from the bitmap and zeroed if asked. -/
  | larderGrant (half : Nat)
  /-- LARDER_WAIT_TIMEOUT (R377). A request waits WAIT_DEALS Deals and leaves the list with NO_SPACE. -/
  | larderWaitTimeout (half : Nat)
  /-- MIRROR_PACKET (R393). A mirror packet from the partner arrives and its records are applied in SEQ order. -/
  | mirrorPacket (pkt : Packet)
  /-- MACK (R393). A MACK arrives and confirms mirror packets. -/
  | mack (pkt : Packet)
  /-- MIRROR_RESEND (R393). 8 Deals pass without confirmation advancing and unconfirmed packets are resent. -/
  | mirrorResend (half : Nat)
  /-- MIRROR_STALE (R394). A change does not fit the backlog, STALE sets and changes are no longer kept. -/
  | mirrorStale (half : Nat)
  /-- MIRROR_COPY_PASS (R395). Each Deal a full copy pass sends the next COPY_RATE × 256 Roll slots. -/
  | mirrorCopyPass (pass : CopyPass)
  /-- TWIN_LOST_MACK (R391). Every 8 Deals in LOST a half sends a MACK to the partner. -/
  | twinLostMack (half : Nat)
  /-- DELTA (R405). A DELTA arrives at a parity holder and is applied, acknowledged or discarded by SEQ. -/
  | delta (half : Nat) (pkt : Packet)
  /-- DACK (R405). A DACK arrives and frees acknowledged DELTAs from the delta buffer. -/
  | dack (half : Nat) (pkt : Packet)
  /-- DELTA_RESEND (R405). DELTA_RTO Deals pass and unacknowledged DELTAs are resent. -/
  | deltaResend (half : Nat)
  /-- CODED (R407). A member's CODED packet arrives and the Table coded step is recomputed. -/
  | coded (half : Nat) (pkt : Packet)
  /-- CODED_REPORT (R407). Every 16 Deals, and on each change, a half sends CODED to the live members. -/
  | codedReport (half : Nat)
  /-- UREAD (R406). A spare's UREAD arrives and the member answers with five UDATA packets. -/
  | uread (half : Nat) (pkt : Packet)
  /-- UDATA (R410). A UDATA part arrives at the rebuilding spare. -/
  | udata (half : Nat) (pkt : Packet)
  /-- UREAD_RETRY (R406). DELTA_RTO Deals pass with parts missing and the spare asks again. -/
  | ureadRetry (half : Nat)
  /-- PSET (R406). A PSET arrives and replaces the holder's parity bytes in SEQ order. -/
  | pset (half : Nat) (pkt : Packet)
  /-- REBUILD_STRIPE (R410). A stripe's units are solved, written and its parity sent as PSETs. -/
  | rebuildStripe (half : Nat)
  /-- CKPT_WRITTEN (R412). The checkpoint image is written and CKPT_DONE is raised. -/
  | ckptWritten
  /-- JOB_START (R418). A JOB_START arrives and is held, mirrored and forwarded to the children. -/
  | jobStart (pkt : Packet)
  /-- BCAST_ASK (R420). A BCAST_ASK arrives and a held broadcast is resent to the asker. -/
  | bcastAsk (pkt : Packet)
  /-- BCAST_DEADLINE (R419). At the expected deadline a missing broadcast raises BCAST_LATE and is asked for. -/
  | bcastDeadline
  /-- BCAST_ASK_RETRY (R419). 4 Deals pass without the broadcast and the ask is repeated or BCAST_MISSED raised. -/
  | bcastAskRetry
  /-- HEALTH_WINDOW_END (R424). A WINDOW ends and, while SPENT, THRESHOLD rises by RISE. -/
  | healthWindowEnd
  /-- MGMT_REQ (R439). An in-band management request arrives and submits, repeats or answers a slot command. -/
  | mgmtReq (pkt : Packet)
  /-- STEWARD_LOCAL_PACKET (R446). A packet delivered LOCAL to the Steward is checked and queued for the host. -/
  | stewardLocalPacket (pkt : Packet)
  /-- MB_RING (R432). A write of 1 to MB_DOORBELL.RING submits the mailbox request or is discarded while pending. -/
  | mbRing (box : Nat)
  /-- MB_REQUEST_WRITE (R432). A write to MB_REQ or MB_CTRL stores or is discarded with COLLIDE while pending. -/
  | mbRequestWrite (box off : Nat) (bytes : List Byte)
  /-- MB_RESULT_READ (R435). A read of MB_RESULT_HDR with READY counts in READ_COUNT. -/
  | mbResultRead (box off size : Nat)
  /-- EV_CONS_WRITE (R449). The host advances EV_CONS, clamped to EV_PROD. -/
  | evConsWrite (value : Nat)
  /-- EVENT_MODERATION_TIMER (R451). MOD µs pass with records written and vector 16 fires. -/
  | eventModerationTimer
  /-- TIME_CAP_READ (R45). A read of TB_CAPn_A latches a held capture and frees the input. -/
  | timeCapRead (n : Nat)
  /-- TSQ_POP (R49). A read of TB_TSQh_HI removes the head timestamp entry and latches its low word. -/
  | tsqPop (half : Nat)
  /-- FT_NS_READ (R51). A read of TB_FT_NS or TB_PT_NS latches the matching seconds for the requester. -/
  | ftNsRead (req : Requester) (pt : Bool)
  /-- RC_FIELD_READ (R8). A read of an RC field returns its value and clears it. The host's read of 8 bytes at an aligned
  offset of BAR0 or BAR2, whatever the types of the fields there. -/
  | rcFieldRead (off : BarOffset)
  /-- SNAP_ARM (R472). Setting ARM in CT_SNAP_CTRL arms a snapshot set to capture. -/
  | snapArm (req : Requester) (set : Nat)
  /-- SNAP_CTRL_WRITE (R472). Writing COUNT, MODE or PERIOD reconfigures a set and stops periodic capture. -/
  | snapCtrlWrite (req : Requester) (set value : Nat)
  /-- SNAP_CAPTURE (R472). A snapshot set's capture instant comes and its sources are copied, clearing if asked. -/
  | snapCapture (set : Nat)
  /-- SNAP_BANK_SWAP (R474). A capture's fill ends and the banks swap with GEN incremented. -/
  | snapBankSwap (set : Nat)
  /-- COUNTER_THRESHOLD (R479). A programmable counter reaches its threshold and the event is raised. -/
  | counterThreshold (block k : Nat)
  /-- SAMPLE_ACK (R327). A write to LM_SAMPLE_ACK frees read samples. -/
  | sampleAck (loom n : Nat)
  /-- ALIAS_WRITE (R482). A write to an alias word writes one bit of the aperture under its type. -/
  | aliasWrite (req : Requester) (off : Nat) (bit : Bool)
  /-- BAD_ACCESS (R467). A register access is a bus error, reported to the requester and latched in ST_BUSERR. -/
  | badAccess (req : Requester) (bar2 write : Bool) (off size : Nat)
  /-- REGISTER_WRITE (R8). A write to a register with no row of its own acts by field type. -/
  | registerWrite (req : Requester) (bar2 : Bool) (off value : Nat)
  /-- SPDM_GET_VERSION (R460). An SPDM GET_VERSION request is answered. -/
  | spdmGetVersion
  /-- SPDM_GET_CAPABILITIES (R460). An SPDM GET_CAPABILITIES request is answered. -/
  | spdmGetCapabilities
  /-- SPDM_NEGOTIATE_ALGORITHMS (R460). An SPDM NEGOTIATE_ALGORITHMS request is answered. -/
  | spdmNegotiateAlgorithms (p521 sha512 dmtf : Bool)
  /-- SPDM_GET_DIGESTS (R460). An SPDM GET_DIGESTS request is answered. -/
  | spdmGetDigests
  /-- SPDM_GET_CERTIFICATE (R459). An SPDM GET_CERTIFICATE request returns a certificate chain. -/
  | spdmGetCertificate (slot offset count : Nat)
  /-- SPDM_CHALLENGE (R460). An SPDM CHALLENGE is signed with the alias key. -/
  | spdmChallenge (slot nonce : Nat)
  /-- SPDM_GET_MEASUREMENTS (R461). An SPDM GET_MEASUREMENTS request returns the measurement blocks. -/
  | spdmGetMeasurements (index nonce : Nat) (signed : Bool)
  /-- SPDM_GET_CSR (R460). An SPDM GET_CSR request returns a signing request for the alias key. -/
  | spdmGetCsr
  /-- SPDM_SET_CERTIFICATE (R460). An SPDM SET_CERTIFICATE writes slot 1 to the identity sector. -/
  | spdmSetCertificate (slot : Nat) (chain : List Byte)
  /-- SPDM_RESPOND_IF_READY (R460). An SPDM RESPOND_IF_READY request is answered. -/
  | spdmRespondIfReady
  /-- BOOT_IMAGE_CHECK (R453). The ROM checks the boot image and starts Moelo or refuses it. -/
  | bootImageCheck (image : ImageCheck)
  /-- BOOT_READY (R498). Moelo starts, derives the alias key and raises BOOT_READY. -/
  | bootReady
  /-- FW_READY_TIMEOUT (R456). A new image does not report ready within 10 s and the ROM boots the committed bank. -/
  | fwReadyTimeout
  /-- BRINGUP_STAGE_END (R499). A bring-up stage ends and its failed units are retired with SELF_TEST_FAIL. -/
  | bringupStageEnd (failures : List StageFailure)
  /-- XFER_DONE (R447). A DMA transfer between a region and host memory writes its last byte and its result becomes ready. -/
  | xferDone (k : Nat) (bytes : List Byte) (check : HbmCheck)
  /-- TIME_SET (R444). time.set loads FT on the master. -/
  | timeSet (k : Nat)
  /-- TIME_STEP (R22). time.step resets ST at a boundary. -/
  | timeStep (k : Nat)
  /-- TIME_ASYM (R444). time.asym sets a port's delay asymmetry. -/
  | timeAsym (k : Nat)
  /-- TIME_ROLE (R444). time.role sets master or follower, DEAL_SRC and the parents. -/
  | timeRole (k : Nat)
  /-- TIME_STATUS (R443). time.status returns the time base state. -/
  | timeStatus (k : Nat)
  /-- PTP_CONFIG (R31). ptp.config configures the IEEE 1588 follower. -/
  | ptpConfig (k : Nat)
  /-- DEAL_PERIOD (R38). deal.period schedules a change of Deal period. -/
  | dealPeriod (k : Nat)
  /-- POWER_CAP (R72). power.cap sets the fabric manager cap, fluid and flow. -/
  | powerCap (k : Nat)
  /-- POWER_STATUS (R69). power.status returns the telemetry registers. -/
  | powerStatus (k : Nat)
  /-- LANE_RETIRE (R507). lane.retire retires a lane at a boundary as a planned drop. -/
  | laneRetire (k : Nat)
  /-- LAMP_SWAP (R92). lamp.swap starts a spare swap for a slot. -/
  | lampSwap (k : Nat)
  /-- LAMP_AUTO (R91). lamp.auto sets automatic swapping for a half. -/
  | lampAuto (k : Nat)
  /-- OCS_SET (R100). ocs.set sets bypass circuits. -/
  | ocsSet (k : Nat)
  /-- OCS_CLEAR (R100). ocs.clear clears bypass circuits. -/
  | ocsClear (k : Nat)
  /-- PORT_CONFIG (R104). port.config sets a Lot mode, class and roles. -/
  | portConfig (k : Nat)
  /-- PORT_ENABLE (R506). port.enable moves a DISABLED port to DOWN. -/
  | portEnable (k : Nat)
  /-- PORT_DISABLE (R111). port.disable sends a DISABLE NOTICE and disables the port at a boundary. -/
  | portDisable (k : Nat)
  /-- PORT_STATUS (R133). port.status returns a port's state and far name. -/
  | portStatus (k : Nat)
  /-- NEST_LOAD (R136). nest.load loads the Nest descriptor and clears the route tables. -/
  | nestLoad (k : Nat)
  /-- ROUTE_LOAD (R145). route.load writes route entries into a table. -/
  | routeLoad (k : Nat)
  /-- ROUTE_SEAL (R145). route.seal checks a table and makes it LOADED. -/
  | routeSeal (k : Nat)
  /-- ROUTE_FLIP (R146). route.flip schedules an epoch flip at Deal F. -/
  | routeFlip (k : Nat)
  /-- ROUTE_HORIZON (R147). route.horizon sets the drain horizon. -/
  | routeHorizon (k : Nat)
  /-- ROUTE_READ (R145). route.read returns a route entry. -/
  | routeRead (k : Nat)
  /-- FAN_SET (R152). fan.set replaces a Fan's members. -/
  | fanSet (k : Nat)
  /-- FAN_WEIGHT (R154). fan.weight changes member weights. -/
  | fanWeight (k : Nat)
  /-- FAN_REJOIN (R154). fan.rejoin makes a port active again in its Fans. -/
  | fanRejoin (k : Nat)
  /-- FAN_REMOVE (R154). fan.remove makes a port inactive in every Fan at once. -/
  | fanRemove (k : Nat)
  /-- TALLY_STREAM (R157). tally.stream sets Tally streaming. -/
  | tallyStream (k : Nat)
  /-- BUF_CONFIG (R161). buf.config sets the privileged pool and push-out matrix. -/
  | bufConfig (k : Nat)
  /-- QUEUE_CONFIG (R162). queue.config sets queue limits, marks and spill. -/
  | queueConfig (k : Nat)
  /-- SPILL_RATE (R171). spill.rate sets the spill page rate. -/
  | spillRate (k : Nat)
  /-- MCAST_SET (R174). mcast.set replaces or appends multicast group members. -/
  | mcastSet (k : Nat)
  /-- PORT_EXPECT (R180). port.expect sets a port's management view. -/
  | portExpect (k : Nat)
  /-- PORT_RESOLVE (R182). port.resolve ends a dispute. -/
  | portResolve (k : Nat)
  /-- CAL_LOAD (R194). cal.load writes Calendar entries and may commit a bank. -/
  | calLoad (k : Nat)
  /-- CAL_START (R193). cal.start starts a Calendar at D0. -/
  | calStart (k : Nat)
  /-- CAL_STOP (R194). cal.stop ends a Calendar at its cycle end. -/
  | calStop (k : Nat)
  /-- CAL_BIND (R194). cal.bind binds a port to a Calendar. -/
  | calBind (k : Nat)
  /-- SCHED_CONFIG (R189). sched.config sets a port's overhead, window and weights. -/
  | schedConfig (k : Nat)
  /-- METER_SET (R197). meter.set configures a meter. -/
  | meterSet (k : Nat)
  /-- METER_BIND (R196). meter.bind binds a port and class to a meter. -/
  | meterBind (k : Nat)
  /-- ROLL_CONFIG (R214). roll.config sets ageing, sweep rate and lag margin. -/
  | rollConfig (k : Nat)
  /-- KITTY_OPEN (R230). kitty.open opens a Kitty at a boundary. -/
  | kittyOpen (k : Nat)
  /-- KITTY_CLOSE (R263). kitty.close closes a Kitty at a boundary. -/
  | kittyClose (k : Nat)
  /-- KITTY_STATUS (R227). kitty.status returns a Kitty's slot and state. -/
  | kittyStatus (k : Nat)
  /-- KITTY_CONFIG (R264). kitty.config sets pool, transfer budget and ingest limit. -/
  | kittyConfig (k : Nat)
  /-- LEDGER_OPEN (R257). ledger.open opens a job in both halves. -/
  | ledgerOpen (k : Nat)
  /-- LEDGER_ABORT (R261). ledger.abort aborts a step at a boundary. -/
  | ledgerAbort (k : Nat)
  /-- LEDGER_CLOSE (R257). ledger.close closes a job. -/
  | ledgerClose (k : Nat)
  /-- LEDGER_STATUS (R258). ledger.status returns a job's Ledger registers. -/
  | ledgerStatus (k : Nat)
  /-- LOOM_STATUS (R287). loom.status returns a Loom's state and flags. -/
  | loomStatus (k : Nat)
  /-- LOOM_RETIRE (R292). loom.retire retires a Loom at a boundary. -/
  | loomRetire (k : Nat)
  /-- LOOM_SEED (R284). loom.seed seeds stochastic rounding generators. -/
  | loomSeed (k : Nat)
  /-- BENCH_WRITE (R276). bench.write writes Bench words through the fill port. -/
  | benchWrite (k : Nat)
  /-- BENCH_READ (R276). bench.read returns Bench words. -/
  | benchRead (k : Nat) (read : BenchRead)
  /-- RECIPE_CREATE (R323). recipe.create reserves instruction memory for a handle. -/
  | recipeCreate (k : Nat)
  /-- RECIPE_LOAD (R323). recipe.load writes recipe instructions. -/
  | recipeLoad (k : Nat)
  /-- RECIPE_SEAL (R319). recipe.seal checks and seals a recipe. -/
  | recipeSeal (k : Nat)
  /-- RECIPE_FREE (R326). recipe.free frees a handle. -/
  | recipeFree (k : Nat)
  /-- SLOT_CONFIG (R295). slot.config configures a Loom slot at a boundary. -/
  | slotConfig (k : Nat)
  /-- RECIPE_PARAM (R325). recipe.param sets slot parameter words. -/
  | recipeParam (k : Nat)
  /-- RECIPE_RUN (R296). recipe.run schedules a HOST run at Deal D. -/
  | recipeRun (k : Nat)
  /-- SAMPLE_CONFIG (R327). sample.config enables Loom sampling. -/
  | sampleConfig (k : Nat)
  /-- GATE_LOAD (R338). gate.load loads a gate at a boundary. -/
  | gateLoad (k : Nat)
  /-- GATE_UNLOAD (R355). gate.unload unloads a gate at a boundary. -/
  | gateUnload (k : Nat)
  /-- GATE_MAP (R347). gate.map sets expert names and enables. -/
  | gateMap (k : Nat)
  /-- GATE_CAP (R346). gate.cap sets expert capacities. -/
  | gateCap (k : Nat)
  /-- GATE_WEIGHTS (R340). gate.weights schedules new router weights at Deal F. -/
  | gateWeights (k : Nat)
  /-- GATE_STATUS (R337). gate.status returns a gate's state. -/
  | gateStatus (k : Nat)
  /-- SIEVE_LOAD (R362). sieve.load loads a projection into a bank. -/
  | sieveLoad (k : Nat)
  /-- SIEVE_CLEAR (R363). sieve.clear empties a bank. -/
  | sieveClear (k : Nat)
  /-- SIEVE_TRIM (R365). sieve.trim sets TRIM_N. -/
  | sieveTrim (k : Nat)
  /-- SIEVE_STATUS (R361). sieve.status returns Sieve and bank state. -/
  | sieveStatus (k : Nat)
  /-- LARDER_ALLOC (R376). larder.alloc requests a region grant. -/
  | larderAlloc (k : Nat)
  /-- LARDER_FREE (R378). larder.free frees a region at a boundary. -/
  | larderFree (k : Nat)
  /-- LARDER_STATUS (R375). larder.status returns a region's state. -/
  | larderStatus (k : Nat)
  /-- LARDER_WRITE (R375). larder.write writes words into a region. -/
  | larderWrite (k : Nat) (check : HbmCheck)
  /-- LARDER_READ (R375). larder.read returns words from a region. -/
  | larderRead (k : Nat) (check : HbmCheck)
  /-- LARDER_CONFIG (R384). larder.config sets bandwidth shares and WAIT_DEALS. -/
  | larderConfig (k : Nat)
  /-- LARDER_RESERVE (R374). larder.reserve changes SPILL_SIZE. -/
  | larderReserve (k : Nat)
  /-- HBM_RETIRE (R386). hbm.retire retires a stack at a boundary. -/
  | hbmRetire (k : Nat)
  /-- TWIN_PAIR (R388). twin.pair pairs the chip with a partner. -/
  | twinPair (k : Nat)
  /-- TWIN_LINK (R389). twin.link sets class and enable of a half's twin ports. -/
  | twinLink (k : Nat)
  /-- TWIN_MIRROR (R392). twin.mirror turns the mirror of a half on or off. -/
  | twinMirror (k : Nat)
  /-- TWIN_TAKEOVER (R397). twin.takeover takes over the partner at a boundary. -/
  | twinTakeover (k : Nat)
  /-- TWIN_EXPORT (R397). twin.export returns mirror records. -/
  | twinExport (k : Nat)
  /-- TABLE_JOIN (R400). table.join joins the chip to a Table. -/
  | tableJoin (k : Nat)
  /-- TABLE_PROTECT (R401). table.protect adds a STATE region to the protected list. -/
  | tableProtect (k : Nat)
  /-- TABLE_MEMBER (R409). table.member marks a member lost or names a new one. -/
  | tableMember (k : Nat)
  /-- TABLE_REBUILD (R410). table.rebuild starts a spare's rebuild. -/
  | tableRebuild (k : Nat)
  /-- CKPT_TAKE (R412). ckpt.take asks for a light-state checkpoint at a step close. -/
  | ckptTake (k : Nat)
  /-- CKPT_RESTORE (R413). ckpt.restore applies a checkpoint image. -/
  | ckptRestore (k : Nat)
  /-- BCAST_TREE (R417). bcast.tree sets the broadcast parent and child groups. -/
  | bcastTree (k : Nat)
  /-- DEAL_EXPECT (R419). deal.expect sets a broadcast deadline. -/
  | dealExpect (k : Nat)
  /-- DEAL_OPEN (R418). deal.open launches a job-start broadcast at the root. -/
  | dealOpen (k : Nat)
  /-- HEALTH_BUDGET (R424). health.budget sets the expulsion budget and clears SPENT. -/
  | healthBudget (k : Nat)
  /-- HEALTH_CLEAR (R422). health.clear returns a suspect to normal. -/
  | healthClear (k : Nat)
  /-- SYS_CAPS (R4). sys.caps returns capabilities and replacement reasons. -/
  | sysCaps (k : Nat)
  /-- SYS_INFO (R443). sys.info returns versions, serial and cores. -/
  | sysInfo (k : Nat)
  /-- MB_ABORT (R509). mb.abort ends a waiting command with ABORTED. -/
  | mbAbort (k : Nat)
  /-- EVT_RING (R449). evt.ring sets up or turns off the event ring. -/
  | evtRing (k : Nat)
  /-- EVT_FORWARD (R452). evt.forward sets event forwarding to a collector. -/
  | evtForward (k : Nat)
  /-- MGMT_ALLOW (R438). mgmt.allow binds an in-band slot to a name. -/
  | mgmtAllow (k : Nat)
  /-- PKT_SEND (R445). pkt.send originates one packet from the host. -/
  | pktSend (k : Nat)
  /-- PKT_RECV (R446). pkt.recv returns the oldest queued packet or part. -/
  | pktRecv (k : Nat)
  /-- XFER_TO_HOST (R447). xfer.to_host starts a DMA from a region to host memory. -/
  | xferToHost (k : Nat)
  /-- XFER_FROM_HOST (R447). xfer.from_host starts a DMA from host memory to a region. -/
  | xferFromHost (k : Nat)
  /-- FW_STAGE (R453). fw.stage writes image words into the inactive bank. -/
  | fwStage (k : Nat)
  /-- FW_VERIFY (R455). fw.verify checks the staged image. -/
  | fwVerify (k : Nat)
  /-- FW_ACTIVATE (R457). fw.activate marks the new bank to boot or restarts Moelo live. -/
  | fwActivate (k : Nat)
  /-- FW_COMMIT (R456). fw.commit commits the running bank and raises the fused SVN. -/
  | fwCommit (k : Nat)
  /-- FW_STATUS (R456). fw.status returns bank state and versions. -/
  | fwStatus (k : Nat)
  /-- FW_LIVE_RESTART_DONE (R457). A live restart reports ready and deferred firmware work resumes. -/
  | fwLiveRestartDone
  /-- CT_SNAP (R472). ct.snap captures listed registers at a boundary. -/
  | ctSnap (k : Nat)
  /-- CT_CONFIG (R477). ct.config sets a programmable counter. -/
  | ctConfig (k : Nat)
  /-- CT_BW (R480). ct.bw sets the bandwidth window length. -/
  | ctBw (k : Nat)
  /-- USER_MAP (R481). user.map maps a BAR0 page into the user window. -/
  | userMap (k : Nat)
  /-- FRZ_NOW (R508). frz.now returns its result and then freezes the Punar. -/
  | frzNow (k : Nat)
  /-- FRZ_STATUS (R487). frz.status returns ST_FREEZE and ST_FREEZE_FT. -/
  | frzStatus (k : Nat)
  /-- FRZ_READ (R491). frz.read returns words of a frozen space. -/
  | frzRead (k : Nat)
  /-- BRING_STATUS (R501). bring.status returns PN_BRINGUP and replacement reasons. -/
  | bringStatus (k : Nat)
  /-- LAMP_NOMINAL (R500). lamp.nominal records a half's fade base as nominal power. -/
  | lampNominal (k : Nat)
  /-- TIME_SET_LOAD (R444). 4096 core cycles after time.set is accepted, FT is loaded with the given value, the master enters TRACK and pending Deal targets move to the new numbering. -/
  | timeSetLoad
  /-- LARDER_ZERO_DONE (R379). The zeroing of a grant made with ZERO = 1 ends, and the larder.alloc result becomes ready. -/
  | larderZeroDone (k : Nat)
  /-- CKPT_RESTORE_DONE (R413). ckpt.restore finishes applying its image records and its result becomes ready. -/
  | ckptRestoreDone
  /-- FW_WORK_DONE (R434). The flash write, image check or fuse work of fw.stage, fw.verify, fw.activate or fw.commit ends and its PENDING result becomes ready. -/
  | fwWorkDone (k : Nat) (image : ImageCheck)
  /-- HBM_CHANNEL_LOST (R386). An HBM stack loses a channel in service, and firmware retires the stack at the next boundary. -/
  | hbmChannelLost (site : Nat)
  /-- D3HOT_TRANSITION (R428). The host moves the PCIe function into or out of D3hot, which stops or resumes PCIe traffic and changes nothing else. -/
  | d3hotTransition (enter : Bool)
  /-- DOE_DISCOVERY (R460). A DOE Discovery request on the PCIe DOE capability is answered. -/
  | doeDiscovery (index : Nat)
  /-- JTAG_FRZ_SEL_UPDATE (R493). An Update-DR of the FRZ_SEL data register sets the JTAG copy of the freeze space selector. -/
  | jtagFrzSelUpdate (value : Nat)
  deriving DecidableEq, Repr

end Sys2Proof
end

