-- ==== Sys2Proof/Decode.lean ====
section
/-! DEFINITION. The words of the opcode table: no row of it has bits, so no word spells a command. -/

namespace Sys2Proof

/-- The command that a word spells by the table's bits. opcode_table.json gives none of its rows any bits,
and so no word is a command. -/
def decodeTableWord (_nbits _w : Nat) : Option Instr := none

end Sys2Proof
end

