-- ==== Sys2Proof/Config.lean ====
section
/-! DEFINITION. The values that the spec leaves open, as constants without a body: nothing can be proved of
them, so a claim holds whatever they are. -/

namespace Sys2Proof.Config

/-- The n-th free value drawn by the part: random draws, signatures, undefined results, choices the spec
leaves to the part. -/
opaque freeWord : Nat → BitVec 64

/-- The CRC seed of way `w` of the Roll that a SEED_ID selects (R205). -/
opaque rollSeed : Nat → Nat → BitVec 32

/-- Draw `n` of the stochastic rounding generator seeded with a value (R284): 24 bits. -/
opaque seededDraw : Nat → Nat → BitVec 24

/-- What a conversion to INT32 gives for a NaN or a value beyond INT32, which R284 does not give: the code of the source format, its
element and its scale. -/
opaque beyondInt32 : Nat → Nat → Nat → BitVec 32

/-- What a shift by a register of 64 or more gives, which R308 does not: function code and operands. -/
opaque farShift : Nat → BitVec 64 → BitVec 64 → BitVec 64

/-- Sign of the min or max of two zeros of unlike sign, which R280 and R287 do not give: function code. -/
opaque zeroSign : Nat → Bool

/-- Which value within the bound of R280 recip, rsqrt, exp2 and log2 give: function code and operand. -/
opaque approx : Nat → BitVec 32 → BitVec 32

/-- Which value within the bound of R317 the weight of a candidate is: its value and those of the first KS candidates. -/
opaque softWeight : BitVec 32 → List (BitVec 32) → BitVec 32

/-- Constants of the part that the spec names without a value: Moelo and ROM versions, JEP106 identity,
digests, certificate bytes (R443, R459, R461, R493), by a number and an index. -/
opaque identity : Nat → Nat → BitVec 64

/-- The device identity private key that a device secret gives (R458): ECDSA P-521. -/
opaque identityKey : Nat → BitVec 521

/-- The private key that a device secret and the SHA-512 of the running image give (R458). -/
opaque aliasKey : Nat → List Byte → BitVec 521

/-- The public key of a private key: a P-521 point, uncompressed. -/
opaque publicKey : BitVec 521 → BitVec 1064

/-- The certificate that the ROM issues at a boot (R458, R459): signing key, subject public key, measurement 2, SVN and boot
mode; its DER encoding and signature are the part's. -/
opaque certificate : BitVec 521 → BitVec 1064 → List Byte → Nat → Nat → List Byte

/-- What readout of a frozen part finds where the spec gives no contents or no layout (R491): by the LT at which the
part froze, space, index and offset. -/
opaque held : Nat → Nat → Nat → Nat → BitVec 64

end Sys2Proof.Config
end

