-- ==== Sys2Proof/Machine/State.lean ====
section
/-! DEFINITION. The state of the part as plain data, the ways a step can stop, and the state after reset. -/

namespace Sys2Proof.Machine

open Sys2Proof

/-- Faults. The spec gives the part none that stops it: bus errors, recipe faults and failed checks are
effects on State. The one constructor stands for an access outside a memory of the model, which no meaning
raises today; raising it would be safe. -/
inductive Fault where
  | outside
  deriving DecidableEq, Repr

/-- Refusals. `notModelled` is raised by an arm of the dispatch without a meaning (safe). `illFormed` is
raised by every meaning for a command whose operands no such event or access can have (Instr.wf), which is
safe: the machine has no such command. -/
inductive Refusal where
  | notModelled (mnemonic : String)
  | illFormed
  deriving DecidableEq, Repr

/-! ### Fabric time (01_the_deal.md) -/

/-- FT servo states, TB_STATUS.FT_STATE (R25). -/
inductive FtState where
  | free | acquire | track | holdover
  deriving DecidableEq, Repr

/-- IEEE 1588 port states, TB_STATUS.PT_STATE (R50). -/
inductive PtState where
  | disabled | listening | uncalibrated | slave
  deriving DecidableEq, Repr

/-- A TIME_CAPn capture (R43 to R45). `waiting`: an edge recorded less than 32 core cycles ago. -/
structure Capture where
  sec : Nat := 0
  ns : Nat := 0
  aligned : Bool := false
  waiting : Bool := false
  valid : Bool := false
  missed : Nat := 0
  latchedNs : Nat := 0
  deriving DecidableEq, Repr

/-- One transmit timestamp (R47, R49). -/
structure Stamp where
  deal : Nat
  port : Nat
  cls : Nat
  epoch : Nat
  ftNs : Nat
  ftSecLo : Nat
  id : Nat
  deriving DecidableEq, Repr

/-- A half's timestamp queue and the low word latched by the last pop (R48, R49). -/
structure StampQueue where
  entries : List Stamp := []
  latchedLo : Nat := 0
  deriving DecidableEq, Repr

/-- The FT servo's counts (R25, R26). `trial` runs only toward a parent B. -/
structure Servo where
  goodRun : Nat := 0
  missRun : Nat := 0
  /-- exchanges made since HOLDOVER was entered, while the first four are awaited (R26) -/
  trial : Option Nat := none
  outstanding : Option Nat := none
  offsetNs : Int := 0
  delayNs : Int := 0
  /-- LT at the entry into HOLDOVER -/
  holdSince : Nat := 0
  exchanged : Bool := false
  deriving DecidableEq, Repr

/-- DEAL_IN (R34 to R36). `last`: LT of the previous accepted edge or placed boundary. -/
structure DealIn where
  last : Option Nat := none
  edgesFrom : Nat := 0
  loadedDeal : Option Nat := none
  faultRun : Nat := 0
  goodRun : Nat := 0
  deriving DecidableEq, Repr

/-- The IEEE 1588 follower (R31, R32). Times in ns. -/
structure Ptp where
  domain : Nat := 0
  transport : Nat := 0
  ip : Nat := 0
  prefixLen : Nat := 0
  gateway : Nat := 0
  master : Option Announce := none
  utcOffset : Int := 0
  syncSeq : Nat := 0
  awaitFollowUp : Bool := false
  t1 : Option Int := none
  t2 : Int := 0
  delaySeq : Nat := 0
  t3 : Option Int := none
  offsetNs : Int := 0
  deriving DecidableEq, Repr

/-- The four time bases and what sets them (R20). `ft`, `lt`, `st`, `pt` count half nanoseconds, one core
cycle each; `ft` and `pt` are seconds × 10^9 plus nanoseconds, doubled. -/
structure TimeBase where
  ft : Nat := 0
  lt : Nat := 0
  /-- core cycles since the release of RESET_N, stopped by nothing (the Steward's clocks) -/
  age : Nat := 0
  st : Nat := 0
  stStep : Nat := 0
  pt : Nat := 0
  ptRunning : Bool := false
  ftLatchHost : Nat := 0
  ftLatchSteward : Nat := 0
  ptLatchHost : Nat := 0
  ptLatchSteward : Nat := 0
  period : Nat := 1
  /-- frequency of FT against the core clock, and of PT against the Steward's, in parts per 10^9, each with the
  fraction of a core cycle gained so far, in 10^-9 (R20, R25, R32, R33) -/
  ftRate : Int := 0
  ftFrac : Int := 0
  ptRate : Int := 0
  ptFrac : Int := 0
  dealSrc : Bool := false
  ftRole : Bool := false
  ftFromPt : Bool := false
  ptEn : Bool := false
  parentBValid : Bool := false
  parentA : Nat := 0
  parentB : Nat := 0
  ftState : FtState := .free
  aligned : Bool := false
  parentSel : Bool := false
  ptState : PtState := .disabled
  dealInOk : Bool := false
  overrunDeal : Nat := 0
  overrunUnit : Nat := 0
  overrunOver : Nat := 0
  dealOutEn : Bool := false
  dealOutAdvance : Nat := 0
  capEdge0 : Nat := 0
  capEdge1 : Nat := 0
  cap0 : Capture := {}
  cap1 : Capture := {}
  tsq : Halves StampQueue := ⟨{}, {}⟩
  servo : Servo := {}
  dealIn : DealIn := {}
  /-- the change of period awaiting its instant: code and FT second (R38) -/
  periodChange : Option (Nat × Nat) := none
  /-- `time.set` accepted and not yet loaded: FT to load, in half ns (R444) -/
  timeSet : Option Nat := none
  ptp : Ptp := {}
  /-- the guard of the current Deal has begun (R12) -/
  guarded : Bool := false
  /-- Deal boundaries passed since reset: the model's own count, for waits given in Deals -/
  boundaries : Nat := 0
  deriving DecidableEq, Repr

/-! ### Package (02_package_and_floor.md) -/

/-- Reset, straps, power, thermal and I3C state (R63 to R75, R510). -/
structure Pkg where
  /-- RESET_N accepted and not yet released (R510) -/
  held : Bool := false
  straps : Nat := 0
  railsOk : Bool := true
  thermtrip : Bool := false
  /-- laser bias and heater power present (R75) -/
  lightPower : Bool := true
  telemetry : Tab Nat := []
  fmCap : Nat := 0
  fluidWater : Bool := false
  flow : Nat := 400
  /-- coolant inlet readings of the last minute, newest first: core cycle of local time and reading (R360) -/
  inletLog : List (Nat × Int) := []
  capExceeded : Bool := false
  coolantFault : Bool := false
  warn : Tab Bool := []
  overTrip : Tab Bool := []
  i3cDyn : Option Nat := none
  i3cIbi : Bool := false
  i3cPending : Option Nat := none
  deriving DecidableEq, Repr

/-! ### Light (03_light_control.md) -/

/-- States of a lane side (R77). -/
inductive SideState where
  | off | sweep | check | locked | held | nolight | bypass | retired
  deriving DecidableEq, Repr

/-- One side of a lane: its state, heater code, skip list (R85) and run of out-of-window updates (R84).
`keptCode`: the next lock attempt starts from the kept heater code (R83, R94, R100). -/
structure Side where
  state : SideState := .off
  heater : Nat := 0
  skip : List Nat := []
  outRun : Nat := 0
  keptCode : Bool := false
  /-- held without a new attempt: a failed comb until its swap boundary (R94), or a bring-up failure (R499) -/
  parked : Bool := false
  deriving DecidableEq, Repr

/-- A fabric lane, or an internal lane (keyed 0x800 + 0x200 h + j, as R483 numbers them). -/
structure Lane where
  tx : Side := {}
  rx : Side := {}
  idFails : Nat := 0
  /-- cause with which it fails the LAMP stage, at whose end it is retired: 3 identity, 4 lock losses, 0 none (R499) -/
  lampFail : Nat := 0
  /-- LT of the lock losses of the last second (R84) -/
  losses : List Nat := []
  reason : Nat := 0
  deriving DecidableEq, Repr

/-- States of a laser (R90). -/
inductive LaserState where
  | off | warming | aligning | ready | serving | failed
  deriving DecidableEq, Repr

/-- A laser (keyed 0x20 h + p) or the Sieve's source comb (key 0x40). `hist`: the last sixteen samples of
its eight lines, newest first, in 0.1 dB below the reference; `base`: each line's nominal power, in 0.1 dB
below the reference (R90, R500). -/
structure Laser where
  state : LaserState := .off
  slot : Nat := 0
  warn : Bool := false
  dueRaised : Bool := false
  /-- a comb failure has been acted on (R94) -/
  combRaised : Bool := false
  hist : List (List Nat) := []
  started : Nat := 0
  readyAt : Nat := 0
  deriving DecidableEq, Repr

/-- An output of a bypass matrix, keyed 512 h + b (R101). -/
structure Circuit where
  src : Nat := 0
  state : Nat := 0
  dark : Bool := false
  deal : Nat := 0
  deriving DecidableEq, Repr

/-- The Lamp Rooms, rings and matrices. -/
structure Light where
  lanes : Tab Lane := []
  lasers : Tab Laser := []
  autoSwap : Halves Bool := ⟨true, true⟩
  /-- slots that wait for one of two preparations to finish (R93), oldest first, keyed 16 h + slot -/
  swapWaiting : List Nat := []
  circuits : Tab Circuit := []
  /-- samples of a finished conversion await the next boundary (R42) -/
  freshSamples : Bool := false
  converting : Bool := false
  deriving DecidableEq, Repr

/-! ### Ports (04_ports_and_links.md) -/

/-- Link states (R105). -/
inductive LinkState where
  | disabled | down | train | up | resize | disputed
  deriving DecidableEq, Repr

/-- A NOTICE this port has sent and repeats until its echo (R119). -/
structure OutNotice where
  kind : NoticeKind
  lanes : Nat
  target : Nat
  nseq : Nat
  deriving DecidableEq, Repr

/-- A training exchange of this end: departure of its block, and the sample once measured (R106, R119). -/
structure Exchange where
  tdep : Option Nat := none
  sample : Option Int := none
  deriving DecidableEq, Repr

/-- Training of a port (R106, R107, R502). Times in ns, samples in ps. -/
structure Training where
  entered : Nat := 0
  /-- lanes that have block lock, as a mask -/
  locked : Nat := 0
  exchanges : Tab Exchange := []
  hereDone : Bool := false
  farDone : Bool := false
  farClass : Nat := 0
  farMode : Nat := 0
  farRole : Nat := 0
  farAligned : Bool := false
  /-- the far end's exchange that this end answers, and the arrival of its first block (R119) -/
  farIdx : Option Nat := none
  farArrival : Nat := 0
  goodMarkers : Nat := 0
  /-- the last block differs in Lot mode, class or role (R107) -/
  mismatch : Bool := false
  mismatchRaised : Bool := false
  timeoutRaised : Bool := false
  deriving DecidableEq, Repr

/-- The packet whose data blocks this port is receiving (R115, R122): its header as it is forwarded, blocks
seen, whether it is dropped, the model's number of the packet in the queues (0 for one not admitted), and whether it goes to
a unit of the part (R139). -/
structure Ingress where
  pkt : Packet
  seen : Nat := 1
  dropped : Bool := false
  tag : Nat := 0
  toUnit : Bool := false
  deriving DecidableEq, Repr

/-- A data block that came ahead of its turn: its arrival in LT, and the packet that it begins, if it does (R115). -/
structure AheadBlock where
  came : Nat
  pkt : Option Packet
  block : DataBlock
  deriving DecidableEq, Repr

/-- A port (R102 to R133). -/
structure Port where
  link : LinkState := .disabled
  cls : Nat := 0
  role : Nat := 0
  lanes : Nat := 0
  farLanes : Nat := 0
  aligned : Bool := false
  /-- mean delay measured, ps (R106, R444) -/
  meanPs : Int := 0
  asymPs : Int := 0
  farPort : Nat := 0
  farName : Nat := 0
  missRun : Nat := 0
  goodRun : Nat := 0
  train : Training := {}
  notices : List OutNotice := []
  nextNseq : Nat := 0
  echoed : List Nat := []
  /-- no data blocks are placed on the port until this boundary (R110, R505) -/
  dataStop : Bool := false
  /-- lanes on which no data blocks are placed (R111, R505) -/
  stopLanes : Nat := 0
  /-- targets agreed with the far end: resize (R110), far disable (R505) -/
  resizeAt : Option Nat := none
  farDisableAt : Option Nat := none
  leaveAt : List (Nat × Nat) := []
  /-- target, the far end's mask from then on or 16 for this end's own announcement, and the lanes that wait for it -/
  joinAt : List (Nat × Nat × Nat) := []
  /-- lanes that the far end's block headers name and whose LANE_JOIN has still to come (R113, R114) -/
  newFar : Nat := 0
  /-- the receive drain after a planned departure is running (R111) -/
  draining : Bool := false
  /-- BSEQ of the next data block sent, and expected (R115) -/
  nextBseqTx : Nat := 0
  nextBseqRx : Option Nat := none
  ingress : Option Ingress := none
  ahead : List AheadBlock := []
  /-- data blocks arrive of a packet that is already counted as dropped and of which nothing is kept (R122) -/
  stray : Bool := false
  deriving DecidableEq, Repr

/-- All ports, the Lot modes (R102) and which halves' twin ports are configured (R132). -/
structure Ports where
  lotMode : Tab Nat := []
  port : Tab Port := []
  twinConfigured : Halves Bool := ⟨false, false⟩
  deriving DecidableEq, Repr

/-! ### Nest, routes, Fans and Tallies (05_addresses_and_routes.md) -/

/-- States of an epoch's table in a half (R143). -/
inductive TableState where
  | empty | loading | loaded | current | draining | retired
  deriving DecidableEq, Repr

/-- A route table (R138): entries as words A and B, and the run of Deals in which a LOADED table forwarded
(R149). -/
structure RouteTable where
  state : TableState := .empty
  entries : Tab (Nat × Nat) := []
  skewDeal : Option Nat := none
  skewLast : Nat := 0
  skewRaised : Bool := false
  deriving DecidableEq, Repr

/-- A member of a Fan (R150, R152, R154). -/
structure FanMember where
  port : Nat
  weight : Nat
  cur : Int := 0
  active : Bool := true
  deriving DecidableEq, Repr

/-- A Fan, keyed 1024 h + f (R150, R158). -/
structure Fan where
  members : List FanMember := []
  hot : Nat := 0
  proposed : Bool := false
  sinceProposal : Nat := 0
  deriving DecidableEq, Repr

/-- The Tally of a port in the open Deal (R156). -/
structure RunTally where
  cells : Nat := 0
  marked : Nat := 0
  peak : Nat := 0
  drops : Nat := 0
  deriving DecidableEq, Repr

/-- Descriptor, names, route tables (keyed 2 h + e), flip, Fans and Tallies. -/
structure Nest where
  desc : Nat := 0
  self : Nat := 0
  pair : Nat := 0
  tables : Tab RouteTable := []
  /-- accepted flip: epoch and target F (R146) -/
  flip : Option (Nat × Nat) := none
  /-- drain end F + H (R147) -/
  drainEnd : Option Nat := none
  horizon : Nat := 64
  missRaised : Halves Bool := ⟨false, false⟩
  fans : Tab Fan := []
  tallyN : Nat := 0
  collector : Nat := 0
  /-- closed Tallies, keyed (16 h + Deal mod 16) × 1026 + i, without DEAL_LO -/
  tallies : Tab Nat := []
  /-- low byte of the Deal whose Tallies slot 16 h + s holds -/
  tallyDeals : Tab Nat := []
  running : Tab RunTally := []
  deriving DecidableEq, Repr

/-! ### The Crossing (06_crossing_core.md) -/

/-- A packet in a queue, or one copy of a multicast packet (R163, R172, R175). `tag`: the model's number of
the packet; `arrived`: data blocks so far; `waited`: Deals or cycles in which the head did not fit (R187). -/
structure QPacket where
  tag : Nat
  pkt : Packet
  cells : Nat
  priv : Bool := false
  mcast : Bool := false
  cutThrough : Bool := false
  arrived : Nat := 0
  /-- width in lanes of its ingress port, 0 for a packet the part originates -/
  inWidth : Nat := 0
  /-- in a Span queue: word B of the route entry that the far half follows (R142, R176) -/
  via : Nat := 0
  /-- its transmission has begun; it stays at the head until it has been sent (R175) -/
  started : Bool := false
  /-- cells of the shared pool that it took at its admission (R163); those of multicast copies are in their hold -/
  shared : Nat := 0
  /-- LT before which this copy of a multicast packet does not start (R175) -/
  after : Nat := 0
  /-- in a Span queue: egress points of the far half and the DEST of each copy, for a Kitty result (R176, R250) -/
  fanout : List (Nat × Nat) := []
  stamp : Option Nat := none
  deriving DecidableEq, Repr

/-- XG_QCFG of a queue. -/
structure QConfig where
  min : Nat
  alpha : Nat
  markT : Nat
  ct : Bool
  spillEn : Bool
  spillMax : Nat
  deriving DecidableEq, Repr

/-- A spill page (R169): its number, the cells in it that still belong to packets, and the cells written into it, 256 once it is
closed. -/
structure SpillPage where
  number : Nat
  live : Nat
  filled : Nat
  deriving DecidableEq, Repr

/-- A queue: on-chip packets, spilled packets and the pages that hold them, oldest first (R163, R169). Of the spilled cells the
first `pending` have been read back; with them their packets join the queue at a boundary. `landing`: pages read back, free
from the next boundary (R170). -/
structure Queue where
  pkts : List QPacket := []
  spilled : List QPacket := []
  pages : List SpillPage := []
  landing : List Nat := []
  pending : Nat := 0
  pendingShared : Nat := 0
  deriving DecidableEq, Repr

/-- The copies of a multicast packet in a half, and the cells held until the last of them is gone (R175): none before the first
copy is admitted on chip. -/
structure McastHold where
  copies : Nat := 0
  shared : Nat := 0
  priv : Nat := 0
  held : Bool := false
  deriving DecidableEq, Repr

/-- The management view of a port (R180 to R182). -/
structure Expect where
  mode : Nat := 0
  name : Nat := 0
  pending : Bool := false
  deriving DecidableEq, Repr

/-- A half's pools and spill engine. -/
structure BufHalf where
  priv : Nat := 16384
  rate : Nat := 64
  pushout : Nat := 0x0080C0C0C0C0FCFC
  spillWrites : Nat := 0
  spillReads : Nat := 0
  /-- pages flushed or lost, returned at the next boundary -/
  returning : List Nat := []
  spillFullRaised : Bool := false
  spanDownRaised : Bool := false
  /-- lanes that the Span direction runs on since the last boundary (R88) -/
  spanWidth : Nat := 0
  /-- the part of a hundredth of a core cycle that the Span's last packet left over -/
  spanFrac : Nat := 0
  /-- the lanes that the packet under way on the Span is timed by, and with none the work left of it, in hundredths of a core
  cycle of one lane (R88, R95) -/
  spanServing : Nat := 0
  spanLeft : Nat := 0
  deriving DecidableEq, Repr

/-- Queues keyed (1027 h + q) × 8 + c, multicast holds keyed 2 × tag + h, groups keyed 8192 h + g (bit q of the set, bit 1027 for LOOP). -/
structure Crossing where
  buf : Halves BufHalf := ⟨{}, {}⟩
  qcfg : Tab QConfig := []
  queues : Tab Queue := []
  mcasts : Tab McastHold := []
  groups : Tab Nat := []
  expect : Tab Expect := []
  nextTag : Nat := 1
  deriving DecidableEq, Repr

/-! ### Calendars and meters (07_calendars_and_meters.md) -/

/-- A packet in its data blocks on a port (R115, R184): how many have begun, the instant from which the others leave in
hundredths of a core cycle of FT, and the lanes they leave on, none while the port places no data (R110). -/
structure Leaving where
  pkt : Packet
  sent : Nat := 0
  since : Nat
  lanes : Nat
  /-- the lanes of the port that carry it, as a mask -/
  mask : Nat := 0
  /-- its first block has its instant, and the packet is in `Chip.sent` -/
  gone : Bool := false
  /-- it stands at the head of its queue; a time exchange or a mirror packet has none -/
  queued : Bool := false
  /-- the payload word that takes the departure (R24) -/
  writes : Option Nat := none
  /-- the ID of a transmit timestamp (R46) -/
  stamp : Option Nat := none
  deriving DecidableEq, Repr

/-- Scheduler settings and state of a port (R183 to R189). Instants in hundredths of a core cycle of FT. -/
structure Sched where
  ovh : Nat := 24
  cal : Nat := 0
  calEn : Bool := false
  rsvd : Nat := 2
  weights : List Nat := [4, 4, 4, 4]
  deficits : List Nat := [0, 0, 0, 0]
  /-- round-robin position, 0 to 3 for C2 to C5, and whether its quantum of this visit is given -/
  rr : Nat := 0
  visiting : Bool := false
  busyUntil : Nat := 0
  windowEnd : Nat := 0
  /-- per class C2 to C7: consecutive Deals in which the head did not fit; 2 after one complete Calendar
  cycle (R187) -/
  waits : List Nat := [0, 0, 0, 0, 0, 0]
  /-- classes (by bit) whose head was refused for its fit, or fitted, in this Deal or cycle, and classes
  whose head was already the head at the start of the cycle -/
  tried : Nat := 0
  fitted : Nat := 0
  since : Nat := 0
  /-- class of the packet being sent, which stays at the head of its queue, and its close time -/
  sending : Option Nat := none
  /-- the packets in their data blocks, in the order they leave -/
  leaving : List Leaving := []
  closeAt : Nat := 0
  /-- the packet being sent counts in SCHED_OVERRUNS already (R187) -/
  overran : Bool := false
  deriving DecidableEq, Repr

/-- A bank of a Calendar (R190). -/
structure CalBank where
  n : Nat := 0
  deals : Nat := 0
  entries : Tab (Nat × Nat) := []
  deriving DecidableEq, Repr

/-- A Calendar, keyed 32 h + k (R190 to R194). -/
structure Calendar where
  running : Bool := false
  active : Nat := 0
  commitPending : Option Nat := none
  stopPending : Option Nat := none
  bank0 : CalBank := {}
  bank1 : CalBank := {}
  origin : Nat := 0
  /-- a Deal at which a cycle of the active bank starts -/
  base : Nat := 0
  /-- entry now open, and FT in core cycles at which it opened -/
  entry : Nat := 0
  opened : Nat := 0
  /-- the boundary of D0 has come -/
  begun : Bool := false
  deriving DecidableEq, Repr

/-- A meter, keyed 4096 h + m (R197). Tokens in 1/128000 byte; `at`: LT of the last refill. -/
structure Meter where
  cir : Nat := 0
  pir : Nat := 0
  cbs : Nat := 0
  pbs : Nat := 0
  actG : Nat := 0
  actY : Nat := 1
  actR : Nat := 3
  tc : Nat := 0
  tp : Nat := 0
  refilled : Nat := 0
  deriving DecidableEq, Repr

/-- Schedulers by port (the Span of half h at 0x1000 + h), Calendars, meters, and bindings keyed 8 P + c
(the meter number). -/
structure Scheduling where
  sched : Tab Sched := []
  cals : Tab Calendar := []
  meters : Tab Meter := []
  bindings : Tab Nat := []
  deriving DecidableEq, Repr

/-! ### The Roll (08_the_roll.md) -/

/-- An entry of the Roll (R203). -/
structure RollEntry where
  kitty : Nat := 0
  src : Nat := 0
  port : Nat := 0
  lanes : Nat := 0
  kind : Nat := 0
  rounds : Nat := 0
  lags : Nat := 0
  firstDeal : Nat := 0
  roundsOvf : Bool := false
  lagsOvf : Bool := false
  lagLast : Nat := 0
  lastDeal : Nat := 0
  /-- PORT was filled in by this chip's own arrivals (R220) -/
  own : Bool := false
  deriving DecidableEq, Repr

/-- The operation that a write of RL_CMD started (R221, R222). -/
structure RollOp where
  op : Nat
  mode : Nat := 0
  keep : Bool := false
  index : Nat := 0
  deriving DecidableEq, Repr

/-- A command register set (R221). -/
structure RollSet where
  key0 : Nat := 0
  key1 : Nat := 0
  data : List Nat := [0, 0, 0, 0]
  op : Option RollOp := none
  err : Nat := 0
  way : Nat := 0
  hit : Bool := false
  slot : Nat := 0
  deriving DecidableEq, Repr

/-- The Roll of a half: entries keyed 2^21 × way + slot, the cache as the keys 2^48 × KITTY + SRC of each set,
most recently used first, and Antes that wait for a miss, with their ingress ports (R205 to R218). -/
structure RollHalf where
  entries : Tab RollEntry := []
  cache : Tab (List Nat) := []
  age : Nat := 256
  sweepRate : Nat := 128
  lagMargin : Nat := 1
  sweepPos : Nat := 0
  /-- purge list by position: Kitty ID and slots the sweep has still to read -/
  purges : Tab (Nat × Nat) := []
  high : Bool := false
  failRaised : Bool := false
  misses : List (Packet × Nat) := []
  sets : Halves RollSet := ⟨{}, {}⟩
  /-- sets with an operation in progress, in the order they started -/
  ops : List Nat := []
  deriving DecidableEq, Repr

/-! ### Kitties and the Ledger (09_kitties.md) -/

/-- An accumulator bank of a round (R229, R237 to R242): FP32 sums of each chunk that an Ante has reached,
arrivals keyed 65536 × CIDX + chunk, chunks accepted by contributor, chunk counts, the contributors heard with the
Deal of their latest accepted Ante, the latest last, and the boundary count of the next deadline (R243). -/
structure Bank where
  sums : Tab (List Nat) := []
  inf : Bool := false
  arrived : Tab Bool := []
  got : Tab Nat := []
  counts : Tab Nat := []
  heard : List (Nat × Nat) := []
  deadline : Option Nat := none
  deriving DecidableEq, Repr

/-- A round whose collection has ended: its Showdown and then its held result (R246, R250 to R252). The waits
are boundary counts. -/
structure Showdown where
  step : Nat
  attempt : Nat
  bank : Bank
  /-- Deal c in which collection ended, and its place among the half's collections -/
  ended : Nat
  order : Nat
  isPartial : Bool
  nan : Bool
  inf : Bool
  /-- next piece to transfer -/
  next : Nat := 0
  /-- pieces in the Bench with the boundary that begins their recipe Deal; pieces whose run has ended, with the
  boundary count then; pieces moved back and to be enqueued at the next boundary -/
  inBench : List (Nat × Nat) := []
  ran : List (Nat × Nat) := []
  returned : List Nat := []
  /-- payloads by chunk: RESULTs held for sending, and upward ANTEs of a child -/
  results : Tab (List Byte) := []
  upward : Tab (List Byte) := []
  /-- chunks sent up, chunks whose results have been enqueued, and a parent's chunks awaiting the next boundary
  (R256) -/
  sentChunks : List Nat := []
  relayed : List Nat := []
  toRelay : List Nat := []
  /-- the Showdown is done and its result held; next resend of it -/
  done : Bool := false
  resendAt : Nat := 0
  /-- once every chunk has been sent to the parent: next resend of the upward Antes -/
  upAt : Option Nat := none
  confirmed : List Nat := []
  /-- senders that have had the late answer in this Deal -/
  answered : List Nat := []
  deriving DecidableEq, Repr

/-- States of a Kitty (KT_KSTAT); CLOSING is read while a close awaits its boundary. -/
inductive KittyState where
  | opening | active | failed
  deriving DecidableEq, Repr

/-- An open Kitty, keyed 32768 h + slot (R227 to R231). -/
structure Kitty where
  desc : List Nat := []
  /-- Deal at which it opened -/
  opened : Nat := 0
  state : KittyState := .opening
  /-- Deal at which an accepted `kitty.close` takes effect -/
  closing : Option Nat := none
  step : Nat := 0
  attempt : Nat := 0
  owners : Tab Nat := []
  bank : Bank := {}
  last : Option Showdown := none
  failReason : Nat := 0
  nan : Bool := false
  inf : Bool := false
  isPartial : Bool := false
  conflictRaised : Bool := false
  unknownRaised : Bool := false
  /-- the last step of which a Showdown is done, with its attempt (R258) -/
  doneStep : Option (Nat × Nat) := none
  deriving DecidableEq, Repr

/-- A half's Kitty settings (R264). -/
structure KittyHalf where
  poolLimit : Nat := 262144
  xferBudget : Nat := 0
  ingestLimit : Nat := 32768
  ingestRaised : Bool := false
  /-- the ingest queue: Kitty packets that Kitty control has not taken up, oldest first, each with its ingress port
  (R208, R234) -/
  ingest : List (Packet × Nat) := []
  /-- the LT of the core cycle in which Kitty control last took a packet up, how many it took up in it, and whether an Ante is among
  them (R234, R264) -/
  served : Option (Nat × Nat × Bool) := none
  deriving DecidableEq, Repr

/-- A job of a half's Ledger, keyed 256 h + j (R257 to R262). `lags`: names that lagged in the step. -/
structure Job where
  step : Nat := 0
  attempt : Nat := 0
  abortPending : Bool := false
  collector : Nat := 0
  /-- Deal of the last advance, and length of the last step -/
  lastDeal : Nat := 0
  lastLen : Nat := 0
  /-- Deal at which the current step began -/
  began : Nat := 0
  lateRounds : Nat := 0
  maxLag : Nat := 0
  lags : List Nat := []
  /-- laggards of rounds of later steps, reported ahead: step, SRC and L -/
  ahead : List (Nat × Nat × Nat) := []
  /-- names that lagged in the step closed last, and whether the job has closed a step since it was opened -/
  closed : List Nat := []
  closedOne : Bool := false
  /-- the latest step whose collection a Kitty of the job has ended (R261) -/
  ended : Option Nat := none
  deriving DecidableEq, Repr

/-- Kitty control and the Ledgers. -/
structure Kitties where
  half : Halves KittyHalf := ⟨{}, {}⟩
  kitty : Tab Kitty := []
  jobs : Tab Job := []
  /-- the job that ST follows (R258) -/
  stJob : Option Nat := none
  nextOrder : Nat := 0
  deriving DecidableEq, Repr

/-! ### Looms and recipes (10_looms.md, 11_recipes.md) -/

/-- A slot of a Loom, keyed 16 n + k (R295, R325). -/
structure LoomSlot where
  en : Bool := false
  mode : Nat := 0
  offset : Nat := 0
  length : Nat := 0
  handle : Nat := 0
  gate : Nat := 0
  faulted : Bool := false
  params : List Nat := [0, 0, 0, 0, 0, 0, 0, 0]
  /-- fresh runs since its configuration took effect (R302) -/
  runs : Nat := 0
  /-- Deal that `recipe.run` named (R296) -/
  runAt : Option Nat := none
  /-- boundary count at its last slot start -/
  started : Option Nat := none
  deriving DecidableEq, Repr

/-- What a run works for: a Kitty's piece (key, step, attempt, piece), a gate's phase (gate key, Deal of the batch,
binding number), or nothing (R296). -/
inductive RunFor where
  | kitty (key step attempt piece : Nat)
  | gate (key batch binding : Nat)
  | self
  deriving DecidableEq, Repr

/-- An instruction at PC that waits (R309, R311, R318): since which LT and in which Deal, and whether it waits
for a fill (R277). -/
structure Hold where
  lt : Nat
  deal : Nat
  fill : Bool
  deriving DecidableEq, Repr

/-- A run (R296 to R300): its number, registers s0 to s31, s2 at its start, and the flags of LM_RSTAT from NAN in
bit 0. -/
structure Run where
  id : Nat := 0
  slot : Nat
  handle : Nat
  pc : Nat := 0
  regs : List Nat
  s2 : Nat := 0
  flags : Nat := 0
  forWhom : RunFor := .self
  /-- Deal in which it started; LT and boundary count at which its work of this Deal began -/
  deal : Nat := 0
  began : Nat := 0
  workAt : Nat := 0
  held : Option Hold := none
  /-- the slot was reconfigured or disabled while the run was in progress: if it yields it is discarded (R300, R326) -/
  stale : Bool := false
  /-- boundary count at its last yield (R300) -/
  yieldAt : Nat := 0
  deriving DecidableEq, Repr

/-- An instruction in flight: its run, its PC and the registers it took at issue (R309, R311). -/
structure InFlight where
  run : Nat := 0
  pc : Nat := 0
  word : Nat
  regs : List Nat
  /-- loom cycle at which it issued (R491) -/
  issued : Nat := 0
  /-- its number among the instructions of its limit (R273, R311) -/
  seq : Nat := 0
  deriving DecidableEq, Repr

/-- An lfetch in flight: its Bench address, length, region handle and offset, and the granules still to land
(R277, R314). -/
structure Fill where
  run : Nat := 0
  pc : Nat := 0
  bench : Nat
  length : Nat
  region : Nat
  offset : Nat
  granules : List Nat
  /-- Deal of the work that the fill belongs to (R15) -/
  deal : Nat
  /-- the Larder's prefetch for a Kitty (R246): its key, step and attempt -/
  prefetch : Option (Nat × Nat × Nat) := none
  /-- its number among the recipe's transfers (R311) -/
  seq : Nat := 0
  deriving DecidableEq, Repr

/-- States of LM_RSTAT. -/
inductive RunState where
  | idle | running | waiting | yielded | done | faulted
  deriving DecidableEq, Repr

/-- A Loom (R266, R298, R320 to R328). -/
structure Loom where
  run : Option Run := none
  waiting : List Nat := []
  yielded : Tab Run := []
  flight : List InFlight := []
  fills : List Fill := []
  /-- numbers of the next instruction in flight and of the next transfer (R273, R311) -/
  nextFlight : Nat := 0
  nextXfer : Nat := 0
  /-- LM_RSTAT of the run, or of the last one: state, fault, PC, slot, handle, flags NAN to OVERRUN from bit 0,
  loom cycles, and LM_RDEAL -/
  rstate : RunState := .idle
  fault : Nat := 0
  pc : Nat := 0
  slot : Nat := 0
  handle : Nat := 0
  flags : Nat := 0
  cycles : Nat := 0
  rdeal : Nat := 0
  lastRun : Nat := 0
  /-- the stationary tile in the active buffer, element codes by row and column, and its scales by block and
  column (R266, R271) -/
  tile : List (List Nat) := []
  tileScales : List (List Nat) := []
  /-- the tile and scales in the shadow buffer (R266, R271) -/
  shadow : List (List Nat) × List (List Nat) := ([], [])
  /-- seed of the stochastic rounding generator, none for the noise source, and the draws made from it (R284) -/
  seed : Option Nat := none
  draws : Nat := 0
  /-- LT of the check failures and Bench errors of the last second (R292) -/
  checks : List Nat := []
  eccs : List Nat := []
  reason : Nat := 0
  /-- LT at which the arrays went idle (R272) -/
  arraysIdle : Nat := 0
  prefetchRaised : Bool := false
  /-- emit buffer, oldest first, each with its timestamp ID (R315) -/
  emits : List (Packet × Option Nat) := []
  sampleEn : Bool := false
  samplePeriod : Nat := 0
  ring : List Nat := []
  /-- the ring's entries as last written, by index (LM_SAMPLE) -/
  samples : Tab Nat := []
  head : Nat := 0
  deriving DecidableEq, Repr

/-- A recipe handle (R323): instructions, the Looms of its mask with the base reserved on each. -/
structure Recipe where
  length : Nat
  stateBytes : Nat
  bases : Tab Nat := []
  code : Tab Nat := []
  isSealed : Bool := false
  deriving DecidableEq, Repr

/-- The Looms, their Benches (one memory, byte address 2^23 n + a, zero where nothing is listed: R278), slots
and recipes. -/
structure Looms where
  loom : Tab Loom := []
  slots : Tab LoomSlot := []
  recipes : Tab Recipe := []
  bench : List Host.Cell := []
  nextRun : Nat := 1
  deriving DecidableEq, Repr

/-! ### Gates (12_gate_in_transit.md) -/

/-- What became of a choice (R336, R346). -/
inductive Outcome where
  | dispatched | substituted | residual | scavenged
  deriving DecidableEq, Repr

/-- A choice of a token: the expert and weight of the candidate it ended on. -/
structure Choice where
  expert : Nat
  weight : Nat
  outcome : Outcome
  /-- the expert's name at the check (R355) -/
  name : Nat := 0
  deriving DecidableEq, Repr

/-- A token of a batch (R341). `replies`: accepted reply bodies keyed 4 × choice + part. -/
structure Token where
  row : Nat
  replica : Nat
  src : Nat
  tseq : Nat
  parts : Tab (List Byte) := []
  choices : List Choice := []
  maxLogit : Nat := 0
  nan : Bool := false
  replies : Tab (List Byte) := []
  /-- dropped at the guard or with its replica (R341, R355) -/
  dropped : Bool := false
  suppressed : Bool := false
  deriving DecidableEq, Repr

/-- Where the batch of one replica stands (R331): its dispatch runs still to end, then dispatch, replies,
transfer and the combine runs still to end. -/
inductive BatchPhase where
  | collecting | running | checked | replies | collected | combining | released
  deriving DecidableEq, Repr

/-- The batch of a replica. -/
structure ReplicaBatch where
  replica : Nat
  phase : BatchPhase := .collecting
  /-- dispatch bindings whose run has still to end, then combine bindings -/
  awaiting : List Nat := []
  /-- Deal of dispatch t, Deal c, and Deal of the combine transfer -/
  dispatched : Nat := 0
  ended : Nat := 0
  transferred : Nat := 0
  parity : Nat := 0
  deriving DecidableEq, Repr

/-- A batch: the tokens a gate accepted in one Deal (R331). `used`: choices each expert has taken. -/
structure Batch where
  deal : Nat
  tokens : List Token := []
  replicas : List ReplicaBatch := []
  isChecked : Bool := false
  bank : Nat := 0
  deriving DecidableEq, Repr

/-- A TOKEN part that has come before its part 0. -/
structure EarlyPart where
  src : Nat
  tseq : Nat
  part : Nat
  body : List Byte
  deriving DecidableEq, Repr

inductive GateState where
  | loading | active | unloading | failed
  deriving DecidableEq, Repr

/-- A loaded gate, keyed 16 h + g (R337 to R340). Bindings are (Loom, slot, Bench base). -/
structure Gate where
  desc : List Nat
  bindings : List (Nat × Nat × Nat)
  /-- Kitty slots reserved for its combine Kitties (R351) -/
  kslots : List Nat := []
  state : GateState := .loading
  loadDeal : Nat := 0
  /-- the Deal at whose boundary its load lets it become ACTIVE (R338) -/
  activeAt : Nat := 0
  wbank : Nat := 0
  /-- pending swap: region and Deal F -/
  swap : Option (Nat × Nat) := none
  live : Nat := 0
  map : Tab (Nat × Bool) := []
  cap : Tab Nat := []
  batches : List Batch := []
  lastDeal : Nat := 0
  lastTokens : Nat := 0
  fullRaised : Bool := false
  suppressedNow : Nat := 0
  /-- parts accepted whose part 0 has still to come (R341) -/
  early : List EarlyPart := []
  /-- combine transfers made so far by replica, for the buffer's parity (R354) -/
  transfers : Tab Nat := []
  deriving DecidableEq, Repr

structure Gates where
  gate : Tab Gate := []
  deriving DecidableEq, Repr

/-! ### The Sieve (13_sieve.md) -/

inductive SieveState where
  | off | warming | ready | degraded | retired
  deriving DecidableEq, Repr

inductive BankState where
  | empty | loading | ready | degraded | failed
  deriving DecidableEq, Repr

/-- A projection bank: effective bits at TI 3 in 0.1 bit, σ, and P as FP32 words (R357, R366). -/
structure SieveBank where
  state : BankState := .empty
  eff3 : Nat := 0
  sigma : Nat := 0
  p : List Nat := []
  /-- a full calibration after a drift is under way, or waits for idle time -/
  recal : Bool := false
  /-- a load or a clear reached its boundary while an instruction used the bank (R371) -/
  pendingLoad : Option (List Nat × Nat) := none
  pendingClear : Bool := false
  /-- boundary count at the end of its last trim (R360) -/
  trimmed : Option Nat := none
  deriving DecidableEq, Repr

/-- An instruction at the Sieve: its Loom and how the Loom issued it (R316). -/
structure SieveOp where
  loom : Nat
  op : InFlight
  /-- loom cycle in which it reached the Sieve (R371) -/
  arrived : Nat := 0
  deriving DecidableEq, Repr

structure Sieve where
  state : SieveState := .off
  bank : Tab SieveBank := []
  effs : List Nat := [0, 0, 0, 0]
  trimN : Nat := 1024
  nextTrim : Nat := 0
  /-- bank that the last window probes, until its measured bits come -/
  trimming : Option Nat := none
  /-- core cycle of local time at which the last window began (R365) -/
  trimFrom : Nat := 0
  /-- a window waits for the instruction running at its start -/
  trimLate : Bool := false
  /-- boundary count at the start of the last window -/
  lastWindow : Option Nat := none
  queue : List SieveOp := []
  busy : Option SieveOp := none
  warn : Bool := false
  deriving DecidableEq, Repr

/-! ### The Larder (14_larder_and_hbm.md) -/

/-- A region, keyed 4096 h + index (R375): state 0 FREE, 1 GRANTED, 2 DAMAGED, 3 FREEING; extents as first
local page and length. -/
structure Region where
  seq : Nat := 0
  kind : Nat := 0
  state : Nat := 0
  owner : Nat := 0
  extents : List (Nat × Nat) := []
  deriving DecidableEq, Repr

/-- A half's Larder: LD_CFG, 64-byte granules charged in the open Deal to the ROLL, KITTY and RECIPE shares,
units charged in the last Deal, SCRATCH pages in use, and the stack sites its pages are striped over
(R372, R374, R384, R385). -/
structure LarderHalf where
  spillSize : Nat := 1048576
  rollBw : Nat := 32
  kittyBw : Nat := 80
  waitDeals : Nat := 4096
  rollUsed : Nat := 0
  kittyUsed : Nat := 0
  recipeUsed : Nat := 0
  lastUsed : Nat := 0
  scratch : Nat := 0
  sites : List Nat := []
  deriving DecidableEq, Repr

/-- The Larders of both halves, the sites retired since reset (by bit), the LT of the uncorrectable errors of
the last second by site, and HBM (byte address 65,536 × global page + offset; what nothing has written reads
zero, a choice of the model). -/
structure Larder where
  half : Halves LarderHalf := ⟨{}, {}⟩
  regions : Tab Region := []
  retired : Nat := 0
  ueTimes : Tab (List Nat) := []
  hbm : List Host.Cell := []
  deriving DecidableEq, Repr

/-! ### Twins, Tables, broadcasts and health (15_twins_tables_and_replay.md) -/

inductive TwinState where
  | unpaired | paired | lost | takenOver
  deriving DecidableEq, Repr

/-- A 64-byte mirror record (R393). -/
structure MirrorRecord where
  type : Nat
  sub : Nat := 0
  index : Nat := 0
  body : List Nat := []
  deriving DecidableEq, Repr

/-- The mirror of a half (R392 to R396): changes not yet packed, packets not yet confirmed with their SEQ,
the stream from the partner, what MIRROR and the shadows hold of it. -/
structure MirrorHalf where
  on : Bool := false
  /-- it was on when a takeover stopped it (R397, R399) -/
  resume : Bool := false
  region : Nat := 0
  stale : Bool := false
  copying : Bool := false
  /-- the pass under way belongs to a resync -/
  resync : Bool := false
  copyRate : Nat := 8
  copyPos : Nat := 0
  changes : List MirrorRecord := []
  /-- packets sent and not confirmed: SEQ, boundary count at the first sending, records -/
  unconfirmed : List (Nat × Nat × List MirrorRecord) := []
  nextSeq : Nat := 0
  /-- boundary count when a confirmation last advanced or the packets were last sent again, and of the last MACK
  sent in LOST -/
  progress : Nat := 0
  lastMack : Nat := 0
  rxNext : Nat := 0
  /-- a packet has been applied in this Deal -/
  rxApplied : Bool := false
  held : List MirrorRecord := []
  shadows : Tab (List Nat) := []
  deriving DecidableEq, Repr

/-- A DELTA or PSET awaiting its acknowledgement (R405, R406). -/
structure CodePacket where
  member : Nat
  seq : Nat
  isPset : Bool
  payload : List Byte
  deriving DecidableEq, Repr

/-- A unit that a rebuild has asked a member for (R406, R410): the unit it serves, member and request tag, the
boundary count when it was asked, and the parts that have come, by offset. -/
structure UnitRead where
  unit : Nat
  member : Nat
  tag : Nat
  asked : Nat
  parts : Tab (List Byte) := []
  deriving DecidableEq, Repr

/-- The Table state of a half (R400 to R411). -/
structure TableHalf where
  shard : Nat := 0
  protectedList : List Nat := []
  txSeq : Tab Nat := []
  unacked : List CodePacket := []
  /-- numbered DELTAs that wait for room in the delta buffer, oldest first, with the boundary count at their write (R404) -/
  deltaWait : List (Nat × CodePacket) := []
  /-- boundary count at the last sending of all or acknowledgement, for DELTA_RTO -/
  progress : Nat := 0
  rxSeq : Tab Nat := []
  dacks : List Nat := []
  /-- the half's own coded step, and what the members have reported: coded step and DRAINED -/
  coded : Nat := 0
  reports : Tab (Nat × Bool) := []
  /-- the job's step has advanced past these while DELTAs of earlier writes were unacknowledged: step, and the
  next SEQ of each member at that moment -/
  advances : List (Nat × Tab Nat) := []
  /-- boundary count at the last CODED packets -/
  lastCoded : Nat := 0
  /-- members counted live again that have not yet reported the coded step held (R409, R410) -/
  returning : Nat := 0
  /-- 0 idle, 1 pending, 2 running, 3 failed -/
  rebuild : Nat := 0
  done : Nat := 0
  total : Nat := 0
  rate : Nat := 1
  /-- units asked for so far, and the coded step that a rebuild holds -/
  issued : Nat := 0
  held : Nat := 0
  nextTag : Nat := 0
  reads : List UnitRead := []
  deriving DecidableEq, Repr

/-- A held JOB_START (R418). -/
structure Held where
  bseq : Nat
  payload : List Byte
  own : Bool
  deriving DecidableEq, Repr

/-- The broadcast tree and what is expected (R417 to R420). -/
structure Bcast where
  parent : Nat := 0
  parentTwin : Nat := 0
  groups : Halves (Option Nat) := ⟨none, none⟩
  holds : List Held := []
  /-- accepted and to be sent to the children at the next boundary -/
  toChildren : List (List Byte) := []
  lastBseq : Nat := 0
  /-- expected BSEQ, its deadline, and once late the asks made and the Deal of the last -/
  expected : Option (Nat × Nat) := none
  late : Bool := false
  asks : Nat := 0
  /-- boundary count at the last ask; BCAST_MISSED has been raised -/
  lastAsk : Nat := 0
  missed : Bool := false
  deriving DecidableEq, Repr

/-- A contributor's health (R421). -/
structure Score where
  s : Nat := 0
  suspect : Bool := false
  deriving DecidableEq, Repr

/-- Health scores and the expulsion budget (R421 to R424). Proposals by LT. -/
structure Health where
  job : Option Nat := none
  threshold : Nat := 192
  budget : Nat := 2
  rise : Nat := 64
  window : Nat := 60
  spent : Bool := false
  proposals : List Nat := []
  scores : Tab Score := []
  /-- LT at which the current WINDOW began -/
  since : Nat := 0
  deriving DecidableEq, Repr

/-- A checkpoint asked for: job, step, LEARNED, region, mailbox and ticket; once fixed, the image (R412). -/
structure Ckpt where
  job : Nat
  step : Nat
  learned : Bool
  region : Nat
  mbx : Nat
  ticket : Nat
  image : Option (List Byte) := none
  deriving DecidableEq, Repr

structure Twin where
  state : TwinState := .unpaired
  pairPending : Bool := false
  partner : Nat := 0
  /-- Deal boundaries in a row without a twin port UP and aligned (R390) -/
  downRun : Nat := 0
  /-- a packet of the partner has come in LOST: PAIRED at the next boundary (R391) -/
  restore : Bool := false
  mirror : Halves MirrorHalf := ⟨{}, {}⟩
  joined : Bool := false
  member : Nat := 0
  tableName : Nat := 0
  members : List Nat := []
  lost : Nat := 0
  tableLost : Bool := false
  umax : Nat := 0
  job : Nat := 0
  deltaRto : Nat := 0
  table : Halves TableHalf := ⟨{}, {}⟩
  bcast : Bcast := {}
  health : Health := {}
  ckpts : List Ckpt := []
  deriving DecidableEq, Repr

/-! ### Steward (16_steward_and_mailboxes.md) -/

/-- Status codes (R437). -/
inductive Status where
  | ok | pending | absent | busy | badValue | badOpcode | badLength | denied | notAligned | notReady | late
  | notFound | exists_ | noSpace | conflict | badLane | badRole | badAddr | badDesc | badIndex | badEntry
  | badCheck | badRegion | noSpare | noDispute | noLedger | noSource | fragmented | ecc | aborted | authFail
  | rollback | frozen | restarting
  deriving DecidableEq, Repr

/-- A mailbox 0 to 15, or the mailbox behind in-band slot k − 16 (R431, R439). -/
structure Mailbox where
  req : Tab W32 := []
  opcode : Nat := 0
  words : Nat := 0
  seq : Nat := 0
  irq : Bool := false
  res : List W32 := []
  hdrSeq : Nat := 0
  status : Nat := 0
  ready : Bool := false
  hdrWords : Nat := 0
  readCount : Nat := 0
  accepted : Bool := false
  resultDeal : Nat := 0
  pending : Bool := false
  /-- the model's number of the command rung, so that a result posted after the mailbox was cleared is
  known for an old one (R428) -/
  ticket : Nat := 0
  deriving DecidableEq, Repr

/-- An in-band slot (R438, R439). -/
structure Slot where
  bound : Option Nat := none
  heldSeq : Option Nat := none
  deriving DecidableEq, Repr

/-- A PENDING command that has been accepted: what it is, and whether its work has started (R434). -/
structure Waiting where
  mbx : Nat
  ticket : Nat
  opcode : Nat
  started : Bool
  /-- the request words kept for the work -/
  args : List Nat
  deriving DecidableEq, Repr

/-- An event record (R448). -/
structure EventRecord where
  code : Nat
  cls : Nat
  phase : Nat
  eseq : Nat
  deal : Nat
  args : Nat
  deriving DecidableEq, Repr

/-- Event ring and die queue (R449 to R452, R485). `ring`: records in the ring at or beyond EV_CONS,
oldest first. -/
structure Events where
  ringSet : Bool := false
  log2 : Nat := 0
  addr : Nat := 0
  modUs : Nat := 0
  prod : Nat := 0
  cons : Nat := 0
  ring : List EventRecord := []
  die : List EventRecord := []
  eseq : Nat := 0
  /-- times a code has been raised in this Deal -/
  raised : Tab Nat := []
  fwdName : Nat := 0
  fwdMask : Nat := 0
  fwdEn : Bool := false
  fwdWaiting : List EventRecord := []
  /-- records written since vector 16 last fired, and the LT of that firing -/
  unsignalled : Bool := false
  lastVec16 : Option Nat := none
  deriving DecidableEq, Repr

/-- A packet of the host receive queue and the next part to return (R446). -/
structure HostPacket where
  pkt : Packet
  part : Nat
  deriving DecidableEq, Repr

/-- The fields of a Moelo image header that a check or a command reads (R454), with the outcome of its
cryptographic checks, which the model takes from outside. -/
structure Image where
  present : Bool := false
  magicOk : Bool := false
  version : Nat := 0
  svn : Nat := 0
  keySlot : Nat := 0
  revokeLower : Bool := false
  liveOk : Bool := false
  /-- the digest of the payload; bank words as staged -/
  words : Tab W32 := []
  keyOk : Bool := false
  sigOk : Bool := false
  digestOk : Bool := false
  deriving DecidableEq, Repr

/-- What runs on the Steward cores (R453, R456, R457). -/
inductive FwPhase where
  | rom | running | restarting | stopped
  deriving DecidableEq, Repr

/-- PCIe state (R428, R430). Bit v of a mask is MSI-X vector v. -/
structure Pcie where
  perst : Bool := true
  d3hot : Bool := false
  vecMasked : Nat := 2 ^ 64 - 1
  vecPending : Nat := 0
  msixTable : Tab W32 := []
  deriving DecidableEq, Repr

/-- SPDM connection (R460). -/
structure Spdm where
  version : Bool := false
  caps : Bool := false
  algs : Bool := false
  deriving DecidableEq, Repr

/-- The keys that the ROM derives (R458): the device identity key pair, whose private half it erases before Moelo starts,
and the key pair of the running image, whose private half core 0 alone holds, with its certificate. -/
structure Keys where
  identityPrivate : Option (BitVec 521) := none
  identityPublic : Option (BitVec 1064) := none
  imagePrivate : Option (BitVec 521) := none
  imagePublic : Option (BitVec 1064) := none
  certificate : List Byte := []
  deriving DecidableEq, Repr

/-- The Steward. -/
structure Steward where
  mbx : Tab Mailbox := []
  slots : Tab Slot := []
  /-- rung commands not yet accepted, in ring order (R433) -/
  rung : List Nat := []
  waiting : List Waiting := []
  nextTicket : Nat := 1
  events : Events := {}
  recvQueue : List HostPacket := []
  pcie : Pcie := {}
  phase : FwPhase := .rom
  bootReady : Bool := false
  running : Nat := 0
  runningVersion : Nat := 0
  triedNew : Bool := false
  fallback : Bool := false
  spdm : Spdm := {}
  keys : Keys := {}
  /-- a JTAG access beyond boundary scan has occurred since reset (R461) -/
  measurement5 : Bool := false
  /-- measurements 1 to 4, fixed when Moelo started, and the Moelo VERSION that failed to report ready (R456, R461) -/
  measured : List (List Byte) := []
  failedVersion : Nat := 0
  /-- a live restart waits to finish, for this mailbox and ticket (R457) -/
  restart : Option (Nat × Nat) := none
  reasons : Nat := 0
  capsDeal : Nat := 0
  /-- retirements that take effect within a Deal, not yet recorded in PN_CAPS: first Deal at which they
  may be, reason bit and unit (R4, R463) -/
  unrecorded : List (Nat × Nat × Nat) := []
  deriving DecidableEq, Repr

/-! ### Registers, counters and freeze (17_registers_counters_freeze.md) -/

/-- A counter field of a register and the sticky bit paired with it (R468). A field of width 0 is a sticky
bit alone. -/
structure Ctr where
  width : Nat := 0
  val : Nat := 0
  ovf : Bool := false
  ovfBit : Nat := 0
  /-- the core cycle since reset in which the sticky bit was last set (R9) -/
  setAt : Option Nat := none
  deriving DecidableEq, Repr

/-- A snapshot set (R470 to R475). -/
structure SnapSet where
  count : Nat := 0
  clear : Bool := false
  mode : Nat := 0
  period : Nat := 1
  arm : Bool := false
  armDeal : Nat := 0
  src : Tab Nat := []
  deal : Nat := 0
  pendDeal : Nat := 0
  valid : Bool := false
  gen : Nat := 0
  filling : Bool := false
  hold : Tab Nat := []
  hidden : Tab Nat := []
  deriving DecidableEq, Repr

/-- A programmable counter, keyed 8 b + k (R477). -/
structure ProgCtr where
  src : Nat := 0
  filter : Nat := 0xFFF
  classes : Nat := 0xFF
  en : Bool := false
  thrEn : Bool := false
  thresh : Nat := 0
  armed : Bool := false
  count : Nat := 0
  deriving DecidableEq, Repr

/-- A port's bandwidth window (R480): bytes of the open window, of its open Deal and its busiest Deal, and
the registers. -/
structure BwPort where
  txSum : Nat := 0
  txDeal : Nat := 0
  txPeak : Nat := 0
  rxSum : Nat := 0
  rxDeal : Nat := 0
  rxPeak : Nat := 0
  txReg : Nat := 0
  txPeakReg : Nat := 0
  rxReg : Nat := 0
  rxPeakReg : Nat := 0
  deriving DecidableEq, Repr

/-- FRZ_SEL of one requester (R492). -/
structure FrzSel where
  space : Nat := 0
  index : Nat := 0
  base : Nat := 0
  deriving DecidableEq, Repr

/-- The freeze (R487). -/
structure Freeze where
  /-- accepted and every domain of R52 but three stopping or stopped -/
  accepted : Bool := false
  frozen : Bool := false
  cause : Nat := 0
  deal : Nat := 0
  stopCycle : Nat := 0
  /-- core cycle after acceptance at which the fabric time domain stopped -/
  ftStop : Nat := 0
  ft : Nat := 0
  /-- `frz.now` has returned its result and its freeze has not been accepted yet (R508) -/
  commanded : Bool := false
  deriving DecidableEq, Repr

/-- Bus errors, snapshots, counters, windows and freeze. -/
structure Regs where
  /-- every counter field and sticky bit of the register map, keyed 64 × offset + lowest bit; BAR2
  registers lie at offset 2^27 + their own -/
  ctr : Tab Ctr := []
  busErr : Nat := 0
  busErrValid : Bool := false
  /-- the core cycle since reset of the last bus error, and the word of the first error of that cycle (R9) -/
  busErrAt : Option (Nat × Nat) := none
  busErrRaised : Bool := false
  snap : Tab SnapSet := []
  prog : Tab ProgCtr := []
  /-- block clock cycles at the last clear of CT_CYC (R473, R477) -/
  cycBase : Tab Nat := []
  bwDeals : Nat := 1024
  bw : Tab BwPort := []
  bwLast : Nat := 0
  userMap : Tab Nat := []
  aliasHost : Nat := 0
  aliasSteward : Nat := 0
  freeze : Freeze := {}
  frzHost : FrzSel := {}
  frzSteward : FrzSel := {}
  frzJtag : FrzSel := {}
  frzJtagOffset : Nat := 0
  tapIr : Nat := 1
  deriving DecidableEq, Repr

/-! ### Fuses, flash and bring-up (00_scope.md, 16_steward_and_mailboxes.md, 18_bring_up.md) -/

/-- The fuses: variant, identity, SVN and key slots (R3, R455, R465). They outlive reset. -/
structure Fuses where
  variant : Nat := 1
  stepping : Nat := 0
  serial : Nat := 0
  svn : Nat := 0
  revoked : Nat := 0
  seedId : Nat := 0
  /-- the 256-bit device secret, which only the ROM reads (R458) -/
  secret : Nat := 0
  deriving DecidableEq, Repr

/-- The boot flash: banks, which one boots, which is committed and verified, slot 1 of the identity sector
and the nominal powers (R453, R456, R460, R500). It outlives reset. -/
structure Flash where
  bank : Halves Image := ⟨{ present := true, magicOk := true, keyOk := true, sigOk := true, digestOk := true }, {}⟩
  nextBoot : Nat := 0
  committed : Nat := 0
  verified : Bool := false
  slot1 : List Byte := []
  nominalKnown : Halves Bool := ⟨true, true⟩
  /-- the Sieve's comb has a recorded nominal power (R367, R500) -/
  combKnown : Bool := true
  base : Tab (List Nat) := []
  deriving DecidableEq, Repr

/-- What PN_CAPS and the `sys.caps` result report (R3, R4): Looms and stack sites in service by bit, fabric
transmit lanes and free spares by half, and the flags. -/
structure Caps where
  loomMask : Nat
  sites : Nat
  lanes : Halves Nat := ⟨1024, 1024⟩
  spares : Halves Nat := ⟨4, 4⟩
  sieve : Bool
  ocs : Bool
  gating : Bool
  recipes : Bool
  degraded : Bool := false
  replace : Bool := false
  deriving DecidableEq, Repr

/-- PN_BRINGUP and the failures of the stage in progress (R499, R501). -/
structure Bringup where
  stage : Nat := 0
  failed : Nat := 0
  nominal : Bool := false
  doneMs : Nat := 0
  done : Bool := false
  /-- stages 3 to 6 that have ended -/
  ended : Nat := 0
  /-- failed units of stages ended, awaiting the boundary that records them: first Deal, cause, unit (R499) -/
  results : List (Nat × Nat × Nat) := []
  deriving DecidableEq, Repr

/-! ### Changes that wait for a Deal boundary (R16) -/

/-- A change a command or a rule has fixed for a Deal boundary. -/
inductive Change where
  /-- `time.step` (R22) -/
  | stepTime
  /-- retirement of a lane with its reason (R79, R507) -/
  | retireLane (lane reason : Nat)
  /-- a spare READY takes over its slot (R92, R95) -/
  | lampSwap (half laser : Nat)
  /-- a line faded by 4.0 dB with no spare: its lanes retire (R91) -/
  | fadeDrop (half slot line : Nat)
  /-- circuits entering BYPASS, as pairs (a, b), and coming into effect (R100) -/
  | circuitsDriven (pairs : List (Nat × Nat))
  | circuitsInEffect (pairs : List (Nat × Nat))
  /-- circuits released, as transmit lanes b, and their clear complete (R100) -/
  | circuitsReleased (outs : List Nat)
  | circuitsCleared (outs : List Nat)
  /-- `lamp.nominal` (R500) -/
  | nominal (half : Nat)
  /-- a planned disable of a port (R111) -/
  | disablePort (port : Nat)
  | fanSet (fan : Nat) (members : List (Nat × Nat))
  | fanWeight (fan : Nat) (weights : List (Nat × Nat))
  /-- `fan.rejoin`, cancelled by a removal of the port that comes before its boundary (R155) -/
  | fanRejoin (port : Nat) (cancelled : Bool)
  | bufConfig (half priv pushout : Nat)
  | queueConfig (queues : List Nat) (min alpha markT : Nat) (ct spillEn : Bool) (spillMax : Nat)
  | spillRate (half rate : Nat)
  | mcastSet (group : Nat) (append : Bool) (set : Nat)
  /-- entry of a port into DISPUTED (R181) -/
  | dispute (port : Nat)
  /-- return of a port from DISPUTED to UP (R182) -/
  | resolve (port : Nat) (mgmt : Bool)
  | calBind (port cal : Nat) (en : Bool)
  | schedConfig (port ovh rsvd : Nat) (weights : List Nat)
  | meterSet (meter cir pir cbs pbs actG actY actR : Nat)
  | meterBind (port cls meter : Nat) (en : Bool)
  | ctConfig (block k : Nat) (en thrEn : Bool) (src filter classes thresh : Nat)
  | ctBw (deals : Nat)
  | rollConfig (half age rate margin : Nat)
  | kittyOpen (key : Nat)
  | kittyClose (key : Nat)
  | kittyConfig (half pool budget ingest : Nat)
  | ledgerAbort (job step : Nat)
  /-- retirement of a Loom with its reason (R292) -/
  | retireLoom (loom reason : Nat)
  | loomSeed (loom : Option Nat) (seed : Nat)
  | slotConfig (key : Nat) (en : Bool) (mode offset length handle gate : Nat)
  | recipeParam (key first : Nat) (words : List Nat)
  | gateLoad (key : Nat)
  | gateUnload (key : Nat)
  | gateMap (key first : Nat) (experts : List (Nat × Bool))
  | gateCap (key first : Nat) (caps : List Nat)
  | sieveLoad (bank : Nat) (p : List Nat) (sigma : Nat)
  | sieveClear (bank : Nat)
  | sieveTrim (n : Nat)
  | sieveRetire
  | larderFree (handle : Nat)
  | larderConfig (half rollBw kittyBw waitDeals : Nat)
  /-- retirement of an HBM stack (R386) -/
  | retireStack (site : Nat)
  | twinPair (partner region0 region1 : Nat)
  | twinMirror (half : Nat) (on full : Bool) (rate : Nat)
  | twinTakeover
  | tableMember (member : Nat) (lost : Bool) (name : Nat)
  | expectSet (port mode name : Nat)
  /-- a capture for `ct.snap`, whose command waits in a mailbox under this ticket (R472) -/
  | ctSnap (mbx ticket : Nat) (clear : Bool) (offs : List Nat)
  deriving DecidableEq, Repr

/-! ### The whole part -/

/-- The units that packets are delivered to (R139). -/
inductive LocalUnit where
  | timeBase | kittyControl | gate | steward
  deriving DecidableEq, Repr

/-- What the part has sent or answered, for an observer outside it. The log is the model's own: the newest
entry stands first, and nothing in the part reads it. -/
inductive Sent where
  /-- a packet whose first bit left on a port (or the Span, 0x1000 + h) -/
  | packet (port : Nat) (pkt : Packet)
  /-- data blocks of the packet that leaves on a port: the BSEQ of the first, its number in the packet, how many, and the lanes that
  carry them (R115) -/
  | cells (port bseq first count lanes : Nat)
  /-- a packet's outgoing copy ended with a DATA_LAST block with ABORT = 1 (R123) -/
  | abort (port : Nat)
  /-- a packet handed to a unit of the part by a LOCAL route (R139) -/
  | deliver (half : Nat) (unit : LocalUnit) (pkt : Packet)
  | marker (port deal lanes : Nat) (aligned : Bool) (ftState : Nat)
  /-- an IDLE block (R114, R188) -/
  | idle (port : Nat)
  /-- DEAL_OUT rises for the boundary of a Deal, its lead in core cycles before it (R37) -/
  | dealOut (deal advance : Nat)
  | notice (port : Nat) (kind : NoticeKind) (echo : Bool) (n : Notice)
  /-- a TRAINING block (R119) -/
  | training (port : Nat) (body : TrainingBody)
  /-- MSI-X vector signalled (R430) -/
  | msix (vector : Nat)
  /-- a record written to host memory (R449) -/
  | hostWrite (addr : Nat) (words : List Nat)
  /-- the data a register read returned -/
  | readData (value : Nat)
  | busError (req : Requester)
  | i3c (bytes : List Nat)
  | i3cInterrupt (byte : Nat)
  | ptpDelayReq (seq : Nat)
  | doe (bytes : List Nat)
  | jtag (bits : Nat)
  deriving DecidableEq, Repr

/-- The part: every piece of state the spec gives it, grouped by chapter. -/
structure Chip where
  fuses : Fuses := {}
  flash : Flash := {}
  caps : Caps
  tb : TimeBase := {}
  pkg : Pkg := {}
  light : Light := {}
  ports : Ports := {}
  nest : Nest := {}
  xbar : Crossing := {}
  sch : Scheduling := {}
  roll : Halves RollHalf := ⟨{}, {}⟩
  kit : Kitties := {}
  loom : Looms := {}
  gate : Gates := {}
  sv : Sieve := {}
  lard : Larder := {}
  twin : Twin := {}
  stew : Steward := {}
  regs : Regs := {}
  boot : Bringup := {}
  /-- changes that wait for their boundary, in the order accepted -/
  due : List (Nat × Change) := []
  sent : List Sent := []
  /-- draws made from the free values of Config so far (the model's own) -/
  free : Nat := 0
  deriving DecidableEq, Repr

/-- The machine: the part, and the commands that wait to be taken, first in, first out. -/
structure State where
  chip : Chip
  pending : List Instr := []
  deriving DecidableEq, Repr

/-- The fitted stack sites of a variant; site 10 h + k is stack k of Half h (R76). -/
def fittedSites (variant : Nat) : List Nat :=
  if variant = 1 then List.range 20 else if variant = 2 then (List.range 10).map (2 * ·) else [0, 5, 10, 15]

/-- PN_CAPS of a variant with every unit of R1 in service. -/
def capsOf (variant : Nat) : Caps :=
  { loomMask := if variant = 3 then 0 else 2 ^ 64 - 1
    sites := (fittedSites variant).foldl (fun a s => a + 2 ^ s) 0
    sieve := variant = 1
    ocs := variant ≠ 3
    gating := variant ≠ 3
    recipes := variant ≠ 3 }

/-- Largest spill RATE of a variant at a period code (R171). -/
def spillRateMax (variant period : Nat) : Nat :=
  (if variant = 1 then 32 else if variant = 2 then 20 else 8) * 2 ^ period

/-- XFER_BUDGET at reset, in units of 256 B: the largest at the default period and reset RATE (R264). -/
def resetXfer (variant : Nat) : Nat := (3200 * 1984 - spillRateMax variant 1 * 65536) / 256

/-- A half's Larder at reset (R372, R374, R383, R384). -/
def resetLarder (variant h : Nat) : LarderHalf :=
  { spillSize := if variant = 1 then 1048576 else if variant = 2 then 524288 else 4188928
    kittyBw := if variant = 1 then 80 else if variant = 2 then 24 else 0
    sites := (fittedSites variant).filter (fun s => s / 10 == h) }

/-- The lasers at reset: laser k serves slot k, in state OFF until the LAMP stage lights it (R90). -/
def resetLasers : Tab Laser :=
  (List.range 16).map (fun p => (p, { slot := p })) ++ (List.range 16).map (fun p => (32 + p, { slot := p }))

/-- The part right after the release of RESET_N (R510): fuses and flash as they were, everything else at the
reset value the spec gives or the log names. -/
def Chip.fresh (fuses : Fuses) (flash : Flash) (straps : Nat) : Chip :=
  { fuses := fuses
    flash := flash
    caps := capsOf fuses.variant
    pkg := { straps := straps % 128 }
    light := { lasers := resetLasers }
    kit := { half := ⟨{ xferBudget := resetXfer fuses.variant }, { xferBudget := resetXfer fuses.variant }⟩ }
    lard := { half := ⟨resetLarder fuses.variant 0, resetLarder fuses.variant 1⟩ }
    xbar := { buf := ⟨{ rate := spillRateMax fuses.variant 1 }, { rate := spillRateMax fuses.variant 1 }⟩ } }

/-- The machine right after reset, with no command waiting. -/
def State.reset : State :=
  { chip := Chip.fresh {} {} 0, pending := [] }

end Sys2Proof.Machine
end

