-- ==== Sys2Proof/WellFormed.lean ====
section
/-! DEFINITION. Which commands can come: every number within the range the spec gives its field or unit. -/

namespace Sys2Proof

/-- A host mailbox (R431) or, from 16, an in-band slot (R438). -/
def okMbx (k : Nat) : Bool := decide (k < 32)

/-- A half of the package (R53). -/
def okHalf (h : Nat) : Bool := decide (h < 2)

/-- A lane numbered as R483 numbers it: fabric 0 to 2047, internal 0x800 + 0x200 h + j. -/
def okLane (l : Nat) : Bool :=
  decide (l < 2048) || (decide (0x800 ≤ l) && decide (l < 0xC00) && decide ((l - 0x800) % 0x200 < 328))

/-- A laser, 0x20 h + p, or the Sieve's source comb, 0x40 (R90, R367). -/
def okLaser (l : Nat) : Bool := decide (l = 0x40) || (decide (l < 0x40) && decide (l % 0x20 < 20))

/-- A fabric or twin port (R102, R132). -/
def okPort (p : Nat) : Bool := decide (p < 0x804)

/-- A port, or the Span of half h at 0x1000 + h. -/
def okEgress (p : Nat) : Bool := decide (p < 0x804) || decide (p = 0x1000) || decide (p = 0x1001)

/-- A compared sensor, by its telemetry index (R69, R74). -/
def okSensor (i : Nat) : Bool := decide (4 ≤ i) && decide (i ≤ 0x12) && i % 2 == 0

/-- A Kitty slot of a half (R227). -/
def okKslot (k : Nat) : Bool := decide (k < 32768)

/-- A Loom (R53). -/
def okLoom (n : Nat) : Bool := decide (n < 64)

/-- Every header field within its width, and the payload as long as LENGTH says (R116). -/
def okPacket (p : Packet) : Bool :=
  decide (p.dest < 2 ^ 48) && decide (p.cls < 8) && decide (p.epoch < 2) && decide (p.hops < 32) &&
    decide (p.src < 2 ^ 48) && decide (p.length ≤ 16384) && decide (p.id < 2 ^ 32) &&
    decide (p.seq < 2 ^ 32) && decide (p.crc < 2 ^ 64) && p.payload.length == p.length

/-- What a decoder reports fits the counters that take it (R133). -/
def okFec (f : Fec) : Bool := decide (f.corrected < 2 ^ 32) && decide (f.uncorr < 2 ^ 30)

/-- BSEQ and LANES within their widths (R114). -/
def okBlock (b : DataBlock) : Bool := decide (b.bseq < 4096) && decide (b.lanes < 16) && okFec b.fec

/-- A NOTICE body's fields within their widths (R119). -/
def okNotice (n : Notice) : Bool := decide (n.lanes < 16) && decide (n.target < 2 ^ 48) && decide (n.nseq < 65536)

/-- A MARKER body's fields within their widths (R119). -/
def okMarker (m : Marker) : Bool :=
  decide (m.deal < 2 ^ 48) && decide (m.lanes < 16) && decide (m.ftState < 4) && okFec m.fec

/-- A TRAINING body's fields within their widths (R119). -/
def okTraining (b : TrainingBlock) : Bool :=
  decide (b.cls < 2) && decide (b.lotMode < 8) && decide (b.port < 4096) && decide (b.nest < 2 ^ 48) &&
    decide (b.role < 4) && decide (b.lanes < 16) && decide (b.xidx < 8) && decide (b.ridx < 8) &&
    decide (b.tdep < 2 ^ 64) && decide (b.turnPs < 2 ^ 64) && decide (b.arrival < 2 ^ 64) &&
    decide (b.lane < 4) && okFec b.fec

/-- An Announce message's fields within their widths (IEEE 1588-2019, R31). -/
def okAnnounce (a : Announce) : Bool :=
  decide (a.domain < 256) && decide (a.transport < 2) && decide (a.priority1 < 256) && decide (a.clockClass < 256) &&
    decide (a.accuracy < 256) && decide (a.variance < 65536) && decide (a.priority2 < 256) &&
    decide (a.identity < 2 ^ 64) && decide (a.stepsRemoved < 65536) && decide (a.source < 2 ^ 80)

/-- The fields of another PTP message within their widths. -/
def okPtp (m : PtpHeader) : Bool :=
  decide (m.domain < 256) && decide (m.transport < 2) && decide (m.identity < 2 ^ 80) &&
    decide (-128 ≤ m.interval) && decide (m.interval < 128)

/-- A seven-bit address and an index of telemetry (R68, R69). -/
def okTelemetry (x : TelemetryIndex) : Bool := decide (x.addr < 128) && decide (x.index < 256)

/-- An aligned offset that a read of 8 bytes can name. -/
def okOffset : BarOffset → Bool
  | .bar0 off => decide (off < 2 ^ 27) && off % 8 == 0
  | .bar2 off => decide (off < 2 ^ 27) && off % 8 == 0

/-- A dynamic address is seven bits (R68). -/
def okCcc : Ccc → Bool
  | .entdaa a => decide (a < 128)
  | .setdasa a => decide (a < 128)
  | _ => true

/-- A naturally aligned write within MB_REQ or MB_CTRL (R431, R466). -/
def okMbWrite (off size : Nat) : Bool :=
  (size == 1 || size == 2 || size == 4 || size == 8 || size == 16 || size == 32 || size == 64 ||
    size == 128 || size == 256 || size == 512) && off % size == 0 &&
    (decide (off < 0x1000) || (off == 0x2000 && (size == 4 || size == 8)) || (off == 0x2004 && size == 4))

/-- An aligned 4-byte or 8-byte read of MB_RESULT_HDR, by offset within it (R435). -/
def okHdrRead (off size : Nat) : Bool := (off == 0 && (size == 4 || size == 8)) || (off == 4 && size == 4)

/-- The operands of a command are ones that such an event or access can have. -/
def Instr.wf : Instr → Bool
  | .resetAccept => true
  | .resetRelease straps => decide (straps < 128)
  | .freezeAccept => true
  | .freezeComplete cycle => decide (cycle ≤ 63)
  | .perstAssert => true
  | .perstRelease => true
  | .functionLevelReset => true
  | .railOutOfTolerance => true
  | .tapReset => true
  | .jtagInstruction ir => decide (ir < 256)
  | .frzDataCapture => true
  | .dealInEdge wait => decide (wait ≤ 65536)
  | .dealInMiss => true
  | .timeCapEdge n _ => decide (n < 2)
  | .timeCaptured n => decide (n < 2)
  | .dealBoundary => true
  | .guardStart => true
  | .monitorConversionStart => true
  | .monitorResult samples => samples.all (fun x => okLaser x.1 && x.2.length == 8)
  | .spareWarmed half laser => okHalf half && decide (laser < 20)
  | .spareReady half laser => okHalf half && decide (laser < 20)
  | .spareTimeout half laser => okHalf half && decide (laser < 20)
  | .heaterSweepTick lane _ _ => okLane lane
  | .idCheckEnd lane _ tones => okLane lane && tones.length == 8
  | .lockLoopUpdate lane _ code _ => okLane lane && decide (code < 4096)
  | .lightLoss lane => okLane lane
  | .lightArrival lane => okLane lane
  | .ocsCircuitDark half out => okHalf half && decide (out < 512)
  | .trainingBlock port block => okPort port && okTraining block
  | .portTrainTimeout port => okPort port
  | .markerBlock port marker => okPort port && okMarker marker
  | .markerWindowClose port => okPort port
  | .portSilence port => okPort port
  | .noticeResize port notice => okPort port && okNotice notice
  | .noticeLaneLeave port notice => okPort port && okNotice notice
  | .noticeLaneJoin port notice => okPort port && okNotice notice
  | .noticeDisable port notice => okPort port && okNotice notice
  | .noticeEcho port _ notice => okPort port && okNotice notice
  | .noticeRepeat port => okPort port
  | .receiveDrainEnd port => okPort port
  | .packetFirstBlock port pkt block => okPort port && okPacket pkt && okBlock block
  | .dataBlock port block => okPort port && okBlock block
  | .egressSchedule port => okEgress port
  | .spillReadback half point cls _ => okHalf half && decide (point < 1026) && decide (cls < 8)
  | .calEntryOpen half cal => okHalf half && decide (cal < 32)
  | .timeExchangeSend => true
  | .timeReq port pkt t2 => okPort port && okPacket pkt && decide (t2 < 2 ^ 64)
  | .timeRsp port pkt t4 => okPort port && okPacket pkt && decide (t4 < 2 ^ 64)
  | .holdoverExpiry => true
  | .ptpAnnounce msg => okAnnounce msg
  | .ptpSync msg seq _ _ _ => okPtp msg && decide (seq < 65536)
  | .ptpFollowUp msg seq _ => okPtp msg && decide (seq < 65536)
  | .ptpDelayResp msg seq _ => okPtp msg && decide (seq < 65536)
  | .ptpDelayReqTimer => true
  | .ptpAnnounceTimeout => true
  | .thermalCompare readings => readings.all (fun r => okSensor r.1)
  | .telemetryUpdate values => values.all (fun v => decide (v.1 ≤ 0x2E) && decide (v.2 < 65536) && v.1 % 2 == 0)
  | .i3cCcc ccc => okCcc ccc
  | .i3cRead start count => okTelemetry start && decide (count ≤ 256)
  | .ante half port pkt => okHalf half && okPort port && okPacket pkt
  | .ack half pkt => okHalf half && okPacket pkt
  | .rnack half pkt => okHalf half && okPacket pkt
  | .result half pkt => okHalf half && okPacket pkt
  | .anack half pkt => okHalf half && okPacket pkt
  | .kittyDeadline half slot => okHalf half && okKslot slot
  | .showdownReturn half slot _ => okHalf half && okKslot slot
  | .kittyResultResend half slot => okHalf half && okKslot slot
  | .childAnteResend half slot => okHalf half && okKslot slot
  | .rollMissFill half way _ => okHalf half && decide (way < 4)
  | .rollSweep half _ => okHalf half
  | .rollRead half set => okHalf half && decide (set < 2)
  | .rollWrite half set mode _ => okHalf half && decide (set < 2) && decide (mode < 3)
  | .rollDelete half set => okHalf half && decide (set < 2)
  | .rollReadIndex half set index => okHalf half && decide (set < 2) && decide (index < 2 ^ 23)
  | .rollPurge half set => okHalf half && decide (set < 2)
  | .rollTouch half set => okHalf half && decide (set < 2)
  | .rollCmdReserved half set op mode => okHalf half && decide (set < 2) && decide (op < 16) && decide (mode < 4) && (decide (op = 0) || decide (6 < op) || (op == 2 && mode == 3))
  | .rollOpDone half set bad => okHalf half && decide (set < 2) && bad.all (fun w => decide (w < 4))
  | .rollSetWrite half set reg value => okHalf half && decide (set < 2) && decide (reg < 6) && decide (value < 2 ^ 64)
  | .recipeSlotStart loom slot => okLoom loom && decide (slot < 16)
  | .nop loom _ => okLoom loom
  | .mm loom _ => okLoom loom
  | .vectorOp loom _ => okLoom loom
  | .vcvt loom _ => okLoom loom
  | .vredSum loom _ => okLoom loom
  | .vredMax loom _ => okLoom loom
  | .vredTopk loom _ => okLoom loom
  | .scalarReg loom _ => okLoom loom
  | .scalarImm loom _ => okLoom loom
  | .loadImmediate loom _ => okLoom loom
  | .ld loom _ _ => okLoom loom
  | .st loom _ => okLoom loom
  | .scalarFp loom _ => okLoom loom
  | .mfs loom _ => okLoom loom
  | .branch loom _ => okLoom loom
  | .jmp loom _ => okLoom loom
  | .copy loom _ => okLoom loom
  | .lfetch loom _ => okLoom loom
  | .lstore loom _ _ => okLoom loom
  | .emit loom _ _ => okLoom loom
  | .sieveOp loom _ => okLoom loom
  | .syncCycle loom _ => okLoom loom
  | .syncFills loom _ => okLoom loom
  | .syncDrain loom _ => okLoom loom
  | .syncYield loom _ => okLoom loom
  | .endRun loom _ => okLoom loom
  | .instructionWaitEnd loom _ => okLoom loom
  | .instructionComplete loom index _ _ _ => okLoom loom && decide (index < 8)
  | .loomCheckFail loom array index => okLoom loom && decide (array < 4) && decide (index < 8)
  | .fillLanded loom granule _ => okLoom loom && decide (granule < 2048)
  | .loomSample loom stall => okLoom loom && (decide (stall ≤ 2) || decide (stall = 4))
  | .sieveInstructionStart => true
  | .sieveInstructionDone => true
  | .sieveTrimWindow => true
  | .sieveTrimEnd effs => decide (effs.length = 4) && effs.all (fun b => decide (b < 128))
  | .sieveLoadReady bank _ => decide (bank < 4)
  | .sieveCalibrationDone bank bits => decide (bank < 4) && decide (bits < 128)
  | .token half pkt => okHalf half && okPacket pkt
  | .gateCapacityCheck half gate => okHalf half && decide (gate < 16)
  | .reply half pkt => okHalf half && okPacket pkt
  | .gateCombineDeadline half gate => okHalf half && decide (gate < 16)
  | .larderGrant half => okHalf half
  | .larderWaitTimeout half => okHalf half
  | .mirrorPacket pkt => okPacket pkt
  | .mack pkt => okPacket pkt
  | .mirrorResend half => okHalf half
  | .mirrorStale half => okHalf half
  | .mirrorCopyPass pass => okHalf pass.half
  | .twinLostMack half => okHalf half
  | .delta half pkt => okHalf half && okPacket pkt
  | .dack half pkt => okHalf half && okPacket pkt
  | .deltaResend half => okHalf half
  | .coded half pkt => okHalf half && okPacket pkt
  | .codedReport half => okHalf half
  | .uread half pkt => okHalf half && okPacket pkt
  | .udata half pkt => okHalf half && okPacket pkt
  | .ureadRetry half => okHalf half
  | .pset half pkt => okHalf half && okPacket pkt
  | .rebuildStripe half => okHalf half
  | .ckptWritten => true
  | .jobStart pkt => okPacket pkt
  | .bcastAsk pkt => okPacket pkt
  | .bcastDeadline => true
  | .bcastAskRetry => true
  | .healthWindowEnd => true
  | .mgmtReq pkt => okPacket pkt
  | .stewardLocalPacket pkt => okPacket pkt
  | .mbRing box => decide (box < 16)
  | .mbRequestWrite box off bytes => decide (box < 16) && okMbWrite off bytes.length
  | .mbResultRead box off size => decide (box < 16) && okHdrRead off size
  | .evConsWrite value => decide (value < 2 ^ 32)
  | .eventModerationTimer => true
  | .timeCapRead n => decide (n < 2)
  | .tsqPop half => okHalf half
  | .ftNsRead _ _ => true
  | .rcFieldRead off => okOffset off
  | .snapArm _ set => decide (set < 8)
  | .snapCtrlWrite _ set value => decide (set < 8) && decide (value < 2 ^ 64)
  | .snapCapture set => decide (set < 8)
  | .snapBankSwap set => decide (set < 8)
  | .counterThreshold block k => decide (block < 5) && decide (k < 8)
  | .sampleAck loom n => okLoom loom && decide (n < 128)
  | .aliasWrite _ off _ => decide (off < 2 ^ 25) && off % 8 == 0
  | .badAccess _ _ _ off size => decide (off < 2 ^ 27) && decide (0 < size) && decide (size ≤ 512)
  | .registerWrite _ _ off value => decide (off < 2 ^ 27) && off % 8 == 0 && decide (value < 2 ^ 64)
  | .spdmGetVersion => true
  | .spdmGetCapabilities => true
  | .spdmNegotiateAlgorithms _ _ _ => true
  | .spdmGetDigests => true
  | .spdmGetCertificate slot _ _ => decide (slot < 8)
  | .spdmChallenge slot _ => decide (slot < 8)
  | .spdmGetMeasurements index _ _ => decide (index < 256)
  | .spdmGetCsr => true
  | .spdmSetCertificate slot _ => decide (slot < 8)
  | .spdmRespondIfReady => true
  | .bootImageCheck _ => true
  | .bootReady => true
  | .fwReadyTimeout => true
  | .bringupStageEnd _ => true
  | .xferDone k _ _ => okMbx k
  | .timeSet k => okMbx k
  | .timeStep k => okMbx k
  | .timeAsym k => okMbx k
  | .timeRole k => okMbx k
  | .timeStatus k => okMbx k
  | .ptpConfig k => okMbx k
  | .dealPeriod k => okMbx k
  | .powerCap k => okMbx k
  | .powerStatus k => okMbx k
  | .laneRetire k => okMbx k
  | .lampSwap k => okMbx k
  | .lampAuto k => okMbx k
  | .ocsSet k => okMbx k
  | .ocsClear k => okMbx k
  | .portConfig k => okMbx k
  | .portEnable k => okMbx k
  | .portDisable k => okMbx k
  | .portStatus k => okMbx k
  | .nestLoad k => okMbx k
  | .routeLoad k => okMbx k
  | .routeSeal k => okMbx k
  | .routeFlip k => okMbx k
  | .routeHorizon k => okMbx k
  | .routeRead k => okMbx k
  | .fanSet k => okMbx k
  | .fanWeight k => okMbx k
  | .fanRejoin k => okMbx k
  | .fanRemove k => okMbx k
  | .tallyStream k => okMbx k
  | .bufConfig k => okMbx k
  | .queueConfig k => okMbx k
  | .spillRate k => okMbx k
  | .mcastSet k => okMbx k
  | .portExpect k => okMbx k
  | .portResolve k => okMbx k
  | .calLoad k => okMbx k
  | .calStart k => okMbx k
  | .calStop k => okMbx k
  | .calBind k => okMbx k
  | .schedConfig k => okMbx k
  | .meterSet k => okMbx k
  | .meterBind k => okMbx k
  | .rollConfig k => okMbx k
  | .kittyOpen k => okMbx k
  | .kittyClose k => okMbx k
  | .kittyStatus k => okMbx k
  | .kittyConfig k => okMbx k
  | .ledgerOpen k => okMbx k
  | .ledgerAbort k => okMbx k
  | .ledgerClose k => okMbx k
  | .ledgerStatus k => okMbx k
  | .loomStatus k => okMbx k
  | .loomRetire k => okMbx k
  | .loomSeed k => okMbx k
  | .benchWrite k => okMbx k
  | .benchRead k _ => okMbx k
  | .recipeCreate k => okMbx k
  | .recipeLoad k => okMbx k
  | .recipeSeal k => okMbx k
  | .recipeFree k => okMbx k
  | .slotConfig k => okMbx k
  | .recipeParam k => okMbx k
  | .recipeRun k => okMbx k
  | .sampleConfig k => okMbx k
  | .gateLoad k => okMbx k
  | .gateUnload k => okMbx k
  | .gateMap k => okMbx k
  | .gateCap k => okMbx k
  | .gateWeights k => okMbx k
  | .gateStatus k => okMbx k
  | .sieveLoad k => okMbx k
  | .sieveClear k => okMbx k
  | .sieveTrim k => okMbx k
  | .sieveStatus k => okMbx k
  | .larderAlloc k => okMbx k
  | .larderFree k => okMbx k
  | .larderStatus k => okMbx k
  | .larderWrite k _ => okMbx k
  | .larderRead k _ => okMbx k
  | .larderConfig k => okMbx k
  | .larderReserve k => okMbx k
  | .hbmRetire k => okMbx k
  | .twinPair k => okMbx k
  | .twinLink k => okMbx k
  | .twinMirror k => okMbx k
  | .twinTakeover k => okMbx k
  | .twinExport k => okMbx k
  | .tableJoin k => okMbx k
  | .tableProtect k => okMbx k
  | .tableMember k => okMbx k
  | .tableRebuild k => okMbx k
  | .ckptTake k => okMbx k
  | .ckptRestore k => okMbx k
  | .bcastTree k => okMbx k
  | .dealExpect k => okMbx k
  | .dealOpen k => okMbx k
  | .healthBudget k => okMbx k
  | .healthClear k => okMbx k
  | .sysCaps k => okMbx k
  | .sysInfo k => okMbx k
  | .mbAbort k => okMbx k
  | .evtRing k => okMbx k
  | .evtForward k => okMbx k
  | .mgmtAllow k => okMbx k
  | .pktSend k => okMbx k
  | .pktRecv k => okMbx k
  | .xferToHost k => okMbx k
  | .xferFromHost k => okMbx k
  | .fwStage k => okMbx k
  | .fwVerify k => okMbx k
  | .fwActivate k => okMbx k
  | .fwCommit k => okMbx k
  | .fwStatus k => okMbx k
  | .fwLiveRestartDone => true
  | .ctSnap k => okMbx k
  | .ctConfig k => okMbx k
  | .ctBw k => okMbx k
  | .userMap k => okMbx k
  | .frzNow k => okMbx k
  | .frzStatus k => okMbx k
  | .frzRead k => okMbx k
  | .bringStatus k => okMbx k
  | .lampNominal k => okMbx k
  | .timeSetLoad => true
  | .larderZeroDone k => okMbx k
  | .ckptRestoreDone => true
  | .fwWorkDone k _ => okMbx k
  | .hbmChannelLost site => decide (site < 20)
  | .d3hotTransition _ => true
  | .doeDiscovery index => decide (index < 256)
  | .jtagFrzSelUpdate value => decide (value < 2 ^ 64)

end Sys2Proof
end

