-- ==== Sys2Proof/Machine/Ops.lean ====
section
/-! DEFINITION. Shared operations: sparse tables, bit fields, time, free values, counters, events and the
wrappers every meaning runs under. -/

namespace Sys2Proof

/-! ### Sparse tables -/

/-- The value at key `k`, `d` where the table lists none. -/
def Tab.get {α : Type} (d : α) (k : Nat) : Tab α → α
  | [] => d
  | (j, v) :: t => if j = k then v else Tab.get d k t

/-- Remove the entry at `k`. -/
def Tab.erase {α : Type} (k : Nat) : Tab α → Tab α
  | [] => []
  | (j, v) :: t => if j = k then Tab.erase k t else (j, v) :: Tab.erase k t

/-- Put `v` at key `k`, keeping keys in rising order. -/
def Tab.put {α : Type} (k : Nat) (v : α) : Tab α → Tab α
  | [] => [(k, v)]
  | (j, w) :: t => if k < j then (k, v) :: (j, w) :: t else if k = j then (k, v) :: t else (j, w) :: Tab.put k v t

/-- Write `v` at key `k`; writing the default removes the entry, so that equal tables are equal lists. -/
def Tab.set {α : Type} [DecidableEq α] (d : α) (k : Nat) (v : α) (t : Tab α) : Tab α :=
  if v = d then Tab.erase k t else Tab.put k v t

/-- Keys strictly rising from above `lo`, and no entry equal to the default. -/
def Tab.wfFrom {α : Type} [DecidableEq α] (d : α) : Option Nat → Tab α → Bool
  | _, [] => true
  | lo, (j, v) :: t => (match lo with | none => true | some l => decide (l < j)) && decide (v ≠ d) && Tab.wfFrom d (some j) t

/-- The canonical form of a table. -/
def Tab.wf {α : Type} [DecidableEq α] (d : α) (t : Tab α) : Bool := Tab.wfFrom d none t

/-- Keys of a table. -/
def Tab.keys {α : Type} (t : Tab α) : List Nat := t.map Prod.fst

/-- The value of half `h` (anything but 0 is Half 1). -/
def Halves.get {α : Type} (h : Nat) (x : Halves α) : α := if h = 0 then x.h0 else x.h1

/-- The pair with the value of half `h` replaced. -/
def Halves.set {α : Type} (h : Nat) (v : α) (x : Halves α) : Halves α := if h = 0 then ⟨v, x.h1⟩ else ⟨x.h0, v⟩

/-! ### Bit fields -/

/-- Bits [lo + len − 1 : lo] of `w`. -/
def bitsAt (w lo len : Nat) : Nat := w / 2 ^ lo % 2 ^ len

/-- Bit `b` of `w`. -/
def bitAt (w b : Nat) : Bool := w / 2 ^ b % 2 == 1

/-- 1 for true. -/
def b2n (b : Bool) : Nat := if b then 1 else 0

/-- `v` placed at bit `lo`, cut to `len` bits. -/
def field (v lo len : Nat) : Nat := v % 2 ^ len * 2 ^ lo

/-- Two's complement of an `len`-bit field. -/
def toSigned (v len : Nat) : Int := if v % 2 ^ len < 2 ^ (len - 1) then (v % 2 ^ len : Int) else (v % 2 ^ len : Int) - 2 ^ len

/-- `len`-bit two's complement encoding of an integer. -/
def ofSigned (v : Int) (len : Nat) : Nat := (v % (2 ^ len : Int)).toNat

/-- The set bits of a mask below `n`. -/
def bitsSet (n mask : Nat) : List Nat := (List.range n).filter (fun b => bitAt mask b)

/-- The number of set bits of a mask below `n`. -/
def popcount (n mask : Nat) : Nat := (bitsSet n mask).length

/-- A mask without the bits of another. -/
def maskDiff (a b : Nat) : Nat := a - (a &&& b)

/-- Big-endian value of a list of bytes. -/
def beNat (bs : List Byte) : Nat := bs.foldl (fun a b => a * 256 + b.toNat) 0

/-- Little-endian value of a list of bytes. -/
def leNat (bs : List Byte) : Nat := bs.foldr (fun b a => a * 256 + b.toNat) 0

/-- `n` bytes of `v`, most significant first. -/
def beBytes (n v : Nat) : List Byte := (List.range n).map (fun i => BitVec.ofNat 8 (v / 256 ^ (n - 1 - i)))

/-- `n` bytes of `v`, least significant first. -/
def leBytes (n v : Nat) : List Byte := (List.range n).map (fun i => BitVec.ofNat 8 (v / 256 ^ i))

/-- The 64-bit word `i` of a payload, most significant byte first; zero beyond its end. -/
def Packet.word (p : Packet) (i : Nat) : Nat :=
  let bs := (p.payload.drop (8 * i)).take 8
  beNat bs * 256 ^ (8 - bs.length)

/-- The low and high request or result words of a 48-bit or 64-bit value (R443). -/
def twoWords (v : Nat) : List Nat := [v % 2 ^ 32, v / 2 ^ 32]

/-! ### Checks over bytes -/

/-- One bit of a reflected CRC with the given reversed polynomial. -/
def crcBit (poly crc : Nat) : Nat := if crc % 2 = 1 then (crc / 2) ^^^ poly else crc / 2

/-- One byte of a reflected CRC. -/
def crcByte (poly crc b : Nat) : Nat := (List.range 8).foldl (fun a _ => crcBit poly a) (crc ^^^ b)

/-- CRC64 of R125. -/
def crc64 (bs : List Byte) : Nat :=
  (bs.foldl (fun a b => crcByte 0xC96C5795D7870F42 a b.toNat) (2 ^ 64 - 1)) ^^^ (2 ^ 64 - 1)

/-- CRC-32C with the parameters of RFC 3720 (R120). -/
def crc32c (bs : List Byte) : Nat :=
  (bs.foldl (fun a b => crcByte 0x82F63B78 a b.toNat) (2 ^ 32 - 1)) ^^^ (2 ^ 32 - 1)

/-- The packet's CRC64 matches its payload (R124). -/
def Packet.crcGood (p : Packet) : Bool := p.crc == crc64 p.payload

/-- Data blocks of a packet (R115). -/
def Packet.cells (p : Packet) : Nat := (32 + p.length + 255) / 256

end Sys2Proof

namespace Sys2Proof.Machine

open Sys2Proof

/-! ### Log, free values -/

/-- Add to the log of what left the part. -/
def Chip.log (x : Sent) (c : Chip) : Chip := { c with sent := x :: c.sent }

/-- The next free value and the part after drawing it. -/
def Chip.draw (c : Chip) : Nat × Chip := ((Config.freeWord c.free).toNat, { c with free := c.free + 1 })

/-! ### Time (R11, R12, R16, R21) -/

/-- Core cycles of a Deal. -/
def Chip.dealCycles (c : Chip) : Nat := 1024 * 2 ^ c.tb.period

/-- Deal period in ns. -/
def Chip.dealNs (c : Chip) : Nat := 512 * 2 ^ c.tb.period

/-- The current Deal number (R21). -/
def Chip.deal (c : Chip) : Nat := c.tb.ft / c.dealCycles % 2 ^ 48

/-- Core cycle within the Deal. -/
def Chip.cycle (c : Chip) : Nat := c.tb.ft % c.dealCycles

/-- Within the guard, the last 64 core cycles of a Deal (R12). -/
def Chip.inGuard (c : Chip) : Bool := decide (c.dealCycles ≤ c.cycle + 64)

/-- The Deal at whose boundary a change accepted now takes effect (R16). -/
def Chip.effectDeal (c : Chip) : Nat := (c.deal + if c.inGuard then 2 else 1) % 2 ^ 48

/-- FT in ns and its seconds and nanoseconds. -/
def Chip.ftNs (c : Chip) : Nat := c.tb.ft / 2

def Chip.ftSec (c : Chip) : Nat := c.tb.ft / 2000000000 % 2 ^ 48

def Chip.ftSubNs (c : Chip) : Nat := c.tb.ft / 2 % 1000000000

/-- A target Deal has come, in numbers that wrap at 2^48. -/
def Chip.reached (c : Chip) (d : Nat) : Bool := decide ((c.deal + 2 ^ 48 - d % 2 ^ 48) % 2 ^ 48 < 2 ^ 47)

/-- The Deal `n` before the current one. -/
def Chip.dealBefore (c : Chip) (n : Nat) : Nat := (c.deal + 2 ^ 48 - n) % 2 ^ 48

/-- A Deal that a command names is not at least 2 after the current one (LATE). DESIGN CHOICE: of the numbers, which wrap at 2^48,
those up to 2^47 ahead lie in the future. -/
def Chip.tooLate (c : Chip) (d : Nat) : Bool :=
  decide ((d + 2 ^ 48 - c.deal) % 2 ^ 48 < 2) || decide (2 ^ 47 ≤ (d + 2 ^ 48 - c.deal) % 2 ^ 48)

/-- Core cycles from now to the next Deal boundary. -/
def Chip.toBoundary (c : Chip) : Nat := c.dealCycles - c.cycle

/-- Schedule a change for a Deal boundary. -/
def Chip.schedule (deal : Nat) (x : Change) (c : Chip) : Chip := { c with due := c.due ++ [(deal, x)] }

/-! ### Registers' counters and sticky bits (R468) -/

/-- Offset of a BAR2 register in the counter table. -/
def bar2 (off : Nat) : Nat := 2 ^ 27 + off

/-- A counter field: register offset, lowest bit, width, and the bit of its sticky bit. -/
structure CtrField where
  off : Nat
  lsb : Nat
  width : Nat
  ovfBit : Nat

/-- Key of a counter field. -/
def CtrField.key (f : CtrField) : Nat := 64 * f.off + f.lsb

/-- Value of a counter field. -/
def Chip.count (f : CtrField) (c : Chip) : Nat := (Tab.get {} f.key c.regs.ctr).val

/-- Count `n` more in core cycle `now`, wrapping to zero past the largest value and then setting the sticky bit (R468). -/
def Ctr.bump (f : CtrField) (n now : Nat) (x : Ctr) : Ctr :=
  let wraps := decide (2 ^ f.width ≤ x.val + n)
  { width := f.width, val := (x.val + n) % 2 ^ f.width, ovf := x.ovf || wraps, ovfBit := f.ovfBit
    setAt := (if wraps then some now else x.setAt) }

/-- Count `n` occurrences in a counter field. -/
def Chip.bump (f : CtrField) (n : Nat) (c : Chip) : Chip :=
  if n = 0 then c
  else { c with regs := { c.regs with ctr := Tab.put f.key (Ctr.bump f n c.tb.age (Tab.get {} f.key c.regs.ctr)) c.regs.ctr } }

/-- Set a sticky bit that stands alone. -/
def Chip.stick (off bit : Nat) (c : Chip) : Chip :=
  let x : Ctr := { width := 0, val := 0, ovf := true, ovfBit := bit, setAt := some c.tb.age }
  { c with regs := { c.regs with ctr := Tab.put (64 * off + bit) x c.regs.ctr } }

/-- A sticky bit is set. -/
def Chip.stuck (off bit : Nat) (c : Chip) : Bool :=
  c.regs.ctr.any (fun e => e.1 / 64 == off && e.2.ovfBit == bit && e.2.ovf)

/-- Image of the counters and sticky bits of a register. -/
def Chip.ctrImage (off : Nat) (c : Chip) : Nat :=
  c.regs.ctr.foldl (fun a e => if e.1 / 64 = off then a ||| (e.2.val * 2 ^ (e.1 % 64)) ||| (b2n e.2.ovf * 2 ^ e.2.ovfBit) else a) 0

/-- Write ones to the W1C sticky bits of a register (R8). A bit that hardware sets in this core cycle reads 1 after it
(R9). -/
def Chip.clearSticky (off mask : Nat) (c : Chip) : Chip :=
  let clear (e : Nat × Ctr) :=
    if e.1 / 64 = off ∧ bitAt mask e.2.ovfBit = true ∧ e.2.setAt ≠ some c.tb.age then (e.1, { e.2 with ovf := false }) else e
  { c with regs := { c.regs with ctr := c.regs.ctr.map clear } }

/-- Hardware clears one of its own bits. -/
def Chip.unstick (off bit : Nat) (c : Chip) : Chip :=
  let clear (e : Nat × Ctr) := if e.1 / 64 = off ∧ e.2.ovfBit = bit then (e.1, { e.2 with ovf := false }) else e
  { c with regs := { c.regs with ctr := c.regs.ctr.map clear } }

/-- Clear every counter field and sticky bit of a register, as a snapshot with CLEAR does (R473). -/
def Chip.clearCounters (off : Nat) (c : Chip) : Chip :=
  { c with regs := { c.regs with ctr := c.regs.ctr.filter (fun e => e.1 / 64 ≠ off) } }

/-- Count `n` occurrences of a source in the programmable counters of a block (R477, R478): `filt` is the
port or Loom, `cls` the class, each `none` where the source has none. -/
def Chip.occur (block src : Nat) (filt cls : Option Nat) (n : Nat) (c : Chip) : Chip :=
  let hit (p : ProgCtr) : Bool :=
    p.en && p.src == src &&
      (match filt with | none => true | some f => p.filter == 0xFFF || p.filter == f) &&
      (match cls with | none => true | some k => bitAt p.classes k)
  let step (e : Nat × ProgCtr) : Nat × ProgCtr :=
    if e.1 / 8 = block ∧ hit e.2 then
      let v := (e.2.count + n) % 2 ^ 48
      (e.1, { e.2 with count := v, armed := e.2.armed || decide (v < e.2.thresh) })
    else e
  let wraps := c.regs.prog.filter (fun e => e.1 / 8 == block && hit e.2 && decide (2 ^ 48 ≤ e.2.count + n))
  wraps.foldl (fun c e => c.stick (0x03B00100 + 0x1000 * block + 8 * (e.1 % 8)) 48)
    { c with regs := { c.regs with prog := c.regs.prog.map step } }

/-! ### Time passing (R20, R52) -/

/-- Loom cycles and Steward cycles at a count of core cycles (R52). A variant without Looms holds their clock stopped. -/
def loomClock (n : Nat) : Nat := n * 6 / 5

def stewardClock (n : Nat) : Nat := n * 4 / 5

/-- Counters of block clock cycles count on (R478 source 0x10): the Steward's by `age`, the others by `lt`. -/
def Chip.countClocks (age lt : Nat) (c : Chip) : Chip :=
  if c.regs.prog = [] then c
  else
    let loom := if c.fuses.variant = 3 then 0 else loomClock (c.tb.lt + lt) - loomClock c.tb.lt
    let stew := stewardClock (c.tb.age + age) - stewardClock c.tb.age
    ((((c.occur 0 0x10 none none lt).occur 1 0x10 none none lt).occur 2 0x10 none none loom).occur 3 0x10 none none loom).occur 4 0x10
      none none stew

/-- Whole core cycles that a base gains over `n` at a frequency `rate`, from the fraction carried. -/
def gained (rate frac : Int) (n : Nat) : Int := (frac + rate * Int.ofNat n) / 1000000000

/-- The fraction carried after it. -/
def carried (rate frac : Int) (n : Nat) : Int := (frac + rate * Int.ofNat n) % 1000000000

/-- PT runs on for `n` core cycles of the Steward's time, at its own frequency (R32). -/
def TimeBase.runPt (n : Nat) (t : TimeBase) : TimeBase :=
  if t.ptRunning then
    { t with pt := (Int.ofNat (t.pt + n) + gained t.ptRate t.ptFrac n).toNat, ptFrac := carried t.ptRate t.ptFrac n }
  else t

/-- DEAL_OUT is high: for 64 core cycles from ADVANCE core cycles before a boundary on (R37). -/
def Chip.dealOutPin (c : Chip) : Bool :=
  c.tb.dealOutEn && (decide (c.toBoundary ≤ c.tb.dealOutAdvance) || decide (c.cycle + c.tb.dealOutAdvance < 64))

/-- FT moves on by `n` within a Deal; DEAL_OUT rises where its instant is passed (R37). -/
def Chip.pulse (n : Nat) (c : Chip) : Chip :=
  let a := c.tb.dealOutAdvance
  if c.tb.dealOutEn ∧ 0 < a ∧ a < c.toBoundary ∧ c.toBoundary ≤ a + n then c.log (.dealOut ((c.deal + 1) % 2 ^ 48) a) else c

/-- FT moves on by `ft` core cycles while `lt` pass on the core clock. -/
def Chip.pass (ft lt : Nat) (c : Chip) : Chip :=
  let c := (c.countClocks lt lt).pulse ft
  { c with tb := TimeBase.runPt lt { c.tb with
      ft := c.tb.ft + ft
      lt := (c.tb.lt + lt) % 2 ^ 64
      st := c.tb.st + ft
      age := c.tb.age + lt } }

/-- Core cycles of LT in which FT moves on by `n`: FT runs at its own frequency (R20, R25). -/
def Chip.ltFor (c : Chip) (n : Nat) : Nat := (Int.ofNat n - gained c.tb.ftRate c.tb.ftFrac n).toNat

/-- FT moves on by `n` core cycles while the part runs, the other bases with it. -/
def Chip.advance (n : Nat) (c : Chip) : Chip :=
  let t := c.pass n (c.ltFor n)
  { t with tb := { t.tb with ftFrac := carried c.tb.ftRate c.tb.ftFrac n } }

/-- Fabric time moves on to a core cycle of this Deal, if that is still to come. -/
def Chip.advanceTo (cycle : Nat) (c : Chip) : Chip := if c.cycle < cycle then c.advance (cycle - c.cycle) else c

/-- `n` core cycles pass while the part is frozen: only the Steward's clocks run (R52). -/
def Chip.advanceFrozen (n : Nat) (c : Chip) : Chip :=
  let c := c.countClocks n 0
  { c with tb := TimeBase.runPt n { c.tb with age := c.tb.age + n } }

/-! ### Pages of HBM (R372, R386) -/

/-- HBM stack site of a local page (R372). -/
def Chip.siteOfPage (c : Chip) (h q : Nat) : Nat :=
  let sites := (c.lard.half.get h).sites
  sites.getD (q % max 1 sites.length) 0

/-- The page is dead: its stack has been retired (R386). -/
def Chip.deadPage (c : Chip) (h q : Nat) : Bool := bitAt c.lard.retired (c.siteOfPage h q)

/-- Dead pages among the `n` from `a` on. -/
def Chip.deadIn (c : Chip) (h a n : Nat) : Nat :=
  let s := (c.lard.half.get h).sites.length
  let below (x r : Nat) : Nat := (x + s - 1 - r) / s
  ((List.range s).filter (fun r => c.deadPage h r)).foldl (fun t r => t + (below (a + n) r - below a r)) 0

/-! ### MSI-X and events (R430, R448 to R452, R483 to R486) -/

/-- Signal an MSI-X vector; a masked one, or one signalled in D3hot or with PERST_N asserted, waits in the
pending bit array. -/
def Chip.signal (v : Nat) (c : Chip) : Chip :=
  if bitAt c.stew.pcie.vecMasked v || c.stew.pcie.d3hot || c.stew.pcie.perst then
    { c with stew := { c.stew with pcie := { c.stew.pcie with vecPending := c.stew.pcie.vecPending ||| 2 ^ v } } }
  else c.log (.msix v)

/-- The four words of a record (R448). -/
def EventRecord.words (r : EventRecord) : List Nat :=
  [field r.code 48 16 + field r.cls 40 8 + field r.phase 32 1 + r.eseq % 2 ^ 32, r.deal % 2 ^ 48,
    r.args % 2 ^ 64, r.args / 2 ^ 64]

/-- Replace the event state. -/
def Chip.setEvents (e : Events) (c : Chip) : Chip := { c with stew := { c.stew with events := e } }

/-- The ring is set and has room for a record (R449, R450). -/
def Events.room (e : Events) : Bool := e.ringSet && decide ((e.prod + 2 ^ 32 - e.cons) % 2 ^ 32 < 2 ^ e.log2)

/-- Write a record into the next ring entry, raise EV_PROD, and see to vector 16 (R449, R451). -/
def Chip.writeRing (r : EventRecord) (c : Chip) : Chip :=
  let e := c.stew.events
  let r := { r with phase := 1 - e.prod / 2 ^ e.log2 % 2 }
  let fires := e.modUs = 0 ∨ (match e.lastVec16 with | none => true | some t => decide (t + e.modUs * 2000 ≤ c.tb.age)) = true
  let c := (c.log (.hostWrite (e.addr + 32 * (e.prod % 2 ^ e.log2)) r.words)).setEvents
    { e with prod := (e.prod + 1) % 2 ^ 32, ring := e.ring ++ [r], unsignalled := !decide fires
             lastVec16 := if fires then some c.tb.age else e.lastVec16 }
  if fires then c.signal 16 else c

/-- Move records from the die to the ring while it has room; at most `n` of them. -/
def Chip.drainDie : Nat → Chip → Chip
  | 0, c => c
  | n + 1, c =>
    match c.stew.events.die with
    | [] => c
    | r :: rest =>
      if c.stew.events.room && c.stew.phase != .restarting then
        Chip.drainDie n (({ c with stew := { c.stew with events := { c.stew.events with die := rest } } }).writeRing r)
      else c

/-- EV_STAT.LOST (R450). -/
def evLost : CtrField := ⟨bar2 0x40010, 17, 32, 49⟩

/-- Store a record: in the ring, else on the die, else lost (R450). -/
def Chip.storeRecord (r : EventRecord) (c : Chip) : Chip :=
  let e := c.stew.events
  if e.die = [] ∧ e.room = true ∧ c.stew.phase ≠ .restarting then c.writeRing r
  else if e.die.length < 1024 then c.setEvents { e with die := e.die ++ [r] }
  else (c.occur 4 0x03 none none 1).bump evLost 1

/-- Pack event arguments from bit 0 upward, each with its width (R483). -/
def packArgs : List (Nat × Nat) → Nat
  | [] => 0
  | (w, v) :: t => v % 2 ^ w + 2 ^ w * packArgs t

/-- Write one record of a code: its sequence number, the forwarding copy, its place (R448, R452). -/
def Chip.record (code cls args : Nat) (c : Chip) : Chip :=
  let e := c.stew.events
  let r : EventRecord := { code := code, cls := cls, phase := 0, eseq := e.eseq, deal := c.deal, args := args }
  let fwd := if e.fwdEn ∧ bitAt e.fwdMask cls then e.fwdWaiting ++ [r] else e.fwdWaiting
  (c.setEvents { e with eseq := (e.eseq + 1) % 2 ^ 32, fwdWaiting := fwd }).storeRecord r

/-- Raise an event: vectors 17 and 18 with each raise, a record unless its code has been raised 64 times in
this Deal (R430, R485). -/
def Chip.raise (code cls : Nat) (args : List (Nat × Nat)) (c : Chip) : Chip :=
  let e := c.stew.events
  let n := Tab.get 0 code e.raised
  let c := (c.setEvents { e with raised := Tab.put code (n + 1) e.raised }).occur 4 0x02 none none 1
  let c := if n < 64 then c.record code cls (packArgs args) else c
  let c := if cls = 4 then c.signal 17 else c
  if code = 0x1002 then c.signal 18 else c

/-- Records of the codes raised more than 64 times in the Deal that ends, and a new count (R485). -/
def Chip.coalesce (c : Chip) : Chip :=
  let past := c.stew.events.raised.filter (fun e => decide (64 < e.2))
  past.foldl (fun c e => c.record 0x1104 0 (packArgs [(16, e.1), (32, e.2 - 64)]))
    (c.setEvents { c.stew.events with raised := [] })

/-- ALERT_N is low: an alert-class record is on the die or in the ring at or beyond EV_CONS (R450). -/
def Chip.alert (c : Chip) : Bool :=
  c.stew.events.die.any (fun r => r.cls == 4) || c.stew.events.ring.any (fun r => r.cls == 4)

/-! ### How a meaning runs -/

/-- A command whose operands are well formed (`ok`, as Instr.wf has it) acts on the part and leaves the queue
of waiting commands as it is. -/
def State.run (ok : Bool) (f : Chip → Chip) (s : State) : Host.Outcome State Fault Refusal :=
  if ok then .next { s with chip := f s.chip } else .refused .illFormed

/-- Nothing takes place while RESET_N holds the part (R510). -/
def Chip.live (f : Chip → Chip) (c : Chip) : Chip := if c.pkg.held then c else f c

/-- Nothing in the 97 stopped domains takes place once a freeze is accepted (R487). -/
def Chip.fabric (f : Chip → Chip) (c : Chip) : Chip := if c.pkg.held || c.regs.freeze.accepted then c else f c

end Sys2Proof.Machine
end

