-- ==== Sys2Proof/Machine/Numbers.lean ====
section
/-! DEFINITION. Numbers of the Looms and of Kitty control: exact values, rounding, the element formats of R281
and their conversions (R239, R240, R280 to R287). -/

namespace Sys2Proof.Machine

open Sys2Proof

/-- A value of a floating-point format: a finite one is ± m × 2^e. -/
inductive Num where
  | nan
  | inf (neg : Bool)
  | fin (neg : Bool) (m : Nat) (e : Int)
  deriving DecidableEq, Repr

/-- How a conversion rounds (R284); `sr` carries its 24-bit draw. -/
inductive Rounding where
  | nearest
  | zero
  | sr (draw : Nat)
  deriving DecidableEq, Repr

/-- A binary format: exponent bits, fraction bits, bias. -/
structure FloatFmt where
  exp : Nat
  man : Nat
  bias : Nat
  deriving DecidableEq, Repr

def fp32 : FloatFmt := ⟨8, 23, 127⟩
def bf16 : FloatFmt := ⟨8, 7, 127⟩

/-- The MX element formats by code (R281). -/
def mxFmt (code : Nat) : FloatFmt :=
  match code with
  | 2 => ⟨4, 3, 7⟩
  | 3 => ⟨5, 2, 15⟩
  | 4 => ⟨3, 2, 3⟩
  | 5 => ⟨2, 3, 1⟩
  | _ => ⟨2, 1, 1⟩

/-- Width in bits of an element format (R281). -/
def fmtBits (code : Nat) : Nat :=
  match code with
  | 0 => 32 | 1 => 16 | 2 => 8 | 3 => 8 | 4 => 6 | 5 => 6 | 6 => 4 | 7 => 8 | _ => 32

/-- Largest normal of an MX element format, as m × 2^e (R281). -/
def mxMax (code : Nat) : Nat × Int :=
  match code with
  | 2 => (14, 5) | 3 => (7, 13) | 4 => (7, 2) | 5 => (15, -1) | _ => (3, 1)

/-- emax of R285. -/
def mxEmax (code : Nat) : Int := match code with | 2 => 8 | 3 => 15 | 4 => 4 | _ => 2

/-- Exponent of the least significant bit of a format's subnormals. -/
def FloatFmt.emin (f : FloatFmt) : Int := 1 - (f.bias : Int) - (f.man : Int)

/-- The finite value of a bit pattern. -/
def FloatFmt.finite (f : FloatFmt) (bits : Nat) : Num :=
  let m := bits % 2 ^ f.man
  let x := bits / 2 ^ f.man % 2 ^ f.exp
  let neg := bitAt bits (f.exp + f.man)
  if x = 0 then .fin neg m f.emin else .fin neg (m + 2 ^ f.man) (f.emin + x - 1)

/-- An IEEE 754 pattern (FP32, BF16, E5M2). -/
def FloatFmt.ieee (f : FloatFmt) (bits : Nat) : Num :=
  let x := bits / 2 ^ f.man % 2 ^ f.exp
  if x + 1 = 2 ^ f.exp then (if bits % 2 ^ f.man = 0 then .inf (bitAt bits (f.exp + f.man)) else .nan) else f.finite bits

/-- The value of FP32 bits. -/
def ofF32 (bits : Nat) : Num := fp32.ieee (bits % 2 ^ 32)

/-- The element value of a floating-point format's bits, scale apart (R281). -/
def ofElement (code bits : Nat) : Num :=
  match code with
  | 0 => fp32.ieee bits
  | 1 => bf16.ieee bits
  | 2 => if bits % 128 = 127 then .nan else (mxFmt 2).finite bits
  | 3 => (mxFmt 3).ieee bits
  | n => (mxFmt n).finite bits

/-- A magnitude m × 2^e rounded to multiples of 2^E. -/
def roundAt (r : Rounding) (m : Nat) (e E : Int) : Nat :=
  if E ≤ e then m * 2 ^ (e - E).toNat
  else
    let d := (E - e).toNat
    let q := m / 2 ^ d
    let rest := m % 2 ^ d
    match r with
    | .nearest => if 2 ^ d < 2 * rest ∨ (2 * rest = 2 ^ d ∧ q % 2 = 1) then q + 1 else q
    | .zero => q
    | .sr draw => if draw < rest * 2 ^ 24 / 2 ^ d then q + 1 else q

/-- Exponent of the last place that keeps `p` bits of m × 2^e, not below `emin`. -/
def lastPlace (p : Nat) (emin : Int) (m : Nat) (e : Int) : Int := max emin (e + Nat.log2 m + 1 - p)

/-- Bits of q × 2^E in a format, q at most 2^p. -/
def FloatFmt.pack (f : FloatFmt) (neg : Bool) (q : Nat) (E : Int) : Nat :=
  let s := b2n neg * 2 ^ (f.exp + f.man)
  if q < 2 ^ f.man then s + q else s + ((E - f.emin).toNat * 2 ^ f.man + q)

/-- Bits of ±Inf. -/
def FloatFmt.infBits (f : FloatFmt) (neg : Bool) : Nat := b2n neg * 2 ^ (f.exp + f.man) + (2 ^ f.exp - 1) * 2 ^ f.man

/-- A value rounded to FP32 or BF16 (R240, R284, R286, R287). -/
def FloatFmt.round (f : FloatFmt) (r : Rounding) : Num → Nat
  | .nan => f.infBits false + 2 ^ (f.man - 1)
  | .inf neg => f.infBits neg
  | .fin neg m e =>
    if m = 0 then f.pack neg 0 f.emin
    else
      let E := lastPlace (f.man + 1) f.emin m e
      let q := roundAt r m e E
      let bits := f.pack neg q E
      if f.infBits neg ≤ bits then (if r = .zero then f.infBits neg - 1 else f.infBits neg) else bits

/-- FP32 bits, rounded to nearest-even. -/
def toF32 (x : Num) : Nat := fp32.round .nearest x

def Num.isNan : Num → Bool | .nan => true | _ => false

def Num.isInf : Num → Bool | .inf _ => true | _ => false

def Num.isZero : Num → Bool | .fin _ 0 _ => true | _ => false

/-- The sign bit; false of a NaN. -/
def Num.neg : Num → Bool | .nan => false | .inf n => n | .fin n _ _ => n

/-- The value as a multiple of 2^E, for E at most its exponent. -/
def signedAt (E : Int) (neg : Bool) (m : Nat) (e : Int) : Int := (if neg then -1 else 1) * (m * 2 ^ (e - E).toNat : Nat)

/-- Exact sum (R240, R287): a zero sum of two values of unlike sign is +0. -/
def Num.add : Num → Num → Num
  | .nan, _ => .nan
  | _, .nan => .nan
  | .inf a, .inf b => if a = b then .inf a else .nan
  | .inf a, _ => .inf a
  | _, .inf b => .inf b
  | .fin na a ea, .fin nb b eb =>
    let E := min ea eb
    let s := signedAt E na a ea + signedAt E nb b eb
    if s = 0 then .fin (na && nb) 0 E else .fin (decide (s < 0)) s.natAbs E

def Num.negate : Num → Num | .nan => .nan | .inf n => .inf !n | .fin n m e => .fin (!n) m e

def Num.sub (a b : Num) : Num := a.add b.negate

/-- Exact product (R287). -/
def Num.mul : Num → Num → Num
  | .nan, _ => .nan
  | _, .nan => .nan
  | .inf a, .inf b => .inf (a != b)
  | .inf a, .fin b m _ => if m = 0 then .nan else .inf (a != b)
  | .fin a m _, .inf b => if m = 0 then .nan else .inf (a != b)
  | .fin na a ea, .fin nb b eb => .fin (na != nb) (a * b) (ea + eb)

/-- a < b of two values that are not NaN. -/
def Num.lt : Num → Num → Bool
  | .inf a, .inf b => a && !b
  | .inf a, _ => a
  | _, .inf b => !b
  | .fin na a ea, .fin nb b eb => let E := min ea eb; decide (signedAt E na a ea < signedAt E nb b eb)
  | _, _ => false

/-- Square root, with enough bits and a sticky one for a correct rounding; −0 of −0 (R280, R287). -/
def Num.sqrt : Num → Num
  | .nan => .nan
  | .inf n => if n then .nan else .inf false
  | .fin n m e =>
    if m = 0 then .fin n 0 e
    else if n then .nan
    else
      let (m, e) := if e % 2 = 0 then (m, e) else (2 * m, e - 1)
      let x := m * 2 ^ 64
      let s := Nat.sqrt x
      .fin false (2 * s + b2n (decide (s * s < x))) (e / 2 - 33)

/-- The FP32 value of an integer. -/
def ofInt (v : Int) : Num := .fin (decide (v < 0)) v.natAbs 0

/-- Flags that a result sets: NAN in bit 0, INF in bit 1 (R287). -/
def flagsOf (bits : Nat) : Nat := match ofF32 bits with | .nan => 1 | .inf _ => 2 | _ => 0

/-! ### Values within a bound of the exact one (R280, R317)

An exact value that no format holds is enclosed between two multiples of 2^e. The result is one of the FP32 values within the
bound of it, and a free value says which. FP32 values are counted in their order, 0 at zero, so that neighbours differ by 1. -/

/-- An exact value lies between `lo` × 2^e and `hi` × 2^e. -/
structure Enclosed where
  lo : Int
  hi : Int
  e : Int
  deriving DecidableEq, Repr

/-- Place of the largest FP32 magnitude at or below m × 2^e, 2^128 standing for infinity. -/
def placeBelow (m : Nat) (e : Int) : Nat := if 0 < m ∧ 128 ≤ e + Nat.log2 m then fp32.infBits false else fp32.round .zero (.fin false m e)

/-- Place of the smallest FP32 magnitude at or above m × 2^e. -/
def placeAbove (m : Nat) (e : Int) : Nat :=
  let p := placeBelow m e
  if p < fp32.infBits false ∧ (ofF32 p).lt (.fin false m e) then p + 1 else p

/-- Place of the largest FP32 value at or below v × 2^e, and of the smallest at or above. -/
def floorPlace (v e : Int) : Int := if 0 ≤ v then placeBelow v.natAbs e else -placeAbove v.natAbs e

def ceilPlace (v e : Int) : Int := -floorPlace (-v) e

/-- Exponent of the last place of v × 2^e in FP32. -/
def ulpExp (v e : Int) : Int := if v = 0 then fp32.emin else lastPlace 24 fp32.emin v.natAbs e

/-- The first and the last place within `k` units in the last place of an enclosed value. -/
def placesNear (k : Nat) (y : Enclosed) : Int × Int :=
  let u := max (ulpExp y.lo y.e) (ulpExp y.hi y.e)
  let e := min u y.e
  let off (v d : Int) : Int := v * 2 ^ (y.e - e).toNat + d * 2 ^ (u - e).toNat
  (ceilPlace (off y.lo (-k)) e, floorPlace (off y.hi k) e)

/-- The place between two that a free value picks. -/
def pickPlace (a b : Int) (free : Nat) : Int := a + ((free % ((b - a).toNat + 1) : Nat) : Int)

/-- FP32 bits of the value at a place. -/
def placeBits (p : Int) : Nat := if p < 0 then 2 ^ 31 + p.natAbs else p.natAbs

/-- The FP32 value within `k` units in the last place of an enclosed one that a free value picks. -/
def near (k : Nat) (y : Enclosed) (free : Nat) : Nat := placeBits (pickPlace (placesNear k y).1 (placesNear k y).2 free)

/-- 1 / (m × 2^e). -/
def encloseRecip (neg : Bool) (m : Nat) (e : Int) : Enclosed :=
  let q : Int := (2 ^ 128 / m : Nat)
  let r : Int := q + if 2 ^ 128 % m = 0 then 0 else 1
  if neg then ⟨-r, -q, -128 - e⟩ else ⟨q, r, -128 - e⟩

/-- 1 / √(m × 2^e). -/
def encloseRsqrt (m : Nat) (e : Int) : Enclosed :=
  let (m, e) := if e % 2 = 0 then (m, e) else (2 * m, e - 1)
  let q := Nat.sqrt (2 ^ 256 / m)
  ⟨q, if q * q * m = 2 ^ 256 then q else q + 1, -128 - e / 2⟩

/-- 2^(f / 2^n) as a multiple of 2^(-128), from below: `r` is 2^(1 / 2^k) for the bit k = 96 - n of the fraction, and `acc` the
product so far. -/
def expBits : Nat → Nat → Nat → Nat → Nat
  | 0, _, _, acc => acc
  | n + 1, r, f, acc =>
    let r := Nat.sqrt (r * 2 ^ 128)
    expBits n r f (if f.testBit n then acc * r / 2 ^ 128 else acc)

/-- 2^(x / 2^96) times 2^`s`, rounded down; its relative error is below 2^(-112). -/
def expFloor (s : Nat) (x : Int) : Nat :=
  let m := expBits 96 (2 ^ 129) (x % 2 ^ 96).toNat (2 ^ 128)
  let d := x / 2 ^ 96 + s - 128
  if 0 ≤ d then m * 2 ^ d.toNat else m / 2 ^ (-d).toNat

/-- m × 2^e as a multiple of 2^(-96), rounded down, and whether it is one. -/
def fix96 (neg : Bool) (m : Nat) (e : Int) : Int × Bool :=
  let v := signedAt 0 neg m 0
  if -96 ≤ e then (v * 2 ^ (e + 96).toNat, true) else (v / 2 ^ (-96 - e).toNat, decide (v % 2 ^ (-96 - e).toNat = 0))

/-- A rounded-down power and what it may be below the exact one. -/
def powerTop (q : Nat) : Nat := q + q / 2 ^ 90 + 1

/-- 2^x. -/
def encloseExp2 (neg : Bool) (m : Nat) (e : Int) : Enclosed :=
  let (x, exact) := fix96 neg m e
  let q := expFloor 256 x
  if exact ∧ x % 2 ^ 96 = 0 then ⟨q, q, -256⟩ else ⟨q, powerTop q, -256⟩

/-- `n` binary digits of log2 of `v` / 2^128, which is at least 1 and below 2, after those in `acc`. -/
def logBits : Nat → Nat → Nat → Nat
  | 0, _, acc => acc
  | n + 1, v, acc =>
    let w := v * v / 2 ^ 128
    if 2 ^ 129 ≤ w then logBits n (w / 2) (2 * acc + 1) else logBits n w (2 * acc)

/-- log2 of m × 2^e. -/
def encloseLog2 (m : Nat) (e : Int) : Enclosed :=
  let n := Nat.log2 m
  let q : Int := (e + n) * 2 ^ 96 + (logBits 96 (m * 2 ^ 128 / 2 ^ n) 0 : Nat)
  ⟨q, if m = 2 ^ n then q else q + 2, -96⟩

/-- Results within 2 ulp (R280): `fn` 0x0B recip, 0x0C rsqrt, 0x0D exp2, 0x0E log2, with the special values of R287. rsqrt of a
negative value has no stated result. -/
def approxFn (fn bits : Nat) : Nat :=
  let x := ofF32 bits
  let own := (Config.approx fn (BitVec.ofNat 32 bits)).toNat
  match x with
  | .nan => toF32 .nan
  | .inf n =>
    match fn with
    | 0x0B => toF32 (.fin n 0 0)
    | 0x0C => if n then own else toF32 (.fin false 0 0)
    | 0x0D => if n then toF32 (.fin false 0 0) else toF32 (.inf false)
    | _ => if n then toF32 .nan else toF32 (.inf false)
  | .fin n m e =>
    match fn with
    | 0x0B => if m = 0 then toF32 (.inf n) else near 2 (encloseRecip n m e) own
    | 0x0C => if m = 0 then toF32 (.inf n) else if n then own else near 2 (encloseRsqrt m e) own
    | 0x0D =>
      if (Num.fin false 128 0).lt x || x == .fin false 128 0 then toF32 (.inf false)
      else if x.lt (.fin true 150 0) then toF32 (.fin false 0 0) else near 2 (encloseExp2 n m e) own
    | _ => if m = 0 then toF32 (.inf true) else if n then toF32 .nan else near 2 (encloseLog2 m e) own

/-- log2 of e, as a multiple of 2^(-128), rounded down. -/
def log2e : Nat := 490923683258796565746369346286093237521

/-- exp of a difference of at most 0, as multiples of 2^(-256) below and above it; 0 of −Inf. -/
def encloseExp : Num → Nat × Nat
  | .fin n m e =>
    if m = 0 then (2 ^ 256, 2 ^ 256)
    else if (Num.fin n m e).lt (.fin true 256 0) then (0, 1)
    else
      let x := (fix96 n (m * log2e) (e - 128)).1
      (expFloor 256 (x - 1), powerTop (expFloor 256 (x + 1)))
  | _ => (0, 0)

/-- exp(v − v0) over the sum of those of `first` (R317). -/
def encloseSoft (v0 v : Num) (first : List Num) : Enclosed :=
  let of (w : Num) : Nat × Nat := encloseExp (w.sub v0)
  let lo := (first.map (fun w => (of w).1)).foldl (· + ·) 0
  let hi := (first.map (fun w => (of w).2)).foldl (· + ·) 0
  ⟨((of v).1 * 2 ^ 256 / hi : Nat), (((of v).2 * 2 ^ 256 + lo - 1) / lo : Nat), -256⟩

/-! ### Blocks of MX elements (R281, R285) -/

/-- The value of an MX element with its block's scale. -/
def scaled (code bits x : Nat) : Num :=
  if x = 0xFF then .nan
  else
    match ofElement code bits with
    | .fin n m e => .fin n m (e + x - 127)
    | v => v

/-- floor(log2) of a nonzero finite value. -/
def floorLog2 : Num → Int | .fin _ m e => Nat.log2 m + e | _ => 0

/-- The scale of a block of FP32 values (R285). -/
def blockScale (code : Nat) (vs : List Num) : Nat :=
  if vs.any (fun v => v.isNan || v.isInf) then 0xFF
  else
    let big := vs.filter (fun v => !v.isZero)
    match big with
    | [] => 0
    | v :: rest =>
      let top := rest.foldl (fun a w => max a (floorLog2 w)) (floorLog2 v)
      (min (max (top - mxEmax code + 127) 0) 254).toNat

/-- One element of a block with scale `x`: rounded and clamped to ± the largest normal (R285). -/
def blockElement (code x : Nat) (r : Rounding) (v : Num) : Nat :=
  let f := mxFmt code
  match v with
  | .fin n m e =>
    if x = 0xFF ∨ m = 0 then f.pack (n && x != 0xFF) 0 f.emin
    else
      let e := e - x + 127
      let E := lastPlace (f.man + 1) f.emin m e
      let q := roundAt r m e E
      let (mm, me) := mxMax code
      if (Num.fin false mm me).lt (.fin false q E) then f.pack n (mm * 2 ^ (f.man + 1 - (Nat.log2 mm + 1))) (me - (f.man + 1 - (Nat.log2 mm + 1) : Nat))
      else f.pack n q E
  | _ => 0

/-- FP32 (or an INT32 held exactly) to INT8 with saturation: the byte and whether SAT is set (R286). -/
def toInt8 (r : Rounding) : Num → Nat × Bool
  | .nan => (0, true)
  | .inf n => (if n then 128 else 127, true)
  | .fin n m e =>
    let q := roundAt r m e 0
    if n then (if 128 < q then (128, true) else (ofSigned (-(q : Int)) 8, false))
    else if 127 < q then (127, true) else (q, false)

/-- The element bits at index `i` of a packed row: FP4 two to a byte, FP6 four to three bytes, others whole
bytes, least significant first (R279). -/
def elementAt (code : Nat) (byte : Nat → Nat) (i : Nat) : Nat :=
  match fmtBits code with
  | 4 => byte (i / 2) / 16 ^ (i % 2) % 16
  | 6 => (byte (i / 4 * 3) + 256 * byte (i / 4 * 3 + 1) + 65536 * byte (i / 4 * 3 + 2)) / 64 ^ (i % 4) % 64
  | 8 => byte i
  | 16 => byte (2 * i) + 256 * byte (2 * i + 1)
  | _ => byte (4 * i) + 256 * byte (4 * i + 1) + 65536 * byte (4 * i + 2) + 16777216 * byte (4 * i + 3)

/-- Elements of a format as bytes, packed as R279 stores them. -/
def packElements (code : Nat) (es : List Nat) : List Byte :=
  leBytes ((es.length * fmtBits code + 7) / 8) (es.foldr (fun x a => x % 2 ^ fmtBits code + 2 ^ fmtBits code * a) 0)

/-- A list cut into runs of `n`. -/
def chunksOf {α : Type} (n : Nat) : Nat → List α → List (List α)
  | 0, _ => []
  | _, [] => []
  | fuel + 1, l => l.take n :: chunksOf n fuel (l.drop n)

end Sys2Proof.Machine
end

