-- ==== Sys2Proof/Machine/Net.lean ====
section
/-! DEFINITION. Names, routes, queues and ports as shared operations: what a packet meets on its way through
a half (05_addresses_and_routes.md, 06_crossing_core.md), and what a port's leaving UP does (R108, R178). -/

namespace Sys2Proof.Machine

open Sys2Proof

/-! ### Ports and lanes -/

def Chip.port (c : Chip) (p : Nat) : Port := Tab.get {} p c.ports.port

def Chip.setPort (p : Nat) (v : Port) (c : Chip) : Chip :=
  { c with ports := { c.ports with port := Tab.set {} p v c.ports.port } }

def Chip.lane (c : Chip) (l : Nat) : Lane := Tab.get {} l c.light.lanes

def Chip.setLane (l : Nat) (v : Lane) (c : Chip) : Chip :=
  { c with light := { c.light with lanes := Tab.set {} l v c.light.lanes } }

/-- Half that owns a fabric or twin port, or the Span point 0x1000 + h. -/
def halfOf (p : Nat) : Nat := if p < 2048 then p / 1024 else if p < 0x1000 then (p - 0x800) / 2 else p - 0x1000

/-- Lot mode of the Lot of a fabric port (R102). -/
def Chip.lotMode (c : Chip) (p : Nat) : Nat := Tab.get 7 (p / 4) c.ports.lotMode

/-- Lanes a Lot mode gives the port that starts at lane `j` of the Lot; 0 where none starts (R102). -/
def modeWidth (mode j : Nat) : Nat :=
  match mode, j with
  | 0, 0 => 4
  | 1, 0 => 2 | 1, 2 => 2
  | 2, 0 => 2 | 2, 2 => 1 | 2, 3 => 1
  | 3, 0 => 1 | 3, 1 => 1 | 3, 2 => 2
  | 4, _ => 1
  | _, _ => 0

/-- Configured width of a port in lanes, 0 for no port at that number (R102, R132). -/
def Chip.cfgWidth (c : Chip) (p : Nat) : Nat :=
  if p < 2048 then modeWidth (c.lotMode p) (p % 4)
  else if p < 0x804 then (if c.ports.twinConfigured.get (halfOf p) then 4 else 0) else 0

/-- A configured port (R133). -/
def Chip.isPort (c : Chip) (p : Nat) : Bool := decide (0 < c.cfgWidth p)

/-- The lanes of a port with their bit in its lane masks (R119, R132). -/
def Chip.portLanes (c : Chip) (p : Nat) : List (Nat × Nat) :=
  if p < 2048 then (List.range (c.cfgWidth p)).map (fun i => (p + i, p % 4 + i))
  else (List.range (c.cfgWidth p)).map (fun i => (0x800 + 0x200 * halfOf p + 320 + 4 * (p % 2) + i, i))

/-- The port that a lane belongs to, if any (R102, R132). -/
def Chip.portOfLane (c : Chip) (l : Nat) : Option Nat :=
  if l < 2048 then
    ((List.range 4).map (fun j => l / 4 * 4 + j)).find? (fun p => decide (p ≤ l) && decide (l < p + c.cfgWidth p))
  else
    let h := (l - 0x800) / 0x200
    let j := (l - 0x800) % 0x200
    if 320 ≤ j ∧ c.ports.twinConfigured.get h then some (0x800 + 2 * h + (j - 320) / 4) else none

/-- Both sides of a lane are LOCKED (R78). -/
def Lane.usable (x : Lane) : Bool := x.tx.state == .locked && x.rx.state == .locked

/-- Lanes of a port usable at this end, as a mask (R103). -/
def Chip.hereMask (c : Chip) (p : Nat) : Nat :=
  ((c.portLanes p).filter (fun x => (c.lane x.1).usable)).foldl (fun a x => a + 2 ^ x.2) 0

/-- The lanes a port of configured width `w` runs on, given its usable lanes (R86). -/
def runMask (w mask : Nat) : Nat :=
  let ls := bitsSet 4 mask
  let n := if 4 ≤ w ∧ 4 ≤ ls.length then 4 else if 2 ≤ w ∧ 2 ≤ ls.length then 2 else if 1 ≤ w ∧ 1 ≤ ls.length then 1 else 0
  (ls.take n).foldl (fun a b => a + 2 ^ b) 0

/-- The lanes the port can run on now: usable at both ends (R86, R103). -/
def Chip.bothMask (c : Chip) (p : Nat) : Nat := runMask (c.cfgWidth p) (c.hereMask p &&& (c.port p).farLanes)

/-- The lanes that a live port takes: those of `bothMask` but for lanes whose LANE_JOIN has not reached its target (R113). While no
other is left it runs on one of those, since R109 takes no port down that has a usable lane. -/
def Chip.joinedMask (c : Chip) (p : Nat) : Nat :=
  let x := c.port p
  let waits := x.joinAt.foldl (fun a e => a ||| e.2.2) x.newFar
  let m := runMask (c.cfgWidth p) (maskDiff (c.hereMask p &&& x.farLanes) waits)
  if m = 0 then c.bothMask p else m

/-- Lanes in use of a port. -/
def Chip.runWidth (c : Chip) (p : Nat) : Nat := popcount 4 (c.port p).lanes

/-- A block time of a port in hundredths of a core cycle (R184). -/
def Chip.blockTime (c : Chip) (p : Nat) : Nat := if (c.port p).cls = 1 then 1118 else 1056

/-- Block times that a packet occupies on `w` lanes (R184). -/
def blockTimes (n w : Nat) : Nat := (n + w - 1) / w

/-- A port in this state passes traffic. -/
def LinkState.live : LinkState → Bool
  | .up | .resize | .disputed => true
  | _ => false

/-- The role of a port (R131, R132). -/
def Chip.roleOf (c : Chip) (p : Nat) : Nat := if 2048 ≤ p then 3 else (c.port p).role

/-- RUN_WIDTH of a port where packets are timed and compared by it: a twin port counts as 4 lanes (R172, R184). -/
def Chip.ctWidth (c : Chip) (p : Nat) : Nat := if 2048 ≤ p ∧ p < 0x804 then 4 else c.runWidth p

/-- Receive-direction delay of a port in ps: M − A / 2 (R444). -/
def Port.delayPs (x : Port) : Int := x.meanPs - x.asymPs / 2

/-- XG_PORT.DELAY in ns (R133). DESIGN CHOICE: a delay that is no whole number of ns is rounded down, and a negative one reads
0. -/
def Port.delayNs (x : Port) : Nat := (x.delayPs / 1000).toNat % 65536

/-- Half, and internal lane number of an internal lane (R59, R483). -/
def laneHalf (l : Nat) : Nat := if l < 2048 then l / 1024 else (l - 0x800) / 0x200

def laneJ (l : Nat) : Nat := (l - 0x800) % 0x200

/-- Wavelength of a lane (R57, R59). -/
def laneWave (l : Nat) : Nat := if l < 2048 then l % 8 else laneJ l % 8

/-- Span lanes usable in the direction that half `h` sends (R55, R59). -/
def Chip.spanLanes (c : Chip) (h : Nat) : Nat :=
  ((List.range 64).filter (fun j => (c.lane (0x800 + 0x200 * h + 256 + j)).usable)).length

/-! ### Lanes that leave, and the guard before it (R12, R87, R95, R100, R111) -/

def Chip.laser (c : Chip) (k : Nat) : Laser := Tab.get {} k c.light.lasers

/-- Lanes lit by a slot: the fabric lanes of its connector and its internal lanes (R59). -/
def slotLanes (h slot : Nat) : List Nat :=
  (List.range 64).map (fun i => 1024 * h + 64 * slot + i) ++
    ((List.range 24).map (fun i => 24 * slot + i)).filterMap (fun j => if j < 328 then some (0x800 + 0x200 * h + j) else none)

/-- Lanes of a slot on line `w`. -/
def lineLanes (h slot w : Nat) : List Nat := (slotLanes h slot).filter (fun l => laneWave l == w)

/-- The lanes that a change takes out of their ports. -/
def Change.leaving (x : Change) : List Nat :=
  match x with
  | .retireLane l _ => [l]
  | .fadeDrop h s w => lineLanes h s w
  | .circuitsDriven l => l.flatMap (fun x => [x.1, x.2])
  | _ => []

/-- The lanes that carry only idle in the guard before a change takes effect: those that it takes out of their ports, and
those lit by a slot that is swapped. -/
def Chip.idleLanes (c : Chip) (x : Change) : List Nat :=
  match x with
  | .lampSwap h p => slotLanes h (c.laser (32 * h + p)).slot
  | _ => x.leaving

/-- The lanes of a port among a list, as a mask. -/
def Chip.portMask (c : Chip) (p : Nat) (ls : List Nat) : Nat :=
  ((c.portLanes p).filter (fun x => ls.contains x.1)).foldl (fun a x => a + 2 ^ x.2) 0

/-- The lanes that carry only idle now: in the guard before the boundary of such a change (R12). -/
def Chip.idleNow (c : Chip) : List Nat :=
  if !c.inGuard then [] else (c.due.filter (fun e => e.1 == (c.deal + 1) % 2 ^ 48)).flatMap (fun e => c.idleLanes e.2)

/-- Those of a port, as a mask. -/
def Chip.guardIdle (c : Chip) (p : Nat) : Nat := c.portMask p c.idleNow

/-- The lanes on which a port places data blocks now (R110, R115, R505), and those that carry only idle left out. -/
def Chip.dataMask (c : Chip) (p : Nat) : Nat :=
  let y := c.port p
  if !y.link.live || y.dataStop then 0 else maskDiff (maskDiff y.lanes y.stopLanes) (c.guardIdle p)

/-- Lanes on which a port places data blocks now: none where it is not live or has stopped (R105, R110, R505), and none of those that
carry only idle. A twin port counts as 4 lanes (R184). -/
def Chip.dataLanes (c : Chip) (p : Nat) : Nat :=
  let y := c.port p
  if !y.link.live || y.dataStop then 0
  else if 2048 ≤ p then 4 - popcount 4 (c.guardIdle p)
  else popcount 4 (maskDiff (maskDiff y.lanes y.stopLanes) (c.guardIdle p))

/-- Lanes that the Span of half `h` sends on now: those of the last boundary (R88), but for the ones that carry only idle
(R95). -/
def Chip.spanNow (c : Chip) (h : Nat) : Nat :=
  (c.xbar.buf.get h).spanWidth -
    ((List.range 64).filter (fun j => (c.lane (0x800 + 0x200 * h + 256 + j)).usable && c.idleNow.contains (0x800 + 0x200 * h + 256 + j))).length

/-! ### Names (R134, R135) -/

def Chip.levels (c : Chip) : Nat := bitsAt c.nest.desc 0 3

/-- Width of level `k`. -/
def Chip.levelWidth (c : Chip) (k : Nat) : Nat := bitsAt c.nest.desc (3 + 6 * k) 6

/-- Bits of the top `n` levels. -/
def Chip.topBits (c : Chip) (n : Nat) : Nat := (List.range n).foldl (fun a k => a + c.levelWidth k) 0

/-- Value of level `k` of a name. -/
def Chip.levelValue (c : Chip) (a k : Nat) : Nat := bitsAt a (48 - c.topBits (k + 1)) (c.levelWidth k)

/-- Level `k` of a name is the wildcard. -/
def Chip.isWild (c : Chip) (a k : Nat) : Bool := c.levelValue a k + 1 == 2 ^ c.levelWidth k

/-- Well-formed under R135: a unit name or a group name. -/
def Chip.nameOk (c : Chip) (a : Nat) : Bool :=
  decide (0 < c.levels) && a % 2 ^ (48 - c.topBits c.levels) == 0 && !c.isWild a 0 &&
    (List.range (c.levels - 1)).all (fun k => !c.isWild a k || c.isWild a (k + 1))

/-- A unit name: well-formed, with no wildcard level. -/
def Chip.unitName (c : Chip) (a : Nat) : Bool := c.nameOk a && (List.range c.levels).all (fun k => !c.isWild a k)

/-! ### Egress points and queues (R160 to R163) -/

/-- Egress point of a port within its half: the fabric port, 1024 and 1025 for the twin ports, 1026 for the
Span. -/
def pointOf (p : Nat) : Nat := if p < 2048 then p % 1024 else if p < 0x1000 then 1024 + p % 2 else 1026

/-- Port of an egress point. -/
def portAt (h q : Nat) : Nat := if q < 1024 then 1024 * h + q else if q < 1026 then 0x800 + 2 * h + (q - 1024) else 0x1000 + h

def qKey (h q k : Nat) : Nat := (1027 * h + q) * 8 + k

/-- XG_QCFG at reset (R161, R162, R164, R172). -/
def resetQConfig (k : Nat) : QConfig :=
  { min := 8, alpha := if k = 6 then 5 else if k = 7 then 3 else 6, markT := 8, ct := true, spillEn := false, spillMax := 0 }

def Chip.qcfg (c : Chip) (h q k : Nat) : QConfig := Tab.get (resetQConfig k) (qKey h q k) c.xbar.qcfg

def Chip.queue (c : Chip) (h q k : Nat) : Queue := Tab.get {} (qKey h q k) c.xbar.queues

def Chip.setQueue (h q k : Nat) (v : Queue) (c : Chip) : Chip :=
  { c with xbar := { c.xbar with queues := Tab.set {} (qKey h q k) v c.xbar.queues } }

def cellSum (l : List QPacket) : Nat := l.foldl (fun a x => a + x.cells) 0

/-- On-chip cells of a queue (R163). -/
def Queue.depth (x : Queue) : Nat := cellSum x.pkts + x.pending

/-- On-chip and spilled cells of a queue, d (R164). -/
def Queue.d (x : Queue) : Nat := cellSum x.pkts + cellSum x.spilled

/-- Shared cells that a queue holds, as its packets took them at their admission (R162, R163). -/
def Queue.shared (x : Queue) : Nat := x.pkts.foldl (fun a p => a + p.shared) x.pendingShared

/-- Pages of a queue in spill (R163, R170). -/
def Queue.spillPages (x : Queue) : Nat := x.pages.length + x.landing.length

/-- Configuration by queue key. -/
def Chip.qcfgAt (c : Chip) (key : Nat) : QConfig := Tab.get (resetQConfig (key % 8)) key c.xbar.qcfg

/-- Configured egress points of a half (R161). -/
def Chip.pointConfigured (c : Chip) (h q : Nat) : Bool := q == 1026 || c.isPort (portAt h q)

/-- Number of configured egress points of a half. -/
def Chip.pointCount (c : Chip) (h : Nat) : Nat :=
  c.ports.lotMode.foldl
    (fun a e => if e.1 / 256 = h then a + ((List.range 4).filter (fun j => decide (0 < modeWidth e.2 j))).length else a)
    (1 + if c.ports.twinConfigured.get h then 2 else 0)

/-- ΣMIN of a half, given its queue configurations (R161). -/
def Chip.sumMin (c : Chip) (h : Nat) : Nat :=
  let mine := c.xbar.qcfg.filter (fun e => e.1 / 8 / 1027 == h && c.pointConfigured h (e.1 / 8 % 1027))
  64 * c.pointCount h + mine.foldl (fun a e => a + e.2.min) 0 - 8 * mine.length

/-- Cells of a half's buffer, B (R161). -/
def bufferCells : Nat := 1048576

/-- The shared pool of a half, S (R161). -/
def Chip.sharedSize (c : Chip) (h : Nat) : Nat := bufferCells - (c.xbar.buf.get h).priv - c.sumMin h

/-- Cells of a Kitty by its descriptor (R229). -/
def kittyCells (d : List Nat) : Nat :=
  let n := bitsAt (d.getD 1 0) 41 23
  let chunk := max 1 (bitsAt (d.getD 1 0) 27 14)
  let expect := bitsAt (d.getD 0 0) 0 12 + 1
  let nch := (n + chunk - 1) / chunk
  2 * ((n + 63) / 64) + 2 * ((expect * nch + 2047) / 2048) + (expect + 31) / 32 + 2 * ((nch + 127) / 128)

/-- d_model of a gate by its descriptor (R337), and the parts of its rows (R334). -/
def gateModel (d : List Nat) : Nat := 128 * bitsAt (d.getD 1 0) 56 8
def gateNpartT (d : List Nat) : Nat := (gateModel d + 8191) / 8192
def gateNpartR (d : List Nat) : Nat := (gateModel d + 4095) / 4096

/-- Cells and Kitty slots of a gate by its descriptor (R351). -/
def gateCells (d : List Nat) : Nat :=
  let q := bitsAt (d.getD 1 0) 47 6
  let m := bitsAt (d.getD 1 0) 31 13
  let k := bitsAt (d.getD 0 0) 19 3 + 1
  let wait := bitsAt (d.getD 0 0) 3 7
  let et := min (gateModel d) 8192
  let er := min (gateModel d) 4096
  q * 3 * m * gateNpartT d * ((64 + 33 * et / 32 + 255) / 256) +
    q * (wait + 2) * (m * k * gateNpartR d * ((64 + 2 * er + 255) / 256) + (m * k * gateNpartR d + 2047) / 2048)

def gateSlots (d : List Nat) : Nat := bitsAt (d.getD 1 0) 47 6 * (bitsAt (d.getD 0 0) 3 7 + 2)

/-- Link bytes per Deal of a gate, the larger of its two directions (R356). -/
def gateLink (d : List Nat) : Nat :=
  let s := 2 ^ bitsAt (d.getD 1 0) 53 3
  let qm := bitsAt (d.getD 1 0) 47 6 * bitsAt (d.getD 1 0) 31 13
  let k := bitsAt (d.getD 0 0) 19 3 + 1
  let m := gateModel d
  max (s * qm * (33 * m / 32) + qm * (2 * k * m + 96)) (s * qm * 64 + qm * 2 * m)

/-- KT_HSTAT.POOL_USED: cells that open Kitties and loaded gates of a half hold (R229, R351). -/
def Chip.poolUsed (c : Chip) (h : Nat) : Nat :=
  (c.kit.kitty.filter (fun e => e.1 / 32768 == h && e.2.state != .opening)).foldl (fun a e => a + kittyCells e.2.desc) 0 +
    (c.gate.gate.filter (fun e => e.1 / 16 == h)).foldl (fun a e => a + gateCells e.2.desc) 0

/-- Cells that the ingest queue of Kitty control holds in the shared pool, INGEST_DEPTH (R234). -/
def KittyHalf.ingestCells (x : KittyHalf) : Nat := x.ingest.foldl (fun a e => a + e.1.cells) 0

/-- Shared cells in use in a half. -/
def Chip.sharedUsed (c : Chip) (h : Nat) : Nat :=
  (c.xbar.queues.filter (fun e => e.1 / 8 / 1027 == h)).foldl (fun a e => a + e.2.shared) 0 +
    (c.xbar.mcasts.filter (fun e => e.1 % 2 == h)).foldl (fun a e => a + e.2.shared) 0 + c.poolUsed h + (c.kit.half.get h).ingestCells

/-- Free cells of the shared pool, F (R162). -/
def Chip.sharedFree (c : Chip) (h : Nat) : Nat := c.sharedSize h - c.sharedUsed h

/-- Privileged cells in use in a half. -/
def Chip.privUsed (c : Chip) (h : Nat) : Nat :=
  (c.xbar.queues.filter (fun e => e.1 / 8 / 1027 == h)).foldl (fun a e => a + cellSum (e.2.pkts.filter (·.priv))) 0 +
    (c.xbar.mcasts.filter (fun e => e.1 % 2 == h)).foldl (fun a e => a + e.2.priv) 0

def Chip.privFree (c : Chip) (h : Nat) : Nat := (c.xbar.buf.get h).priv - c.privUsed h

/-- Class `a` may evict class `v` in a half (R166). -/
def Chip.mayEvict (c : Chip) (h a v : Nat) : Bool := decide (a < v) && bitAt (c.xbar.buf.get h).pushout (8 * a + v)

/-- Cells within [a, b) of the packets that the test picks, of a list whose cells begin at `o`. -/
def overlap (pick : QPacket → Bool) (a b : Nat) : Nat → List QPacket → Nat
  | _, [] => 0
  | o, p :: t => (if pick p then min b (o + p.cells) - max a o else 0) + overlap pick a b (o + p.cells) t

/-- Shared cells that the unicast packets of a queue hold. -/
def Queue.unicastShared (x : Queue) : Nat :=
  x.pkts.foldl (fun a p => a + p.shared) (min x.pendingShared (overlap (fun p => !p.mcast) 0 x.pending 0 x.spilled))

/-- V of class `a`: shared cells of the unicast packets it may push out (R162). -/
def Chip.evictable (c : Chip) (h a : Nat) : Nat :=
  (c.xbar.queues.filter (fun e => e.1 / 8 / 1027 == h && c.mayEvict h a (e.1 % 8))).foldl
    (fun n e => n + e.2.unicastShared) 0

/-- The dynamic limit L of a queue (R162): α = 2^(ALPHA − 6). -/
def Chip.queueLimit (c : Chip) (h q k : Nat) : Nat :=
  (c.qcfg h q k).min + (c.sharedFree h + c.evictable h k) * 2 ^ (c.qcfg h q k).alpha / 64

/-! ### Drops at egress (R163, R178) -/

/-- The fields of XG_PORT_QDROP of a port. -/
def qdrop (p lsb : Nat) : CtrField := ⟨0x100018 + 0x20 * p, lsb, 15, lsb + 15⟩

/-- XG_BUF_DROP.SPAN_DROPS, SPILL_DROPS and DISPUTES of a half. -/
def bufDrop (h lsb : Nat) : CtrField := ⟨0x580018 + 0x1000 * h, lsb, 15, lsb + 15⟩

def Chip.runTally (c : Chip) (p : Nat) : RunTally := Tab.get {} p c.nest.running

def Chip.setTally (p : Nat) (v : RunTally) (c : Chip) : Chip :=
  { c with nest := { c.nest with running := Tab.set {} p v c.nest.running } }

/-- Count one packet dropped at egress for a port: `lsb` names the field of XG_PORT_QDROP, and the Tally's
DROPS counts it too (R156). A packet for the Span counts in SPAN_DROPS. -/
def Chip.dropAt (h q lsb : Nat) (c : Chip) : Chip :=
  if q = 1026 then c.bump (bufDrop h 0) 1
  else
    let p := portAt h q
    let t := c.runTally p
    (c.bump (qdrop p lsb) 1).setTally p { t with drops := min 255 (t.drops + 1) }

/-! ### Multicast cells (R175) -/

/-- The cells of a multicast packet are already held in a half (R175). -/
def Chip.holds (c : Chip) (h : Nat) (x : QPacket) : Bool := x.mcast && c.xbar.mcasts.any (fun e => e.1 == 2 * x.tag + h && e.2.held)

/-- The copies of a multicast packet in a half. -/
def Chip.mcastHold (c : Chip) (h tag : Nat) : McastHold := Tab.get {} (2 * tag + h) c.xbar.mcasts

def Chip.setMcastHold (h tag : Nat) (v : McastHold) (c : Chip) : Chip :=
  { c with xbar := { c.xbar with mcasts := Tab.put (2 * tag + h) v c.xbar.mcasts } }

/-- A multicast packet whose cells no copy holds yet charges the pools (R175). -/
def Chip.chargeCopy (h : Nat) (x : QPacket) (shared priv : Nat) (c : Chip) : Chip :=
  let e := c.mcastHold h x.tag
  if !x.mcast || e.held then c else c.setMcastHold h x.tag { e with shared := shared, priv := priv, held := true }

/-- One more copy of a multicast packet, on chip or in spill (R175). -/
def Chip.countCopy (h : Nat) (x : QPacket) (c : Chip) : Chip :=
  if x.mcast then c.setMcastHold h x.tag { c.mcastHold h x.tag with copies := (c.mcastHold h x.tag).copies + 1 } else c

/-- An on-chip copy of a multicast packet: the first charges the pools, and each is counted (R175). -/
def Chip.holdCopy (h : Nat) (x : QPacket) (shared priv : Nat) (c : Chip) : Chip := (c.chargeCopy h x shared priv).countCopy h x

/-- One copy of a multicast packet in half `h` is gone; with the last, its shared cells are free. -/
def Chip.dropCopy (h tag : Nat) (c : Chip) : Chip :=
  match c.xbar.mcasts.find? (fun e => e.1 == 2 * tag + h) with
  | none => c
  | some e =>
    let m := if e.2.copies ≤ 1 then Tab.erase e.1 c.xbar.mcasts
      else Tab.put e.1 { e.2 with copies := e.2.copies - 1 } c.xbar.mcasts
    { c with xbar := { c.xbar with mcasts := m } }

/-- Give back the copies that a list of queue packets of half `h` held. -/
def Chip.dropCopies (h : Nat) (l : List QPacket) (c : Chip) : Chip :=
  (l.filter (·.mcast)).foldl (fun c x => c.dropCopy h x.tag) c

def Chip.sched (c : Chip) (p : Nat) : Sched := Tab.get {} p c.sch.sched

def Chip.setSched (p : Nat) (v : Sched) (c : Chip) : Chip :=
  { c with sch := { c.sch with sched := Tab.set {} p v c.sch.sched } }

/-- A queue of C2 to C5 that is empty has no deficit (R189). -/
def Chip.emptied (h q k : Nat) (c : Chip) : Chip :=
  let x := c.queue h q k
  if x.pkts.isEmpty && x.spilled.isEmpty && decide (2 ≤ k) && decide (k ≤ 5) then
    let p := portAt h q
    c.setSched p { c.sched p with deficits := (c.sched p).deficits.set (k - 2) 0 }
  else c

/-! ### Data blocks that come and leave (R115, R480) -/

/-- Note `n` data blocks received or sent by a port for its bandwidth window (R480). -/
def Chip.countRx (p n : Nat) (c : Chip) : Chip :=
  let b : BwPort := Tab.get {} p c.regs.bw
  { c with regs := { c.regs with bw := Tab.put p { b with rxSum := b.rxSum + 256 * n, rxDeal := b.rxDeal + 256 * n } c.regs.bw } }

def Chip.countTx (p n : Nat) (c : Chip) : Chip :=
  let b : BwPort := Tab.get {} p c.regs.bw
  { c with regs := { c.regs with bw := Tab.put p { b with txSum := b.txSum + 256 * n, txDeal := b.txDeal + 256 * n } c.regs.bw } }

/-! ### Transmit timestamps (R46 to R49) -/

/-- TB_TSQh_STAT.LOST (R48). -/
def tsqLost (h : Nat) : CtrField := ⟨0x10110 + 0x20 * h, 8, 32, 40⟩

/-- Push a transmit timestamp; a full queue loses it (R48). -/
def Chip.pushStamp (h : Nat) (x : Stamp) (c : Chip) : Chip :=
  let q := c.tb.tsq.get h
  if q.entries.length < 64 then
    { c with tb := { c.tb with tsq := c.tb.tsq.set h { q with entries := q.entries ++ [x] } } }
  else
    let was := c.stuck 0x10008 (8 + h)
    let c := ((c.bump (tsqLost h) 1).stick (0x10110 + 0x20 * h) 40).stick 0x10008 (8 + h)
    if was then c else c.raise 0x0109 2 [(1, h)]

/-- The timestamp of a departure at `t`, in hundredths of a core cycle of FT, in the queue of the half that owns the port (R47); a
packet sent on a twin port is not timestamped (R132). -/
def Chip.stampDeparture (p t : Nat) (pkt : Packet) (stamp : Option Nat) (c : Chip) : Chip :=
  match stamp with
  | none => c
  | some id =>
    if 2048 ≤ p then c
    else c.pushStamp (halfOf p)
      { deal := t / 100 / c.dealCycles % 2 ^ 48, port := p, cls := pkt.cls, epoch := pkt.epoch, ftNs := t / 200 % 1000000000
        ftSecLo := t / 200000000000 % 65536, id := id }

/-! ### Data blocks that leave a port (R110, R115, R156, R184, R480) -/

/-- A payload with one of its 64-bit words replaced. -/
def putWord (i v : Nat) (bs : List Byte) : List Byte := bs.take (8 * i) ++ beBytes 8 v ++ bs.drop (8 * i + 8)

/-- The packet as it leaves: the transmit path writes the departure, FT in ns modulo 2^64, into a time exchange (R24), and this
egress adds 1 to HOPS (R124). -/
def Leaving.onWire (x : Leaving) : Packet :=
  let pkt := match x.writes with
    | none => x.pkt
    | some i => let bs := putWord i (x.since / 200 % 2 ^ 64) x.pkt.payload; { x.pkt with payload := bs, crc := crc64 bs }
  { pkt with hops := min 31 (pkt.hops + 1) }

/-- The blocks of a packet that begin before `now` with a block time of `b`, no more than have `arrived`, and the packet after
them. One that waits for a block goes on from now at the earliest (R173). -/
def Leaving.progress (b now arrived : Nat) (x : Leaving) : Nat × Leaving :=
  if x.lanes = 0 then (0, x)
  else
    let left := x.pkt.cells - x.sent
    let k := min (blockTimes left x.lanes) ((now - x.since + b - 1) / b)
    let want := min left (k * x.lanes)
    let n := min want (arrived - x.sent)
    (n, { x with sent := x.sent + n, since := if n < want then now else x.since + k * b })

/-- `n` data blocks of a packet have left: the Tally (R156), the bandwidth window (R480), the counters of R478 and BSEQ
(R115). -/
def Chip.countSent (p n : Nat) (pkt : Packet) (c : Chip) : Chip :=
  if n = 0 then c
  else
    let y := c.runTally p
    let c := c.setTally p { y with cells := y.cells + n, marked := if pkt.mark then y.marked + n else y.marked }
    ((c.countTx p n).setPort p { c.port p with nextBseqTx := ((c.port p).nextBseqTx + n) % 4096 }).occur (halfOf p) 0x02 (some p)
      (some pkt.cls) n

/-- The last `n` data blocks sent of a packet that leaves: they are on record, and counted. -/
def Chip.sendCells (p n : Nat) (x : Leaving) (c : Chip) : Chip :=
  if n = 0 then c else (c.log (.cells p (c.port p).nextBseqTx (x.sent - n) n x.mask)).countSent p n x.pkt

/-- Cells on chip of the packet that a port is sending from its queues. -/
def Chip.headArrived (c : Chip) (p : Nat) : Nat :=
  match (c.sched p).sending with
  | none => 0
  | some k => match (c.queue (halfOf p) (pointOf p) k).pkts with | [] => 0 | x :: _ => x.arrived

/-- The data blocks of a port that have begun by now are counted; a packet is kept until its last one is over. -/
def Chip.settlePort (p : Nat) (c : Chip) : Chip :=
  let s := c.sched p
  if s.leaving.isEmpty then c
  else
    let now := 100 * c.tb.ft
    let a := c.headArrived p
    let rs := s.leaving.map (fun x => (x.progress (c.blockTime p) now (if x.queued then a else x.pkt.cells)))
    let c := rs.foldl (fun c r => c.sendCells p r.1 r.2) c
    c.setSched p { s with leaving := (rs.map Prod.snd).filter (fun x => decide (x.sent < x.pkt.cells) || decide (now + 100 ≤ x.since)) }

/-- Packets whose first block now has its instant leave. -/
def Chip.depart (p : Nat) (c : Chip) : Chip :=
  let s := c.sched p
  let go := s.leaving.filter (fun x => !x.gone && decide (0 < x.lanes))
  let c := c.setSched p { s with leaving := s.leaving.map (fun x => if 0 < x.lanes then { x with gone := true } else x) }
  go.foldl (fun c x => (c.log (.packet p x.onWire)).stampDeparture p x.since x.pkt x.stamp) c

/-- The blocks of packets still to leave on the `w` lanes of a mask, each packet after the one before it, and the end of the
last. -/
def retime (b now w mask : Nat) : Option Nat → List Leaving → Nat × List Leaving
  | t, [] => (t.getD now, [])
  | t, x :: xs =>
    let start := match t with | some t => t | none => if x.lanes = 0 then max now x.since else x.since
    let left := x.pkt.cells - x.sent
    let y : Leaving := if left = 0 then x else { x with since := start, lanes := w, mask := mask }
    let stop := if left = 0 then x.since else if w = 0 then start else start + blockTimes left w * b
    let r := retime b now w mask (some stop) xs
    (r.1, y :: r.2)

/-- A port's data blocks go on, on the lanes that it places data on now (R87, R95, R110, R505). A reserved window that follows the
packet moves with its end (R186). -/
def Chip.refit (p : Nat) (c : Chip) : Chip :=
  let c := c.settlePort p
  let s := c.sched p
  if s.leaving.isEmpty then c
  else
    let r := retime (c.blockTime p) (100 * c.tb.ft) (c.dataLanes p) (c.dataMask p) none s.leaving
    let follows := s.windowEnd == s.busyUntil + s.rsvd * c.blockTime p
    (c.setSched p { s with
      leaving := r.2, busyUntil := r.1, windowEnd := if follows then s.windowEnd + r.1 - s.busyUntil else s.windowEnd }).depart p

/-- A packet takes its place behind those that leave on a port. -/
def Chip.putOut (p : Nat) (x : Leaving) (c : Chip) : Chip :=
  let s := c.sched p
  let w := c.dataLanes p
  let t := max s.busyUntil (100 * c.tb.ft)
  let x := { x with since := t, lanes := w, mask := c.dataMask p }
  let stop := if w = 0 then t else t + blockTimes x.pkt.cells w * c.blockTime p
  (c.setSched p { s with leaving := s.leaving ++ [x], busyUntil := stop }).depart p

/-- The packet under way from a queue of a port ends with ABORT = 1 in one data block, if it has begun (R123); the others follow
it. -/
def Chip.cutSending (p : Nat) (c : Chip) : Chip :=
  let c := c.settlePort p
  let s := c.sched p
  let now := 100 * c.tb.ft
  match s.leaving.find? (·.queued) with
  | none => c.setSched p { s with sending := none }
  | some x =>
    let t := if x.lanes = 0 then now else x.since
    let stop := if x.gone then t + c.blockTime p else t
    let rest := (s.leaving.filter (fun y => !y.queued)).map (fun y => { y with since := max stop y.since })
    let c := c.setSched p { s with sending := none, leaving := rest, busyUntil := stop }
    let c := if x.gone then (c.log (.abort p)).countSent p 1 x.pkt else c
    c.refit p

/-- The packet a port is sending is whole and its time is over: its cells are free (R175), and a class of C2 to C5 whose queue it
empties has no deficit (R189). -/
def Chip.endSentAt (c : Chip) (p : Nat) : Chip :=
  let c := c.settlePort p
  let s := c.sched p
  match s.sending with
  | none => c
  | some k =>
    let h := halfOf p
    let q := pointOf p
    let qu := c.queue h q k
    let over_ := if q = 1026 then (c.xbar.buf.get h).spanServing != 0 && decide (s.busyUntil < 100 * c.tb.ft + 100)
      else !s.leaving.any (·.queued)
    match qu.pkts with
    | [] => c.setSched p { s with sending := none }
    | x :: rest =>
      if decide (x.cells ≤ x.arrived) && over_ then
        let c := ((c.setSched p { s with sending := none }).setQueue h q k { qu with pkts := rest }).emptied h q k
        if x.mcast then c.dropCopy h x.tag else c
      else c

/-- The same for every port. -/
def Chip.endSent (c : Chip) : Chip := (c.sch.sched.map Prod.fst).foldl Chip.endSentAt c

/-! ### Push-out (R167) -/

/-- The tail packet of a queue that class `a` may push out: unicast, on-chip, not begun, and above the queue's MIN with every
cell (R167). -/
def Chip.victim (c : Chip) (h a : Nat) (e : Nat × Queue) : Option QPacket :=
  if e.1 / 8 / 1027 = h ∧ c.mayEvict h a (e.1 % 8) then
    match (e.2.pkts).getLast? with
    | none => none
    | some p => if !p.mcast && !p.started && decide (0 < p.shared) && decide ((c.qcfgAt e.1).min + p.cells ≤ e.2.depth) then some p else none
  else none

/-- The order in which victim queues are preferred: most shared cells, then the higher class, then the lower
port. -/
def prefer (x y : Nat × Queue) : Bool :=
  let sx := x.2.shared
  let sy := y.2.shared
  decide (sy < sx) || (sx == sy && (decide (y.1 % 8 < x.1 % 8) || (x.1 % 8 == y.1 % 8 && decide (x.1 / 8 < y.1 / 8))))

/-- Evict one packet for class `a`: the shared cells freed and the part. -/
def Chip.evictOne (h a : Nat) (c : Chip) : Option (Nat × Chip) :=
  let cand := c.xbar.queues.filter (fun e => (c.victim h a e).isSome)
  match cand.foldl (fun b e => match b with | none => some e | some x => if prefer e x then some e else some x) (none : Option (Nat × Queue)) with
  | none => none
  | some e =>
    match c.victim h a e with
    | none => none
    | some p =>
      let q := e.1 / 8 % 1027
      let c := c.setQueue h q (e.1 % 8) { e.2 with pkts := e.2.pkts.dropLast }
      some (p.shared, ((c.emptied h q (e.1 % 8)).dropAt h q 16).occur h 0x05 (some (portAt h q)) (some (e.1 % 8)) 1)

/-- Free at least `k` shared cells by at most `fuel` evictions, or change nothing. -/
def Chip.evictUpTo (h a : Nat) : Nat → Nat → Chip → Option Chip
  | _, 0, c => some c
  | 0, _ + 1, _ => none
  | fuel + 1, k + 1, c =>
    match c.evictOne h a with
    | none => none
    | some (n, c) => Chip.evictUpTo h a fuel (k + 1 - n) c

/-! ### Spill (R168, R169) -/

def Chip.setBuf (h : Nat) (v : BufHalf) (c : Chip) : Chip := { c with xbar := { c.xbar with buf := c.xbar.buf.set h v } }

/-- Pages of the spill region of a half that are held: in spill, read back, or on their way back to the region (R170, R178). -/
def Chip.spillHeld (c : Chip) (h : Nat) : List Nat :=
  (c.xbar.queues.filter (fun e => e.1 / 8 / 1027 == h)).flatMap (fun e => e.2.pages.map (·.number) ++ e.2.landing) ++
    (c.xbar.buf.get h).returning

/-- The first page from `x` on, within the spill region of `size` pages from 5376, that is neither held nor dead (R374, R386). -/
def Chip.freePage (c : Chip) (h size : Nat) (held : List Nat) : Nat → Nat → Nat
  | 0, x => 5376 + x
  | n + 1, x => if held.contains (5376 + x) || c.deadPage h (5376 + x) then c.freePage h size held n ((x + 1) % size) else 5376 + x

/-- Cells that a queue's last page still takes. -/
def Queue.room (x : Queue) : Nat := match x.pages.getLast? with | some p => 256 - p.filled | none => 0

/-- Write `n` cells to the last page of a list. -/
def fillLast (n : Nat) : List SpillPage → List SpillPage
  | [] => []
  | [p] => [{ p with live := p.live + n, filled := p.filled + n }]
  | p :: t => p :: fillLast n t

/-- The cells [a, a + n) of those in a list of pages belong to no packet any more. -/
def cutPages : Nat → Nat → List SpillPage → List SpillPage
  | _, _, [] => []
  | a, n, p :: t =>
    let k := min n (p.live - a)
    { p with live := p.live - k } :: cutPages (a - p.live) (n - k) t

/-- The same of a queue's spilled cells, the ones read back first. -/
def Queue.cutCells (a n : Nat) (x : Queue) : Queue :=
  let k := min n (x.pending - a)
  { x with pending := x.pending - k, pendingShared := min x.pendingShared (x.pending - k), pages := cutPages (a - x.pending) (n - k) x.pages }

/-- The spilled packets that the test picks, by their place, leave a queue with their cells: the packets kept from the i-th on,
whose cells begin at `a`. -/
def cutSpilled (gone : Nat → Bool) : Nat → Nat → List QPacket → Queue → Queue
  | _, _, [], x => { x with spilled := [] }
  | i, a, p :: t, x =>
    if gone i then cutSpilled gone (i + 1) a t (x.cutCells a p.cells)
    else let y := cutSpilled gone (i + 1) (a + p.cells) t x
      { y with spilled := p :: y.spilled }

/-- Drop the spilled packets that the test picks. -/
def Queue.dropSpilled (gone : Nat → Bool) (x : Queue) : Queue := cutSpilled gone 0 0 x.spilled x

/-- The places of the spilled packets with a cell in [a, b). -/
def inCells (a b : Nat) : Nat → Nat → List QPacket → List Nat
  | _, _, [] => []
  | i, o, p :: t => (if o < b ∧ a < o + p.cells then [i] else []) ++ inCells a b (i + 1) (o + p.cells) t

/-- A page of a queue is lost: the packets with a cell in it, and the queue without them and without the page, which returns to
the region at the next boundary (R382, R386). -/
def Queue.losePage (n : Nat) (x : Queue) : List QPacket × Queue :=
  let before := (x.pages.takeWhile (fun p => p.number != n)).foldl (fun a p => a + p.live) x.pending
  let mine := (x.pages.filter (fun p => p.number == n)).foldl (fun a p => a + p.live) 0
  let gone := inCells before (before + mine) 0 0 x.spilled
  let y := x.dropSpilled gone.contains
  (gone.filterMap (fun i => x.spilled[i]?), { y with pages := y.pages.filter (fun p => p.number != n), landing := y.landing ++ [n] })

/-- Write a packet to the spill region, or drop it with SPILL_FULL (R168, R169). Which free page takes it is a free choice of
the part. -/
def Chip.spillOrDrop (h q k : Nat) (x : QPacket) (c : Chip) : Chip × Bool :=
  let qu := c.queue h q k
  let b := c.xbar.buf.get h
  let size := (c.lard.half.get h).spillSize
  let held := c.spillHeld h
  if qu.spillPages < (c.qcfg h q k).spillMax ∧ b.spillWrites < b.rate ∧ held.length + c.deadIn h 5376 size < size then
    let put := min x.cells qu.room
    let qu := { qu with spilled := qu.spilled ++ [x], pages := fillLast put qu.pages }
    let rest := x.cells - put
    let c := c.countCopy h x
    if rest = 0 then (c.setQueue h q k qu, true)
    else
      let (v, c) := c.draw
      let page : SpillPage := ⟨c.freePage h size held ((held.length + 1) * ((c.lard.half.get h).sites.length + 1)) (v % max 1 size), rest, rest⟩
      ((c.setQueue h q k { qu with pages := qu.pages ++ [page] }).setBuf h { b with spillWrites := b.spillWrites + 1 }, true)
  else
    let c := (c.dropAt h q 0).bump (bufDrop h 16) 1
    let c := c.occur h 0x06 (some (portAt h q)) (some k) 1
    if b.spillFullRaised then (c, false)
    else ((c.setBuf h { b with spillFullRaised := true }).raise 0x0601 2 [(1, h)], false)

/-! ### Admission (R163 to R167, R172, R175) -/

/-- Cells that the shared pool must give a packet of `n` cells. -/
def sharedNeed (n min depth : Nat) : Nat := n - Nat.min n (min - depth)

/-- A packet entering a queue, marked when the queue's d is at least its T (R164, R165). -/
def Chip.marked (c : Chip) (h q k : Nat) (x : QPacket) : QPacket :=
  if 2 ≤ k ∧ (c.qcfg h q k).markT * 64 ≤ (c.queue h q k).d + x.cells then
    { x with pkt := { x.pkt with mark := true } } else x

/-- The ports that a route can send a packet out of in the far half. -/
def Chip.routePorts (c : Chip) (b : Nat) : List Nat :=
  let action := bitsAt b 60 4
  let h := bitsAt b 59 1
  if action = 1 then [bitsAt b 46 12]
  else if action = 2 then ((Tab.get {} (1024 * h + bitsAt b 46 12) c.nest.fans : Fan).members.filter (·.active)).map (·.port)
  else []

/-- No egress of the packet at a queue is wider than its ingress (R172). DESIGN CHOICE: for a packet that crosses the Span under a
FAN or MCAST route this holds of every egress in the far half that the route can choose. -/
def Chip.narrowEnough (c : Chip) (h q : Nat) (x : QPacket) : Bool :=
  if q ≠ 1026 then decide (c.ctWidth (portAt h q) ≤ x.inWidth)
  else if bitsAt x.via 60 4 = 4 then
    (bitsSet 1026 (Tab.get 0 (8192 * (1 - h) + bitsAt x.via 30 16) c.xbar.groups)).all (fun q => decide (c.ctWidth (portAt (1 - h) q) ≤ x.inWidth))
  else
    let ps := c.routePorts x.via
    !ps.isEmpty && ps.all (fun p => decide (c.ctWidth p ≤ x.inWidth))

/-- Put an admitted packet in its queue; it is forwarded by cut-through when R172 allows. -/
def Chip.enqueue (h q k : Nat) (x : QPacket) (c : Chip) : Chip :=
  let qu := c.queue h q k
  let ct := (c.qcfg h q k).ct && qu.pkts.isEmpty && qu.spilled.isEmpty && decide (0 < x.inWidth) && c.narrowEnough h q x
  let x := { c.marked h q k x with cutThrough := ct }
  c.setQueue h q k { qu with pkts := qu.pkts ++ [x] }

/-- The admission decision for one packet, or copy, at a queue (R163): the part, and whether the packet
stayed (on chip or in spill). -/
def Chip.decideAdmit (h q k : Nat) (x : QPacket) (c : Chip) : Chip × Bool :=
  let p := portAt h q
  let n := x.cells
  let qu := c.queue h q k
  let link := (c.port p).link
  if q = 1026 ∧ c.spanLanes h = 0 then (c.dropAt h q 0, false)
  else if q ≠ 1026 ∧ link = .disputed then (c.dropAt h q 48, false)
  else if q ≠ 1026 ∧ link ≠ .up ∧ link ≠ .resize then (c.dropAt h q 32, false)
  else if 0 < qu.spillPages then c.spillOrDrop h q k (c.marked h q k x)
  else if k ≤ 1 ∧ n ≤ c.privFree h then ((c.holdCopy h x 0 n).enqueue h q k { x with priv := !x.mcast }, true)
  else
    let s := if c.holds h x then 0 else sharedNeed n (c.qcfg h q k).min qu.depth
    let room : Option Chip :=
      if qu.depth + n ≤ c.queueLimit h q k then
        (if s ≤ c.sharedFree h then some c else Chip.evictUpTo h k 8 (s - c.sharedFree h) c)
      else none
    match room with
    | some c => ((c.holdCopy h x s 0).enqueue h q k { x with shared := if x.mcast then 0 else s }, true)
    | none =>
      if 2 ≤ k ∧ (c.qcfg h q k).spillEn ∧ q ≠ 1026 then c.spillOrDrop h q k (c.marked h q k x)
      else ((c.dropAt h q 0).occur h 0x06 (some p) (some k) 1, false)

/-- Sum of d over the eight queues of an egress point (R156). -/
def Chip.depthSum (c : Chip) (h q : Nat) : Nat := (List.range 8).foldl (fun a k => a + (c.queue h q k).d) 0

/-- Note a port's depth for the Tally of the Deal (R156). -/
def Chip.notePeak (h q : Nat) (c : Chip) : Chip :=
  if q = 1026 then c
  else
    let t := c.runTally (portAt h q)
    c.setTally (portAt h q) { t with peak := max t.peak (c.depthSum h q) }

/-- Admission under R163, noted in the Tally: packets whose time on a port is over hold no cells any more. -/
def Chip.takeIn (h q k : Nat) (x : QPacket) (c : Chip) : Chip × Bool :=
  let r := c.endSent.decideAdmit h q k x
  (r.1.notePeak h q, r.2)

/-! ### Route lookup (R138 to R143, R149) -/

def Chip.table (c : Chip) (h e : Nat) : RouteTable := Tab.get {} (2 * h + e) c.nest.tables

def Chip.setTable (h e : Nat) (v : RouteTable) (c : Chip) : Chip :=
  { c with nest := { c.nest with tables := Tab.set {} (2 * h + e) v c.nest.tables } }

/-- XG_ROUTE_STAT fields of a half. -/
def routeStat (h lsb : Nat) : CtrField := ⟨0x300008 + 0x1000 * h, lsb, 15, lsb + 15⟩

/-- Fields of a route entry's word A. -/
def entryPlen (a : Nat) : Nat := bitsAt a 13 3
def entryValid (a : Nat) : Bool := bitAt a 12
def entryClasses (a : Nat) : Nat := bitsAt a 4 8

/-- An entry is a candidate for a DEST and class (R140). -/
def Chip.candidate (c : Chip) (a dest cls : Nat) : Bool :=
  entryValid a && bitAt (entryClasses a) cls &&
    let keep := 48 - c.topBits (entryPlen a)
    dest / 2 ^ keep == bitsAt a 16 48 / 2 ^ keep

/-- The winning entry for a DEST and class: the candidate with the largest PLEN (R140). -/
def Chip.winner (c : Chip) (t : RouteTable) (dest cls : Nat) : Option (Nat × Nat) :=
  t.entries.foldl (fun b e =>
    if c.candidate e.2.1 dest cls then
      match b with
      | none => some e.2
      | some x => if entryPlen x.1 < entryPlen e.2.1 then some e.2 else some x
    else b) none

/-- A table in this state forwards the packets of its epoch (R143). -/
def TableState.forwards : TableState → Bool
  | .loaded | .current | .draining => true
  | _ => false

/-- A LOADED table forwards a packet (R149). -/
def Chip.noteSkew (h e : Nat) (c : Chip) : Chip :=
  let t := c.table h e
  if t.state ≠ .loaded then c
  else
    match t.skewDeal with
    | none => c.setTable h e { t with skewDeal := some c.deal, skewLast := c.deal }
    | some d =>
      if c.deal = t.skewLast then c
      else if c.deal = (t.skewLast + 1) % 2 ^ 48 then
        let c := c.setTable h e { t with skewLast := c.deal, skewRaised := true }
        if t.skewRaised then c else c.raise 0x0503 2 [(1, h), (1, e), (48, d)]
      else c.setTable h e { t with skewDeal := some c.deal, skewLast := c.deal }

/-- The checks and the lookup of R141: the winning entry's word B, or none with the drop counted. -/
def Chip.route (h : Nat) (p : Packet) (c : Chip) : Chip × Option Nat :=
  let t := c.table h p.epoch
  if !c.nameOk p.dest then (c.bump (routeStat h 32) 1, none)
  else if !t.state.forwards then (c.bump (routeStat h 16) 1, none)
  else
    match c.winner t p.dest p.cls with
    | some e => (c.noteSkew h p.epoch, some e.2)
    | none =>
      let c := c.bump (routeStat h 0) 1
      if c.nest.missRaised.get h then (c, none)
      else
        let c := { c with nest := { c.nest with missRaised := c.nest.missRaised.set h true } }
        (c.raise 0x0501 2 [(1, h), (3, p.cls), (48, p.dest)], none)

/-! ### Fans (R150 to R154) -/

def Chip.fan (c : Chip) (h f : Nat) : Fan := Tab.get {} (1024 * h + f) c.nest.fans

def Chip.setFan (h f : Nat) (v : Fan) (c : Chip) : Chip :=
  { c with nest := { c.nest with fans := Tab.set {} (1024 * h + f) v c.nest.fans } }

/-- A member is eligible (R151). -/
def Chip.eligible (c : Chip) (m : FanMember) : Bool :=
  (c.port m.port).link == .up && (c.port m.port).aligned && m.active && decide (1 ≤ m.weight)

/-- Effective weight of a member for class `k` (R151). -/
def Chip.effWeight (c : Chip) (k : Nat) (m : FanMember) : Nat :=
  if !c.eligible m then 0
  else
    let h := halfOf m.port
    let q := pointOf m.port
    let d := (c.queue h q k).d
    let t := (c.qcfg h q k).markT * 64
    if k ≤ 1 ∨ d < t then m.weight
    else if d < 2 * t then max 1 (m.weight / 2) else max 1 (m.weight / 4)

/-- The first member with positive E and the largest running value, by index (R152). -/
def bestMember : Nat → Option (Nat × Int) → List (FanMember × Nat) → Option (Nat × Int)
  | _, b, [] => b
  | i, b, (m, e) :: t =>
    let b' := if 0 < e then (match b with | none => some (i, m.cur) | some x => if x.2 < m.cur then some (i, m.cur) else some x) else b
    bestMember (i + 1) b' t

/-- Smooth weighted round robin over a Fan (R152): the Fan after the choice and the port. -/
def Chip.sprayed (c : Chip) (k : Nat) (f : Fan) : Fan × Option Nat :=
  let step (m : FanMember) : FanMember × Nat := ({ m with cur := m.cur + Int.ofNat (c.effWeight k m) }, c.effWeight k m)
  let es := f.members.map step
  let total := es.foldl (fun a x => a + x.2) 0
  match bestMember 0 none es with
  | none => ({ f with members := es.map Prod.fst }, none)
  | some (b, _) =>
    let ms := (es.map Prod.fst).mapIdx (fun i m => if i = b then { m with cur := m.cur - Int.ofNat total } else m)
    ({ f with members := ms }, (ms[b]?).map (·.port))

/-- Hash of a pinned choice (R153). DESIGN CHOICE: SRC, DEST and ID enter it as 6, 6 and 4 bytes, most significant first. -/
def pinHash (p : Packet) : Nat := crc32c (beBytes 6 p.src ++ beBytes 6 p.dest ++ beBytes 4 p.id)

/-- The member whose running sum of W first exceeds `n`. -/
def pinWalk : Nat → Nat → List FanMember → Option Nat
  | _, _, [] => none
  | sum, n, m :: t => if n < sum + m.weight then some m.port else pinWalk (sum + m.weight) n t

/-- The pinned choice (R153). -/
def Chip.pinned (c : Chip) (p : Packet) (f : Fan) : Option Nat :=
  let ms := f.members.filter (fun m => c.eligible m)
  let s := ms.foldl (fun a m => a + m.weight) 0
  if s = 0 then none else pinWalk 0 (pinHash p % s) ms

/-- Make a port active or inactive in every Fan that records it (R154); becoming inactive cancels a rejoin
that has not come to its boundary (R155). -/
def Chip.setFanActive (p : Nat) (on : Bool) (c : Chip) : Chip :=
  let stop (e : Nat × Change) : Nat × Change :=
    match e.2 with
    | .fanRejoin q _ => if q = p then (e.1, .fanRejoin q true) else e
    | _ => e
  let c := if on then c else { c with due := c.due.map stop }
  let f (e : Nat × Fan) : Nat × Fan :=
    (e.1, { e.2 with members := e.2.members.map (fun m => if m.port = p then { m with active := on } else m) })
  { c with nest := { c.nest with fans := c.nest.fans.map f } }

/-- Active in at least one Fan (XG_PORT.IN_FAN). -/
def Chip.inFan (c : Chip) (p : Nat) : Bool :=
  c.nest.fans.any (fun e => e.2.members.any (fun m => m.port == p && m.active))

/-! ### Forwarding (R139, R142, R174 to R177) -/

/-- A multicast group: bit q of the set for egress point q, bit 1027 for LOOP (R174). -/
def Chip.group (c : Chip) (h g : Nat) : Nat := Tab.get 0 (8192 * h + g) c.xbar.groups

/-- Admit one packet or copy at a port of half `h`. -/
def Chip.toPort (h p : Nat) (x : QPacket) (c : Chip) : Chip := (c.takeIn h (pointOf p) x.pkt.cls x).1

/-- Copies of a multicast packet to egress points, in the order of the list, 32 of them in a core cycle (R175). -/
def Chip.replicateTo (h : Nat) (copies : List (Nat × QPacket)) (c : Chip) : Chip :=
  (copies.mapIdx (fun i e => (i, e))).foldl (fun c e =>
    let x := e.2.2
    ((c.takeIn h e.2.1 x.pkt.cls { x with mcast := true, after := c.tb.lt + e.1 / 32 }).1).occur h 0x0E (some (portAt h e.2.1)) (some x.pkt.cls) 1) c

/-- Copies of a packet to the egress points of a set, in egress order (R175). -/
def Chip.replicate (h : Nat) (points : List Nat) (x : QPacket) (c : Chip) : Chip := c.replicateTo h (points.map (fun q => (q, x)))

/-- Copies to egress points with a DEST each, in egress order: one alone is no multicast packet (R175, R176, R250). -/
def Chip.replicateNamed (h : Nat) (copies : List (Nat × Nat)) (x : QPacket) (c : Chip) : Chip :=
  let to_ (d : Nat) : QPacket := { x with pkt := { x.pkt with dest := d } }
  match copies with
  | [] => c
  | [(q, d)] => (c.takeIn h q x.pkt.cls (to_ d)).1
  | _ => c.replicateTo h ((copies.insertionSort (fun a b => a.1 ≤ b.1)).map (fun e => (e.1, to_ e.2)))

/-- The unit that a packet delivered LOCAL goes to, by its class (R139). -/
def LocalUnit.of (cls : Nat) : LocalUnit :=
  if cls = 0 then .timeBase else if cls = 2 ∨ cls = 3 then .kittyControl else if cls = 4 ∨ cls = 5 then .gate else .steward

/-- A packet for Kitty control or the gate whose ID names the other half than `h` (R225, R329). -/
def namesOther (h : Nat) (p : Packet) : Bool := decide (2 ≤ p.cls) && decide (p.cls ≤ 5) && bitsAt p.id 31 1 != h

/-- What a half does with a packet whose winning entry has word B `b`: `inPort` is the ingress port of this
half, none for a packet from the Span or one the part originates. DESIGN CHOICE: a group of which only points are left that take
no copy, such as the ingress port alone, counts as an empty one in ROUTE_DROPS (R174). -/
def Chip.follow (h b : Nat) (inPort : Option Nat) (fromSpan : Bool) (x : QPacket) (c : Chip) : Chip :=
  let action := bitsAt b 60 4
  let far := bitsAt b 59 1
  let target := bitsAt b 46 12
  let routeDrop (c : Chip) : Chip := c.bump (routeStat h 48) 1
  let span (c : Chip) : Chip := (c.takeIn h 1026 x.pkt.cls { x with via := b }).1
  if action = 1 then (if far = h then c.toPort h target x else span c)
  else if action = 2 then
    if far ≠ h then span c
    else if bitAt b 58 then
      match c.pinned x.pkt (c.fan h target) with
      | none => routeDrop c
      | some p => c.toPort h p x
    else
      match c.sprayed x.pkt.cls (c.fan h target) with
      | (_, none) => routeDrop c
      | (f, some p) => (c.setFan h target f).toPort h p x
  else if action = 3 then
    if namesOther h x.pkt then span c else c.log (.deliver h (LocalUnit.of x.pkt.cls) x.pkt)
  else if action = 4 then
    let set := c.group h (bitsAt b 30 16)
    let pts := bitsSet 1027 set
    let pts := if fromSpan then pts.filter (· != 1026) else pts
    let pts := match inPort with
      | some p => if bitAt set 1027 then pts else pts.filter (fun q => q != pointOf p)
      | none => pts
    if pts.isEmpty then routeDrop c else c.replicate h pts { x with via := b }
  else routeDrop c

/-- A new number for a packet in the queues. -/
def Chip.newTag (c : Chip) : Nat × Chip := (c.xbar.nextTag, { c with xbar := { c.xbar with nextTag := c.xbar.nextTag + 1 } })

/-- Look up and forward a packet in half `h`. -/
def Chip.forward (h : Nat) (inPort : Option Nat) (x : QPacket) (c : Chip) : Chip :=
  match c.route h x.pkt with
  | (c, none) => c
  | (c, some b) => c.follow h b inPort false x

/-! ### Packets the part originates (R144) -/

/-- The epoch whose table is CURRENT in a half. -/
def Chip.currentEpoch (c : Chip) (h : Nat) : Option Nat :=
  if (c.table h 0).state = .current then some 0 else if (c.table h 1).state = .current then some 1 else none

/-- A packet of the part: header fields the part sets, and CRC64 over the payload (R125). -/
def mkPacket (dest cls epoch src id seq : Nat) (resend : Bool) (payload : List Byte) : Packet :=
  { dest := dest, cls := cls, epoch := epoch, mark := false, hops := 0, src := src, length := payload.length
    resend := resend, id := id, seq := seq % 2 ^ 32, crc := crc64 payload, payload := payload }

/-- Originate a packet by route lookup in half `h`; with no CURRENT table it is not sent and counts in
RETIRED_DROPS (R144). -/
def Chip.originateFrom (h src dest cls id seq : Nat) (resend : Bool) (stamp : Option Nat) (payload : List Byte) (c : Chip) : Chip :=
  match c.currentEpoch h with
  | none => c.bump (routeStat h 16) 1
  | some e =>
    let p := mkPacket dest cls e src id seq resend payload
    let (tag, c) := c.newTag
    c.forward h none { tag := tag, pkt := p, cells := p.cells, arrived := p.cells, stamp := stamp }

/-- Originate a packet under the chip's unit name. -/
def Chip.originate (h dest cls id seq : Nat) (payload : List Byte) (c : Chip) : Chip :=
  c.originateFrom h c.nest.self dest cls id seq false none payload

/-- Send a packet straight out of a port, with no lookup and no queue, after the packet that is leaving: it carries the CURRENT epoch
of the port's half, or EPOCH 0 while there is none (R144). -/
def Chip.sendOnPort (p dest cls id seq : Nat) (resend : Bool) (payload : List Byte) (writes : Option Nat) (c : Chip) : Chip :=
  (c.settlePort p).putOut p
    { pkt := mkPacket dest cls ((c.currentEpoch (halfOf p)).getD 0) c.nest.self id seq resend payload, since := 0, lanes := 0, writes := writes }

/-! ### A port goes down (R108, R178) -/

/-- Every copy of a packet in the queues, with the blocks of it that have arrived. -/
def Chip.setArrived (tag n : Nat) (c : Chip) : Chip :=
  let f (x : QPacket) : QPacket := if x.tag = tag then { x with arrived := n } else x
  let g (e : Nat × Queue) : Nat × Queue := (e.1, { e.2 with pkts := e.2.pkts.map f, spilled := e.2.spilled.map f })
  { c with xbar := { c.xbar with queues := c.xbar.queues.map g } }

/-- One queue loses a packet dropped at ingress: its cells are freed, and a copy in transmission ends with
ABORT = 1 (R123, R163). -/
def Chip.abandonIn (tag : Nat) (c : Chip) (key : Nat) : Chip :=
  let h := key / 8 / 1027
  let q := key / 8 % 1027
  let k := key % 8
  let p := portAt h q
  let qu := c.queue h q k
  let mine := qu.pkts.filter (fun x => x.tag == tag)
  if mine.isEmpty && !qu.spilled.any (fun x => x.tag == tag) then c
  else
    let gone (i : Nat) : Bool := match qu.spilled[i]? with | some x => x.tag == tag | none => false
    let started := mine.any (·.started)
    let c := if started && q != 1026 then c.settlePort p else c
    let c := (c.setQueue h q k ({ qu with pkts := qu.pkts.filter (fun x => x.tag != tag) }.dropSpilled gone)).emptied h q k
    let c := c.dropCopies h (mine ++ qu.spilled.filter (fun x => x.tag == tag))
    if !started then c
    else if q = 1026 then c.setSched p { c.sched p with sending := none, busyUntil := 100 * c.tb.ft + c.blockTime p }
    else c.cutSending p

/-- A packet is dropped at ingress after its admission. -/
def Chip.abandon (tag : Nat) (c : Chip) : Chip :=
  if tag = 0 then c else (c.xbar.queues.map Prod.fst).foldl (Chip.abandonIn tag) c

/-- Flush one queue of a port (R178). -/
def Chip.flushQueue (h q k : Nat) (c : Chip) : Chip :=
  let qu := c.queue h q k
  let b := c.xbar.buf.get h
  let c := (c.setQueue h q k {}).setBuf h { b with returning := b.returning ++ qu.pages.map (·.number) ++ qu.landing }
  (((qu.pkts ++ qu.spilled).filter (fun x => !x.mcast)).foldl (fun c _ => c.dropAt h q 32) c).dropCopies h (qu.pkts ++ qu.spilled)

/-- Flush the eight queues of a port, and end a packet in transmission with ABORT = 1 (R123, R178). -/
def Chip.flushPort (p : Nat) (c : Chip) : Chip :=
  let c := c.settlePort p
  let s := c.sched p
  let c := (List.range 8).foldl (fun c k => c.flushQueue (halfOf p) (pointOf p) k) c
  let c := match s.leaving.find? (fun x => x.queued && x.gone) with | some x => (c.log (.abort p)).countSent p 1 x.pkt | none => c
  c.setSched p { s with
    sending := none, leaving := [], busyUntil := 100 * c.tb.ft, deficits := [0, 0, 0, 0], visiting := false
    waits := [0, 0, 0, 0, 0, 0], tried := 0, fitted := 0, since := 0 }

/-- Drop every packet queued for the Span of half `h` (R55). -/
def Chip.flushSpan (h : Nat) (c : Chip) : Chip :=
  let drop (c : Chip) (k : Nat) : Chip :=
    let qu := c.queue h 1026 k
    let all := qu.pkts.filter (fun x => !x.started)
    ((c.setQueue h 1026 k { qu with pkts := qu.pkts.filter (·.started) }).bump (bufDrop h 0) all.length).dropCopies h all
  (List.range 8).foldl drop c

/-- A port takes link state DOWN or DISABLED: leaving UP, RESIZE or DISPUTED it becomes inactive in every
Fan, is flushed and raises PORT_DOWN (R108, R178). What it had agreed with the far end ends, and with no receive drain a packet
still arriving is cut short and ends (R123). DESIGN CHOICE: that packet counts in no counter of the port, and the BSEQ values that
the port sends and expects next stand as they were when it trains again (R115). -/
def Chip.takeDown (p : Nat) (new : LinkState) (drain : Bool) (c : Chip) : Chip :=
  let c := c.endSentAt p
  let x := c.port p
  let c : Chip := match x.ingress with
    | some i => if drain then c else c.abandon i.tag
    | none => c
  let c := c.setPort p { x with
    link := new, lanes := 0, aligned := false, train := {}, notices := [], echoed := [], dataStop := false
    stopLanes := 0, resizeAt := none, farDisableAt := none, leaveAt := [], joinAt := [], newFar := 0, draining := drain || x.draining
    ingress := if drain then x.ingress else none, ahead := if drain then x.ahead else [], stray := false
    missRun := 0, goodRun := 0 }
  if x.link.live then (((c.setFanActive p false).flushPort p).raise 0x0402 1 [(12, p)]) else c

end Sys2Proof.Machine
end

