-- ==== Sys2Proof/Machine/Memory.lean ====
section
/-! DEFINITION. The byte memories of the part (HBM and the Benches) as sparse lists in one canonical form, and
what an uncorrectable HBM error does (R372, R382). -/

namespace Sys2Proof.Machine

open Sys2Proof

/-- What a byte that nothing has written reads as: zero, which the spec gives for the Benches (R278) and the
model chooses for HBM (R379). -/
def Memory.blank : Byte := 0

/-- The byte at an address. -/
def Memory.read (a : Nat) (m : List Host.Cell) : Byte := Tab.get Memory.blank a m

/-- Write a byte. -/
def Memory.write (a : Nat) (b : Byte) (m : List Host.Cell) : List Host.Cell := Tab.set Memory.blank a b m

/-- The canonical form: addresses strictly rising, and no entry that reads as an unlisted one. -/
def Memory.wf (m : List Host.Cell) : Bool := Tab.wf Memory.blank m

def Memory.readBytes (a n : Nat) (m : List Host.Cell) : List Byte := (List.range n).map (fun i => Memory.read (a + i) m)

def Memory.writeBytes : Nat → List Byte → List Host.Cell → List Host.Cell
  | _, [], m => m
  | a, b :: bs, m => Memory.writeBytes (a + 1) bs (Memory.write a b m)

/-- The `n` bytes from an address, least significant first. -/
def Memory.readLe (a n : Nat) (m : List Host.Cell) : Nat := leNat (Memory.readBytes a n m)

/-! ### HBM (R372, R382, R386) -/

/-- HBM byte address of a byte of a local page. -/
def pageAddr (h page off : Nat) : Nat := (20971520 * h + page) * 65536 + off

/-- LD_STACK.ECC_UE of a stack site. -/
def stackUe (site : Nat) : CtrField := ⟨0x3880000 + 0x100 * site, 33, 15, 48⟩

/-- LD_STACK.ECC_CE of a stack site. -/
def stackCe (site : Nat) : CtrField := ⟨0x3880000 + 0x100 * site, 2, 30, 32⟩

/-- The transfer reads what was written. -/
def hbmOk : HbmCheck → Bool | .bad _ => false | _ => true

/-- The page of an error, among those that an access touches. -/
def hbmPage (pages : List Nat) : HbmCheck → Nat
  | .corrected _ i => pages.getD i (pages.headD 0)
  | .bad i => pages.getD i (pages.headD 0)
  | .good => pages.headD 0

/-- Symbols corrected in an access to pages of half `h` count in ECC_CE of the stack of the page that held them (R382). -/
def Chip.hbmCe (h : Nat) (pages : List Nat) (check : HbmCheck) (c : Chip) : Chip :=
  match check with | .corrected n _ => c.bump (stackCe (c.siteOfPage h (hbmPage pages check))) n | _ => c

/-- A retirement of the stack awaits its boundary. -/
def Chip.stackRetiring (c : Chip) (site : Nat) : Bool :=
  c.due.any (fun e => match e.2 with | .retireStack s => s == site | _ => false)

/-- Firmware retires a stack in service at the boundary R16 gives (R386). -/
def Chip.retireStackSoon (site : Nat) (c : Chip) : Chip :=
  if bitAt c.lard.retired site || c.stackRetiring site || !bitAt (capsOf c.fuses.variant).sites site then c
  else c.schedule c.effectDeal (.retireStack site)

/-- An uncorrectable granule in a page of half `h` (R382); the sixteenth of a stack within 1 s retires it. -/
def Chip.eccUe (h page : Nat) (c : Chip) : Chip :=
  let site := c.siteOfPage h page
  let times := c.tb.lt :: (Tab.get [] site c.lard.ueTimes).filter (fun t => decide (c.tb.lt ≤ t + 2000000000))
  let c := { c with lard := { c.lard with ueTimes := Tab.put site times c.lard.ueTimes } }
  let c := (c.bump (stackUe site) 1).raise 0x0E03 3 [(26, 20971520 * h + page)]
  if 16 ≤ times.length then c.retireStackSoon site else c

end Sys2Proof.Machine
end

