-- ==== Sys2Proof/Machine/Mailbox.lean ====
section
/-! DEFINITION. Mailboxes and in-band slots as shared operations: a ring, acceptance with the checks of R437
in their order, and a result (R431 to R442, R498). -/

namespace Sys2Proof.Machine

open Sys2Proof

def Chip.mbx (c : Chip) (k : Nat) : Mailbox := Tab.get {} k c.stew.mbx

def Chip.setMbx (k : Nat) (v : Mailbox) (c : Chip) : Chip :=
  { c with stew := { c.stew with mbx := Tab.set {} k v c.stew.mbx } }

def Chip.slot (c : Chip) (s : Nat) : Slot := Tab.get {} s c.stew.slots

def Chip.setSlot (s : Nat) (v : Slot) (c : Chip) : Chip :=
  { c with stew := { c.stew with slots := Tab.set {} s v c.stew.slots } }

/-- The code of a status (R437). -/
def Status.code : Status → Nat
  | .ok => 0 | .pending => 1 | .absent => 2 | .busy => 3 | .badValue => 4 | .badOpcode => 5 | .badLength => 6
  | .denied => 7 | .notAligned => 8 | .notReady => 9 | .late => 0xA | .notFound => 0xB | .exists_ => 0xC
  | .noSpace => 0xD | .conflict => 0xE | .badLane => 0xF | .badRole => 0x10 | .badAddr => 0x11
  | .badDesc => 0x12 | .badIndex => 0x13 | .badEntry => 0x14 | .badCheck => 0x15 | .badRegion => 0x16
  | .noSpare => 0x17 | .noDispute => 0x18 | .noLedger => 0x19 | .noSource => 0x1A | .fragmented => 0x1B
  | .ecc => 0x1C | .aborted => 0x1D | .authFail => 0x1E | .rollback => 0x1F | .frozen => 0x20
  | .restarting => 0x21

/-- The assigned opcodes (R443). -/
def opcodes : List Nat :=
  [0x0101, 0x0102, 0x0103, 0x0104, 0x0105, 0x0106, 0x0107, 0x0201, 0x0202, 0x0302, 0x0312, 0x0313, 0x0321,
    0x0322, 0x0401, 0x0402, 0x0403, 0x0404, 0x0501, 0x0511, 0x0512, 0x0513, 0x0514, 0x0515, 0x0521, 0x0522,
    0x0523, 0x0524, 0x0531, 0x0601, 0x0602, 0x0603, 0x0611, 0x0621, 0x0622, 0x0701, 0x0702, 0x0703, 0x0704,
    0x0705, 0x0711, 0x0712] ++
  [0x0801, 0x0901, 0x0902, 0x0903, 0x0904, 0x0911, 0x0912, 0x0913, 0x0914, 0x0A01, 0x0A02, 0x0A03, 0x0A11,
    0x0A12, 0x0B01, 0x0B02, 0x0B03, 0x0B04, 0x0B11, 0x0B12, 0x0B13, 0x0B21, 0x0C01, 0x0C02, 0x0C03, 0x0C04,
    0x0C05, 0x0C06, 0x0D01, 0x0D02, 0x0D03, 0x0D04, 0x0E01, 0x0E02, 0x0E03, 0x0E04, 0x0E05, 0x0E06, 0x0E07,
    0x0E08] ++
  [0x0F01, 0x0F02, 0x0F03, 0x0F04, 0x0F05, 0x0F11, 0x0F12, 0x0F13, 0x0F14, 0x0F21, 0x0F22, 0x0F31, 0x0F32,
    0x0F33, 0x0F41, 0x0F42, 0x1001, 0x1002, 0x1003, 0x1011, 0x1012, 0x1013, 0x1021, 0x1022, 0x1031, 0x1032,
    0x1041, 0x1042, 0x1043, 0x1044, 0x1045, 0x1101, 0x1102, 0x1103, 0x1104, 0x1111, 0x1112, 0x1113, 0x1201,
    0x1202]

/-- Commands that return DENIED in-band (R440). -/
def deniedInBand : List Nat := [0x1041, 0x1042, 0x1043, 0x1044, 0x1013, 0x1011, 0x1031, 0x1032]

/-- Commands that act while frozen (R441). -/
def actsFrozen : List Nat := [0x1001, 0x1002, 0x1045, 0x0105, 0x0202, 0x1201, 0x1003, 0x1112, 0x1113]

/-- The bring-up stage of the unit that a command's group touches, 0 for none (R498). -/
def stageOf (op : Nat) : Nat :=
  match op / 256 with
  | 0x03 => 5 | 0x0A => 3 | 0x0B => 3 | 0x0C => 3 | 0x0D => 6 | 0x0E => 4
  | _ => if op = 0x1031 ∨ op = 0x1032 then 4 else 0

/-- The response packet of in-band slot `s` (R439). -/
def Chip.mgmtPayload (c : Chip) (s : Nat) : List Byte :=
  let m := c.mbx (16 + s)
  beBytes 8 (field 0xF 60 4 + field s 56 4 + field m.hdrSeq 40 16 + field m.opcode 24 16 + field m.hdrWords 13 11 +
      field m.status 5 8) ++ beBytes 8 (m.resultDeal % 2 ^ 48) ++ beBytes 8 (m.readCount % 2 ^ 16) ++ beBytes 8 0 ++
    m.res.flatMap (fun w => beBytes 4 w.toNat)

/-- Send the response of an in-band slot to its bound name (R439); a frozen part answers none (R441). -/
def Chip.mgmtRespond (s : Nat) (c : Chip) : Chip :=
  match (c.slot s).bound with
  | none => c
  | some name =>
    if c.regs.freeze.accepted then c
    else c.originate 0 name 1 0 (c.mbx (16 + s)).hdrSeq (c.mgmtPayload s)

/-- The result of a command becomes ready in its mailbox or slot, unless the mailbox has been cleared since
it was rung (R428, R434 to R436). -/
def Chip.post (k ticket : Nat) (status : Status) (words : List Nat) (c : Chip) : Chip :=
  let m := c.mbx k
  if m.pending ∧ m.ticket = ticket then
    let c := c.setMbx k { m with
      pending := false, ready := true, status := status.code, hdrWords := words.length, readCount := 0
      res := words.map (BitVec.ofNat 32) }
    if k < 16 then (if m.irq then c.signal k else c) else c.mgmtRespond (k - 16)
  else c

/-- A request as firmware reads it. -/
structure Request where
  k : Nat
  ticket : Nat
  n : Nat
  w : Nat → Nat

/-- What a command answers: its status and result words, or that it waits (R434). -/
structure Answer where
  chip : Chip
  status : Status := .ok
  words : List Nat := []

/-- A command's table: whether its unit is absent, the request words it needs, and what it does. -/
structure Command where
  absent : Chip → Bool := fun _ => false
  words : (Nat → Nat) → Nat
  act : Request → Chip → Answer

def answer (c : Chip) (words : List Nat := []) : Answer := { chip := c, words := words }

def refuse (c : Chip) (st : Status) (words : List Nat := []) : Answer := { chip := c, status := st, words := words }

/-- A command that waits for its work to end (R434). -/
def waits (r : Request) (opcode : Nat) (started : Bool) (args : List Nat) (c : Chip) : Answer :=
  { chip := { c with stew := { c.stew with waiting := c.stew.waiting ++ [⟨r.k, r.ticket, opcode, started, args⟩] } }
    status := .pending }

/-- Firmware accepts the oldest rung command, that of mailbox or slot `k`, in the current Deal (R433, R435). -/
def Chip.taken (k : Nat) (c : Chip) : Chip :=
  (Chip.setMbx k { c.mbx k with accepted := true, resultDeal := c.deal }
    { c with stew := { c.stew with rung := c.stew.rung.tail } }).occur 4 0x01 none none 1

/-- The request in mailbox or slot `k`. -/
def Chip.request (c : Chip) (k : Nat) : Request :=
  { k := k, ticket := (c.mbx k).ticket, n := (c.mbx k).words, w := fun i => (Tab.get 0 i (c.mbx k).req).toNat }

/-- A command's answer is posted, unless it waits (R434). -/
def Answer.conclude (k ticket : Nat) (a : Answer) : Chip :=
  if a.status = .pending then a.chip else a.chip.post k ticket a.status a.words

/-- Commands of the oldest rung mailboxes that firmware refuses without a table: BAD_OPCODE and DENIED
(R437, R440). -/
def Chip.settle : Nat → Chip → Chip
  | 0, c => c
  | n + 1, c =>
    match c.stew.rung with
    | [] => c
    | k :: _ =>
      let m := c.mbx k
      let bad := !opcodes.contains m.opcode
      let denied := decide (16 ≤ k) && deniedInBand.contains m.opcode
      if bad || denied then
        Chip.settle n ((c.taken k).post k m.ticket (if bad then .badOpcode else .denied) [])
      else c

/-- Before BOOT_READY only `sys.info`, and `fw.stage` on mailbox 0 when the straps ask for recovery over
PCIe, are taken (R453, R498). -/
def Chip.earlyCommand (c : Chip) (k op : Nat) : Bool :=
  op == 0x1002 || (op == 0x1041 && k == 0 && c.pkg.straps % 4 == 1)

/-- A ring (R432): the header restarts, and the command waits its turn. During a live restart, and before
BOOT_READY, it is ready at once (R457, R498). -/
def Chip.ringBox (k : Nat) (c : Chip) : Chip :=
  let m := c.mbx k
  let t := c.stew.nextTicket
  let c := { c with stew := { c.stew with nextTicket := t + 1 } }
  let c := c.setMbx k { m with
    hdrSeq := m.seq, status := Status.pending.code, ready := false, hdrWords := 0, readCount := 0
    accepted := false, resultDeal := 0, res := [], pending := true, ticket := t }
  if c.stew.phase = .restarting then c.post k t .restarting []
  else if !c.stew.bootReady && !c.earlyCommand k m.opcode then c.post k t .notReady []
  else Chip.settle 32 { c with stew := { c.stew with rung := c.stew.rung ++ [k] } }

/-- The checks of R437 and then the command's own work. -/
def Chip.serve (op : Nat) (cmd : Command) (r : Request) (c : Chip) : Answer :=
  if c.regs.freeze.accepted && !actsFrozen.contains op then refuse c .frozen
  else if cmd.absent c then refuse c .absent
  else if r.n ≠ cmd.words r.w then refuse c .badLength
  else if stageOf op ≠ 0 ∧ !bitAt c.boot.ended (stageOf op) then refuse c .busy
  else cmd.act r c

/-- Firmware accepts the oldest rung command, which is the one of mailbox or slot `k` with this opcode; if
the oldest is another, no such event takes place (R433). -/
def Chip.accept (op k : Nat) (cmd : Command) (c : Chip) : Chip :=
  let m := c.mbx k
  match c.stew.rung with
  | [] => c
  | j :: _ =>
    if j = k ∧ m.opcode = op ∧ (c.stew.bootReady = true ∨ c.earlyCommand k op = true) ∧ c.stew.phase ≠ .restarting then
      Chip.settle 32 (((c.taken k).serve op cmd (c.request k)).conclude k m.ticket)
    else c

/-- The waiting command of an opcode in a mailbox, if any. -/
def Chip.waitingOf (c : Chip) (op : Nat) (p : Waiting → Bool) : Option Waiting :=
  c.stew.waiting.find? (fun w => w.opcode == op && p w)

/-- A waiting command ends: it leaves the list and its result is posted. -/
def Chip.finish (w : Waiting) (status : Status) (words : List Nat) (c : Chip) : Chip :=
  ({ c with stew := { c.stew with waiting := c.stew.waiting.erase w } }).post w.mbx w.ticket status words

/-- A command's work starts, so that `mb.abort` no longer ends it. -/
def Chip.startWork (w : Waiting) (c : Chip) : Chip :=
  { c with stew := { c.stew with waiting := c.stew.waiting.map (fun x => if x = w then { x with started := true } else x) } }

/-- A 48-bit value in two request words from word `i` (R443). -/
def Request.name (r : Request) (i : Nat) : Nat := r.w i + 2 ^ 32 * (r.w (i + 1) % 2 ^ 16)

/-- A 64-bit value in two request words from word `i`. -/
def Request.long (r : Request) (i : Nat) : Nat := r.w i + 2 ^ 32 * r.w (i + 1)

/-- The result words of a Deal (R443). -/
def dealWords (d : Nat) : List Nat := twoWords (d % 2 ^ 48)

/-- A command that names a change for the boundary R16 gives and answers that Deal. -/
def atBoundary (x : Change) (c : Chip) : Answer := answer (c.schedule c.effectDeal x) (dealWords c.effectDeal)

end Sys2Proof.Machine
end

