-- ==== Sys2Proof/Machine/Mirror.lean ====
section
/-! DEFINITION. Register words of what a mirror carries, the mirror's stream of changes, and how a step's changes
of mirrored items join it (R392 to R394). -/

namespace Sys2Proof.Machine

open Sys2Proof

/-! ### Register words -/

def TableState.code : TableState → Nat
  | .empty => 0 | .loading => 1 | .loaded => 2 | .current => 3 | .draining => 4 | .retired => 5

/-- XG_EPOCH. -/
def Chip.xgEpoch (c : Chip) (h : Nat) : Nat :=
  let deal := match c.nest.flip with
    | some x => x.2
    | none => if (c.table h 0).state = .draining ∨ (c.table h 1).state = .draining then c.nest.drainEnd.getD 0 else 0
  field (c.table h 0).state.code 0 3 + field (c.table h 1).state.code 3 3 + field (b2n c.nest.flip.isSome) 6 1 + field deal 8 48

/-- XG_FAN and XG_FAN_HDR. -/
def Chip.xgFan (c : Chip) (h f m : Nat) : Nat :=
  match (c.fan h f).members[m]? with
  | none => 0
  | some x =>
    field x.port 0 12 + field x.weight 12 8 + field (c.effWeight 6 x) 20 8 + field (b2n x.active) 28 1 + field (b2n (c.eligible x)) 29 1

/-- XG_QCFG, XG_QSTAT, XG_BUF_CFG, XG_BUF_STAT, XG_EXPECT and XG_MCAST word `k`. -/
def QConfig.word (x : QConfig) : Nat :=
  field x.min 0 8 + field x.alpha 8 4 + field x.markT 12 12 + field (b2n x.ct) 24 1 + field (b2n x.spillEn) 25 1 + field x.spillMax 26 16

def Expect.word (x : Expect) : Nat := field x.name 0 48 + field x.mode 48 2 + field (b2n x.pending) 50 1

def Chip.expect (c : Chip) (p : Nat) : Expect := Tab.get {} p c.xbar.expect

def Chip.setExpect (p : Nat) (v : Expect) (c : Chip) : Chip :=
  { c with xbar := { c.xbar with expect := Tab.set {} p v c.xbar.expect } }

def Chip.xgMcast (c : Chip) (h g k : Nat) : Nat := bitsAt (c.group h g) (64 * k) (if k < 16 then 64 else 4)

def Chip.cal (c : Chip) (k : Nat) : Calendar := Tab.get {} k c.sch.cals

def Chip.setCal (k : Nat) (v : Calendar) (c : Chip) : Chip := { c with sch := { c.sch with cals := Tab.set {} k v c.sch.cals } }

def Calendar.bank (x : Calendar) (b : Nat) : CalBank := if b = 0 then x.bank0 else x.bank1

def Calendar.setBank (b : Nat) (v : CalBank) (x : Calendar) : Calendar := if b = 0 then { x with bank0 := v } else { x with bank1 := v }

/-- GATES and DURATION of an entry; the reset value is every gate open for no time (XG_CAL_ENT). -/
def CalBank.entry (x : CalBank) (e : Nat) : Nat × Nat := Tab.get (0xFF, 0) e x.entries

/-- A bank is valid at `dealCycles` core cycles per Deal (R192). -/
def CalBank.valid (x : CalBank) (dealCycles : Nat) : Bool :=
  decide (1 ≤ x.n) && decide (1 ≤ x.deals) && decide (x.deals ≤ 64) &&
    (List.range x.n).all (fun e => decide (1 ≤ (x.entry e).2)) &&
    (List.range x.n).foldl (fun a e => a + (x.entry e).2) 0 == x.deals * dealCycles

/-- XG_SCHED but its counter. -/
def Chip.xgSched (c : Chip) (p : Nat) : Nat :=
  let s := c.sched p
  let pend := c.due.any (fun e => match e.2 with | .calBind q _ _ => q == p | _ => false)
  field s.ovh 0 10 + field s.cal 10 5 + field (b2n s.calEn) 15 1 + field s.rsvd 16 3 +
    (List.range 4).foldl (fun a i => a + field (s.weights.getD i 0) (19 + 4 * i) 4) 0 + field (b2n pend) 35 1

/-- XG_CAL_CTRL. -/
def Chip.xgCalCtrl (c : Chip) (key : Nat) : Nat :=
  let x := c.cal key
  let deals (b : CalBank) : Nat := if b.valid c.dealCycles then b.deals else 0
  field (b2n x.running) 0 1 + field x.active 1 1 + field (b2n x.commitPending.isSome) 2 1 + field (b2n x.stopPending.isSome) 3 1 +
    field x.bank0.n 4 9 + field x.bank1.n 13 9 + field (deals x.bank0) 22 7 + field (deals x.bank1) 29 7

/-- XG_CAL_ENT, XG_METER_RATE and XG_METER_BURST. -/
def Chip.xgCalEnt (c : Chip) (key bank e : Nat) : Nat :=
  let x := ((c.cal key).bank bank).entry e
  field x.1 0 8 + field x.2 8 16

def Meter.rate (x : Meter) : Nat := field x.cir 0 21 + field x.pir 21 21

def Meter.burst (x : Meter) : Nat :=
  field x.cbs 0 24 + field x.pbs 24 24 + field x.actG 48 2 + field x.actY 50 2 + field x.actR 52 2

def Chip.mirror (c : Chip) (h : Nat) : MirrorHalf := c.twin.mirror.get h

def Chip.setMirror (h : Nat) (v : MirrorHalf) (c : Chip) : Chip := { c with twin := { c.twin with mirror := c.twin.mirror.set h v } }

/-- Backlog cells of a half: its unconfirmed packets and the changes still to pack (R394). -/
def MirrorHalf.backlog (m : MirrorHalf) : Nat :=
  m.unconfirmed.foldl (fun a p => a + (64 + 64 * p.2.2.length + 255) / 256) 0 + (64 * m.changes.length + 255) / 256

/-- A change does not fit the 16 MiB backlog (R394). -/
def Chip.goStale (h : Nat) (c : Chip) : Chip :=
  let m := c.mirror h
  if m.on ∧ !m.stale ∧ 65536 ≤ m.backlog then (c.setMirror h { m with stale := true }).raise 0x0F02 2 [(1, h)] else c

/-- A change that no longer fits the backlog while a resync runs ends it: STALE stays, and a new resync follows (R394). -/
def Chip.endResync (h : Nat) (c : Chip) : Chip :=
  let m := c.mirror h
  if m.resync ∧ 65536 ≤ m.backlog then c.setMirror h { m with changes := [], resync := false, copying := false, copyPos := 0 } else c

/-- A change of a mirrored item of half `h` joins the stream (R392, R394). -/
def Chip.mirrorChange (h : Nat) (r : MirrorRecord) (c : Chip) : Chip :=
  let c := (c.goStale h).endResync h
  let m := c.mirror h
  if m.on && (!m.stale || m.resync) then c.setMirror h { m with changes := m.changes ++ [r] } else c


/-- KT_LEDGER and KT_LEDGER_LAST of job `j` of half `h`. -/
def Chip.ktLedger (c : Chip) (h j : Nat) : Nat :=
  match c.kit.jobs.find? (fun e => e.1 == 256 * h + j) with
  | none => 0
  | some e =>
    field e.2.step 0 48 + field e.2.attempt 48 4 + field (if e.2.abortPending then 2 else 1) 52 2 +
      field (b2n (c.kit.stJob == some j)) 54 1

def Chip.ktLedgerLast (c : Chip) (h j : Nat) : Nat :=
  let x : Job := Tab.get {} (256 * h + j) c.kit.jobs
  field x.lastDeal 0 48 + field (min 0xFFFF x.lastLen) 48 16

/-- XG_GATE_MAP of expert `x`, and XG_GATE_CAP of the four experts from `4 y` on. -/
def Gate.mapWord (g : Gate) (x : Nat) : Nat := let e := Tab.get (0, false) x g.map; field e.1 0 48 + field (b2n e.2) 48 1

def Gate.capWord (g : Gate) (y : Nat) : Nat :=
  (List.range 4).foldl (fun a i => a + field (Tab.get 0 (4 * y + i) g.cap) (16 * i) 16) 0

/-! ### Items (R392) -/

/-- A mirrored item: what decides whether it changed, and the record that carries it. -/
structure MirrorItem where
  seen : List Nat
  rec_ : MirrorRecord
  deriving DecidableEq, Repr

def item (type sub index : Nat) (body : List Nat) : MirrorItem :=
  { seen := body, rec_ := { type := type, sub := sub, index := index, body := body } }

/-- Open Kitties and Ledger jobs of a half. -/
def Chip.kittyItems (c : Chip) (h : Nat) : List MirrorItem :=
  let open_ := c.kit.kitty.filter (fun e => e.1 / 32768 == h && e.2.state != .opening)
  let jobs := c.kit.jobs.filter (fun e => e.1 / 256 == h)
  open_.map (fun e => item 3 0 (e.1 % 32768) (e.2.desc ++ [e.2.opened])) ++
    jobs.map (fun e => item 5 0 (e.1 % 256) [c.ktLedger h (e.1 % 256), c.ktLedgerLast h (e.1 % 256)])

/-- Fans, multicast groups, queues, schedulers, expectations and meters of a half. -/
def Chip.settingItems (c : Chip) (h : Nat) : List MirrorItem :=
  let fans := (c.nest.fans.filter (fun e => e.1 / 1024 == h)).flatMap (fun e =>
    e.2.members.mapIdx (fun m x =>
      { seen := [x.port, x.weight, b2n x.active]
        rec_ := { type := 8, sub := e.1 % 1024, index := m, body := [c.xgFan h (e.1 % 1024) m] } }))
  let groups := (c.xbar.groups.filter (fun e => e.1 / 8192 == h)).flatMap (fun e =>
    (List.range 3).map (fun s =>
      item 9 s (e.1 % 8192) (((List.range 7).filter (fun i => decide (7 * s + i < 17))).map (fun i => c.xgMcast h (e.1 % 8192) (7 * s + i)))))
  let queues := (c.xbar.qcfg.filter (fun e => e.1 / 8216 == h)).map (fun e => item 0xB 0 (e.1 % 8216) [e.2.word])
  let ports := ((c.sch.sched.map Prod.fst) ++ (c.xbar.expect.map Prod.fst)).eraseDups.filter (fun p => decide (p < 0x804) && halfOf p == h)
  let sets := ports.map (fun p => item 0xC 0 p [c.xgSched p, (c.expect p).word])
  let meters := (c.sch.meters.filter (fun e => e.1 / 4096 == h)).map (fun e =>
    item 0xD 0 (e.1 % 4096) [Meter.rate { e.2 with tc := 0, tp := 0 }, e.2.burst, 0])
  let word (k : Nat) : Nat := (List.range 4).foldl (fun a i => a + field (Tab.get 0 (4 * k + i) c.sch.bindings) (16 * i) 16) 0
  let binds := (((c.sch.bindings.filter (fun e => halfOf (e.1 / 8) == h)).map (fun e => e.1 / 4)).eraseDups).map
    (fun k => item 0xD 1 k [0, 0, word k])
  fans ++ groups ++ queues ++ sets ++ meters ++ binds

/-- Calendars, gates and epochs of a half. -/
def Chip.tableItems (c : Chip) (h : Nat) : List MirrorItem :=
  let cals := (c.sch.cals.filter (fun e => e.1 / 32 == h)).flatMap (fun e =>
    [0, 1].flatMap (fun b => (List.range (e.2.bank b).n).map (fun i =>
      let x := item 0xA (2 * (e.1 % 32) + b) i [c.xgCalEnt e.1 b i, c.xgCalCtrl e.1, e.2.origin]
      { x with seen := x.seen ++ [b2n e.2.begun] })))
  let gates := (c.gate.gate.filter (fun e => e.1 / 16 == h)).flatMap (fun e =>
    item 0xE 0 (e.1 % 16) e.2.desc ::
      (e.2.map.map (fun x => item 0xE 1 (1024 * (e.1 % 16) + x.1) [e.2.mapWord x.1]) ++
        ((e.2.cap.map (fun x => x.1 / 4)).eraseDups.map (fun y => item 0xE 2 (1024 * (e.1 % 16) + 4 * y) [e.2.capWord y]))))
  item 7 0 0 [c.xgEpoch h] :: (cals ++ gates)

def Chip.mirrorItems (c : Chip) (h : Nat) : List MirrorItem := c.kittyItems h ++ c.settingItems h ++ c.tableItems h

/-- ROUTE records of the valid entries of an epoch's table (R392). -/
def Chip.routeRecords (c : Chip) (h e : Nat) : List MirrorRecord :=
  ((c.table h e).entries.filter (fun x => bitAt x.2.1 12)).map (fun x => { type := 6, sub := e, index := x.1, body := [x.2.1, x.2.2] })

/-- The records that lead from one set of items to another: a closed Kitty sends KITTY_CLOSE, and any other item
that is gone sends its record with a zero body. -/
def recordsFrom (old new : List MirrorItem) : List MirrorRecord :=
  let same (a b : MirrorItem) : Bool := a.rec_.type == b.rec_.type && a.rec_.sub == b.rec_.sub && a.rec_.index == b.rec_.index
  let gone := old.filter (fun x => !new.any (same x))
  let end_ (x : MirrorItem) : MirrorRecord :=
    if x.rec_.type = 3 then { type := 4, index := x.rec_.index, body := [x.rec_.body.getD 0 0 / 2 ^ 32] } else { x.rec_ with body := [] }
  let fresh := new.filter (fun x => !old.any (fun y => same x y && x.seen == y.seen))
  gone.map end_ ++ fresh.map (fun x => x.rec_)

/-- A step of the part whose changes of mirrored items join the streams of the halves whose mirror is on; the
tables that it sealed are sent whole. -/
def Chip.mirrored (f : Chip → Chip) (c : Chip) : Chip :=
  let new := f c
  let half (x : Chip) (h : Nat) : Chip :=
    if !(new.mirror h).on then x
    else
      let sealed_ := [0, 1].filter (fun e => (c.table h e).state == .loading && (new.table h e).state == .loaded)
      let routes := sealed_.flatMap (fun e => new.routeRecords h e)
      (routes ++ recordsFrom (c.mirrorItems h) (new.mirrorItems h)).foldl (fun x r => x.mirrorChange h r) x
  [0, 1].foldl half new

end Sys2Proof.Machine
end

