-- ==== Sys2Proof/Machine/Targets.lean ====
section
/-! DEFINITION. Deal targets moving to a new numbering (R40, R504), and the conditions of R39. -/

namespace Sys2Proof.Machine

open Sys2Proof

/-- Cycle length in Deals of a Calendar's active bank. -/
def Calendar.length (x : Calendar) : Nat := if x.active = 0 then x.bank0.deals else x.bank1.deals

/-- Deal `d` is at or after Deal `e`, in numbers that wrap at 2^48. -/
def atOrAfter (d e : Nat) : Bool := decide ((d + 2 ^ 48 - e % 2 ^ 48) % 2 ^ 48 < 2 ^ 47)

/-- The first Deal after `d` of those that lie a whole number of `len` Deals from `base` on. -/
def startAfter (base len d : Nat) : Nat :=
  if atOrAfter d base then (base + ((d + 2 ^ 48 - base % 2 ^ 48) % 2 ^ 48 / max 1 len + 1) * max 1 len) % 2 ^ 48 else base

/-- The first cycle start of a running Calendar after Deal `d`: from its commit on, one that has been accepted counts in cycles of
its own bank (R193, R194). -/
def Calendar.nextStart (x : Calendar) (d : Nat) : Nat :=
  let other := if x.active = 0 then x.bank1.deals else x.bank0.deals
  match x.commitPending with
  | some e => if atOrAfter d e then startAfter e other d else startAfter x.base x.length d
  | none => startAfter x.base x.length d

/-- A Calendar whose next cycle start moves with the numbering, its origin with it (R504). -/
def Calendar.retarget (f : Nat → Nat) (d : Nat) (x : Calendar) : Calendar :=
  if x.running then
    { x with base := f (x.nextStart d), origin := f (x.nextStart d)
             commitPending := x.commitPending.map f, stopPending := x.stopPending.map f }
  else x

/-- A Loom's work under way, its Deals renumbered. -/
def Loom.renumber (g : Nat → Nat) (x : Loom) : Loom :=
  let whom (w : RunFor) : RunFor := match w with | .gate key batch binding => .gate key (g batch) binding | w => w
  let run (r : Run) : Run := { r with forWhom := whom r.forWhom, held := r.held.map (fun h => { h with deal := g h.deal }) }
  { x with run := x.run.map run, yielded := x.yielded.map (fun e => (e.1, run e.2))
           fills := x.fills.map (fun y => { y with deal := g y.deal }) }

/-- A gate's batches under way, their Deals renumbered. -/
def Gate.renumber (f g : Nat → Nat) (x : Gate) : Gate :=
  let part (r : ReplicaBatch) : ReplicaBatch := { r with dispatched := g r.dispatched, ended := g r.ended, transferred := g r.transferred }
  { x with swap := x.swap.map (fun y => (y.1, f y.2)), loadDeal := g x.loadDeal
           activeAt := f x.activeAt
           batches := x.batches.map (fun b => { b with deal := g b.deal, replicas := b.replicas.map part }) }

/-- The deadline in the payload of a JOB_START that is held moves with the numbering (R40, R418). -/
def movePayload (f : Nat → Nat) (bs : List Byte) : List Byte :=
  let w := beNat ((bs.drop 8).take 8)
  bs.take 8 ++ beBytes 8 (w / 2 ^ 48 * 2 ^ 48 + f (w % 2 ^ 48) % 2 ^ 48) ++ bs.drop 16

/-- Every target a command or rule has fixed as a Deal number moves by `f` (R40, R504), and the Deals that work under way is
told by move by `g`. `d` is the last Deal whose boundary has been seen to. Waits in progress are counted in boundaries and move with
nothing. -/
def Chip.retarget (d : Nat) (f g : Nat → Nat) (c : Chip) : Chip :=
  let portF (x : Port) : Port :=
    { x with notices := x.notices.map (fun n => { n with target := f n.target })
             resizeAt := x.resizeAt.map f, farDisableAt := x.farDisableAt.map f
             leaveAt := x.leaveAt.map (fun e => (f e.1, e.2)), joinAt := x.joinAt.map (fun e => (f e.1, e.2)) }
  { c with
    due := c.due.map (fun e => (f e.1, e.2))
    stew := { c.stew with unrecorded := c.stew.unrecorded.map (fun e => (f e.1, e.2)) }
    boot := { c.boot with results := c.boot.results.map (fun e => (f e.1, e.2)) }
    regs := { c.regs with snap := c.regs.snap.map (fun e => (e.1, { e.2 with armDeal := g e.2.armDeal })) }
    nest := { c.nest with flip := c.nest.flip.map (fun e => (e.1, f e.2)), drainEnd := c.nest.drainEnd.map f }
    ports := { c.ports with port := c.ports.port.map (fun e => (e.1, portF e.2)) }
    kit := { c.kit with kitty := c.kit.kitty.map (fun e => (e.1, { e.2 with closing := e.2.closing.map f })) }
    loom := { c.loom with slots := c.loom.slots.map (fun e => (e.1, { e.2 with runAt := e.2.runAt.map f }))
                          loom := c.loom.loom.map (fun e => (e.1, e.2.renumber g)) }
    twin := { c.twin with bcast := { c.twin.bcast with
      expected := c.twin.bcast.expected.map (fun e => (e.1, f e.2))
      holds := c.twin.bcast.holds.map (fun x => { x with payload := movePayload f x.payload })
      toChildren := c.twin.bcast.toChildren.map (movePayload f) } }
    gate := { gate := c.gate.gate.map (fun e => (e.1, e.2.renumber f g)) }
    sch := { c.sch with cals := c.sch.cals.map (fun e => (e.1, e.2.retarget f d)) } }

/-- A target Deal number in the numbering of instant `ft` with Deals of `q` core cycles, of which `left` core cycles
remain: the first boundary at or after it (R40, R504). -/
def newNumber (ft q left : Nat) : Nat := (ft + left + q - 1) / q % 2 ^ 48

/-- Core cycles from now to the boundary of Deal `d`, or none where it has been reached (Deal numbers wrap at 2^48). -/
def Chip.remaining (c : Chip) (d : Nat) : Option Nat :=
  let cur := c.tb.ft / c.dealCycles
  let k := (d + 2 ^ 48 - cur % 2 ^ 48) % 2 ^ 48
  if k = 0 ∨ 2 ^ 47 ≤ k then none else some ((cur + k) * c.dealCycles - c.tb.ft)

/-- Instants that are kept as values of FT stay where they are in time when FT takes the value `ft`: the opening of a Calendar's
entry, and the ends of a port's packet and window. -/
def Chip.shiftFt (ft : Nat) (c : Chip) : Chip :=
  let old := c.tb.ft
  let cal (x : Calendar) : Calendar := { x with opened := x.opened + ft - old }
  let port (x : Sched) : Sched :=
    { x with busyUntil := x.busyUntil + 100 * ft - 100 * old, windowEnd := x.windowEnd + 100 * ft - 100 * old
             closeAt := x.closeAt + 100 * ft - 100 * old
             leaving := x.leaving.map (fun y => { y with since := y.since + 100 * ft - 100 * old }) }
  { c with sch := { c.sch with cals := c.sch.cals.map (fun e => (e.1, cal e.2)), sched := c.sch.sched.map (fun e => (e.1, port e.2)) } }

/-- Where a target Deal lies in the numbering of instant `ft` with Deals of `q` core cycles: one already reached keeps its
number (R40, R504). -/
def Chip.target (ft q : Nat) (c : Chip) (d : Nat) : Nat :=
  match c.remaining d with
  | none => d
  | some n => newNumber ft q n

/-- The Deal of work under way in that numbering. DESIGN CHOICE: one already reached stays as many Deals back as it was. -/
def Chip.workDeal (ft q : Nat) (c : Chip) (d : Nat) : Nat :=
  match c.remaining d with
  | none => (ft / q + d + 2 ^ 48 - c.deal) % 2 ^ 48
  | some n => newNumber ft q n

/-- FT is loaded or stepped to `ft` (in half ns): targets keep the time that remained to them, and ST does
not jump (R22, R504). -/
def Chip.jumpFt (ft : Nat) (c : Chip) : Chip :=
  let c := (c.retarget c.deal (c.target ft c.dealCycles) (c.workDeal ft c.dealCycles)).shiftFt ft
  { c with tb := { c.tb with ft := ft, guarded := false } }

/-- The change of period at the FT instant of now, a boundary of both periods (R38, R40). A target of this very
boundary takes its new number. DESIGN CHOICE: TB_CTRL.DEAL_PERIOD shows the period in force, and so changes here and not when
firmware executes `deal.period` (R50). -/
def Chip.changePeriod (code : Nat) (c : Chip) : Chip :=
  let q := 1024 * 2 ^ code
  let f (d : Nat) : Nat := if d = c.deal then c.tb.ft / q % 2 ^ 48 else c.target c.tb.ft q d
  let c := c.retarget (c.dealBefore 1) f (c.workDeal c.tb.ft q)
  { c with tb := { c.tb with period := code } }

/-- No Calendar runs (R39, R194). -/
def Chip.noCalendar (c : Chip) : Bool := c.sch.cals.all (fun e => !e.2.running)

/-- No Kitty is open, one that awaits its boundary counting as open (R39, R136). -/
def Chip.noKitty (c : Chip) : Bool := c.kit.kitty.isEmpty

/-- The conditions of R39: no Kitty is open, no Calendar is running and no gate is loaded. -/
def Chip.quiescent (c : Chip) : Bool := c.noKitty && c.noCalendar && c.gate.gate.isEmpty

end Sys2Proof.Machine
end

