-- ==== Sys2Proof/Machine/Ports.lean ====
section
/-! DEFINITION. Ports: training, markers, NOTICEs and the port commands (04_ports_and_links.md). -/

namespace Sys2Proof.Machine

open Sys2Proof

def LinkState.code : LinkState → Nat
  | .disabled => 0 | .down => 1 | .train => 2 | .up => 3 | .resize => 4 | .disputed => 5

/-- Width encoding of CFG_WIDTH and RUN_WIDTH (R133). -/
def widthCode (w : Nat) : Nat := if w = 1 then 0 else if w = 2 then 1 else if w = 4 then 2 else 3

/-- XG_PORT (R133). -/
def Chip.xgPort (c : Chip) (p : Nat) : Nat :=
  if !c.isPort p then field 3 3 2
  else
    let x := c.port p
    field x.link.code 0 3 + field (widthCode (c.cfgWidth p)) 3 2 + field (widthCode (popcount 4 x.lanes)) 5 2 +
      field x.lanes 7 4 + field x.farLanes 11 4 + field x.cls 15 1 + field (c.roleOf p) 16 2 +
      field (b2n (c.inFan p)) 18 1 + field (b2n x.aligned) 19 1 + field x.delayNs 20 16 + field x.farPort 36 12

/-- Target Deal of a RESIZE or LANE_JOIN NOTICE: D + 2 + floor(2 × delay / period) (R110, R113). -/
def Chip.noticeTarget (c : Chip) (p : Nat) : Nat := (c.deal + 2 + 2 * (c.port p).delayNs / c.dealNs) % 2 ^ 48

/-- Send a NOTICE; it repeats until its echo or its target (R119). -/
def Chip.sendNotice (p : Nat) (kind : NoticeKind) (lanes target : Nat) (c : Chip) : Chip :=
  let x := c.port p
  let n : OutNotice := ⟨kind, lanes, target, x.nextNseq⟩
  (c.setPort p { x with notices := x.notices ++ [n], nextNseq := (x.nextNseq + 1) % 65536 }).log
    (.notice p kind false ⟨lanes, target, n.nseq⟩)

/-- The later of a target already agreed and a new one (R110), in Deal numbers that wrap at 2^48. -/
def laterOf (a : Option Nat) (b : Nat) : Option Nat :=
  some (match a with | none => b | some x => if (b + 2 ^ 48 - x) % 2 ^ 48 < 2 ^ 47 then b else x)

/-- A lane of a port has left LOCKED without a plan (R110); with no lane left usable at both ends the port goes DOWN (R103,
R109). -/
def Chip.portLostLane (p : Nat) (c : Chip) : Chip :=
  let x := c.port p
  let mask := c.hereMask p
  if c.bothMask p = 0 then
    (match x.link with
      | .train | .up | .resize | .disputed => c.takeDown p .down false
      | _ => c)
  else if x.link.live then
    let t := c.noticeTarget p
    let c := (c.setPort p { x with
      link := if x.link = .up then .resize else x.link, dataStop := true, resizeAt := laterOf x.resizeAt t }).refit p
    c.sendNotice p .resize mask t
  else c

/-- A lane has returned to LOCKED: LANE_JOIN with the target of R110 (R113). A mask of 16 in `joinAt` stands
for this end's own announcement, which leaves the far end's mask alone. -/
def Chip.portGainedLane (p lane : Nat) (c : Chip) : Chip :=
  let x := c.port p
  if x.link.live then
    let t := c.noticeTarget p
    (c.setPort p { x with joinAt := x.joinAt ++ [(t, 16, lane)] }).sendNotice p .laneJoin (c.hereMask p) t
  else c

/-- A port takes the width that its usable lanes give, or goes DOWN with none (R86, R110). What a LANE_LEAVE or DISABLE from the
far end has stopped stays stopped until its own target (R505). -/
def Chip.takeWidth (p : Nat) (c : Chip) : Chip :=
  let m := c.joinedMask p
  if m = 0 then c.takeDown p .down false
  else
    let x := c.port p
    (c.setPort p { x with
      lanes := m, resizeAt := none, dataStop := x.farDisableAt.isSome
      stopLanes := x.leaveAt.foldl (fun a e => a ||| maskDiff m e.2) 0
      link := if x.link = .resize then .up else x.link }).refit p

/-- The width of a live port follows its lanes at a boundary (R111, R113); with no lane left the port goes DOWN, and a training
port too (R109). `drain`: a receive drain runs, the lanes leave by this end's own plan. -/
def Chip.refreshWidth (p : Nat) (drain : Bool) (c : Chip) : Chip :=
  let x := c.port p
  if x.link.live || x.link == .train then
    let m := c.joinedMask p
    if m = 0 then c.takeDown p .down (drain && x.link.live)
    else if x.link.live then (c.setPort p { x with lanes := m, stopLanes := x.stopLanes &&& m, draining := x.draining || drain }).refit p
    else c
  else c

/-! ### What every block tells (R114, R121, R133) -/

/-- A field of XG_PORT_DROP. -/
def portDrop (p lsb : Nat) : CtrField := ⟨0x100008 + 0x20 * p, lsb, 15, lsb + 15⟩

/-- XG_PORT_FEC.UNCORR and CORRECTED. -/
def uncorr (p : Nat) : CtrField := ⟨0x100010 + 0x20 * p, 33, 30, 63⟩

def corrected (p : Nat) : CtrField := ⟨0x100010 + 0x20 * p, 0, 32, 32⟩

/-- The symbols corrected and the uncorrectable codewords that come with a block count in XG_PORT_FEC of a Sure port (R133). -/
def Chip.noteFec (p : Nat) (f : Fec) (c : Chip) : Chip :=
  if (c.port p).cls ≠ 1 ∨ f = {} then c else (c.bump (uncorr p) f.uncorr).bump (corrected p) f.corrected

/-- The far end's usable mask as a good block gives it (R114, R118). A lane that a live port hears of so, and of which no NOTICE has
come, waits for its LANE_JOIN (R113); a port left with no usable lane goes DOWN (R109). -/
def Chip.hearLanes (p m : Nat) (c : Chip) : Chip :=
  let x := c.port p
  if x.farLanes = m then c
  else
    let told := x.joinAt.foldl (fun a e => a ||| e.2.2) x.farLanes
    let c := c.setPort p { x with farLanes := m, newFar := if x.link.live then (x.newFar &&& m) ||| maskDiff m told else 0 }
    if (x.link.live || x.link == .train) && c.bothMask p == 0 then c.takeDown p .down false else c

/-! ### NOTICEs (R119, R505) -/

/-- A NOTICE is echoed whatever its kind; a repeated one is only echoed again (R119). -/
def Chip.echoNotice (p : Nat) (kind : NoticeKind) (n : Notice) (act : Chip → Chip) (c : Chip) : Chip :=
  let x := c.port p
  if !x.link.live then c
  else
    let c := c.log (.notice p kind true n)
    if x.echoed.contains n.nseq then c else act (c.setPort p { x with echoed := n.nseq :: x.echoed })

/-- The target of a received NOTICE, or the next boundary when it has passed (R505). -/
def Chip.receivedTarget (c : Chip) (n : Notice) : Nat := if c.reached n.target then (c.deal + 1) % 2 ^ 48 else n.target

def Chip.takeResize (p : Nat) (n : Notice) (c : Chip) : Chip :=
  c.echoNotice p .resize n (fun c =>
    let x := c.port p
    (c.setPort p { x with link := if x.link = .up then .resize else x.link, dataStop := true, farLanes := n.lanes
                          resizeAt := laterOf x.resizeAt (c.receivedTarget n) }).refit p)

def execNoticeResize (port : Nat) (notice : Notice) (s : State) : Host.Outcome State Fault Refusal :=
  s.run (okPort port && okNotice notice) (Chip.fabric (Chip.takeResize port notice))

def Chip.takeLeave (p : Nat) (n : Notice) (c : Chip) : Chip :=
  c.echoNotice p .laneLeave n (fun c =>
    let x := c.port p
    (c.setPort p { x with stopLanes := x.stopLanes ||| maskDiff x.lanes n.lanes
                          leaveAt := x.leaveAt ++ [(c.receivedTarget n, n.lanes)] }).refit p)

def execNoticeLaneLeave (port : Nat) (notice : Notice) (s : State) : Host.Outcome State Fault Refusal :=
  s.run (okPort port && okNotice notice) (Chip.fabric (Chip.takeLeave port notice))

def Chip.takeJoin (p : Nat) (n : Notice) (c : Chip) : Chip :=
  c.echoNotice p .laneJoin n (fun c =>
    let x := c.port p
    let waits := maskDiff n.lanes (maskDiff x.farLanes x.newFar)
    c.setPort p { x with joinAt := x.joinAt ++ [(c.receivedTarget n, n.lanes, waits)], newFar := maskDiff x.newFar n.lanes })

def execNoticeLaneJoin (port : Nat) (notice : Notice) (s : State) : Host.Outcome State Fault Refusal :=
  s.run (okPort port && okNotice notice) (Chip.fabric (Chip.takeJoin port notice))

def Chip.takeFarDisable (p : Nat) (n : Notice) (c : Chip) : Chip :=
  c.echoNotice p .disable n (fun c =>
    let x := c.port p
    (c.setPort p { x with dataStop := true, farDisableAt := some (c.receivedTarget n) }).refit p)

def execNoticeDisable (port : Nat) (notice : Notice) (s : State) : Host.Outcome State Fault Refusal :=
  s.run (okPort port && okNotice notice) (Chip.fabric (Chip.takeFarDisable port notice))

/-- An echo ends the repeats of the NOTICE it answers (R119). -/
def Chip.takeEcho (p : Nat) (kind : NoticeKind) (n : Notice) (c : Chip) : Chip :=
  let x := c.port p
  c.setPort p { x with notices := x.notices.filter (fun o => !(o.kind == kind && o.nseq == n.nseq)) }

def execNoticeEcho (port : Nat) (kind : NoticeKind) (notice : Notice) (s : State) : Host.Outcome State Fault Refusal :=
  s.run (okPort port && okNotice notice) (Chip.fabric (Chip.takeEcho port kind notice))

/-- Every unechoed NOTICE whose target has not passed is sent again (R119). -/
def Chip.repeatNotices (p : Nat) (c : Chip) : Chip :=
  let x := c.port p
  let live := x.notices.filter (fun o => !c.reached o.target)
  live.foldl (fun c o => c.log (.notice p o.kind false ⟨o.lanes, o.target, o.nseq⟩)) (c.setPort p { x with notices := live })

def execNoticeRepeat (port : Nat) (s : State) : Host.Outcome State Fault Refusal :=
  s.run (okPort port) (Chip.fabric (Chip.repeatNotices port))

/-! ### Training (R106, R107) -/

/-- The ends differ in Lot mode or class, or a RING port meets a DOWN or UP port (R107). -/
def Chip.trainMismatch (c : Chip) (p : Nat) (b : TrainingBody) : Bool :=
  let r := c.roleOf p
  (decide (p < 2048) && c.lotMode p != b.lotMode) || (c.port p).cls != b.cls || (r == 2 && decide (b.role ≤ 1)) ||
    (decide (r ≤ 1) && b.role == 2)

/-- Mean of eight samples. -/
def meanOf (l : List Int) : Int := l.foldl (· + ·) 0 / 8

/-- The index of a port's own exchange: the first not yet measured, 7 outside TRAIN and once all are. -/
def Port.ownExchange (x : Port) : Nat :=
  if x.link = .train then ((List.range 8).find? (fun i => ((Tab.get {} i x.train.exchanges : Exchange).sample).isNone)).getD 7 else 7

/-- The body of the TRAINING block that a port sends now (R119). The Lot mode of a twin port, four lanes of a Lot, is 0. -/
def Chip.trainingBody (c : Chip) (p : Nat) : TrainingBody :=
  let x := c.port p
  let t := x.train
  { cls := x.cls, lotMode := if p < 2048 then c.lotMode p else 0, port := p, nest := c.nest.self, role := c.roleOf p
    lanes := c.hereMask p, aligned := c.tb.aligned, done := t.hereDone, xidx := x.ownExchange, xvalid := t.farIdx.isSome
    ridx := t.farIdx.getD 0, tdep := c.ftNs % 2 ^ 64
    turnPs := (match t.farIdx with | none => 0 | some _ => (c.ftNs + 2 ^ 64 - t.farArrival) % 2 ^ 64 * 1000 % 2 ^ 64) }

/-- A port in DOWN or TRAIN with a LOCKED lane sends a TRAINING block (R105, R106). DESIGN CHOICE: several blocks of one
exchange leave until it is measured; its departure is that of the first of them, as its arrival at the far end is that of the
first to arrive, so that a TURN carried back belongs to them. -/
def Chip.sendTraining (p : Nat) (c : Chip) : Chip :=
  let x := c.port p
  if c.hereMask p = 0 then c
  else
    let b := c.trainingBody p
    let e : Exchange := Tab.get {} b.xidx x.train.exchanges
    let first := x.link == .train && !x.train.hereDone && e.tdep.isNone
    let c : Chip := if first then
        c.setPort p { x with train := { x.train with exchanges := Tab.put b.xidx { tdep := some b.tdep, sample := none } x.train.exchanges } }
      else c
    c.log (.training p b)

/-- A good TRAINING block in TRAIN: block lock on its lane, the far end's fields, and the exchange it answers (R106, R119). -/
def Chip.trainStep (p : Nat) (b : TrainingBlock) (c : Chip) : Chip :=
  let x := c.port p
  let t := x.train
  let ex (i : Nat) : Exchange := Tab.get {} i t.exchanges
  let xs := if b.xvalid then
      match (ex b.ridx).tdep, (ex b.ridx).sample with
      | some d, none =>
        let rtt := toSigned ((b.arrival + 2 ^ 64 - d) % 2 ^ 64) 64 * 1000
        Tab.put b.ridx { tdep := some d, sample := some ((rtt - Int.ofNat b.turnPs) / 2) } t.exchanges
      | _, _ => t.exchanges
    else t.exchanges
  let samples := xs.filterMap (fun e => e.2.sample)
  let done := decide (8 ≤ samples.length)
  let bad := c.trainMismatch p b.toTrainingBody
  let same := t.farIdx == some b.xidx
  let t := { t with
    locked := if b.pattern then t.locked ||| 2 ^ b.lane else t.locked, exchanges := xs, hereDone := done, farDone := b.done, farClass := b.cls
    farMode := b.lotMode, farRole := b.role, farAligned := b.aligned, mismatch := bad, mismatchRaised := t.mismatchRaised || bad
    farIdx := some b.xidx, farArrival := if same then t.farArrival else b.arrival }
  let c := (c.setPort p { x with
    train := t, farLanes := b.lanes, farPort := b.port, farName := b.nest
    meanPs := if done then meanOf samples else x.meanPs })
  if bad && !x.train.mismatchRaised then c.raise 0x0403 2 [(12, p), (3, b.lotMode), (1, b.cls), (2, b.role)] else c

/-- A TRAINING block arrives on a lane: a DOWN port enters TRAIN (R106). A port in TRAIN to which the far end's mask leaves no usable
lane returns to DOWN (R103, R109). One that fails its check is discarded (R122). -/
def Chip.takeTraining (p : Nat) (b : TrainingBlock) (c : Chip) : Chip :=
  let x := c.port p
  let c := if x.link = .disabled ∨ x.link = .down then c else c.noteFec p b.fec
  if b.check ≠ .good then (if x.link = .disabled ∨ x.link = .down then c else c.bump (portDrop p 0) 1)
  else if !bitAt (c.hereMask p) b.lane then c
  else
    match x.link with
    | .down =>
      (c.setPort p { x with link := .train, train := { entered := c.tb.lt }, goodRun := 0, missRun := 0 }).trainStep p b
    | .train =>
      let c := c.trainStep p b
      if c.bothMask p = 0 then c.takeDown p .down false else c
    | _ => c

def execTrainingBlock (port : Nat) (block : TrainingBlock) (s : State) : Host.Outcome State Fault Refusal :=
  s.run (okPort port && okTraining block) (Chip.fabric (Chip.takeTraining port block))

/-- Training has not ended 1 ms after the port entered TRAIN (R107). -/
def Chip.trainTimeout (p : Nat) (c : Chip) : Chip :=
  let x := c.port p
  if x.link = .train ∧ x.train.entered + 2000000 ≤ c.tb.lt ∧ !x.train.timeoutRaised then
    (c.setPort p { x with train := { x.train with timeoutRaised := true } }).raise 0x0404 2 [(12, p)]
  else c

def execPortTrainTimeout (port : Nat) (s : State) : Host.Outcome State Fault Refusal :=
  s.run (okPort port) (Chip.fabric (Chip.trainTimeout port))

/-- Training is over at both ends (R106, R502), as the boundary after it finds: every lane LOCKED at both ends has block lock, too. -/
def Chip.trained (c : Chip) (p : Nat) : Bool :=
  let t := (c.port p).train
  (c.port p).link == .train && maskDiff (c.hereMask p &&& (c.port p).farLanes) t.locked == 0 && t.hereDone && t.farDone && !t.mismatch &&
    (decide (16 ≤ t.goodMarkers) || !c.tb.aligned || !t.farAligned)

/-! ### Markers and silence (R29, R30, R109) -/

/-- A port in this state checks markers (R118, R181). -/
def LinkState.marks : LinkState → Bool
  | .train | .up | .resize | .disputed => true
  | _ => false

/-- A marker within 48 ns of the expected instant that passes its CRC-32C is good (R29, R118). -/
def Marker.good (m : Marker) : Bool := m.check == .good && decide (m.dev.natAbs ≤ 96)

/-- A Deal marker arrives. A bad one is declared a miss when its window closes. -/
def Chip.takeMarker (p : Nat) (m : Marker) (c : Chip) : Chip :=
  let x := c.port p
  let c := if x.link.marks then c.noteFec p m.fec else c
  if !x.link.marks || !Marker.good m then c
  else
    let n := x.goodRun + 1
    let t := { x.train with
      farAligned := m.aligned, goodMarkers := if x.train.hereDone then x.train.goodMarkers + 1 else 0 }
    (c.setPort p { x with
      goodRun := n, missRun := 0, train := t, aligned := x.aligned || (x.link.live && decide (16 ≤ n)) }).hearLanes p m.lanes

def execMarkerBlock (port : Nat) (marker : Marker) (s : State) : Host.Outcome State Fault Refusal :=
  s.run (okPort port && okMarker marker) (Chip.fabric (Chip.takeMarker port marker))

/-- The window closes with no good marker: a miss, and with a second one the port is inactive in every Fan
(R29, R30). -/
def Chip.missMarker (p : Nat) (c : Chip) : Chip :=
  let x := c.port p
  if !x.link.marks then c
  else
    let n := x.missRun + 1
    let x := { x with missRun := n, goodRun := 0, train := { x.train with goodMarkers := 0 } }
    if x.link.live ∧ n = 2 then
      (((c.setPort p { x with aligned := false }).setFanActive p false).raise 0x0104 2 [(12, p)])
    else c.setPort p x

def execMarkerWindowClose (port : Nat) (s : State) : Host.Outcome State Fault Refusal :=
  s.run (okPort port) (Chip.fabric (Chip.missMarker port))

/-- No valid block for 2048 core cycles (R109). -/
def Chip.silence (p : Nat) (c : Chip) : Chip := if (c.port p).link.live then c.takeDown p .down false else c

def execPortSilence (port : Nat) (s : State) : Host.Outcome State Fault Refusal :=
  s.run (okPort port) (Chip.fabric (Chip.silence port))

/-! ### Commands (R104, R506) -/

/-- `port.config` (R104). DESIGN CHOICE: a port keeps the asymmetry that `time.asym` gave it, and nothing else of what it was. -/
def portConfigCmd : Command where
  words := fun _ => 2
  act := fun r c =>
    let first := bitsAt (r.w 0) 0 11
    let mode := bitsAt (r.w 0) 11 3
    let cls := bitsAt (r.w 0) 14 1
    let role (k : Nat) : Nat := bitsAt (r.w 1) (2 * k) 2
    if first % 4 ≠ 0 then refuse c .badLane
    else if (List.range 4).any (fun k => c.isPort (first + k) && (c.port (first + k)).link != .disabled) then refuse c .busy
    else if (List.range 4).any (fun k => decide (0 < modeWidth mode k) && role k == 3) then refuse c .badRole
    else if mode = 5 ∨ mode = 6 then refuse c .badValue
    else
      let c := { c with ports := { c.ports with lotMode := Tab.set 7 (first / 4) mode c.ports.lotMode } }
      let set (c : Chip) (k : Nat) : Chip :=
        let x := c.port (first + k)
        c.setPort (first + k)
          (if 0 < modeWidth mode k then { cls := cls, role := role k, asymPs := x.asymPs } else {})
      answer ((List.range 4).foldl set c)

def execPortConfig (k : Nat) (s : State) : Host.Outcome State Fault Refusal :=
  s.run (okMbx k) (Chip.live (Chip.accept 0x0401 k portConfigCmd))

/-- A lane is retired, or one side of it while the other drains or is in a circuit (R79, R97, R111). -/
def Chip.laneRetired (c : Chip) (l : Nat) : Bool := (c.lane l).tx.state == .retired || (c.lane l).rx.state == .retired

/-- A lane is absent: it is retired, and the retirement is recorded in PN_CAPS (R4 to R6). -/
def Chip.laneAbsent (c : Chip) (l : Nat) : Bool :=
  c.laneRetired l && !c.stew.unrecorded.any (fun e => e.2.1 % 16 == 0 && e.2.2 == l)

def portEnableCmd : Command where
  words := fun _ => 1
  act := fun r c =>
    let p := bitsAt (r.w 0) 0 12
    if !c.isPort p || decide (2048 ≤ p) then refuse c .badLane
    else if (c.portLanes p).all (fun x => c.laneAbsent x.1) then refuse c .absent
    else if (c.port p).link = .disabled then answer (c.setPort p { c.port p with link := .down })
    else answer c

def execPortEnable (k : Nat) (s : State) : Host.Outcome State Fault Refusal :=
  s.run (okMbx k) (Chip.live (Chip.accept 0x0402 k portEnableCmd))

/-- A planned disable of a port: the NOTICE at once, the change at the boundary R16 gives (R111). -/
def Chip.planDisable (p : Nat) (c : Chip) : Chip :=
  let d := c.effectDeal
  let c := if (c.port p).link.live then c.sendNotice p .disable 0 d else c
  c.schedule d (.disablePort p)

def portDisableCmd : Command where
  words := fun _ => 1
  act := fun r c =>
    let p := bitsAt (r.w 0) 0 12
    if !c.isPort p || decide (2048 ≤ p) then refuse c .badLane else answer (c.planDisable p) (dealWords c.effectDeal)

def execPortDisable (k : Nat) (s : State) : Host.Outcome State Fault Refusal :=
  s.run (okMbx k) (Chip.live (Chip.accept 0x0403 k portDisableCmd))

def portStatusCmd : Command where
  words := fun _ => 1
  act := fun r c =>
    let p := bitsAt (r.w 0) 0 12
    if !c.isPort p then refuse c .badLane else answer c (twoWords (c.xgPort p) ++ dealWords (c.port p).farName)

def execPortStatus (k : Nat) (s : State) : Host.Outcome State Fault Refusal :=
  s.run (okMbx k) (Chip.live (Chip.accept 0x0404 k portStatusCmd))

end Sys2Proof.Machine
end

