-- ==== Sys2Proof/Machine/Light.lean ====
section
/-! DEFINITION. Rings, lasers and bypass circuits (03_light_control.md). -/

namespace Sys2Proof.Machine

open Sys2Proof

/-! ### Lanes -/

def SideState.code : SideState → Nat
  | .off => 0 | .sweep => 1 | .check => 2 | .locked => 3 | .held => 4 | .nolight => 5 | .bypass => 6 | .retired => 7

/-- Slot whose comb lights the transmit side of a lane (R59). -/
def laneSlot (l : Nat) : Nat := if l < 2048 then l % 1024 / 64 else laneJ l / 24

/-- Offset of LP_LANE or LP_INT of a lane (R80). -/
def laneOff (l : Nat) : Nat := if l < 2048 then 0x20000 + 8 * l else 0x26000 + 0x1000 * laneHalf l + 8 * laneJ l

/-- LOCK_LOSSES of a lane. -/
def lockLosses (l : Nat) : CtrField := ⟨laneOff l, 32, 8, 40⟩

/-- LP_LANE or LP_INT of a lane (R80). -/
def Chip.lpLane (c : Chip) (l : Nat) : Nat :=
  let x := c.lane l
  field x.tx.state.code 0 3 + field x.rx.state.code 3 3 + field x.idFails 6 2 + field x.tx.heater 8 12 +
    field x.rx.heater 20 12 + c.ctrImage (laneOff l) + field x.reason 41 3

def Lane.side (x : Lane) (rx : Bool) : Side := if rx then x.rx else x.tx

def Lane.setSide (rx : Bool) (v : Side) (x : Lane) : Lane := if rx then { x with rx := v } else { x with tx := v }

/-- A Span lane, by the half that sends on it (R55, R59). -/
def isSpanLane (l : Nat) : Bool := decide (2048 ≤ l) && decide (256 ≤ laneJ l) && decide (laneJ l < 320)

def Chip.setSpanRaised (h : Nat) (b : Bool) (c : Chip) : Chip :=
  c.setBuf h { c.xbar.buf.get h with spanDownRaised := b }

/-- The last lane of a Span direction has left use, or one has returned (R55). -/
def Chip.checkSpan (h : Nat) (c : Chip) : Chip :=
  let raised := (c.xbar.buf.get h).spanDownRaised
  if c.spanLanes h = 0 then (if raised then c else ((c.flushSpan h).setSpanRaised h true).raise 0x0603 3 [(1, h)])
  else c.setSpanRaised h false

/-- A lane takes a new state; leaving or gaining use without a plan reaches its port or the Span (R87, R110,
R113). -/
def Chip.updateLane (l : Nat) (v : Lane) (c : Chip) : Chip :=
  let was := (c.lane l).usable
  let c := c.setLane l v
  if was == v.usable then c
  else if isSpanLane l then c.checkSpan (laneHalf l)
  else
    match c.portOfLane l with
    | none => c
    | some p => if was then c.portLostLane p else c.portGainedLane p (c.portMask p [l])

/-- Note a retirement for PN_CAPS, from a Deal on: reason bit and unit (R4, R463). -/
def Chip.noteRetired (deal reason unit : Nat) (c : Chip) : Chip :=
  { c with stew := { c.stew with unrecorded := c.stew.unrecorded ++ [(deal, reason, unit)] } }

/-- A side retires, but for one in BYPASS, which nothing but its circuit's clear affects (R97). -/
def Side.retire (x : Side) : Side := if x.state = .bypass then x else { state := .retired }

/-- Both sides of a lane as retired (R79). DESIGN CHOICE: TX_HEATER and RX_HEATER of a retired lane read 0, and a side in BYPASS
retires when its circuit is cleared. -/
def Lane.retire (reason : Nat) (x : Lane) : Lane :=
  { x with tx := x.tx.retire, rx := x.rx.retire, reason := reason, losses := [] }

/-- Floor control retires a lane: an unplanned drop, recorded at the boundary of Deal `d` (R89). -/
def Chip.retireFor (d l reason : Nat) (c : Chip) : Chip :=
  if c.laneRetired l then c
  else ((c.updateLane l ((c.lane l).retire reason)).raise 0x0304 3 [(12, l), (3, reason)]).noteRetired d 0 l

/-- A retirement within a Deal is recorded at the boundary R16 gives. -/
def Chip.retireNow (l reason : Nat) (c : Chip) : Chip := c.retireFor c.effectDeal l reason

/-- In the LAMP stage of bring-up a failing lane is retired at the end of the stage only (R499). -/
def Chip.inLampStage (c : Chip) : Bool := c.boot.stage == 5 && !bitAt c.boot.ended 5

/-- A failed identity check or a sweep to code 4095 (R85). -/
def Chip.failId (l : Nat) (rx : Bool) (strongest : Nat) (skip : Bool) (c : Chip) : Chip :=
  let x := c.lane l
  let s := x.side rx
  let n := min 3 (x.idFails + 1)
  let s := { s with state := .held, keptCode := false, skip := if skip then s.skip ++ [s.heater] else s.skip
                    parked := decide (3 ≤ n) && c.inLampStage }
  let c := (c.updateLane l ({ x with idFails := n, lampFail := if s.parked then 3 else x.lampFail }.setSide rx s)).raise 0x0303 2
    [(12, l), (1, b2n rx), (4, laneWave l), (4, strongest)]
  if 3 ≤ n ∧ !c.inLampStage then c.retireNow l 1 else c

/-- A µs of a sweep (R82); a HELD side that awaits a new attempt starts it at code 0 (R85). -/
def Chip.sweepTick (l : Nat) (rx resonance : Bool) (c : Chip) : Chip :=
  let x := c.lane l
  let s := x.side rx
  let at_ (code : Nat) (c : Chip) : Chip :=
    let s := { s with state := .sweep, heater := code, keptCode := false }
    if resonance && !s.skip.contains code then c.setLane l (x.setSide rx { s with state := .check })
    else if 4095 ≤ code then (c.setLane l (x.setSide rx s)).failId l rx 0xF false
    else c.setLane l (x.setSide rx s)
  match s.state with
  | .sweep => if s.keptCode then at_ s.heater c else at_ (min 4095 (s.heater + 1)) c
  | .held => if s.parked then c else at_ (if s.keptCode then s.heater else 0) c
  | _ => c

def execHeaterSweepTick (lane : Nat) (rx resonance : Bool) (s : State) : Host.Outcome State Fault Refusal :=
  s.run (okLane lane) (Chip.fabric (Chip.sweepTick lane rx resonance))

/-- Index of the first largest of a list. DESIGN CHOICE: of two pilot tones equally strong the one of the lower wavelength counts
as the strongest (R85). -/
def argMax (l : List Nat) : Nat :=
  (l.foldl (fun (a : Nat × Nat × Nat) v => if a.2.1 < v + 1 then (a.2.2, v + 1, a.2.2 + 1) else (a.1, a.2.1, a.2.2 + 1)) (0, 0, 0)).1

/-- The end of the identity check (R82, R85): tone levels in 0.1 dB, by wavelength. -/
def Chip.endCheck (l : Nat) (rx : Bool) (tones : List Nat) (c : Chip) : Chip :=
  let x := c.lane l
  let s := x.side rx
  if s.state ≠ .check then c
  else
    let best := argMax tones
    let top := tones.getD best 0
    let next := (tones.eraseIdx best).foldl max 0
    if best ≠ laneWave l then c.failId l rx best true
    else if top < next + 100 then c.failId l rx best false
    else c.updateLane l ({ x with idFails := 0 }.setSide rx { s with state := .locked, skip := [], outRun := 0, keptCode := false })

def execIdCheckEnd (lane : Nat) (rx : Bool) (tones : List Nat) (s : State) : Host.Outcome State Fault Refusal :=
  s.run (okLane lane && tones.length == 8) (Chip.fabric (Chip.endCheck lane rx tones))

/-- A loop update of a LOCKED side, and a lost lock (R84). -/
def Chip.loopUpdate (l : Nat) (rx : Bool) (code : Nat) (outside : Bool) (c : Chip) : Chip :=
  let x := c.lane l
  let s := x.side rx
  if s.state ≠ .locked then c
  else
    let run := if outside then s.outRun + 1 else 0
    if code = 0 ∨ code = 4095 ∨ 16 ≤ run then
      let losses := c.tb.lt :: x.losses.filter (fun t => decide (c.tb.lt ≤ t + 2000000000))
      let parks := decide (8 ≤ losses.length) && c.inLampStage
      let v := { x with losses := losses, lampFail := if parks then 4 else x.lampFail }.setSide rx
        { s with state := .held, heater := code, skip := [], outRun := 0, keptCode := false, parked := parks }
      let c := ((c.updateLane l v).bump (lockLosses l) 1).raise 0x0302 2 [(12, l), (1, b2n rx)]
      if 8 ≤ losses.length ∧ !c.inLampStage then c.retireNow l 2 else c
    else c.setLane l (x.setSide rx { s with heater := code, outRun := run })

def execLockLoopUpdate (lane : Nat) (rx : Bool) (code : Nat) (outside : Bool) (s : State) : Host.Outcome State Fault Refusal :=
  s.run (okLane lane && decide (code < 4096)) (Chip.fabric (Chip.loopUpdate lane rx code outside))

/-- A receive side sees no light for 256 core cycles (R83). DESIGN CHOICE: RX_HEATER of a side whose attempt is abandoned reads
0 while it waits. -/
def Chip.loseLight (l : Nat) (c : Chip) : Chip :=
  let x := c.lane l
  match x.rx.state with
  | .locked => (c.updateLane l { x with rx := { x.rx with state := .nolight, keptCode := true, outRun := 0 } }).raise 0x0301 2 [(12, l)]
  | .sweep | .check | .held =>
    c.updateLane l { x with rx := { x.rx with state := .nolight, keptCode := false, heater := 0, parked := decide (0 < x.lampFail) } }
  | _ => c

def execLightLoss (lane : Nat) (s : State) : Host.Outcome State Fault Refusal :=
  s.run (okLane lane) (Chip.fabric (Chip.loseLight lane))

/-- The circuits that carry light from receive lane `a` are dark no longer (LP_OCS.DARK). -/
def Chip.circuitsLit (a : Nat) (c : Chip) : Chip :=
  let lit (e : Nat × Circuit) : Nat × Circuit := if e.1 / 512 = a / 1024 ∧ e.2.src = a % 1024 then (e.1, { e.2 with dark := false }) else e
  { c with light := { c.light with circuits := c.light.circuits.map lit } }

/-- Light returns to a NOLIGHT receive side: it starts an attempt, from its kept code or from code 0 (R83). On a side in BYPASS
the tap of its circuit sees it (R98). -/
def Chip.gainLight (l : Nat) (c : Chip) : Chip :=
  let x := c.lane l
  match x.rx.state with
  | .nolight =>
    c.setLane l { x with rx := { x.rx with
      state := if x.rx.parked then .held else .sweep, heater := if x.rx.keptCode then x.rx.heater else 0, keptCode := true } }
  | .bypass => c.circuitsLit l
  | _ => c

def execLightArrival (lane : Nat) (s : State) : Host.Outcome State Fault Refusal :=
  s.run (okLane lane) (Chip.fabric (Chip.gainLight lane))

/-! ### Lasers (R90 to R95) -/

def LaserState.code : LaserState → Nat
  | .off => 0 | .warming => 1 | .aligning => 2 | .ready => 3 | .serving => 4 | .failed => 5

def Chip.setLaser (k : Nat) (v : Laser) (c : Chip) : Chip :=
  { c with light := { c.light with lasers := Tab.put k v c.light.lasers } }

/-- Unfiltered fade of line `w` in a sample, in 0.1 dB below nominal; negative above it (R90). -/
def Chip.sampleFade (c : Chip) (k w : Nat) (s : List Nat) : Int :=
  Int.ofNat (s.getD w 0) - Int.ofNat ((Tab.get [] k c.flash.base : List Nat).getD w 0)

/-- Sixteen times the filtered fade of line `w` (R90). -/
def Chip.fadeTotal (c : Chip) (k w : Nat) : Int := (c.laser k).hist.foldl (fun a s => a + c.sampleFade k w s) 0

/-- The same, 0 at or above nominal. -/
def Chip.fadeSum (c : Chip) (k w : Nat) : Nat := (c.fadeTotal k w).toNat

/-- Sixteen times the fade of a laser: its most faded line (R90). -/
def Chip.laserFade16 (c : Chip) (k : Nat) : Nat := (List.range 8).foldl (fun a w => max a (c.fadeSum k w)) 0

/-- FADE of a laser, in 0.1 dB. -/
def Chip.laserFade (c : Chip) (k : Nat) : Nat := min 255 (c.laserFade16 k / 16)

/-- The lasers of half `h` preparing for a slot. -/
def Chip.preparing (c : Chip) (h : Nat) : List Nat :=
  (List.range 20).filter (fun p => match (c.laser (32 * h + p)).state with | .warming | .aligning | .ready => true | _ => false)

/-- The lowest-numbered spare in state OFF (R92). -/
def Chip.freeSpare (c : Chip) (h : Nat) : Option Nat :=
  [16, 17, 18, 19].find? (fun p => (c.laser (32 * h + p)).state == .off)

/-- Spares neither serving nor failed (LP_LAMP_CTRL). -/
def Chip.spares (c : Chip) (h : Nat) : Nat :=
  ([16, 17, 18, 19].filter (fun p => (c.laser (32 * h + p)).state != .serving && (c.laser (32 * h + p)).state != .failed)).length

/-- The laser that serves a slot, if any. -/
def Chip.servingLaser (c : Chip) (h slot : Nat) : Option Nat :=
  (List.range 20).find? (fun p => (c.laser (32 * h + p)).state == .serving && (c.laser (32 * h + p)).slot == slot)

/-- The slot has a spare in preparation. -/
def Chip.prepared (c : Chip) (h slot : Nat) : Bool := (c.preparing h).any (fun p => (c.laser (32 * h + p)).slot == slot)

/-- The same, or waits for one. -/
def Chip.swapping (c : Chip) (h slot : Nat) : Bool := c.prepared h slot || c.light.swapWaiting.contains (16 * h + slot)

/-- Start a swap for a slot (R92): the lowest-numbered free spare warms; a third swap waits (R93). -/
def Chip.startSwap (h slot : Nat) (c : Chip) : Chip :=
  match c.freeSpare h with
  | none => c
  | some p =>
    if 2 ≤ (c.preparing h).length then
      { c with light := { c.light with swapWaiting := c.light.swapWaiting ++ [16 * h + slot] } }
    else
      let old := (c.servingLaser h slot).getD slot
      let x := c.laser (32 * h + p)
      (c.setLaser (32 * h + p) { x with state := .warming, slot := slot, started := c.tb.lt, warn := false }).raise 0x0307 1
        [(1, h), (4, slot), (5, old), (5, p)]

/-- Sides lit by the laser of a lane's slot: the transmit side, and the receive side of internal lanes but
the twin lanes (R83, R94). -/
def litSides (l : Nat) : List Bool := if 2048 ≤ l ∧ laneJ l < 320 then [false, true] else [false]

/-- A lane whose comb has failed: its lit sides are HELD with their codes kept (R94). -/
def Lane.holdComb (l : Nat) (x : Lane) : Lane :=
  (litSides l).foldl (fun x rx =>
    let s := x.side rx
    match s.state with
    | .sweep | .check | .locked | .held => x.setSide rx { s with state := .held, keptCode := true, parked := true }
    | _ => x) x

/-- No spare is left for a slot whose comb has failed: its lanes retire with reason 3 (R94). -/
def Chip.giveUpSlot (d h slot : Nat) (c : Chip) : Chip :=
  (slotLanes h slot).foldl (fun c l =>
    let x := c.lane l
    if x.tx.state == .held && x.tx.parked then c.retireFor d l 3 else c) c

/-- The oldest swap of a half that waited for a place starts (R93); with no spare left the slots that wait are given up. -/
def Chip.startWaiting (d h : Nat) : Nat → Chip → Chip
  | 0, c => c
  | n + 1, c =>
    match c.light.swapWaiting.find? (fun x => x / 16 == h) with
    | none => c
    | some x =>
      if 2 ≤ (c.preparing h).length then c
      else
        let c := { c with light := { c.light with swapWaiting := c.light.swapWaiting.erase x } }
        if (c.freeSpare h).isSome then c.startSwap h (x % 16) else Chip.startWaiting d h n (c.giveUpSlot d h (x % 16))

/-! ### Lanes that leave by plan (R87, R95, R100, R111) -/

/-- The announcement of the planned departure of a lane at the boundary of Deal `d` (R111): its NOTICE names the lanes left once
every lane has left that leaves by then. -/
def Chip.announceLeave (l d : Nat) (c : Chip) : Chip :=
  match c.portOfLane l with
  | none => c
  | some p =>
    if (c.port p).link.live then
      let ls := (c.due.filter (fun e => decide ((d + 2 ^ 48 - e.1) % 2 ^ 48 < 2 ^ 47))).flatMap (fun e => e.2.leaving)
      c.sendNotice p .laneLeave (maskDiff (c.hereMask p) (c.portMask p ls)) d
    else c

/-- A comb failure, found at a boundary (R94). -/
def Chip.combFail (h slot p : Nat) (c : Chip) : Chip :=
  let c := (slotLanes h slot).foldl (fun c l => c.updateLane l ((c.lane l).holdComb l)) c
  let c := c.raise 0x030B 3 [(1, h), (4, slot), (5, p)]
  let c := c.setLaser (32 * h + p) { c.laser (32 * h + p) with combRaised := true }
  if c.prepared h slot then c
  else if (c.freeSpare h).isSome then (if c.swapping h slot then c else c.startSwap h slot)
  else c.giveUpSlot c.deal h slot

/-- The conversion of this Deal starts at its middle (R41). -/
def Chip.startConversion (c : Chip) : Chip :=
  let c := c.advanceTo (c.dealCycles / 2)
  { c with light := { c.light with converting := true } }

def execMonitorConversionStart (s : State) : Host.Outcome State Fault Refusal :=
  s.run true (Chip.fabric Chip.startConversion)

/-- A side is in BYPASS, where fades do nothing to it (R97). -/
def Lane.bypassed (x : Lane) : Bool := x.tx.state == .bypass || x.rx.state == .bypass

/-- Lines that a fade retirement takes at the next boundary: 4.0 dB, with no spare available and none in
preparation for the slot (R91). -/
def Chip.fadeLines (c : Chip) : List (Nat × Nat × Nat) :=
  c.light.lasers.flatMap (fun e =>
    let h := e.1 / 32
    if e.1 < 64 ∧ e.2.state = .serving ∧ c.freeSpare h = none ∧ !c.prepared h e.2.slot then
      ((List.range 8).filter (fun w => decide (640 ≤ c.fadeSum e.1 w) &&
        (lineLanes h e.2.slot w).any (fun l => !c.laneRetired l && !(c.lane l).bypassed))).map (fun w => (h, e.2.slot, w))
    else [])

/-- A conversion ends: samples enter the filters, and fade retirements for the next boundary are announced
(R42, R90, R111). -/
def Chip.takeSamples (samples : List (Nat × List Nat)) (c : Chip) : Chip :=
  if !c.light.converting then c
  else
    let c := c.advanceTo (c.dealCycles / 2 + 256)
    let c := samples.foldl (fun c s => c.setLaser s.1 { c.laser s.1 with hist := (s.2 :: (c.laser s.1).hist).take 16 }) c
    let c := { c with light := { c.light with converting := false, freshSamples := true } }
    let d := c.effectDeal
    let lines := c.fadeLines
    let c := lines.foldl (fun c x => c.schedule d (.fadeDrop x.1 x.2.1 x.2.2)) c
    (lines.flatMap (fun x => lineLanes x.1 x.2.1 x.2.2)).foldl (fun c l => if (c.lane l).usable then c.announceLeave l d else c) c

def execMonitorResult (samples : List (Nat × List Nat)) (s : State) : Host.Outcome State Fault Refusal :=
  s.run (samples.all (fun x => okLaser x.1 && x.2.length == 8)) (Chip.fabric (Chip.takeSamples samples))

/-- One serving laser's fade at a boundary (R91). -/
def Chip.fadeAction (k : Nat) (c : Chip) : Chip :=
  let x := c.laser k
  let h := k / 32
  let p := k % 32
  let f := c.laserFade16 k
  let fade := c.laserFade k
  let comb := (List.range 8).any (fun w =>
    match x.hist with
    | a :: b :: _ => decide (60 ≤ c.sampleFade k w a) && decide (60 ≤ c.sampleFade k w b)
    | _ => false)
  let c := if 160 ≤ f ∧ !x.warn then (c.setLaser k { x with warn := true }).raise 0x0306 2 [(1, h), (4, x.slot), (5, p), (8, fade)]
    else if f ≤ 112 then c.setLaser k { x with warn := false } else c
  if comb && !(c.laser k).combRaised then c.combFail h x.slot p
  else if 400 ≤ f ∧ !c.swapping h x.slot then
    if c.light.autoSwap.get h then c.startSwap h x.slot
    else if (c.laser k).dueRaised then c
    else (c.setLaser k { c.laser k with dueRaised := true }).raise 0x0308 2 [(1, h), (4, x.slot), (5, p), (8, fade)]
  else c

/-- The fade actions of a boundary after a sample (R91). -/
def Chip.fadeActions (c : Chip) : Chip :=
  if !c.light.freshSamples then c
  else
    let ks := (c.light.lasers.filter (fun e => decide (e.1 < 64) && e.2.state == .serving)).map Prod.fst
    ks.foldl (fun c k => c.fadeAction k) { c with light := { c.light with freshSamples := false } }

def execSpareWarmed (half laser : Nat) (s : State) : Host.Outcome State Fault Refusal :=
  s.run (okHalf half && decide (laser < 20)) (Chip.fabric (fun c =>
    let k := 32 * half + laser
    if (c.laser k).state = .warming then c.setLaser k { c.laser k with state := .aligning } else c))

/-- A laser serves: the sides it lights that are still OFF start their lock attempts (R83, the LAMP stage). -/
def Chip.lightLaser (h p : Nat) (c : Chip) : Chip :=
  let k := 32 * h + p
  let c := c.setLaser k { c.laser k with state := .serving, readyAt := c.tb.lt }
  (slotLanes h (c.laser k).slot).foldl (fun c l =>
    c.setLane l ((litSides l).foldl (fun x rx =>
      if (x.side rx).state = .off then x.setSide rx { x.side rx with state := .sweep, keptCode := true } else x) (c.lane l))) c

/-- A spare ends its alignment; its swap is at the first boundary whose guard begins after it (R92). An in-service
laser of the LAMP stage serves at once. -/
def Chip.spareReady (h p : Nat) (c : Chip) : Chip :=
  let k := 32 * h + p
  if (c.laser k).state = .aligning ∧ p < 16 then c.lightLaser h p
  else if (c.laser k).state = .aligning then
    (c.setLaser k { c.laser k with state := .ready, readyAt := c.tb.lt }).schedule c.effectDeal (.lampSwap h p)
  else c

def execSpareReady (half laser : Nat) (s : State) : Host.Outcome State Fault Refusal :=
  s.run (okHalf half && decide (laser < 20)) (Chip.fabric (Chip.spareReady half laser))

/-- A spare is not READY within 5.0 ms (R93). -/
def Chip.spareTimeout (h p : Nat) (c : Chip) : Chip :=
  let k := 32 * h + p
  let x := c.laser k
  if p < 16 then c
  else if x.state = .warming ∨ x.state = .aligning then
    let c := ((c.setLaser k { x with state := .failed }).raise 0x030A 3 [(1, h), (5, p)]).noteRetired c.effectDeal 1 k
    let c :=
      if (c.freeSpare h).isSome then c.startSwap h x.slot else c.giveUpSlot c.effectDeal h x.slot
    Chip.startWaiting c.effectDeal h 17 c
  else c

def execSpareTimeout (half laser : Nat) (s : State) : Host.Outcome State Fault Refusal :=
  s.run (okHalf half && decide (laser < 20)) (Chip.fabric (Chip.spareTimeout half laser))

/-- LP_LASER, LP_FADE and LP_LAMP_CTRL (R90). -/
def Chip.lpLaser (c : Chip) (k : Nat) : Nat :=
  let x := c.laser k
  field x.state.code 0 3 + field x.slot 3 4 + field (b2n x.warn) 7 1 + field (c.laserFade k) 8 8

def Chip.lpFade (c : Chip) (k : Nat) : Nat :=
  (List.range 8).foldl (fun a w => a + field (min 255 (c.fadeSum k w / 16)) (8 * w) 8) 0

def Chip.lpLampCtrl (c : Chip) : Nat :=
  field (b2n c.light.autoSwap.h0) 0 1 + field (b2n c.light.autoSwap.h1) 1 1 + field (c.spares 0) 2 3 + field (c.spares 1) 5 3

/-! ### Circuits (R96 to R101) -/

def Chip.circuit (c : Chip) (k : Nat) : Circuit := Tab.get {} k c.light.circuits

def Chip.setCircuit (k : Nat) (v : Circuit) (c : Chip) : Chip :=
  { c with light := { c.light with circuits := Tab.set {} k v c.light.circuits } }

/-- Key of the circuit on transmit lane `b`: 512 h plus the output. -/
def circuitKey (b : Nat) : Nat := 512 * (b / 1024) + b % 1024

/-- LP_OCS. -/
def Circuit.word (x : Circuit) : Nat := field x.src 0 9 + field x.state 9 2 + field (b2n x.dark) 11 1 + field x.deal 12 48

def Chip.circuitDark (h b : Nat) (c : Chip) : Chip :=
  let k := 512 * h + b
  let x := c.circuit k
  if x.state = 0 then c else (c.setCircuit k { x with dark := true }).raise 0x030C 2 [(12, 1024 * h + b)]

def execOcsCircuitDark (half out : Nat) (s : State) : Host.Outcome State Fault Refusal :=
  s.run (okHalf half && decide (out < 512)) (Chip.fabric (Chip.circuitDark half out))

/-- A circuit joins two lanes that R96 allows. -/
def circuitOk (a b : Nat) : Bool :=
  a / 1024 == b / 1024 && decide (a % 1024 < 512) && decide (b % 1024 < 512) && a % 8 == b % 8

/-- Circuits accepted and not yet driven. -/
def Chip.pendingCircuits (c : Chip) : List (Nat × Nat) :=
  c.due.flatMap (fun e => match e.2 with | .circuitsDriven l => l | _ => [])

/-- Outputs whose clear is accepted and not yet begun. -/
def Chip.pendingClears (c : Chip) : List Nat :=
  c.due.flatMap (fun e => match e.2 with | .circuitsReleased l => l | _ => [])

/-- Input `a` or output `b` is in a circuit. An input stays in one that is settling out (R96); its own output is then found to
be settling. -/
def Chip.inCircuit (c : Chip) (a b : Nat) : Bool :=
  c.light.circuits.any (fun e => (e.2.state == 1 || e.2.state == 2) &&
      e.1 == circuitKey b) ||
    c.light.circuits.any (fun e => e.2.state != 0 && e.1 / 512 == a / 1024 && e.2.src == a % 1024 &&
      !(e.2.state == 3 && e.1 == circuitKey b)) ||
    c.pendingCircuits.any (fun x => x.1 == a || x.2 == b)

/-- A list has no repeats. -/
def distinct (l : List Nat) : Bool := decide l.Nodup

/-- A fade retirement of a lane takes effect at the boundary of Deal `d` (R507). -/
def Chip.fadesAt (c : Chip) (d l : Nat) : Bool :=
  c.due.any (fun e => e.1 == d && match e.2 with | .fadeDrop h s w => (lineLanes h s w).contains l | _ => false)

/-- A circuit command finds a lane gone: absent, or retired by a fade at its own boundary (R507). -/
def Chip.laneGone (c : Chip) (d l : Nat) : Bool := c.laneAbsent l || c.fadesAt d l

def ocsSetCmd : Command where
  absent := fun c => !c.caps.ocs
  words := fun w => 1 + w 0
  act := fun r c =>
    let cs := (List.range (r.w 0)).map (fun i => (bitsAt (r.w (i + 1)) 0 11, bitsAt (r.w (i + 1)) 11 11))
    let d := c.effectDeal
    if r.w 0 = 0 ∨ 64 < r.w 0 ∨ cs.any (fun x => !circuitOk x.1 x.2) then refuse c .badLane
    else if cs.any (fun x => c.inCircuit x.1 x.2) || !distinct (cs.map Prod.fst) || !distinct (cs.map Prod.snd) then refuse c .conflict
    else if cs.any (fun x => (c.circuit (circuitKey x.2)).state == 3) then refuse c .busy
    else if cs.any (fun x => c.laneGone d x.1 || c.laneGone d x.2) then refuse c .absent
    else if !c.tb.aligned then refuse c .notAligned
    else
      let c := (c.schedule d (.circuitsDriven cs)).schedule ((d + 4) % 2 ^ 48) (.circuitsInEffect cs)
      answer (cs.foldl (fun c x => (c.announceLeave x.1 d).announceLeave x.2 d) c) (dealWords ((d + 4) % 2 ^ 48))

def execOcsSet (k : Nat) (s : State) : Host.Outcome State Fault Refusal :=
  s.run (okMbx k) (Chip.live (Chip.accept 0x0321 k ocsSetCmd))

def ocsClearCmd : Command where
  absent := fun c => !c.caps.ocs
  words := fun w => 1 + w 0
  act := fun r c =>
    let bs := (List.range (r.w 0)).map (fun i => bitsAt (r.w (i + 1)) 0 11)
    let d := c.effectDeal
    if r.w 0 = 0 ∨ 64 < r.w 0 ∨ !distinct bs ∨ bs.any (fun b => decide (512 ≤ b % 1024) || (c.circuit (circuitKey b)).state == 0) then refuse c .badLane
    else if bs.any (fun b => (c.circuit (circuitKey b)).state != 2 || c.pendingClears.contains b) then refuse c .busy
    else answer ((c.schedule d (.circuitsReleased bs)).schedule ((d + 4) % 2 ^ 48) (.circuitsCleared bs)) (dealWords ((d + 4) % 2 ^ 48))

def execOcsClear (k : Nat) (s : State) : Host.Outcome State Fault Refusal :=
  s.run (okMbx k) (Chip.live (Chip.accept 0x0322 k ocsClearCmd))

/-- A planned change of a lane at a boundary: its port takes the width left to it (R87, R111). -/
def Chip.planLane (l : Nat) (drain : Bool) (v : Lane) (c : Chip) : Chip :=
  let was := (c.lane l).usable
  let c := c.setLane l v
  if isSpanLane l then (if was != v.usable then c.checkSpan (laneHalf l) else c)
  else match c.portOfLane l with | none => c | some p => c.refreshWidth p drain

/-- A planned retirement at a boundary: the transmit side retires, and the receive side of a lane whose port receives when its
drain ends (R111). -/
def Chip.departLane (l reason : Nat) (c : Chip) : Chip :=
  let x := c.lane l
  let drains := (match c.portOfLane l with | some p => (c.port p).link.live | none => false) && x.tx.state != .bypass
  c.planLane l drains (if drains then { x with tx := x.tx.retire, reason := reason } else x.retire reason)

/-- The receive drain of a planned departure ends: the receive sides of the lanes that left take their new state, and a packet
still arriving on a port that is no longer live is cut short (R111, R123). -/
def Chip.endDrain (p : Nat) (c : Chip) : Chip :=
  let x := c.port p
  if !x.draining then c
  else
    let c := (c.portLanes p).foldl (fun c e =>
      let y := c.lane e.1
      if y.tx.state = .retired ∧ y.rx.state ≠ .retired then c.setLane e.1 (y.retire y.reason) else c) c
    let c : Chip := match x.ingress with
      | some i => if x.link.live then c else c.abandon i.tag
      | none => c
    c.setPort p { c.port p with draining := false, ingress := if x.link.live then x.ingress else none }

def execReceiveDrainEnd (port : Nat) (s : State) : Host.Outcome State Fault Refusal :=
  s.run (okPort port) (Chip.fabric (Chip.endDrain port))

/-- The matrices are driven: sides enter BYPASS (R100). DESIGN CHOICE: a circuit one of whose lanes has retired by this boundary is
left out, and OCS_SET_DONE still counts it. -/
def Chip.driveCircuits (l : List (Nat × Nat)) (c : Chip) : Chip :=
  l.foldl (fun c x =>
    if c.laneRetired x.1 || c.laneRetired x.2 then c
    else
      let c := c.setCircuit (circuitKey x.2) { src := x.1 % 1024, state := 1, dark := false, deal := c.deal }
      let c := c.planLane x.1 false { c.lane x.1 with rx := { (c.lane x.1).rx with state := .bypass, outRun := 0, parked := false } }
      c.planLane x.2 false { c.lane x.2 with tx := { (c.lane x.2).tx with state := .bypass, outRun := 0, parked := false } }) c

/-- Circuits come into effect (R100). -/
def Chip.settleCircuits (l : List (Nat × Nat)) (c : Chip) : Chip :=
  (l.foldl (fun c x =>
    let k := circuitKey x.2
    if (c.circuit k).state = 1 then c.setCircuit k { c.circuit k with state := 2, deal := c.deal } else c) c).raise 0x030E 1
    [(7, l.length), (12, (l.map Prod.snd).headD 0)]

/-- Matrices are released (R100). -/
def Chip.releaseCircuits (l : List Nat) (c : Chip) : Chip :=
  l.foldl (fun c b =>
    let k := circuitKey b
    if (c.circuit k).state = 2 then c.setCircuit k { c.circuit k with state := 3, deal := c.deal } else c) c

/-- A clear completes: the receive side starts from its kept code, the transmit side is LOCKED again, and a side of a lane retired
meanwhile is RETIRED (R79, R100). -/
def Chip.clearCircuits (l : List Nat) (c : Chip) : Chip :=
  (l.foldl (fun c b =>
    let k := circuitKey b
    let x := c.circuit k
    if x.state = 3 then
      let a := 1024 * (b / 1024) + x.src
      let c := c.setCircuit k { deal := c.deal }
      let c := if (c.lane a).rx.state = .bypass then
        c.updateLane a { c.lane a with rx := if c.laneRetired a then { state := .retired } else { (c.lane a).rx with state := .sweep, keptCode := true } } else c
      if (c.lane b).tx.state = .bypass then
        c.updateLane b { c.lane b with tx := if c.laneRetired b then { state := .retired } else { (c.lane b).tx with state := .locked, outRun := 0 } } else c
    else c) c).raise 0x030F 1 [(7, l.length), (12, l.headD 0)]

/-! ### Boundary changes and commands -/

/-- The spare of a slot takes over at its boundary (R95): sides held by a failed comb start from their kept
codes (R94). -/
def Chip.swapLaser (h p : Nat) (c : Chip) : Chip :=
  let k := 32 * h + p
  let x := c.laser k
  if x.state ≠ .ready then c
  else
    let c : Chip := match c.servingLaser h x.slot with
      | none => c
      | some q => c.setLaser (32 * h + q) { c.laser (32 * h + q) with state := .failed, warn := false }
    let c := (c.setLaser k { x with state := .serving }).raise 0x0309 1 [(1, h), (4, x.slot), (5, p)]
    let c := (slotLanes h x.slot).foldl (fun c l =>
      let free (s : Side) : Side := if s.parked then { s with state := .sweep, parked := false } else s
      c.setLane l { c.lane l with tx := free (c.lane l).tx, rx := free (c.lane l).rx }) c
    let c := if c.spares h = 0 then c.noteRetired c.deal 2 k else c
    Chip.startWaiting c.deal h 17 c

/-- Lanes of a faded line retire, planned, at the boundary (R91), but for those in a circuit (R97). -/
def Chip.dropLine (h slot w : Nat) (c : Chip) : Chip :=
  let c := (lineLanes h slot w).foldl (fun c l =>
    if c.laneRetired l || (c.lane l).bypassed then c
    else ((c.departLane l 3).raise 0x0304 3 [(12, l), (3, 3)]).noteRetired c.deal 0 l) c
  c.raise 0x0305 3 [(1, h), (4, slot), (3, w)]

/-- A retirement by command takes effect (R507). -/
def Chip.retirePlanned (l reason : Nat) (c : Chip) : Chip :=
  if c.laneRetired l then c
  else ((c.departLane l reason).raise 0x0304 3 [(12, l), (3, reason)]).noteRetired c.deal 0 l

/-- Deal of a retirement of a lane already accepted, by command or by fade, or not yet recorded (R4, R507). -/
def Chip.retirementOf (c : Chip) (l : Nat) : Option Nat :=
  if c.laneRetired l then (c.stew.unrecorded.find? (fun e => e.2.1 % 16 == 0 && e.2.2 == l)).map Prod.fst
  else (c.due.find? (fun e => match e.2 with
    | .retireLane x _ => x == l
    | .fadeDrop h s w => (lineLanes h s w).contains l
    | _ => false)).map Prod.fst

/-- `lane.retire` (R507). DESIGN CHOICE: a lane of an accepted `ocs.set` that has not been driven is in no circuit yet, so the
command is accepted; where both fall to one boundary the side in BYPASS stays in it until the clear, or the circuit is left out. -/
def laneRetireCmd : Command where
  words := fun _ => 1
  act := fun r c =>
    let l := bitsAt (r.w 0) 0 12
    let d := c.effectDeal
    if c.laneAbsent l && decide (l < 2048) then refuse c .absent
    else if 2048 ≤ l then refuse c .badLane
    else if (c.lane l).tx.state = .bypass ∨ (c.lane l).rx.state = .bypass then refuse c .conflict
    else match c.retirementOf l with
      | some d => answer c (dealWords d)
      | none => answer ((c.schedule d (.retireLane l 4)).announceLeave l d) (dealWords d)

def execLaneRetire (k : Nat) (s : State) : Host.Outcome State Fault Refusal :=
  s.run (okMbx k) (Chip.live (Chip.accept 0x0302 k laneRetireCmd))

def lampSwapCmd : Command where
  words := fun _ => 1
  act := fun r c =>
    let h := bitsAt (r.w 0) 0 1
    let slot := bitsAt (r.w 0) 1 4
    match c.freeSpare h with
    | none => refuse c .noSpare
    | some p => if c.swapping h slot || decide (2 ≤ (c.preparing h).length) then refuse c .busy else answer (c.startSwap h slot) [p]

def execLampSwap (k : Nat) (s : State) : Host.Outcome State Fault Refusal :=
  s.run (okMbx k) (Chip.live (Chip.accept 0x0312 k lampSwapCmd))

def lampAutoCmd : Command where
  words := fun _ => 1
  act := fun r c =>
    answer { c with light := { c.light with autoSwap := c.light.autoSwap.set (bitsAt (r.w 0) 0 1) (bitAt (r.w 0) 1) } }

def execLampAuto (k : Nat) (s : State) : Host.Outcome State Fault Refusal :=
  s.run (okMbx k) (Chip.live (Chip.accept 0x0313 k lampAutoCmd))

/-- `lamp.nominal` (R500, R503). -/
def lampNominalCmd : Command where
  words := fun _ => 1
  act := fun r c =>
    let h := bitsAt (r.w 0) 0 1
    let young := (List.range 20).any (fun p =>
      (c.laser (32 * h + p)).state == .serving && decide (c.tb.lt < (c.laser (32 * h + p)).readyAt + 2000000000))
    if c.boot.stage ≠ 7 then refuse c .notReady
    else if !(c.preparing h).isEmpty || young then refuse c .busy
    else atBoundary (.nominal h) c

def execLampNominal (k : Nat) (s : State) : Host.Outcome State Fault Refusal :=
  s.run (okMbx k) (Chip.live (Chip.accept 0x1202 k lampNominalCmd))

/-- The lasers of a half whose nominal power is recorded together: the comb of the Sieve stands in the Lamp Room of Half 0, and is
recorded with it while it is lit (R367, R500). -/
def Chip.roomLasers (c : Chip) (h : Nat) : List Nat :=
  (List.range 20).map (fun p => 32 * h + p) ++ (if h = 0 ∧ (c.sv.state = .ready ∨ c.sv.state = .degraded) then [0x40] else [])

/-- The mean of its samples becomes the nominal power of every line of a laser (R500). -/
def Chip.nominalOf (c : Chip) (k : Nat) : Chip :=
  let b : List Nat := (List.range 8).map (fun w => (Int.ofNat ((Tab.get [] k c.flash.base : List Nat).getD w 0) + c.fadeTotal k w / 16).toNat)
  let c := { c with flash := { c.flash with base := Tab.put k b c.flash.base } }
  c.setLaser k { c.laser k with hist := [] }

/-- The filtered fade base of every line of a half becomes its nominal power (R500). -/
def Chip.recordNominal (h : Nat) (c : Chip) : Chip :=
  let c := (c.roomLasers h).foldl Chip.nominalOf c
  ({ c with flash := { c.flash with nominalKnown := c.flash.nominalKnown.set h true } }).raise 0x1204 0 [(1, h)]

end Sys2Proof.Machine
end

