-- ==== Sys2Proof/Machine/Steward.lean ====
section
/-! DEFINITION. The host interface and the Steward's own commands (16_steward_and_mailboxes.md). -/

namespace Sys2Proof.Machine

open Sys2Proof

/-! ### PCIe (R428, R430) -/

/-- Host accesses reach the part: PERST_N released and the function not in D3hot. -/
def Chip.hostUp (c : Chip) : Bool := !c.stew.pcie.perst && !c.stew.pcie.d3hot

/-- What a host access does, while PCIe carries it. -/
def Chip.hosted (f : Chip → Chip) (c : Chip) : Chip := if c.hostUp then f c else c

def Chip.setPcie (p : Pcie) (c : Chip) : Chip := { c with stew := { c.stew with pcie := p } }

/-- Vectors pending and no longer masked are signalled. -/
def Chip.releaseVectors (c : Chip) : Chip :=
  if !c.hostUp then c
  else
    let go := bitsSet 64 (maskDiff c.stew.pcie.vecPending c.stew.pcie.vecMasked)
    go.foldl (fun c v => c.log (.msix v)) (c.setPcie { c.stew.pcie with vecPending := c.stew.pcie.vecPending &&& c.stew.pcie.vecMasked })

/-- MB_STAT of mailbox `k`. -/
def mbStat (k : Nat) : Nat := bar2 (0x4000 * k + 0x2020)

/-- What R428 resets: PCIe state, MSI-X masks, the event ring and the host mailboxes. -/
def Chip.resetPcie (perst : Bool) (c : Chip) : Chip :=
  let c := c.setPcie { perst := perst }
  let c := c.setEvents { c.stew.events with ringSet := false, ring := [] }
  let c := { c with stew := { c.stew with mbx := c.stew.mbx.filter (fun e => decide (16 ≤ e.1)), rung := c.stew.rung.filter (fun k => decide (16 ≤ k)) } }
  (List.range 16).foldl (fun c k => c.clearCounters (mbStat k)) c

def execPerstAssert (s : State) : Host.Outcome State Fault Refusal := s.run true (Chip.live (Chip.resetPcie true))

def execPerstRelease (s : State) : Host.Outcome State Fault Refusal :=
  s.run true (Chip.live (fun c => c.setPcie { c.stew.pcie with perst := false }))

def execFunctionLevelReset (s : State) : Host.Outcome State Fault Refusal :=
  s.run true (Chip.live (Chip.hosted (Chip.resetPcie false)))

def execD3hotTransition (enter : Bool) (s : State) : Host.Outcome State Fault Refusal :=
  s.run true (Chip.live (fun c =>
    if c.stew.pcie.perst then c else (c.setPcie { c.stew.pcie with d3hot := enter }).releaseVectors))

/-! ### Mailbox accesses (R431, R432, R435) -/

/-- A ring of a host mailbox: it submits, or is discarded while a command is pending. -/
def Chip.hostRing (k : Nat) (c : Chip) : Chip := if (c.mbx k).pending then c.stick (mbStat k) 1 else c.ringBox k

def execMbRing (box : Nat) (s : State) : Host.Outcome State Fault Refusal :=
  s.run (decide (box < 16)) (Chip.live (Chip.hosted (Chip.hostRing box)))

/-- Byte `i` of a word replaced. -/
def setByte (w : W32) (i : Nat) (b : Byte) : W32 :=
  BitVec.ofNat 32 (maskDiff w.toNat (0xFF * 256 ^ i) + b.toNat * 256 ^ i)

/-- Bytes written into the request words from byte offset `off`. -/
def writeReq : Nat → List Byte → Tab W32 → Tab W32
  | _, [], t => t
  | off, b :: bs, t => writeReq (off + 1) bs (Tab.set 0 (off / 4) (setByte (Tab.get 0 (off / 4) t) (off % 4) b) t)

/-- MB_CTRL. -/
def Mailbox.ctrl (m : Mailbox) : Nat := field m.opcode 0 16 + field m.words 16 11 + field m.seq 27 16 + field (b2n m.irq) 43 1

/-- Bytes written into an 8-byte register image from byte `off`. -/
def patchBytes (image off : Nat) (bs : List Byte) : Nat :=
  let keep := maskDiff image ((256 ^ bs.length - 1) * 256 ^ off)
  keep + leNat bs * 256 ^ off

/-- MB_CTRL with a new image. -/
def Mailbox.setCtrl (v : Nat) (m : Mailbox) : Mailbox :=
  { m with opcode := bitsAt v 0 16, words := bitsAt v 16 11, seq := bitsAt v 27 16, irq := bitAt v 43 }

/-- A write to MB_REQ or MB_CTRL: stored, or discarded with COLLIDE while a command is pending. -/
def Chip.hostWriteBox (k off : Nat) (bs : List Byte) (c : Chip) : Chip :=
  let m := c.mbx k
  if m.pending then c.stick (mbStat k) 0
  else if off < 0x1000 then c.setMbx k { m with req := writeReq off bs m.req }
  else c.setMbx k (m.setCtrl (patchBytes m.ctrl (off - 0x2000) bs))

def execMbRequestWrite (box off : Nat) (bytes : List Byte) (s : State) : Host.Outcome State Fault Refusal :=
  s.run (decide (box < 16) && okMbWrite off bytes.length) (Chip.live (Chip.hosted (Chip.hostWriteBox box off bytes)))

/-- MB_RESULT_HDR. -/
def Mailbox.header (m : Mailbox) : Nat :=
  field m.hdrSeq 0 16 + field m.status 16 8 + field (b2n m.ready) 24 1 + field m.hdrWords 25 11 + field m.readCount 36 16 +
    field (b2n m.accepted) 52 1

/-- A read of MB_RESULT_HDR (R435). -/
def Chip.hostReadHeader (k off size : Nat) (c : Chip) : Chip :=
  let m := c.mbx k
  let m' := if m.ready ∧ off = 0 then { m with readCount := min 0xFFFF (m.readCount + 1) } else m
  (c.setMbx k m').log (.readData (bitsAt m.header (8 * off) (8 * size)))

def execMbResultRead (box off size : Nat) (s : State) : Host.Outcome State Fault Refusal :=
  s.run (decide (box < 16) && okHdrRead off size) (Chip.live (Chip.hosted (Chip.hostReadHeader box off size)))

/-! ### In-band management (R438 to R440) -/

/-- EV_STAT.MGMT_DROPS, which wraps with no sticky bit. -/
def mgmtDrops : CtrField := ⟨bar2 0x40010, 51, 12, 64⟩

/-- The checks of R438 on a request for slot `s`. -/
def Chip.mgmtOk (c : Chip) (s : Nat) (p : Packet) : Bool :=
  p.cls == 1 && (p.dest == c.nest.self || (p.dest == c.nest.pair && c.nest.pair != 0)) &&
    (c.slot s).bound == some p.src && p.crcGood && bitsAt (p.word 0) 60 4 == 0xE

/-- Word `i` of the request words of a management packet. -/
def mgmtWord (p : Packet) (i : Nat) : W32 := BitVec.ofNat 32 (beNat ((p.payload.drop (32 + 4 * i)).take 4))

/-- An in-band request: a new command, or a question about the held one (R439). -/
def Chip.mgmtRequest (p : Packet) (c : Chip) : Chip :=
  let w := p.word 0
  let s := bitsAt w 56 4
  let seq := bitsAt w 40 16
  if !c.mgmtOk s p then c.bump mgmtDrops 1
  else
    let c := c.occur 4 0x06 none none 1
    let k := 16 + s
    let m := c.mbx k
    if (c.slot s).heldSeq = some seq then
      (if m.pending then c else c.setMbx k { m with readCount := min 0xFFFF (m.readCount + 1) }).mgmtRespond s
    else if m.pending then c
    else
      let n := bitsAt w 13 11
      let req : Tab W32 := (List.range n).foldl (fun t i => Tab.set 0 i (mgmtWord p i) t) []
      let c := c.setSlot s { c.slot s with heldSeq := some seq }
      (c.setMbx k { m with req := req, opcode := bitsAt w 24 16, words := n, seq := seq, irq := false }).ringBox k

def execMgmtReq (pkt : Packet) (s : State) : Host.Outcome State Fault Refusal :=
  s.run (okPacket pkt) (Chip.fabric (Chip.mgmtRequest pkt))

def mgmtAllowCmd : Command where
  words := fun _ => 3
  act := fun r c =>
    let s := bitsAt (r.w 0) 0 4
    let en := bitAt (r.w 0) 4
    if !c.unitName (r.name 1) then refuse c .badAddr
    else answer (c.setSlot s { bound := if en then some (r.name 1) else none, heldSeq := none })

def execMgmtAllow (k : Nat) (s : State) : Host.Outcome State Fault Refusal :=
  s.run (okMbx k) (Chip.live (Chip.accept 0x1013 k mgmtAllowCmd))

/-! ### Packets to and from the host (R445, R446) -/

/-- A packet delivered LOCAL to the Steward that firmware does not consume itself. -/
def Chip.takeHostPacket (p : Packet) (c : Chip) : Chip :=
  if !p.crcGood then c.bump mgmtDrops 1
  else if 256 ≤ c.stew.recvQueue.length then c.stick (bar2 0x40010) 63
  else { c with stew := { c.stew with recvQueue := c.stew.recvQueue ++ [{ pkt := p, part := 0 }] } }

/-- A packet to a unit that the firmware runs itself: one whose CRC64 fails is dropped and counted (R124). DESIGN CHOICE: the counter
of the receiving unit is the Steward's MGMT_DROPS. -/
def Chip.intact (p : Packet) (act : Chip → Chip) (c : Chip) : Chip := if p.crcGood then act c else c.bump mgmtDrops 1

def execStewardLocalPacket (pkt : Packet) (s : State) : Host.Outcome State Fault Refusal :=
  s.run (okPacket pkt) (Chip.fabric (Chip.takeHostPacket pkt))

/-- Bytes of request words from word `i` on, in the order of R445. -/
def Request.bytes (r : Request) (i n : Nat) : List Byte := (List.range n).map (fun b => BitVec.ofNat 8 (r.w (i + b / 4) / 256 ^ (b % 4)))

def pktSendCmd : Command where
  words := fun w => 10 + (w 1 + 3) / 4
  act := fun r c =>
    let w0 := r.long 2
    let w1 := r.w 0
    let n := r.w 1
    let cls := bitsAt w0 13 3
    let src := if bitAt w1 17 then c.nest.pair else c.nest.self
    if cls = 0 ∨ 4048 < n then refuse c .badValue
    else answer (c.originateFrom (bitsAt w1 18 1) src (bitsAt w0 16 48) cls (bitsAt (r.long 6) 32 32) (bitsAt (r.long 6) 0 32) false
      (if bitAt w1 16 then some (bitsAt w1 0 16) else none) (r.bytes 10 n))

def execPktSend (k : Nat) (s : State) : Host.Outcome State Fault Refusal :=
  s.run (okMbx k) (Chip.live (Chip.accept 0x1021 k pktSendCmd))

/-- The four header words of R116. -/
def packetHeader (p : Packet) : List Nat :=
  [field p.dest 16 48 + field p.cls 13 3 + field p.epoch 12 1 + field (b2n p.mark) 11 1 + field p.hops 6 5,
    field p.src 16 48 + field p.length 1 15 + field (b2n p.resend) 0 1, field p.id 32 32 + field p.seq 0 32, p.crc % 2 ^ 64]

/-- Bytes as words, four to a word, low byte first, the last padded with zeros. -/
def packWords (bs : List Byte) : List Nat := (List.range ((bs.length + 3) / 4)).map (fun i => leNat ((bs.drop (4 * i)).take 4))

def pktRecvCmd : Command where
  words := fun _ => 0
  act := fun _ c =>
    match c.stew.recvQueue with
    | [] => refuse c .notFound
    | x :: rest =>
      let part := (x.pkt.payload.drop (4060 * x.part)).take 4060
      let cont := decide (4060 * (x.part + 1) < x.pkt.length)
      let q := if cont then { x with part := x.part + 1 } :: rest else rest
      let c := ({ c with stew := { c.stew with recvQueue := q } }).unstick (bar2 0x40010) 63
      answer c ([field x.pkt.length 0 15 + field (b2n (!rest.isEmpty)) 16 1 + field (b2n cont) 17 1 + field x.part 18 3] ++
        (packetHeader x.pkt).flatMap twoWords ++ packWords part)

def execPktRecv (k : Nat) (s : State) : Host.Outcome State Fault Refusal :=
  s.run (okMbx k) (Chip.live (Chip.accept 0x1022 k pktRecvCmd))

/-! ### Events (R449 to R452) -/

/-- A write of EV_CONS, clamped to EV_PROD; room in the ring takes records from the die (R449, R450). -/
def Chip.writeCons (v : Nat) (c : Chip) : Chip :=
  let e := c.stew.events
  let d (a : Nat) : Nat := (a + 2 ^ 32 - e.cons) % 2 ^ 32
  let n := if d e.prod < d v then e.prod else v
  (c.setEvents { e with cons := n, ring := e.ring.drop (d n) }).drainDie 1024

def execEvConsWrite (value : Nat) (s : State) : Host.Outcome State Fault Refusal :=
  s.run (decide (value < 2 ^ 32)) (Chip.live (Chip.hosted (Chip.writeCons value)))

/-- MOD µs have passed since vector 16 last fired, and records have been written since (R451). -/
def Chip.moderate (c : Chip) : Chip :=
  let e := c.stew.events
  if e.unsignalled && e.ringSet then (c.setEvents { e with unsignalled := false, lastVec16 := some c.tb.age }).signal 16 else c

def execEventModerationTimer (s : State) : Host.Outcome State Fault Refusal := s.run true (Chip.live Chip.moderate)

def evtRingCmd : Command where
  words := fun _ => 3
  act := fun r c =>
    let addr := r.long 0
    let log2 := bitsAt (r.w 2) 0 5
    let e := c.stew.events
    if log2 = 0 then answer (c.setEvents { e with ringSet := false, ring := [] })
    else if log2 < 6 ∨ 16 < log2 ∨ addr % 4096 ≠ 0 then refuse c .badValue
    else answer ((c.setEvents { e with
      ringSet := true, log2 := log2, addr := addr, modUs := bitsAt (r.w 2) 5 16, prod := 0, cons := 0, ring := []
      unsignalled := false, lastVec16 := none }).drainDie 1024)

def execEvtRing (k : Nat) (s : State) : Host.Outcome State Fault Refusal :=
  s.run (okMbx k) (Chip.live (Chip.accept 0x1011 k evtRingCmd))

def evtForwardCmd : Command where
  words := fun _ => 4
  act := fun r c =>
    let en := bitAt (r.w 3) 0
    let e := c.stew.events
    if !c.nameOk (r.name 0) then refuse c .badAddr
    else answer (c.setEvents { e with fwdName := r.name 0, fwdMask := r.w 2, fwdEn := en, fwdWaiting := if en then e.fwdWaiting else [] })

def execEvtForward (k : Nat) (s : State) : Host.Outcome State Fault Refusal :=
  s.run (okMbx k) (Chip.live (Chip.accept 0x1012 k evtForwardCmd))

/-- Waiting records leave for the collector, up to 128 to a packet (R452). -/
def Chip.forwardRecords : Nat → Chip → Chip
  | 0, c => c
  | n + 1, c =>
    let e := c.stew.events
    match e.fwdWaiting with
    | [] => c
    | r :: _ =>
      let batch := e.fwdWaiting.take 128
      let c := c.setEvents { e with fwdWaiting := e.fwdWaiting.drop 128 }
      Chip.forwardRecords n (c.originate 0 e.fwdName 1 0 r.eseq (batch.flatMap (fun x => x.words.flatMap (beBytes 8))))

/-- EV_STAT but its counters. -/
def Chip.evStat (c : Chip) : Nat :=
  let e := c.stew.events
  field (b2n e.ringSet) 0 1 + field (if e.ringSet then e.log2 else 0) 1 5 + field e.die.length 6 11 + field (b2n c.alert) 50 1

/-! ### What the part reports of itself (R3, R443, R462) -/

/-- PN_CAPS (R3). -/
def Chip.pnCaps (c : Chip) : Nat :=
  let x := c.caps
  field (popcount 64 x.loomMask) 0 7 + field (b2n x.sieve) 7 1 + field (b2n x.ocs) 8 1 + field (popcount 20 x.sites) 9 5 +
    field (b2n x.gating) 14 1 + field (b2n x.recipes) 15 1 + field (x.lanes.h0 + x.lanes.h1) 16 12 + field c.fuses.variant 28 4 +
    field (b2n x.degraded) 32 1 + field (b2n x.replace) 33 1

def sysCapsCmd : Command where
  words := fun _ => 0
  act := fun _ c =>
    let x := c.caps
    answer c (twoWords c.pnCaps ++ [c.stew.reasons, field x.lanes.h0 0 11 + field x.lanes.h1 11 11, x.sites] ++ twoWords x.loomMask ++
      [field x.spares.h0 0 3 + field x.spares.h1 3 3] ++ dealWords c.stew.capsDeal)

def execSysCaps (k : Nat) (s : State) : Host.Outcome State Fault Refusal :=
  s.run (okMbx k) (Chip.live (Chip.accept 0x1001 k sysCapsCmd))

def sysInfoCmd : Command where
  words := fun _ => 0
  act := fun _ c =>
    answer c ([c.stew.runningVersion, (Config.identity 20 0).toNat % 2 ^ 32, c.fuses.svn,
      field c.stew.running 0 1 + field (b2n (c.stew.running == c.flash.committed)) 1 1] ++ twoWords c.fuses.serial ++ [15])

def execSysInfo (k : Nat) (s : State) : Host.Outcome State Fault Refusal :=
  s.run (okMbx k) (Chip.live (Chip.accept 0x1002 k sysInfoCmd))

/-! ### `mb.abort` (R509) -/

/-- Commands that `mb.abort` can end while they wait: `larder.alloc`, `table.rebuild`, `ckpt.take` and
`ckpt.restore`. -/
def abortable : List Nat := [0x0E01, 0x0F14, 0x0F21, 0x0F22]

/-- A rebuild or a checkpoint that an aborted command waited for is forgotten. -/
def Chip.dropWork (w : Waiting) (c : Chip) : Chip :=
  let t := c.twin
  if w.opcode = 0x0F14 then { c with twin := { t with table := ⟨{ t.table.h0 with rebuild := 0 }, { t.table.h1 with rebuild := 0 }⟩ } }
  else { c with twin := { t with ckpts := t.ckpts.filter (fun k => !(k.mbx == w.mbx && k.ticket == w.ticket)) } }

def mbAbortCmd : Command where
  words := fun _ => 1
  act := fun r c =>
    let t := bitsAt (r.w 0) 0 5
    let m := c.mbx t
    match c.stew.waiting.find? (fun w => w.mbx == t && m.pending && w.ticket == m.ticket) with
    | none => refuse c .notFound
    | some w => if w.started || !abortable.contains w.opcode then refuse c .busy else answer ((c.dropWork w).finish w .aborted [])

def execMbAbort (k : Nat) (s : State) : Host.Outcome State Fault Refusal :=
  s.run (okMbx k) (Chip.live (Chip.accept 0x1003 k mbAbortCmd))

end Sys2Proof.Machine
end

