-- ==== Sys2Proof/Machine/Regions.lean ====
section
/-! DEFINITION. Larder regions, their pages and the bitmap (R372 to R377), what a protected write sends to the
Table (R401 to R406). -/

namespace Sys2Proof.Machine

open Sys2Proof

def Chip.ld (c : Chip) (h : Nat) : LarderHalf := c.lard.half.get h

def Chip.setLd (h : Nat) (v : LarderHalf) (c : Chip) : Chip := { c with lard := { c.lard with half := c.lard.half.set h v } }

def Chip.region (c : Chip) (k : Nat) : Region := Tab.get {} k c.lard.regions

def Chip.setRegion (k : Nat) (v : Region) (c : Chip) : Chip :=
  { c with lard := { c.lard with regions := Tab.set {} k v c.lard.regions } }

/-- Key of a handle's index, and its sequence number (R375). -/
def handleKey (x : Nat) : Nat := 4096 * bitsAt x 31 1 + bitsAt x 0 12

/-- The handle of a region's current grant. -/
def handleOf (key : Nat) (r : Region) : Nat := field (key / 4096) 31 1 + field r.seq 12 19 + key % 4096

/-- The region a handle names, unless it is reserved, stale or free (R374, R375). -/
def Chip.regionOf (c : Chip) (x : Nat) : Option Region :=
  let r := c.region (handleKey x)
  if 4 ≤ bitsAt x 0 12 ∧ (r.state = 1 ∨ r.state = 2) ∧ r.seq = bitsAt x 12 19 then some r else none

def Region.pages (r : Region) : Nat := r.extents.foldl (fun a e => a + e.2) 0

/-- Local page of page `i` of a region, in extent order (R375). -/
def pageIn : List (Nat × Nat) → Nat → Option Nat
  | [], _ => none
  | (a, n) :: t, i => if i < n then some (a + i) else pageIn t (i - n)

/-- HBM address of byte `off` of a region of half `h`. -/
def Region.addr (h : Nat) (r : Region) (off : Nat) : Nat := pageAddr h ((pageIn r.extents (off / 65536)).getD 0) (off % 65536)

/-- Pages of half `h` that bytes [off, off + n) of a region touch. -/
def Region.touched (r : Region) (off n : Nat) : List Nat :=
  if n = 0 then [] else (List.range ((off + n - 1) / 65536 - off / 65536 + 1)).filterMap (fun i => pageIn r.extents (off / 65536 + i))

/-- Bytes of a region. -/
def Chip.readRegion (c : Chip) (h : Nat) (r : Region) (off n : Nat) : List Byte :=
  (List.range n).map (fun i => Memory.read (r.addr h (off + i)) c.lard.hbm)

/-- Write bytes of a region with no coding. -/
def Chip.storeRegion (h : Nat) (r : Region) : Nat → List Byte → Chip → Chip
  | _, [], c => c
  | off, b :: bs, c =>
    Chip.storeRegion h r (off + 1) bs { c with lard := { c.lard with hbm := Memory.write (r.addr h off) b c.lard.hbm } }

/-- Charge a share in whole granules (R381, R384). -/
def granules (bytes : Nat) : Nat := (bytes + 63) / 64

def Chip.chargeRecipe (h bytes : Nat) (c : Chip) : Chip := c.setLd h { c.ld h with recipeUsed := (c.ld h).recipeUsed + granules bytes }

def Chip.chargeRoll (h bytes : Nat) (c : Chip) : Chip := c.setLd h { c.ld h with rollUsed := (c.ld h).rollUsed + granules bytes }

/-- A transfer of bytes [off, off + n) of a handle's region is one the Larder serves: the handle is good, the
range lies inside, and no page is dead (R314, R374, R386). -/
def Chip.rangeOk (c : Chip) (x off n : Nat) : Bool :=
  match c.regionOf x with
  | none => false
  | some r => decide (off + n ≤ r.pages * 65536) && (r.touched off n).all (fun q => !c.deadPage (bitsAt x 31 1) q)

/-! ### The bitmap (R373, R376) -/

/-- Pages of a half (R372). -/
def Chip.halfPages (c : Chip) (h : Nat) : Nat := 2097152 * (c.ld h).sites.length

/-- Runs of taken pages of a half: the reserved regions and every granted extent (R374, R376). -/
def Chip.takenRuns (c : Chip) (h : Nat) : List (Nat × Nat) :=
  (0, 5376 + (c.ld h).spillSize) :: (c.lard.regions.filter (fun e => e.1 / 4096 == h)).flatMap (fun e => e.2.extents)

/-- The first page from `p` on that is neither taken nor dead; none beyond the half. No more hops are needed than the runs and
the dead pages between two of them allow (Chip.hops). -/
def Chip.nextFree (c : Chip) (h : Nat) (runs : List (Nat × Nat)) : Nat → Nat → Option Nat
  | 0, _ => none
  | fuel + 1, p =>
    if c.halfPages h ≤ p then none
    else
      match runs.find? (fun r => decide (r.1 ≤ p) && decide (p < r.1 + r.2)) with
      | some r => Chip.nextFree c h runs fuel (r.1 + r.2)
      | none => if c.deadPage h p then Chip.nextFree c h runs fuel (p + 1) else some p

/-- Hops that lead over every taken run and the dead pages between. -/
def Chip.hops (c : Chip) (h : Nat) (runs : List (Nat × Nat)) : Nat := (runs.length + 1) * ((c.ld h).sites.length + 1) + 1

/-- Length of the free run that starts at `p`. -/
def Chip.freeRun (c : Chip) (h : Nat) (runs : List (Nat × Nat)) (p : Nat) : Nat :=
  let top := runs.foldl (fun a r => if p < r.1 then min a r.1 else a) (c.halfPages h)
  match (List.range (c.ld h).sites.length).find? (fun i => c.deadPage h (p + i)) with
  | some i => min i (top - p)
  | none => top - p

/-- The find-first-free engine: extents for `n` pages, none if more than 256 would be needed (R376). -/
def Chip.findPages (c : Chip) (h : Nat) (runs : List (Nat × Nat)) : Nat → Nat → Nat → Option (List (Nat × Nat))
  | _, 0, _ => some []
  | 0, _ + 1, _ => none
  | fuel + 1, n + 1, p =>
    match c.nextFree h runs (c.hops h runs) p with
    | none => none
    | some q =>
      let k := min (n + 1) (c.freeRun h runs q)
      (Chip.findPages c h runs fuel (n + 1 - k) (q + k)).map (fun t => (q, k) :: t)

/-- Free pages of a half (LD_STAT). -/
def Chip.freePages (c : Chip) (h : Nat) : Nat :=
  let runs := c.takenRuns h
  let taken := runs.foldl (fun a r => a + r.2 - c.deadIn h r.1 r.2) 0
  c.halfPages h - c.deadIn h 0 (c.halfPages h) - taken

/-! ### DELTAs (R401 to R405) -/

def Chip.table8 (c : Chip) (h : Nat) : TableHalf := c.twin.table.get h

def Chip.setTable8 (h : Nat) (v : TableHalf) (c : Chip) : Chip := { c with twin := { c.twin with table := c.twin.table.set h v } }

/-- Residues whose stripes hold data of member `m`, in ascending order (R402). -/
def residues (m : Nat) : List Nat := (List.range 8).filter (fun r => r != m && r != (m + 4) % 8)

/-- Stripe of data unit `u` of member `m` (R402). -/
def stripeOf (m u : Nat) : Nat := 8 * (u / 6) + (residues m).getD (u % 6) 0

/-- P and Q holders of a stripe (R402). -/
def pHolder (t : Nat) : Nat := t % 8
def qHolder (t : Nat) : Nat := (t % 8 + 4) % 8

/-- Data index of a member in a stripe (R402). -/
def dataIndex (t m : Nat) : Nat := ((List.range m).filter (fun x => x != pHolder t && x != qHolder t)).length

/-- Pages of a generation of a protected region (R380, R401). -/
def Region.generation (r : Region) : Nat := r.pages / 2

/-- Data unit of a page of a protected region: generation and unit, none for a page of no generation (R401). -/
def Chip.unitOf (c : Chip) (h x page : Nat) : Option (Nat × Nat) :=
  let list := (c.table8 h).protectedList
  let before := (list.takeWhile (fun y => y != x)).foldl (fun a y => a + (c.region (handleKey y)).generation) 0
  let g := (c.region (handleKey x)).generation
  if !list.contains x then none else if page < g then some (0, before + page) else if page < 2 * g then some (1, before + page - g) else none

/-- Header words of R406. -/
def codeHeader (w0 w1 w2 : Nat) : List Byte := beBytes 8 w0 ++ beBytes 8 w1 ++ beBytes 8 w2 ++ beBytes 8 0

def deltaCount (h lsb : Nat) : CtrField := ⟨0x3900030 + 8 * h, lsb, 31, lsb + 31⟩

/-- Bytes of the delta buffer, pages 2H to 2H + 1023 of SHARD (R402). -/
def deltaBuffer : Nat := 1024 * 65536

/-- Bytes of the DELTAs that the buffer holds until their holders acknowledge them (R404). -/
def TableHalf.held_ (t : TableHalf) : Nat := (t.unacked.filter (fun p => !p.isPset)).foldl (fun a p => a + (p.payload.length - 32)) 0

/-- A DELTA that waits finds room in the delta buffer; it goes behind those that waited before it (R404). -/
def TableHalf.roomFor (t : TableHalf) (p : CodePacket) : Bool := p.isPset || decide (t.held_ + (p.payload.length - 32) ≤ deltaBuffer)

/-- A numbered packet enters the buffer and leaves for its holder (R405). -/
def Chip.emitCode (h : Nat) (p : CodePacket) (c : Chip) : Chip :=
  let t := c.table8 h
  let progress := if t.unacked.isEmpty then c.tb.boundaries else t.progress
  let c := c.setTable8 h { t with unacked := t.unacked ++ [p], progress := progress }
  let c := if p.isPset then c else c.bump (deltaCount h 0) 1
  c.originate h (c.twin.members.getD p.member 0) 6 0 p.seq p.payload

/-- The DELTAs that wait leave, oldest first, while there is room (R404). -/
def Chip.drainDeltas (h : Nat) : Nat → Chip → Chip
  | 0, c => c
  | n + 1, c =>
    match (c.table8 h).deltaWait with
    | [] => c
    | (_, p) :: rest =>
      if (c.table8 h).roomFor p then Chip.drainDeltas h n ((c.setTable8 h { c.table8 h with deltaWait := rest }).emitCode h p) else c

/-- Number a DELTA or PSET toward a member, keep it, and send it (R405, R406). A DELTA that finds no room in the buffer waits for
it (R404). DESIGN CHOICE: the write itself is done at once; what waits is its DELTA. -/
def Chip.sendCode (h m : Nat) (isPset : Bool) (payload : List Byte) (c : Chip) : Chip :=
  if bitAt c.twin.lost m then c
  else
    let t := c.table8 h
    let seq := Tab.get 0 m t.txSeq
    let p : CodePacket := { member := m, seq := seq, isPset := isPset, payload := payload }
    let t := { t with txSeq := Tab.set 0 m ((seq + 1) % 2 ^ 32) t.txSeq }
    if t.deltaWait.isEmpty && t.roomFor p then (c.setTable8 h t).emitCode h p
    else c.setTable8 h { t with deltaWait := t.deltaWait ++ [(c.tb.boundaries, p)] }

/-- Step of the Table job in a half's Ledger. -/
def Chip.tableStep (c : Chip) (h : Nat) : Nat := (Tab.get {} (256 * h + c.twin.job) c.kit.jobs).step

/-- The DELTAs of one range within a unit: to the P holder and to the Q holder (R404). -/
def Chip.sendDeltas (h g u off : Nat) (d : List Byte) (c : Chip) : Chip :=
  let m := c.twin.member
  let t := stripeOf m u
  let w0 (q : Nat) : Nat := field 0xC 60 4 + field h 51 1 + field g 50 1 + field q 49 1 + field (dataIndex t m) 46 3 + field off 30 16
  let body (q : Nat) : List Byte := codeHeader (w0 q) (field t 32 32 + field c.twin.job 24 8) (c.tableStep h % 2 ^ 48) ++ d
  ((c.sendCode h (pHolder t) false (body 0)).sendCode h (qHolder t) false (body 1)).chargeRecipe h (3 * d.length)

/-- Cut a written range at unit boundaries and at 16,320 bytes: (offset, bytes). -/
def cutRange : Nat → Nat → List Byte → List (Nat × List Byte)
  | 0, _, _ => []
  | _, _, [] => []
  | fuel + 1, off, bs =>
    let n := min 16320 (65536 - off % 65536)
    (off, bs.take n) :: cutRange fuel (off + n) (bs.drop n)

/-- XOR of two byte lists. -/
def xorBytes (a b : List Byte) : List Byte := List.zipWith (· ^^^ ·) a b

/-- Write bytes of a region; a protected page sends its DELTAs (R404). -/
def Chip.writeRegion (x off : Nat) (bs : List Byte) (c : Chip) : Chip :=
  let h := bitsAt x 31 1
  let r := c.region (handleKey x)
  if !(c.table8 h).protectedList.contains x then c.storeRegion h r off bs
  else
    (cutRange (bs.length + 1) off bs).foldl (fun c e =>
      let d := xorBytes (c.readRegion h r e.1 e.2.length) e.2
      let c := c.storeRegion h r e.1 e.2
      match c.unitOf h x (e.1 / 65536) with
      | some (g, u) => if c.twin.joined then c.sendDeltas h g u (e.1 % 65536) d else c
      | none => c) c

end Sys2Proof.Machine
end

