-- ==== Sys2Proof/Machine/Larder.lean ====
section
/-! DEFINITION. The Larder: grants, frees, budgets, stacks and transfers (14_larder_and_hbm.md, R447). -/

namespace Sys2Proof.Machine

open Sys2Proof

/-- LD_CNT0 fields of a half: 0 GRANTS, 32 WAIT_TIMEOUTS, 48 OVER_PLAN. -/
def ldCount (h lsb : Nat) : CtrField :=
  ⟨0x3800018 + 0x10000 * h, lsb, if lsb = 0 then 31 else 15, if lsb = 0 then 31 else lsb + 15⟩

/-! ### Grants (R376, R377, R379) -/

/-- What a request came to: the grant's handle and extents, the wait, or FRAGMENTED. -/
inductive Grant where
  | made (c : Chip) (handle extents : Nat)
  | wait
  | fragmented

/-- Grant `n` pages in half `h`, if the free pages can meet the request (R376). -/
def Chip.grant (h kind n owner : Nat) (c : Chip) : Grant :=
  let index := (List.range 4096).find? (fun i => decide (4 ≤ i) && (c.region (4096 * h + i)).state == 0)
  match index with
  | none => .wait
  | some i =>
    if c.freePages h < n then .wait
    else
      match c.findPages h (c.takenRuns h) 256 n 0 with
      | none => .fragmented
      | some es =>
        let key := 4096 * h + i
        let r : Region := { seq := ((c.region key).seq + 1) % 2 ^ 19, kind := kind, state := 1, owner := owner, extents := es }
        .made ((c.setRegion key r).bump (ldCount h 0) 1) (handleOf key r) es.length

/-- Requests of a half on its wait list, in order (R377). -/
def Chip.waiters (c : Chip) (h : Nat) : List Waiting :=
  c.stew.waiting.filter (fun w => w.opcode == 0x0E01 && !w.started && w.args.getD 0 0 == h)

/-- The head of the wait list is served, if it can be (R377); zeroing keeps its result waiting (R379). -/
def Chip.serveHead (h : Nat) (c : Chip) : Chip :=
  match c.waiters h with
  | [] => c
  | w :: _ =>
    let n := w.args.getD 3 0
    match c.grant h (w.args.getD 1 0) n (w.args.getD 4 0) with
    | .wait => c
    | .fragmented => c.finish w .fragmented []
    | .made c x e =>
      if w.args.getD 2 0 = 0 then c.finish w .ok [x, e]
      else
        let go (y : Waiting) : Waiting := if y = w then { y with started := true, args := [x, e] } else y
        ({ c with stew := { c.stew with waiting := c.stew.waiting.map go } }).chargeRecipe h (n * 65536)

/-- The wait list is served until its head cannot be. -/
def Chip.serveAll (h : Nat) (c : Chip) : Chip := (c.waiters h).foldl (fun c _ => c.serveHead h) c

def larderAllocCmd : Command where
  words := fun _ => 3
  act := fun r c =>
    let h := bitsAt (r.w 0) 0 1
    let kind := bitsAt (r.w 0) 1 3
    let clear := b2n (bitAt (r.w 0) 4)
    let n := r.w 1
    let wait := waits r 0x0E01 false [h, kind, clear, n, r.w 2, c.tb.boundaries] c
    if n = 0 ∨ 20971520 < n ∨ 4 < kind then refuse c .badValue
    else if !(c.waiters h).isEmpty then wait
    else
      match c.grant h kind n (r.w 2) with
      | .wait => wait
      | .fragmented => refuse c .fragmented
      | .made c x e => if clear = 0 then answer c [x, e] else waits r 0x0E01 true [x, e] (c.chargeRecipe h (n * 65536))

def execLarderAlloc (k : Nat) (s : State) : Host.Outcome State Fault Refusal :=
  s.run (okMbx k) (Chip.live (Chip.accept 0x0E01 k larderAllocCmd))

def execLarderGrant (half : Nat) (s : State) : Host.Outcome State Fault Refusal :=
  s.run (okHalf half) (Chip.fabric (Chip.serveHead half))

/-- The oldest request that has waited WAIT_DEALS leaves with NO_SPACE (R377). -/
def Chip.waitTimeout (h : Nat) (c : Chip) : Chip :=
  let lim := (c.ld h).waitDeals
  match (c.waiters h).find? (fun w => lim != 0 && decide (w.args.getD 5 0 + lim ≤ c.tb.boundaries)) with
  | none => c
  | some w =>
    let c := ((c.finish w .noSpace []).bump (ldCount h 32) 1).raise 0x0E01 2 [(1, h), (25, w.args.getD 3 0), (25, c.freePages h)]
    c.serveAll h

def execLarderWaitTimeout (half : Nat) (s : State) : Host.Outcome State Fault Refusal :=
  s.run (okHalf half) (Chip.fabric (Chip.waitTimeout half))

/-- Zeros over every page of a region (R379). -/
def Chip.zeroRegion (h : Nat) (r : Region) (c : Chip) : Chip :=
  let inside (a : Nat) : Bool := r.extents.any (fun e => decide (pageAddr h e.1 0 ≤ a) && decide (a < pageAddr h (e.1 + e.2) 0))
  { c with lard := { c.lard with hbm := c.lard.hbm.filter (fun x => !inside x.1) } }

/-- The zeroing of a grant ends and its result is ready. -/
def Chip.zeroDone (k : Nat) (c : Chip) : Chip :=
  match c.waitingOf 0x0E01 (fun w => w.started && w.mbx == k) with
  | none => c
  | some w =>
    let x := w.args.getD 0 0
    (c.zeroRegion (bitsAt x 31 1) (c.region (handleKey x))).finish w .ok [x, w.args.getD 1 0]

def execLarderZeroDone (k : Nat) (s : State) : Host.Outcome State Fault Refusal :=
  s.run (okMbx k) (Chip.fabric (Chip.zeroDone k))

/-! ### Freeing (R378) -/

/-- A transfer issued on a region has still to end. -/
def Chip.regionInUse (c : Chip) (x : Nat) : Bool :=
  c.loom.loom.any (fun e => e.2.fills.any (fun f => f.region == x)) ||
    c.stew.waiting.any (fun w => (w.opcode == 0x1031 || w.opcode == 0x1032) && w.args.getD 0 0 == x)

/-- A `sieve.load`, the STATE of an open Kitty, or the weights of a loaded gate name the region (R378). -/
def Chip.regionNamed (c : Chip) (x : Nat) : Bool :=
  c.kit.kitty.any (fun e => e.2.desc.getD 3 0 / 2 ^ 32 == x) ||
    c.gate.gate.any (fun e => e.2.desc.getD 2 0 / 2 ^ 32 == x || (match e.2.swap with | some s => s.1 == x | none => false)) ||
    c.stew.waiting.any (fun w => w.opcode == 0x0D01 && w.args.getD 1 0 == x)

def larderFreeCmd : Command where
  words := fun _ => 1
  act := fun r c =>
    if (c.regionOf (r.w 0)).isNone then refuse c .badRegion
    else if c.regionNamed (r.w 0) then refuse c .busy
    else atBoundary (.larderFree (r.w 0)) c

def execLarderFree (k : Nat) (s : State) : Host.Outcome State Fault Refusal :=
  s.run (okMbx k) (Chip.live (Chip.accept 0x0E02 k larderFreeCmd))

def Chip.applyLarderFree (x : Nat) (c : Chip) : Chip :=
  match c.regionOf x with
  | none => c
  | some r => c.setRegion (handleKey x) { r with state := 3 }

/-- Pages of freed regions with no transfer left return to the bitmap, and the wait lists are served (R378). -/
def Chip.returnPages (c : Chip) : Chip :=
  let back (e : Nat × Region) : Nat × Region :=
    if e.2.state = 3 ∧ !c.regionInUse (handleOf e.1 e.2) then (e.1, { seq := e.2.seq }) else e
  (({ c with lard := { c.lard with regions := c.lard.regions.map back } }).serveAll 0).serveAll 1

/-! ### Registers (LD_) -/

/-- Stacks of a half in service. -/
def Chip.stacks (c : Chip) (h : Nat) : Nat := ((c.ld h).sites.filter (fun s => !bitAt c.lard.retired s)).length

/-- Half budget in units of 64 KiB (R383). -/
def Chip.budget (c : Chip) (h : Nat) : Nat := 16 * 2 ^ c.tb.period * c.stacks h

def Chip.ldCfg (c : Chip) (h : Nat) : Nat :=
  let x := c.ld h
  field x.spillSize 0 25 + field x.rollBw 25 10 + field x.kittyBw 35 12 + field x.waitDeals 47 16

def Chip.ldStat (c : Chip) (h : Nat) : Nat :=
  field (c.freePages h) 0 25 + field (c.deadIn h 0 (c.halfPages h)) 25 25 + field (min 255 (c.waiters h).length) 50 8 + field (c.stacks h) 58 4

def Chip.ldBudget (c : Chip) (h : Nat) : Nat := field (c.budget h) 0 12 + field (min 4095 (c.ld h).lastUsed) 12 12

/-- Pages of the reserved regions (R374). -/
def Chip.reservedPages (c : Chip) (h i : Nat) : Nat :=
  match i with | 0 => 1024 | 1 => 4096 | 2 => 256 | _ => (c.ld h).spillSize

/-- A reserved region of a half holds a dead page: it is DAMAGED (R386). -/
def Chip.reservedDamaged (c : Chip) (h i : Nat) : Bool := decide (0 < c.deadIn h ([0, 1024, 5120].getD i 5376) (c.reservedPages h i))

/-- LD_REGION i of a half. -/
def Chip.ldRegion (c : Chip) (h i : Nat) : Nat :=
  if i < 4 then field 7 19 3 + field (if c.reservedDamaged h i then 2 else 1) 22 2 + field (c.reservedPages h i) 24 25 + field 1 49 8
  else
    let r := c.region (4096 * h + i)
    field r.seq 0 19 + field r.kind 19 3 + field r.state 22 2 + field r.pages 24 25 + field r.extents.length 49 8

/-- LD_STACK of a site but its counters. -/
def Chip.ldStack (c : Chip) (site : Nat) : Nat :=
  if !bitAt (capsOf c.fuses.variant).sites site then 0 else if bitAt c.lard.retired site then 2 else 1

/-! ### Status, access, shares and stacks -/

def larderStatusCmd : Command where
  words := fun _ => 1
  act := fun r c =>
    let x := r.w 0
    let i := bitsAt x 0 12
    if (c.regionOf x).isNone ∧ !(decide (i < 4) && bitsAt x 12 19 == 0) then refuse c .badRegion
    else answer c (twoWords (c.ldRegion (bitsAt x 31 1) i) ++ [(c.region (handleKey x)).owner])

def execLarderStatus (k : Nat) (s : State) : Host.Outcome State Fault Refusal :=
  s.run (okMbx k) (Chip.live (Chip.accept 0x0E03 k larderStatusCmd))

/-- Symbols corrected in an access that goes on (R382). -/
def Chip.accessCe (x off n : Nat) (check : HbmCheck) (c : Chip) : Chip :=
  c.hbmCe (bitsAt x 31 1) ((c.region (handleKey x)).touched off n) check

/-- The checks that `larder.write` and `larder.read` share: none if the access may go on. -/
def Chip.accessFault (c : Chip) (x off n : Nat) (check : HbmCheck) : Option (Status × Chip) :=
  match c.regionOf x with
  | none => some (.badRegion, c)
  | some r =>
    if off % 4 ≠ 0 ∨ n = 0 ∨ 120 < n ∨ r.pages * 65536 < off + 4 * n then some (.badValue, c)
    else if !c.rangeOk x off (4 * n) then some (.badRegion, c)
    else if !hbmOk check then some (.ecc, c.eccUe (bitsAt x 31 1) (hbmPage (r.touched off (4 * n)) check))
    else none

def larderWriteCmd (check : HbmCheck) : Command where
  words := fun w => 3 + w 2
  act := fun r c =>
    match c.accessFault (r.w 0) (r.w 1) (r.w 2) check with
    | some (st, c) => refuse c st
    | none => answer (((c.accessCe (r.w 0) (r.w 1) (4 * r.w 2) check).writeRegion (r.w 0) (r.w 1) (r.bytes 3 (4 * r.w 2))).chargeRecipe (bitsAt (r.w 0) 31 1) (4 * r.w 2))

def execLarderWrite (k : Nat) (check : HbmCheck) (s : State) : Host.Outcome State Fault Refusal :=
  s.run (okMbx k) (Chip.live (Chip.accept 0x0E04 k (larderWriteCmd check)))

def larderReadCmd (check : HbmCheck) : Command where
  words := fun _ => 3
  act := fun r c =>
    match c.accessFault (r.w 0) (r.w 1) (r.w 2) check with
    | some (st, c) => refuse c st
    | none =>
      let h := bitsAt (r.w 0) 31 1
      answer ((c.accessCe (r.w 0) (r.w 1) (4 * r.w 2) check).chargeRecipe h (4 * r.w 2)) (packWords (c.readRegion h (c.region (handleKey (r.w 0))) (r.w 1) (4 * r.w 2)))

def execLarderRead (k : Nat) (check : HbmCheck) (s : State) : Host.Outcome State Fault Refusal :=
  s.run (okMbx k) (Chip.live (Chip.accept 0x0E05 k (larderReadCmd check)))

/-- Units that the sweep of a half needs in a Deal (R214, R215). -/
def Chip.sweepUnits (c : Chip) (h : Nat) : Nat := ((c.roll.get h).sweepRate + 7) / 8

def larderConfigCmd : Command where
  words := fun _ => 2
  act := fun r c =>
    let h := bitsAt (r.w 0) 0 1
    let roll := bitsAt (r.w 0) 1 10
    let kitty := bitsAt (r.w 0) 11 12
    if c.budget h < roll + 2 * (c.xbar.buf.get h).rate + kitty ∨ roll < c.sweepUnits h then refuse c .badValue
    else atBoundary (.larderConfig h roll kitty (bitsAt (r.w 1) 0 16)) c

def execLarderConfig (k : Nat) (s : State) : Host.Outcome State Fault Refusal :=
  s.run (okMbx k) (Chip.live (Chip.accept 0x0E06 k larderConfigCmd))

def Chip.applyLarderConfig (h roll kitty wait : Nat) (c : Chip) : Chip :=
  c.setLd h { c.ld h with rollBw := roll, kittyBw := kitty, waitDeals := wait }

/-- Firmware lowers KITTY_BW until the shares fit the budget (R384). -/
def Chip.lowerShares (h : Nat) (c : Chip) : Chip :=
  c.setLd h { c.ld h with kittyBw := min (c.ld h).kittyBw (c.budget h - (c.ld h).rollBw - 2 * (c.xbar.buf.get h).rate) }

def larderReserveCmd : Command where
  words := fun _ => 2
  act := fun r c =>
    let h := bitsAt (r.w 0) 0 1
    let n := r.w 1
    let taken := (c.takenRuns h).drop 1
    if c.halfPages h < 5376 + n ∨ 2 ^ 25 ≤ n then refuse c .badValue
    else if (c.spillHeld h).isEmpty = false ∨ taken.any (fun e => decide (e.1 < 5376 + n)) then refuse c .busy
    else answer (c.setLd h { c.ld h with spillSize := n })

def execLarderReserve (k : Nat) (s : State) : Host.Outcome State Fault Refusal :=
  s.run (okMbx k) (Chip.live (Chip.accept 0x0E07 k larderReserveCmd))

def hbmRetireCmd : Command where
  words := fun _ => 1
  act := fun r c =>
    let site := bitsAt (r.w 0) 0 5
    if !bitAt c.caps.sites site then refuse c .absent
    else answer (c.retireStackSoon site) (dealWords c.effectDeal)

def execHbmRetire (k : Nat) (s : State) : Host.Outcome State Fault Refusal :=
  s.run (okMbx k) (Chip.live (Chip.accept 0x0E08 k hbmRetireCmd))

def execHbmChannelLost (site : Nat) (s : State) : Host.Outcome State Fault Refusal :=
  s.run (decide (site < 20)) (Chip.fabric (Chip.retireStackSoon site))

/-- Regions with a page of a retired stack become DAMAGED, and each that now does so is reported: the reserved ones of half `h`
that `was` does not hold, and the granted ones (R386). -/
def Chip.damageRegions (h : Nat) (was : List Nat) (c : Chip) : Chip :=
  let c := ((List.range 4).filter (fun i => c.reservedDamaged h i && !was.contains i)).foldl
    (fun c i => c.raise 0x0E02 3 [(1, h), (12, i)]) c
  let hit (e : Nat × Region) : Bool :=
    e.2.state == 1 && e.2.extents.any (fun x => decide (0 < c.deadIn (e.1 / 4096) x.1 x.2))
  (c.lard.regions.filter hit).foldl
    (fun c e => (c.setRegion e.1 { e.2 with state := 2 }).raise 0x0E02 3 [(1, e.1 / 4096), (12, e.1 % 4096)]) c

/-- Spilled packets of a half on dead pages are dropped (R386). -/
def Chip.dropDeadSpill (h : Nat) (c : Chip) : Chip :=
  (c.xbar.queues.filter (fun e => e.1 / 8 / 1027 == h)).foldl (fun c e =>
    let q := e.1 / 8 % 1027
    let k := e.1 % 8
    let qu := c.queue h q k
    (qu.pages.filter (fun x => c.deadPage h x.number)).foldl (fun c x =>
      let (gone, qu) := (c.queue h q k).losePage x.number
      ((c.setQueue h q k qu).dropCopies h gone).bump (bufDrop h 16) gone.length) c) c

/-- A stack's retirement at its boundary, but for what the Roll loses (R386). -/
def Chip.retireStack (site : Nat) (c : Chip) : Chip :=
  let h := site / 10
  let was := (List.range 4).filter (fun i => c.reservedDamaged h i)
  let c := { c with lard := { c.lard with retired := c.lard.retired ||| 2 ^ site } }
  ((((c.damageRegions h was).dropDeadSpill h).lowerShares h).noteRetired c.deal 5 site).raise 0x0E04 3 [(5, site)]

/-- The end of a Deal in a half's budget: OVER_PLAN, USED and new counts (R384). -/
def Chip.budgetBoundary (h : Nat) (c : Chip) : Chip :=
  let x := c.ld h
  let b := c.xbar.buf.get h
  let rest := c.budget h - x.rollBw - 2 * b.rate - x.kittyBw
  let used := (x.rollUsed + x.kittyUsed + x.recipeUsed + 1023) / 1024 + b.spillWrites + b.spillReads
  let c := if rest * 1024 < x.recipeUsed then c.bump (ldCount h 48) 1 else c
  let c := c.occur (2 + h) 0x09 none none used
  c.setLd h { x with rollUsed := 0, kittyUsed := 0, recipeUsed := 0, lastUsed := used }

/-! ### Transfers between a region and host memory (R447) -/

def xferCmd (op : Nat) : Command where
  words := fun _ => 5
  act := fun r c =>
    let x := r.w 0
    let n := r.w 4
    match c.regionOf x with
    | none => refuse c .badRegion
    | some g =>
      if r.w 1 % 64 ≠ 0 ∨ r.long 2 % 64 ≠ 0 ∨ n % 64 ≠ 0 ∨ 2 ^ 26 < n ∨ g.pages * 65536 < r.w 1 + n then refuse c .badValue
      else if !c.rangeOk x (r.w 1) n then refuse c .badRegion
      else waits r op true [x, r.w 1, r.long 2, n] (c.chargeRecipe (bitsAt x 31 1) n)

def execXferToHost (k : Nat) (s : State) : Host.Outcome State Fault Refusal :=
  s.run (okMbx k) (Chip.live (Chip.accept 0x1031 k (xferCmd 0x1031)))

def execXferFromHost (k : Nat) (s : State) : Host.Outcome State Fault Refusal :=
  s.run (okMbx k) (Chip.live (Chip.accept 0x1032 k (xferCmd 0x1032)))

/-- The transfer of mailbox `k` ends: `bytes` is what host memory held, for `xfer.from_host`. -/
def Chip.xferDone (k : Nat) (bytes : List Byte) (check : HbmCheck) (c : Chip) : Chip :=
  match c.stew.waiting.find? (fun w => (w.opcode == 0x1031 || w.opcode == 0x1032) && w.mbx == k) with
  | none => c
  | some w =>
    let x := w.args.getD 0 0
    let off := w.args.getD 1 0
    let n := w.args.getD 3 0
    let h := bitsAt x 31 1
    let r := c.region (handleKey x)
    if !(r.touched off n).all (fun q => !c.deadPage h q) then c.finish w .badRegion []
    else if !hbmOk check then (c.eccUe h (hbmPage (r.touched off n) check)).finish w .ecc []
    else if w.opcode = 0x1031 then ((c.accessCe x off n check).log (.hostWrite (w.args.getD 2 0) (packWords (c.readRegion h r off n)))).finish w .ok []
    else if bytes.length = n then (c.writeRegion x off bytes).finish w .ok [] else c

def execXferDone (k : Nat) (bytes : List Byte) (check : HbmCheck) (s : State) : Host.Outcome State Fault Refusal :=
  s.run (okMbx k) (Chip.fabric (Chip.xferDone k bytes check))

end Sys2Proof.Machine
end

