-- ==== Sys2Proof/Machine/Roll.lean ====
section
/-! DEFINITION. The Roll: lookup, learning, ageing and the command sets (08_the_roll.md). -/

namespace Sys2Proof.Machine

open Sys2Proof

def Chip.rl (c : Chip) (h : Nat) : RollHalf := c.roll.get h

def Chip.setRl (h : Nat) (v : RollHalf) (c : Chip) : Chip := { c with roll := c.roll.set h v }

/-- RL_CNT fields of a half: register 0 to 2, low (0) or high (32) field. -/
def rlCount (h reg lsb : Nat) : CtrField := ⟨0x1000810 + 0x10000 * h + 8 * reg, lsb, 31, lsb + 31⟩

/-- Largest SWEEP_RATE at the period in force (R215). -/
def Chip.sweepMax (c : Chip) : Nat := 64 * 2 ^ c.tb.period

/-! ### Slots and keys (R202, R205, R207) -/

/-- Slot of a key in way `w`: CRC-32C over KITTY and SRC from the way's seed (R205). -/
def Chip.rollSlot (c : Chip) (w kitty src : Nat) : Nat :=
  let seed := (Config.rollSeed c.fuses.seedId w).toNat
  ((beBytes 4 kitty ++ beBytes 6 src).foldl (fun a b => crcByte 0x82F63B78 a b.toNat) seed ^^^ (2 ^ 32 - 1)) % 2 ^ 21

/-- The four slots of a key, as 2^21 × way + slot. -/
def Chip.rollSlots (c : Chip) (kitty src : Nat) : List Nat := (List.range 4).map (fun w => 2 ^ 21 * w + c.rollSlot w kitty src)


/-- Kitty ID of a Kitty. -/
def Kitty.id (k : Kitty) : Nat := k.desc.getD 0 0 / 2 ^ 32

/-- A Kitty ID is open in its half, a shadow counting as open for the Roll (R214, R396). -/
def Chip.kittyIsOpen (c : Chip) (id : Nat) : Bool := c.kit.kitty.any (fun e => e.2.id == id)

def Chip.rollOpen (c : Chip) (h id : Nat) : Bool := c.kittyIsOpen id || (c.mirror h).shadows.any (fun e => e.1 == id)

/-- The Kitty ID is on the purge list (R216). -/
def Chip.purging (c : Chip) (h id : Nat) : Bool := (c.rl h).purges.any (fun e => e.2.1 == id)

/-- The entry of a key and where it is; a lookup of an ID on the purge list misses (R216). -/
def Chip.rollFind (c : Chip) (h kitty src : Nat) : Option (Nat × RollEntry) :=
  if c.purging h kitty then none
  else (c.rl h).entries.find? (fun e => (c.rollSlots kitty src).contains e.1 && e.2.kitty == kitty && e.2.src == src)

def rollKey (kitty src : Nat) : Nat := 2 ^ 48 * kitty + src

/-- The key is in the cache. -/
def Chip.rollHit (c : Chip) (h kitty src : Nat) : Bool :=
  (Tab.get [] (c.rollSlot 0 kitty src % 65536) (c.rl h).cache).contains (rollKey kitty src)

/-- Bring a key into the cache as the most recently used; the least recently used whose Kitty is not open
leaves a full set (R207). -/
def Chip.rollCache (h kitty src : Nat) (c : Chip) : Chip :=
  let k := rollKey kitty src
  let i := c.rollSlot 0 kitty src % 65536
  let ways := (Tab.get [] i (c.rl h).cache).filter (fun x => x != k)
  let kept :=
    if ways.length < 16 then ways
    else
      match ways.reverse.find? (fun x => !c.kittyIsOpen (x / 2 ^ 48)) with
      | some v => ways.filter (fun x => x != v)
      | none => ways.dropLast
  c.setRl h { c.rl h with cache := Tab.put i (k :: kept) (c.rl h).cache }

/-- A lookup of a key: a miss counts, and a key that has an entry comes into the cache (R207, R208). -/
def Chip.rollAccess (h kitty src : Nat) (c : Chip) : Chip :=
  let c : Chip := if c.rollHit h kitty src then c else ((c.bump (rlCount h 1 32) 1).occur h 0x0C none none 1).chargeRoll h 256
  if (c.rollFind h kitty src).isSome then c.rollCache h kitty src else c

/-! ### Entries -/

/-- The four words of an entry (R203). -/
def RollEntry.words (e : RollEntry) : List Nat :=
  [field e.src 16 48 + field e.port 4 12 + field e.lanes 0 4,
    field e.kitty 32 32 + field e.kind 30 2 + field e.rounds 0 16,
    field e.lags 48 16 + field e.firstDeal 0 48,
    field (b2n e.roundsOvf) 57 1 + field (b2n e.lagsOvf) 56 1 + field e.lagLast 48 8 + field e.lastDeal 0 48]

/-- An entry from its four words. -/
def RollEntry.ofWords (d : List Nat) : RollEntry :=
  let w (i : Nat) : Nat := d.getD i 0
  { src := bitsAt (w 0) 16 48, port := bitsAt (w 0) 4 12, lanes := bitsAt (w 0) 0 4
    kitty := bitsAt (w 1) 32 32, kind := bitsAt (w 1) 30 2, rounds := bitsAt (w 1) 0 16
    lags := bitsAt (w 2) 48 16, firstDeal := bitsAt (w 2) 0 48
    roundsOvf := bitAt (w 3) 57, lagsOvf := bitAt (w 3) 56, lagLast := bitsAt (w 3) 48 8, lastDeal := bitsAt (w 3) 0 48 }

/-- ENTRIES crossing 90 % raises ROLL_HIGH; below 85 % HIGH clears (R218). -/
def Chip.rollLevel (h : Nat) (c : Chip) : Chip :=
  let r := c.rl h
  let n := r.entries.length
  if !r.high && decide (9 * 8388608 ≤ 10 * n) then (c.setRl h { r with high := true }).raise 0x0804 2 [(1, h), (24, n)]
  else if r.high && decide (100 * n < 85 * 8388608) then c.setRl h { r with high := false }
  else c

/-- Store an entry in a slot. DESIGN CHOICE: a write charges its granule to the ROLL share when it is made, not when the cache
writes it back (R207, R384). -/
def Chip.rollPut (h at_ : Nat) (e : RollEntry) (c : Chip) : Chip :=
  ((c.setRl h { c.rl h with entries := Tab.put at_ e (c.rl h).entries }).rollLevel h).chargeRoll h 32

/-- Free a slot; the key leaves the cache. -/
def Chip.rollErase (h at_ : Nat) (c : Chip) : Chip :=
  let r := c.rl h
  let e := Tab.get {} at_ r.entries
  let i := c.rollSlot 0 e.kitty e.src % 65536
  let ways := (Tab.get [] i r.cache).filter (fun x => x != rollKey e.kitty e.src)
  (c.setRl h { r with entries := Tab.erase at_ r.entries, cache := Tab.set [] i ways r.cache }).rollLevel h

/-- A change that the mirror carries: creation, PORT, KIND, or removal (R219). -/
def Chip.mirrorEntry (h : Nat) (e : RollEntry) (c : Chip) : Chip := c.mirrorChange h { type := 1, body := e.words }

def Chip.mirrorRemoval (h : Nat) (e : RollEntry) (c : Chip) : Chip := c.mirrorChange h { type := 2, body := [e.src, e.kitty] }

/-- An entry is removed and the mirror told. -/
def Chip.rollRemove (h at_ : Nat) (c : Chip) : Chip :=
  let e := Tab.get {} at_ (c.rl h).entries
  (c.rollErase h at_).mirrorRemoval h e

/-! ### Insertion (R206) -/

/-- The page of a slot of the Roll table is dead (R386): slots of 32 bytes from local page 1024 on. -/
def Chip.rollSlotDead (c : Chip) (h at_ : Nat) : Bool := c.deadPage h (1024 + at_ / 2048)

/-- Breadth-first search for a path to a free slot; a path lists slots, the last reached first. -/
def Chip.rollPath (c : Chip) (h : Nat) : Nat → List (List Nat) → Option (List Nat)
  | 0, _ => none
  | fuel + 1, paths =>
    let r := c.rl h
    let free (p : List Nat) : Bool := !r.entries.any (fun e => e.1 == p.headD 0) && !c.rollSlotDead h (p.headD 0)
    match paths.find? free with
    | some p => some p
    | none =>
      let step (p : List Nat) : List (List Nat) :=
        let e := Tab.get {} (p.headD 0) r.entries
        if c.rollSlotDead h (p.headD 0) then []
        else ((c.rollSlots e.kitty e.src).filter (fun s => !p.contains s)).map (fun s => s :: p)
      Chip.rollPath c h fuel (paths.flatMap step)

/-- Move entries along a path, the last first; the slot freed is the path's first. -/
def Chip.rollMove (h : Nat) : List Nat → Chip → Chip × Nat
  | [], c => (c, 0)
  | [s], c => (c, s)
  | to_ :: from_ :: rest, c =>
    let r := c.rl h
    let e := Tab.get {} from_ r.entries
    Chip.rollMove h (from_ :: rest) ((c.setRl h { r with entries := Tab.put to_ e (Tab.erase from_ r.entries) }).chargeRoll h 32)

/-- Insert an entry whose key is not present, and bring its key into the cache: its slot, or none for FULL (R206,
R207). -/
def Chip.rollInsert (h : Nat) (e : RollEntry) (c : Chip) : Chip × Option Nat :=
  match c.rollPath h 5 ((c.rollSlots e.kitty e.src).map (fun s => [s])) with
  | none => (c, none)
  | some p =>
    let (c, s) := c.rollMove h p
    (((c.rollPut h s e).rollCache h e.kitty e.src).mirrorEntry h e, some s)

/-! ### Learning (R209 to R213) -/

/-- XG_PORT.LANES of a port now. -/
def Chip.lanesOf (c : Chip) (p : Nat) : Nat := if p = 0xFFF then 0 else (c.port p).lanes

/-- Learn an accepted Ante; false if its key cannot be inserted, which is counted and raised (R209 to R212). -/
def Chip.rollLearn (h kitty src port : Nat) (c : Chip) : Chip × Bool :=
  match c.rollFind h kitty src with
  | some (s, e) =>
    let e' := { e with lastDeal := c.deal }
    let move := port != e.port &&
      (if e.kind = 2 then e.port == 0xFFF else e.port == 0xFFF || (c.port e.port).link != .up)
    if move then
      let e' := { e' with port := port, lanes := c.lanesOf port, own := true }
      (((c.rollPut h s e').bump (rlCount h 2 32) 1).mirrorEntry h e', true)
    else (c.rollPut h s e', true)
  | none =>
    let e : RollEntry :=
      { kitty := kitty, src := src, port := port, lanes := c.lanesOf port, kind := 1, firstDeal := c.deal, lastDeal := c.deal
        own := true }
    let r := if c.purging h kitty then (c, none) else c.rollInsert h e
    match r with
    | (c, some _) => (c.bump (rlCount h 0 0) 1, true)
    | (c, none) =>
      let c := c.bump (rlCount h 0 32) 1
      if (c.rl h).failRaised then (c, false)
      else ((c.setRl h { c.rl h with failRaised := true }).raise 0x0801 2 [(1, h), (32, kitty), (48, src)], false)

/-- An entry's counters after a Showdown it contributed to, as the laggard by `lag` Deals if it was one. -/
def RollEntry.report (lag : Option Nat) (e : RollEntry) : RollEntry :=
  let e := { e with rounds := (e.rounds + 1) % 65536, roundsOvf := e.roundsOvf || decide (e.rounds + 1 = 65536) }
  match lag with
  | none => e
  | some l => { e with lags := (e.lags + 1) % 65536, lagsOvf := e.lagsOvf || decide (e.lags + 1 = 65536), lagLast := min 255 l }

/-- Kitty control reports a round: contributors' sources, and the laggard with its lag (R213). -/
def Chip.rollReport (h kitty : Nat) (srcs : List Nat) (laggard : Option (Nat × Nat)) (c : Chip) : Chip :=
  srcs.foldl (fun c src =>
    let c := c.rollAccess h kitty src
    match c.rollFind h kitty src with
    | none => c
    | some (s, e) =>
      let lag := match laggard with | some (x, l) => if x = src then some l else none | none => none
      c.rollPut h s (e.report lag)) c

/-- An uncorrectable read of a slot: the slot is freed and its entry, if any, lost; the key being unknown, no removal
is mirrored (R217). -/
def Chip.rollLose (h at_ : Nat) (c : Chip) : Chip :=
  let had := (c.rl h).entries.any (fun e => e.1 == at_)
  let c : Chip := if had then c.rollErase h at_ else c
  let c := (c.bump (rlCount h 2 0) 1).raise 0x0803 2 [(1, h), (2, at_ / 2 ^ 21), (21, at_ % 2 ^ 21)]
  c.eccUe h (1024 + at_ / 2048)

/-- Entries on dead pages are lost when a stack retires (R386). -/
def Chip.rollDeadSlots (h : Nat) (c : Chip) : Chip :=
  ((c.rl h).entries.filter (fun e => c.rollSlotDead h e.1)).foldl
    (fun c e => ((c.rollRemove h e.1).bump (rlCount h 2 0) 1).raise 0x0803 2 [(1, h), (2, e.1 / 2 ^ 21), (21, e.1 % 2 ^ 21)]) c

/-! ### The sweep (R214 to R217) -/

/-- The sweep removes an entry (R214). -/
def Chip.sweepTakes (c : Chip) (h : Nat) (e : RollEntry) : Bool :=
  c.purging h e.kitty || (e.kind == 1 && !c.rollOpen h e.kitty && decide (e.lastDeal + 256 * (c.rl h).age < c.deal))

/-- A Deal's sweep; `bad` are slots of it whose read is uncorrectable. -/
def Chip.rollSweep (h : Nat) (bad : List Nat) (c : Chip) : Chip :=
  let r := c.rl h
  let n := 256 * r.sweepRate
  let inside (s : Nat) : Bool := decide ((s + 2 ^ 23 - r.sweepPos) % 2 ^ 23 < n)
  let c := c.chargeRoll h (32 * n)
  let c := (bad.filter (fun s => decide (s < 2 ^ 23) && inside s)).foldl (fun c s => c.rollLose h s) c
  let c := ((c.rl h).entries.filter (fun e => inside e.1 && c.sweepTakes h e.2)).foldl
    (fun c e => (c.rollRemove h e.1).bump (rlCount h 1 0) 1) c
  let finished := (c.rl h).purges.filter (fun e => decide (e.2.2 ≤ n))
  let left := ((c.rl h).purges.filter (fun e => decide (n < e.2.2))).map (fun e => (e.1, e.2.1, e.2.2 - n))
  let c := c.setRl h { c.rl h with sweepPos := (r.sweepPos + n) % 2 ^ 23, purges := left }
  finished.foldl (fun c e => c.raise 0x0802 1 [(1, h), (32, e.2.1)]) c

def execRollSweep (half : Nat) (bad : List Nat) (s : State) : Host.Outcome State Fault Refusal :=
  s.run (okHalf half) (Chip.fabric (Chip.rollSweep half bad))

/-! ### The command sets (R221 to R223) -/

def Chip.rset (c : Chip) (h s : Nat) : RollSet := (c.rl h).sets.get s

def Chip.setRset (h s : Nat) (v : RollSet) (c : Chip) : Chip := c.setRl h { c.rl h with sets := (c.rl h).sets.set s v }

/-- Offset of a register of a command set. -/
def rollReg (h s off : Nat) : Nat := 0x1000000 + 0x10000 * h + 0x100 * s + off

/-- A write of RL_CMD starts an operation, unless the set is busy (R221). -/
def Chip.rollStart (h s : Nat) (op : RollOp) (c : Chip) : Chip :=
  if (c.rset h s).op.isSome then c.stick (rollReg h s 0x38) 4
  else
    let c := c.setRset h s { c.rset h s with op := some op }
    c.setRl h { c.rl h with ops := (c.rl h).ops ++ [s] }

/-- Set 0 is the host's: an access of it needs PCIe. -/
def Chip.setAccess (s : Nat) (f : Chip → Chip) (c : Chip) : Chip := if s = 0 then c.hosted f else f c

def execRollRead (half set : Nat) (s : State) : Host.Outcome State Fault Refusal :=
  s.run (okHalf half && decide (set < 2)) (Chip.fabric (Chip.setAccess set (Chip.rollStart half set { op := 1 })))

def execRollWrite (half set mode : Nat) (keep : Bool) (s : State) : Host.Outcome State Fault Refusal :=
  s.run (okHalf half && decide (set < 2) && decide (mode < 3))
    (Chip.fabric (Chip.setAccess set (Chip.rollStart half set { op := 2, mode := mode, keep := keep })))

def execRollDelete (half set : Nat) (s : State) : Host.Outcome State Fault Refusal :=
  s.run (okHalf half && decide (set < 2)) (Chip.fabric (Chip.setAccess set (Chip.rollStart half set { op := 3 })))

def execRollReadIndex (half set index : Nat) (s : State) : Host.Outcome State Fault Refusal :=
  s.run (okHalf half && decide (set < 2) && decide (index < 2 ^ 23))
    (Chip.fabric (Chip.setAccess set (Chip.rollStart half set { op := 4, index := index })))

def execRollPurge (half set : Nat) (s : State) : Host.Outcome State Fault Refusal :=
  s.run (okHalf half && decide (set < 2)) (Chip.fabric (Chip.setAccess set (Chip.rollStart half set { op := 5 })))

def execRollTouch (half set : Nat) (s : State) : Host.Outcome State Fault Refusal :=
  s.run (okHalf half && decide (set < 2)) (Chip.fabric (Chip.setAccess set (Chip.rollStart half set { op := 6 })))

def execRollCmdReserved (half set op mode : Nat) (s : State) : Host.Outcome State Fault Refusal :=
  s.run (okHalf half && decide (set < 2) && decide (op < 16) && decide (mode < 4) && (decide (op = 0) || decide (6 < op) || (op == 2 && mode == 3)))
    (Chip.fabric (Chip.setAccess set (Chip.rollStart half set { op := op, mode := mode })))

/-- A write to RL_KEY0, RL_KEY1 or RL_DATA0 to 3 (registers 0 to 5). -/
def Chip.rollSetWrite (h s reg v : Nat) (c : Chip) : Chip :=
  let x := c.rset h s
  if x.op.isSome then c.stick (rollReg h s 0x38) 4
  else if reg = 0 then c.setRset h s { x with key0 := v % 2 ^ 48 }
  else if reg = 1 then c.setRset h s { x with key1 := v % 2 ^ 32 }
  else c.setRset h s { x with data := x.data.set (reg - 2) v }

def execRollSetWrite (half set reg value : Nat) (s : State) : Host.Outcome State Fault Refusal :=
  s.run (okHalf half && decide (set < 2) && decide (reg < 6) && decide (value < 2 ^ 64))
    (Chip.fabric (Chip.setAccess set (Chip.rollSetWrite half set reg value)))

/-- What an operation leaves in its set: ERR, and the entry's place where one was found or stored. -/
def RollSet.finish (err : Nat) (at_ : Option Nat) (hit : Bool) (x : RollSet) : RollSet :=
  let x := { x with op := none, err := err, hit := hit }
  match at_ with
  | none => x
  | some s => { x with way := s / 2 ^ 21, slot := s % 2 ^ 21 }

/-- A lookup that misses the cache reads the four slots of its key from HBM; those of the ways `bad` read with an
uncorrectable error are lost (R208, R217). -/
def Chip.rollRead (h kitty src : Nat) (bad : List Nat) (c : Chip) : Chip :=
  let c : Chip := if c.rollHit h kitty src then c else bad.foldl (fun c w => c.rollLose h (2 ^ 21 * w + c.rollSlot w kitty src)) c
  c.rollAccess h kitty src

/-- READ and TOUCH, and DELETE: the lookup of the set's key. READ and TOUCH answer LOST where the key is not found and
a slot that might have held it was lost. -/
def Chip.rollKeyed (h s op : Nat) (bad : List Nat) (c : Chip) : Chip :=
  let x := c.rset h s
  let hit := c.rollHit h x.key1 x.key0
  if c.purging h x.key1 then c.setRset h s (x.finish 5 none false)
  else
    let c := c.rollRead h x.key1 x.key0 bad
    match c.rollFind h x.key1 x.key0 with
    | none => c.setRset h s (x.finish (if !bad.isEmpty && !hit && op != 3 then 6 else 1) none false)
    | some (a, e) =>
      if op = 3 then (c.rollRemove h a).setRset h s (x.finish 0 (some a) hit)
      else c.setRset h s ((if op = 1 then { x with data := e.words } else x).finish 0 (some a) hit)

/-- WRITE (R222). -/
def Chip.rollWrite (h s : Nat) (op : RollOp) (bad : List Nat) (c : Chip) : Chip :=
  let x := c.rset h s
  let e := RollEntry.ofWords x.data
  let portOk := decide (e.port < 0x804) || e.port == 0xFFF
  let spare := bitsAt (x.data.getD 1 0) 16 14 == 0 && bitsAt (x.data.getD 3 0) 58 6 == 0
  if !(e.kind == 1 || e.kind == 2) || !c.nameOk e.src || !portOk || !spare then c.setRset h s (x.finish 4 none false)
  else if c.purging h e.kitty then c.setRset h s (x.finish 5 none false)
  else
    let hit := c.rollHit h e.kitty e.src
    let c := c.rollRead h e.kitty e.src bad
    match c.rollFind h e.kitty e.src with
    | some (a, old) =>
      if op.mode = 1 then c.setRset h s (x.finish 2 (some a) hit)
      else
        let e := if op.keep then { e with rounds := old.rounds, lags := old.lags, lagLast := old.lagLast, roundsOvf := old.roundsOvf
                                          lagsOvf := old.lagsOvf, firstDeal := old.firstDeal, lastDeal := old.lastDeal } else e
        let c := c.rollPut h a e
        let c : Chip := if e.port != old.port || e.kind != old.kind then c.mirrorEntry h e else c
        c.setRset h s ({ x with data := e.words }.finish 0 (some a) hit)
    | none =>
      if op.mode = 2 then c.setRset h s (x.finish 1 none hit)
      else
        match c.rollInsert h e with
        | (c, none) => c.setRset h s (x.finish 3 none hit)
        | (c, some a) => c.setRset h s ({ x with data := e.words }.finish 0 (some a) hit)

/-- PURGE: refused for an open Kitty or with the list full (R216, R222). -/
def Chip.rollPurge (h s : Nat) (c : Chip) : Chip :=
  let x := c.rset h s
  let r := c.rl h
  if c.kittyIsOpen x.key1 then c.setRset h s (x.finish 7 none false)
  else if c.purging h x.key1 then c.setRset h s (x.finish 0 none false)
  else
    match (List.range 16).find? (fun i => !r.purges.any (fun e => e.1 == i)) with
    | none => c.setRset h s (x.finish 3 none false)
    | some i => (c.setRl h { r with purges := Tab.put i (x.key1, 2 ^ 23) r.purges }).setRset h s (x.finish 0 none false)

/-- READ_INDEX: a slot read as it is, FREE included; from HBM unless the cache holds its key (R207, R222). -/
def Chip.rollReadIndex (h s index : Nat) (bad : List Nat) (c : Chip) : Chip :=
  let x := c.rset h s
  let e := Tab.get {} index (c.rl h).entries
  let hit := e.kind != 0 && c.rollHit h e.kitty e.src
  if !hit && !bad.isEmpty then (c.rollLose h index).setRset h s (x.finish 6 (some index) false)
  else
    let c : Chip := if e.kind = 0 then c else c.rollAccess h e.kitty e.src
    c.setRset h s ({ x with data := e.words }.finish 0 (some index) hit)

/-- An operation takes effect and BUSY clears; operations of both sets do so in the order they reached the
engine (R221). `bad`: ways whose slot the operation reads with an uncorrectable error, for READ_INDEX any number for
the slot it reads. -/
def Chip.rollOpDone (h s : Nat) (bad : List Nat) (c : Chip) : Chip :=
  let x := c.rset h s
  match x.op with
  | none => c
  | some op =>
    if (c.rl h).ops.head? ≠ some s then c
    else
      let c := c.setRl h { c.rl h with ops := (c.rl h).ops.drop 1 }
      match op.op with
      | 1 => c.rollKeyed h s 1 bad
      | 3 => c.rollKeyed h s 3 bad
      | 6 => c.rollKeyed h s 6 bad
      | 2 => if op.mode = 3 then c.setRset h s (x.finish 7 none false) else c.rollWrite h s op bad
      | 4 => c.rollReadIndex h s op.index bad
      | 5 => c.rollPurge h s
      | _ => c.setRset h s (x.finish 7 none false)

def execRollOpDone (half set : Nat) (bad : List Nat) (s : State) : Host.Outcome State Fault Refusal :=
  s.run (okHalf half && decide (set < 2) && bad.all (fun w => decide (w < 4))) (Chip.fabric (Chip.rollOpDone half set bad))

/-! ### What the partner's mirror writes (R220) -/

/-- A mirrored entry: PORT = 0xFFF unless this chip's own arrivals have filled it in. -/
def Chip.rollMirrored (h : Nat) (e : RollEntry) (c : Chip) : Chip :=
  let c := c.rollAccess h e.kitty e.src
  match c.rollFind h e.kitty e.src with
  | some (s, old) =>
    let e : RollEntry := if old.own then { e with port := old.port, lanes := old.lanes, own := true } else { e with port := 0xFFF, lanes := 0 }
    let c := c.rollPut h s e
    if e.port != old.port || e.kind != old.kind then c.mirrorEntry h e else c
  | none => if c.purging h e.kitty then c else (c.rollInsert h { e with port := 0xFFF, lanes := 0 }).1

def Chip.rollMirrorRemoved (h src kitty : Nat) (c : Chip) : Chip :=
  let c := c.rollAccess h kitty src
  match c.rollFind h kitty src with | some (s, _) => c.rollRemove h s | none => c

/-! ### Settings and registers -/

def rollConfigCmd : Command where
  words := fun _ => 2
  act := fun r c =>
    let h := bitsAt (r.w 0) 0 1
    let age := bitsAt (r.w 0) 1 16
    let rate := bitsAt (r.w 0) 17 11
    if age = 0 ∨ rate = 0 ∨ c.sweepMax < rate then refuse c .badValue
    else atBoundary (.rollConfig h age rate (bitsAt (r.w 1) 0 8)) c

def execRollConfig (k : Nat) (s : State) : Host.Outcome State Fault Refusal :=
  s.run (okMbx k) (Chip.live (Chip.accept 0x0801 k rollConfigCmd))

def Chip.applyRollConfig (h age rate margin : Nat) (c : Chip) : Chip :=
  c.setRl h { c.rl h with age := age, sweepRate := min rate c.sweepMax, lagMargin := margin }

/-- RL_STATUS but COLLIDE. -/
def RollSet.status (x : RollSet) : Nat :=
  field (b2n x.op.isSome) 0 1 + field x.err 1 3 + field x.way 5 2 + field (b2n x.hit) 7 1 + field x.slot 8 21

def Chip.rlCfg (c : Chip) (h : Nat) : Nat :=
  let r := c.rl h
  field r.age 0 16 + field r.sweepRate 16 11 + field r.lagMargin 27 8 + field (b2n (c.mirror h).on) 35 1

def Chip.rlStat (c : Chip) (h : Nat) : Nat :=
  let r := c.rl h
  field r.entries.length 0 24 + field (r.entries.filter (fun e => e.2.kind == 2)).length 24 24 + field r.purges.length 48 5 +
    field (b2n r.high) 53 1 + field c.fuses.seedId 56 8

def Chip.rlPurge (c : Chip) (h i : Nat) : Nat :=
  match (c.rl h).purges.find? (fun e => e.1 == i) with
  | some e => field e.2.1 0 32 + 2 ^ 32
  | none => 0

end Sys2Proof.Machine
end

