-- ==== Sys2Proof/Machine/Kitties.lean ====
section
/-! DEFINITION. Kitties: packets, sums, rounds, Showdowns, results, and the Ledger's commands
(09_kitties.md). -/

namespace Sys2Proof.Machine

open Sys2Proof

/-! ### Descriptor fields and derived quantities (R227 to R229, R248) -/

def Kitty.fld (k : Kitty) (i lo len : Nat) : Nat := bitsAt (k.desc.getD i 0) lo len

def Kitty.job (k : Kitty) : Nat := k.fld 0 24 8
def Kitty.inFmt (k : Kitty) : Nat := k.fld 0 21 3
def Kitty.outFmt (k : Kitty) : Nat := k.fld 0 18 3
def Kitty.policy (k : Kitty) : Nat := k.fld 0 16 2
def Kitty.strict (k : Kitty) : Bool := k.fld 0 15 1 == 1
def Kitty.sr (k : Kitty) : Bool := k.fld 0 14 1 == 1
def Kitty.nanAbort (k : Kitty) : Bool := k.fld 0 13 1 == 1
def Kitty.expect (k : Kitty) : Nat := k.fld 0 0 12 + 1
def Kitty.n (k : Kitty) : Nat := k.fld 1 41 23
def Kitty.chunk (k : Kitty) : Nat := k.fld 1 27 14
def Kitty.quorum (k : Kitty) : Nat := k.fld 1 15 12 + 1
def Kitty.wait (k : Kitty) : Nat := k.fld 1 0 15
def Kitty.recipe (k : Kitty) : Nat := k.fld 2 48 16
def Kitty.slot (k : Kitty) : Nat := k.fld 2 39 4
def Kitty.piece (k : Kitty) : Nat := k.fld 2 16 23
def Kitty.rto (k : Kitty) : Nat := k.fld 2 0 16
def Kitty.state_ (k : Kitty) : Nat := k.fld 3 32 32
def Kitty.bench (k : Kitty) : Nat := 64 * k.fld 3 0 17
def Kitty.resultSrc (k : Kitty) : Nat := k.fld 4 16 48
def Kitty.parent (k : Kitty) : Nat := k.fld 5 16 48
def Kitty.parentCidx (k : Kitty) : Nat := k.fld 5 0 12

/-- Half of a Kitty, and its home Loom in the package (R224, R265). -/
def Kitty.half (k : Kitty) : Nat := bitsAt k.id 31 1
def Kitty.home (k : Kitty) : Nat := 32 * k.half + k.fld 2 43 5

def ceilDiv (a b : Nat) : Nat := (a + b - 1) / b

/-- NCH and PIECES. -/
def Kitty.nch (k : Kitty) : Nat := ceilDiv k.n k.chunk
def Kitty.pieces (k : Kitty) : Nat := ceilDiv k.n k.piece

/-- Elements of a chunk, and of a piece. -/
def Kitty.chunkLen (k : Kitty) (c : Nat) : Nat := min k.chunk (k.n - c * k.chunk)
def Kitty.pieceLen (k : Kitty) (j : Nat) : Nat := min k.piece (k.n - j * k.piece)

/-- Chunks of piece `j`. -/
def Kitty.pieceChunks (k : Kitty) (j : Nat) : List Nat :=
  (List.range (ceilDiv (k.pieceLen j) k.chunk)).map (fun i => j * (k.piece / k.chunk) + i)

/-- Bytes of `n` elements of a Kitty format, MX scales apart, and of their scales (R228). -/
def elementBytes (fmt n : Nat) : Nat := if fmt = 0 then 4 * n else if fmt = 1 then 2 * n else n
def scaleBytes (fmt n : Nat) : Nat := if fmt ≤ 1 then 0 else ceilDiv n 32
def bodyBytes (fmt n : Nat) : Nat := elementBytes fmt n + scaleBytes fmt n

def maxChunk (fmt : Nat) : Nat := if fmt = 0 then 4032 else if fmt = 1 then 8128 else 15808

/-- Bytes that a piece of `n` elements in `chunks` chunks moves toward the Loom, and back (R247). -/
def towardBytes (chunks n : Nat) : Nat := 64 + ceilDiv (2 * chunks) 64 * 64 + 4 * n
def backBytes (fmt n : Nat) : Nat := elementBytes fmt n + scaleBytes fmt n

/-- Bytes of one buffer of the Bench region (R248), and the base of the buffer of piece `j`. -/
def Kitty.bufBytes (k : Kitty) : Nat := towardBytes (k.piece / max 1 k.chunk) k.piece + backBytes k.outFmt k.piece
def Kitty.buf (k : Kitty) (j : Nat) : Nat := k.bench + j % 2 * k.bufBytes

/-- Addresses in a buffer: chunk counts, sums, result, result scales. -/
def Kitty.countsAt (k : Kitty) (j : Nat) : Nat := k.buf j + 64
def Kitty.sumsAt (k : Kitty) (j : Nat) : Nat := k.countsAt j + ceilDiv (2 * (k.piece / max 1 k.chunk)) 64 * 64
def Kitty.resultAt (k : Kitty) (j : Nat) : Nat := k.sumsAt j + 4 * k.piece
def Kitty.scalesAt (k : Kitty) (j : Nat) : Nat := k.resultAt j + elementBytes k.outFmt k.piece

/-- STATE_BYTES of a Kitty's recipe (R323). -/
def Chip.stateBytes (c : Chip) (k : Kitty) : Nat :=
  if k.recipe = 0 then 0 else match c.loom.recipes.find? (fun e => e.1 == k.recipe) with | some e => e.2.stateBytes | none => 0

/-- One state buffer, and the state buffer of piece `j` (R324). -/
def stateBufBytes (k : Kitty) (sb : Nat) : Nat := ceilDiv (k.piece * sb) 64 * 64
def Kitty.stateBuf (k : Kitty) (sb j : Nat) : Nat := ceilDiv (k.bench + 2 * k.bufBytes) 64 * 64 + j % 2 * stateBufBytes k sb

/-- End of the Bench region (R228, R324). -/
def Kitty.benchEnd (k : Kitty) (sb : Nat) : Nat :=
  if sb = 0 then k.bench + 2 * k.bufBytes else ceilDiv (k.bench + 2 * k.bufBytes) 64 * 64 + 2 * stateBufBytes k sb

/-- Byte offset in STATE of piece `j` of generation `g` (R380). -/
def Kitty.stateOff (k : Kitty) (sb g j : Nat) : Nat :=
  let ps := k.piece * sb
  g * (ceilDiv (k.pieces * ps) 65536 * 65536) + j * ps

/-! ### Access -/

def Chip.kitty (c : Chip) (key : Nat) : Kitty := Tab.get {} key c.kit.kitty

def Chip.setKitty (key : Nat) (v : Kitty) (c : Chip) : Chip := { c with kit := { c.kit with kitty := Tab.put key v c.kit.kitty } }

/-- The Kitty of an ID in its half, in any state but FREE, with its key. -/
def Chip.findKitty (c : Chip) (id : Nat) : Option (Nat × Kitty) := c.kit.kitty.find? (fun e => e.2.id == id)

def Chip.job (c : Chip) (h j : Nat) : Option Job := (c.kit.jobs.find? (fun e => e.1 == 256 * h + j)).map Prod.snd

def Chip.setJob (h j : Nat) (v : Job) (c : Chip) : Chip := { c with kit := { c.kit with jobs := Tab.put (256 * h + j) v c.kit.jobs } }

/-- A Loom in service (R1, R292). -/
def Chip.loomServes (c : Chip) (n : Nat) : Bool :=
  bitAt (capsOf c.fuses.variant).loomMask n && (Tab.get {} n c.loom.loom).reason == 0

/-- A Loom that PN_CAPS does not list: until a retirement within a Deal is recorded the Loom is present, in a fault state
(R4 to R6). -/
def Chip.loomAbsent (c : Chip) (n : Nat) : Bool := !bitAt c.caps.loomMask n

/-- Counters of a Kitty (KT_KCNT0, KT_KCNT1) and of a half (KT_HCNT). -/
def ktCnt (key reg lsb : Nat) : CtrField :=
  ⟨0x2000000 + 0x400000 * (key / 32768) + 0x80 * (key % 32768) + 0x38 + 8 * reg, lsb, 15, lsb + 15⟩
def ktHcnt (h lsb : Nat) : CtrField := ⟨0x2800010 + 0x1000 * h, lsb, 31, lsb + 31⟩

/-! ### Packets (R232, R233, R250) -/

/-- Header words 0 and 1 of a Kitty payload. -/
def kittyWord0 (kind attempt cidx nelem fmt : Nat) (part nan inf : Bool) : Nat :=
  field kind 60 4 + field attempt 56 4 + field cidx 44 12 + field nelem 30 14 + field fmt 27 3 + field (b2n part) 26 1 +
    field (b2n nan) 25 1 + field (b2n inf) 24 1

def kittyWord1 (count step : Nat) : Nat := field count 48 16 + field step 0 48

/-- SEQ of a Kitty packet: low 16 bits of the step, and a chunk, 0xFFFF or 0xFFFE. -/
def kittySeq (step low : Nat) : Nat := step % 65536 * 65536 + low

/-- Ranges of a rising list of chunks, first and count (R233). -/
def rangesOf : List Nat → List (Nat × Nat)
  | [] => []
  | x :: t =>
    match rangesOf t with
    | (a, n) :: rest => if a = x + 1 then (x, n + 1) :: rest else (x, 1) :: (a, n) :: rest
    | [] => [(x, 1)]

/-- Body of an ANACK or RNACK: at most 2048 ranges. -/
def nackBody (chunks : List Nat) : List Byte := ((rangesOf chunks).take 2048).flatMap (fun r => beBytes 2 r.1 ++ beBytes 2 r.2)

/-- Chunks below `nch` that a NACK body lists. -/
def nackChunks (nch : Nat) (body : List Byte) : List Nat :=
  let rs := (chunksOf 4 2048 body).map (fun b => (beNat (b.take 2), beNat (b.drop 2)))
  (List.range nch).filter (fun i => rs.any (fun r => decide (r.1 ≤ i) && decide (i < r.1 + r.2)))

/-- The port to send a contributor's packets on: its Roll entry's, 0xFFF for a route lookup (R204, R250). -/
def Chip.rollPort (c : Chip) (h kitty src : Nat) : Nat :=
  match c.rollFind h kitty src with | some (_, e) => e.port | none => 0xFFF

/-- Kitty control sends one payload to each of a list of names: copies on the Roll's ports, replicated under R175,
those for the other half crossing the Span once (R176), and by route lookup for PORT 0xFFF (R204, R250). Each name's entry is
looked up (R207). -/
def Chip.kittySend (h : Nat) (k : Kitty) (seq : Nat) (resend : Bool) (dests : List Nat) (payload : List Byte) (c : Chip) : Chip :=
  let c := dests.foldl (fun c d => c.rollAccess h k.id d) c
  let ported := dests.map (fun d => (c.rollPort h k.id d, d))
  let direct := ported.filter (fun e => e.1 != 0xFFF)
  let named (far : Bool) : List (Nat × Nat) :=
    (direct.filter (fun e => (halfOf e.1 != h) == far)).map (fun e => (pointOf e.1, e.2))
  let p := mkPacket 0 3 ((c.currentEpoch h).getD 0) k.resultSrc k.id seq resend payload
  let (tag, c) := c.newTag
  let x : QPacket := { tag := tag, pkt := p, cells := p.cells, arrived := p.cells, fanout := named true }
  let span : List (Nat × Nat) := if x.fanout.isEmpty then [] else [(1026, 0)]
  let c := c.replicateNamed h (named false ++ span) x
  (ported.filter (fun e => e.1 == 0xFFF)).foldl (fun c e => c.originateFrom h k.resultSrc e.2 3 k.id seq resend none payload) c

/-- A child's packet to its parent, by route lookup (R232, R254, R255). -/
def Chip.sendUp (h : Nat) (k : Kitty) (seq : Nat) (resend : Bool) (payload : List Byte) (c : Chip) : Chip :=
  c.originateFrom h k.resultSrc k.parent 2 k.id seq resend none payload

/-- An ANACK to a contributor, listing chunks (R235, R243). -/
def Chip.sendAnack (h : Nat) (k : Kitty) (src step attempt : Nat) (chunks : List Nat) (c : Chip) : Chip :=
  c.kittySend h k (kittySeq step 0xFFFE) false [src]
    (codeHeader (kittyWord0 4 attempt 0 0 0 false false false) (kittyWord1 0 step) 0 ++ nackBody chunks)

/-! ### Sums (R239, R240, R242) -/

/-- Element values of a body, and whether a scaled product fell outside FP32 (R239). -/
def bodyValues (fmt n : Nat) (body : List Byte) : List Num :=
  if fmt = 0 then (chunksOf 4 n body).map (fun b => ofF32 (leNat b))
  else if fmt = 1 then (chunksOf 2 n body).map (fun b => ofElement 1 (leNat b))
  else
    let scales := body.take (ceilDiv n 32)
    (body.drop (ceilDiv n 32)).mapIdx (fun i b => scaled fmt b.toNat (scales.getD (i / 32) 0).toNat)

/-- A finite product that does not fit FP32. -/
def overflowsF32 (x : Num) : Bool := match x with | .fin _ _ _ => (ofF32 (toF32 x)).isInf | _ => false

/-- Rounding of element `i` of a step of Kitty control: nearest-even, or stochastic with its own draw. -/
def kittyRound (sr : Bool) (base i : Nat) : Rounding :=
  if sr then .sr ((Config.freeWord (base + i)).toNat % 2 ^ 24) else .nearest

/-- The sums of a chunk after an Ante. -/
def addChunk (sr : Bool) (base : Nat) (acc : List Nat) (vs : List Num) : List Nat :=
  vs.mapIdx (fun i v => fp32.round (kittyRound sr base i) ((ofF32 (acc.getD i 0)).add (ofF32 (toF32 v))))

/-- FP32 sums of a chunk as a body in an output format: MX scales first, then elements (R233, R249). -/
def convertChunk (fmt : Nat) (sr : Bool) (base : Nat) (sums : List Nat) : List Byte :=
  let vs := sums.map ofF32
  if fmt = 0 then sums.flatMap (leBytes 4)
  else if fmt = 1 then (vs.mapIdx (fun i v => bf16.round (kittyRound sr base i) v)).flatMap (leBytes 2)
  else
    let blocks := chunksOf 32 (vs.length + 1) vs
    let scales := blocks.map (blockScale fmt)
    let es := vs.mapIdx (fun i v => blockElement fmt (scales.getD (i / 32) 0) (kittyRound sr base i) v)
    (scales.map (BitVec.ofNat 8)) ++ packElements fmt es

/-- Sums of a chunk of a bank, zero where no Ante has come. -/
def Bank.sumsOf (b : Bank) (k : Kitty) (c : Nat) : List Nat :=
  match b.sums.find? (fun e => e.1 == c) with | some e => e.2 | none => List.replicate (k.chunkLen c) 0

/-- Contributors complete in a round (R237). -/
def Bank.complete (b : Bank) (k : Kitty) : Nat := (b.got.filter (fun e => e.2 == k.nch)).length

/-- SRC of a contributor index. -/
def Kitty.ownerOf (k : Kitty) (cidx : Nat) : Option Nat := (k.owners.find? (fun e => e.1 == cidx)).map Prod.snd

/-- Names of the contributors of a round (R250), and its laggard by SRC and L (R213, R260). -/
def Bank.contributors (b : Bank) (k : Kitty) : List Nat := (b.got.filterMap (fun e => k.ownerOf e.1)).eraseDups

def Showdown.laggard (x : Showdown) (k : Kitty) : Option (Nat × Nat) :=
  let named (e : Nat × Nat) (others : List (Nat × Nat)) (deal : Nat) : Option (Nat × Nat) :=
    match others.getLast?, k.ownerOf e.1 with
    | some p, some src => some (src, deal - p.2)
    | _, _ => none
  if x.isPartial then
    match x.bank.heard.find? (fun e => Tab.get 0 e.1 x.bank.got != k.nch) with
    | none => none
    | some e => named e (x.bank.heard.filter (fun y => y.1 != e.1)) x.ended
  else
    match x.bank.heard.getLast? with
    | none => none
    | some e => named e x.bank.heard.dropLast e.2

/-! ### Rounds (R237, R245, R252) -/

/-- SCRATCH pages that a Showdown still holds (R385). -/
def Showdown.scratch (x : Showdown) : Nat := x.inBench.length + x.ran.length

def Chip.freeScratch (h n : Nat) (c : Chip) : Chip := c.setLd h { c.ld h with scratch := (c.ld h).scratch - n }

/-- The Showdown or held result of a Kitty's last ended round is discarded. -/
def Chip.dropShow (key : Nat) (c : Chip) : Chip :=
  let k := c.kitty key
  match k.last with
  | none => c
  | some x => (c.freeScratch (key / 32768) x.scratch).setKitty key { k with last := none }

/-- A round fails (R245): what is left of its Showdown is cancelled. -/
def Chip.failRound (key step reason : Nat) (c : Chip) : Chip :=
  let k := c.kitty key
  let c : Chip := match k.last with | some x => if x.step = step ∧ !x.done then c.dropShow key else c | none => c
  let k' := { c.kitty key with state := .failed, failReason := reason }
  (c.setKitty key k').raise 0x0905 3 [(32, k.id), (48, step), (4, k.attempt), (3, reason)]

/-- A Kitty of a job has ended collection of a step (R261). -/
def Chip.noteEnded (h j step : Nat) (c : Chip) : Chip :=
  match c.job h j with
  | none => c
  | some x => c.setJob h j { x with ended := some (max step (x.ended.getD 0)) }

/-- Collection of the open round ends (R237, R240, R245, R252). -/
def Chip.endCollection (key : Nat) (isPartial : Bool) (c : Chip) : Chip :=
  let k := c.kitty key
  let vs := k.bank.sums.flatMap (fun e => e.2.map ofF32)
  let nan := vs.any (·.isNan)
  let inf := k.bank.inf || vs.any (·.isInf)
  let c := ((c.setKitty key { k with nan := nan, inf := inf }).dropShow key).noteEnded (key / 32768) k.job k.step
  if k.nanAbort && nan then
    (c.setKitty key { c.kitty key with bank := {}, step := k.step + 1, isPartial := isPartial }).failRound key k.step 5
  else
    let x : Showdown :=
      { step := k.step, attempt := k.attempt, bank := k.bank, ended := c.deal, order := c.kit.nextOrder
        isPartial := isPartial, nan := nan, inf := inf }
    let c := { c with kit := { c.kit with nextOrder := c.kit.nextOrder + 1 } }
    c.setKitty key { c.kitty key with bank := {}, step := k.step + 1, last := some x, isPartial := isPartial }

/-- Every contributor has confirmed a result that is done: it is released (R252). -/
def Chip.releaseIfConfirmed (key : Nat) (c : Chip) : Chip :=
  let k := c.kitty key
  match k.last with
  | none => c
  | some x => if x.done && (x.bank.contributors k).all (fun y => x.confirmed.contains y) then c.dropShow key else c

/-- A contributor confirms the result of the last ended round, or will hold it confirmed once its Showdown is done;
the last to confirm releases it (R251, R252). -/
def Chip.confirm (key src : Nat) (c : Chip) : Chip :=
  let k := c.kitty key
  match k.last with
  | none => c
  | some x =>
    (c.setKitty key { k with last := some { x with confirmed := src :: x.confirmed.filter (fun y => y != src) } }).releaseIfConfirmed key

/-- Resend chunks of the held result to one contributor, each counting in RESENDS (R251). -/
def Chip.resendChunks (key src : Nat) (chunks : List Nat) (c : Chip) : Chip :=
  let k := c.kitty key
  match k.last with
  | none => c
  | some x =>
    chunks.foldl (fun c i =>
      match x.results.find? (fun e => e.1 == i) with
      | none => c
      | some e => (c.kittySend (key / 32768) k (kittySeq x.step i) true [src] e.2).bump (ktCnt key 1 16) 1) c

/-! ### Showdown results (R249, R250, R254, R256) -/

/-- The payload of a chunk's result, or of a child's upward Ante. -/
def Kitty.payload (k : Kitty) (x : Showdown) (chunk : Nat) (body : List Byte) : List Byte :=
  let n := k.chunkLen chunk
  let w1 := kittyWord1 (Tab.get 0 chunk x.bank.counts) x.step
  let w0 :=
    if k.parent = 0 then kittyWord0 3 x.attempt 0 n k.outFmt x.isPartial x.nan x.inf
    else kittyWord0 1 x.attempt k.parentCidx n k.outFmt false false false
  codeHeader w0 w1 0 ++ body

/-- Laggard statistics of a round that a job's step takes (R260). -/
def Job.note (j : Job) (src l : Nat) : Job :=
  { j with lateRounds := min 255 (j.lateRounds + 1), maxLag := max j.maxLag (min 255 l), lags := src :: j.lags }

/-- The Showdown of the last ended round is done: the Roll and the Ledger have its report (R213, R250, R260). -/
def Chip.showdownDone (key : Nat) (c : Chip) : Chip :=
  let k := c.kitty key
  let h := key / 32768
  match k.last with
  | none => c
  | some x =>
    let lag := match x.laggard k with | some l => if (c.rl h).lagMargin ≤ l.2 then some l else none | none => none
    let c := c.setKitty key { k with
      last := some { x with done := true, resendAt := c.tb.boundaries + k.rto, upAt := none }, doneStep := some (x.step, x.attempt) }
    let c := (c.bump (ktCnt key 1 32) 1).rollReport h k.id (x.bank.contributors k) lag
    let c : Chip :=
      match lag, c.job h k.job with
      | some (src, l), some j =>
        if x.step = j.step then c.setJob h k.job (j.note src l)
        else if j.step < x.step then c.setJob h k.job { j with ahead := j.ahead ++ [(x.step, src, l)] } else c
      | _, _ => c
    c.releaseIfConfirmed key

/-- Enqueue the results of chunks to every contributor (R250). -/
def Chip.sendResults (key : Nat) (chunks : List Nat) (c : Chip) : Chip :=
  let k := c.kitty key
  match k.last with
  | none => c
  | some x =>
    let to_ := x.bank.contributors k
    let c := chunks.foldl (fun c i => c.kittySend (key / 32768) k (kittySeq x.step i) false to_ (Tab.get [] i x.results)) c
    let sent := (x.relayed ++ chunks).eraseDups
    let c := c.setKitty key { k with last := some { x with relayed := sent } }
    if sent.length = k.nch ∧ !x.done then c.showdownDone key else c

/-- Send a child's upward Antes of chunks (R254, R255). -/
def Chip.sendUpward (key : Nat) (resend : Bool) (chunks : List Nat) (c : Chip) : Chip :=
  let k := c.kitty key
  match k.last with
  | none => c
  | some x =>
    let c := chunks.foldl (fun c i =>
      match x.upward.find? (fun e => e.1 == i) with
      | none => c
      | some e => c.sendUp (key / 32768) k (kittySeq x.step i) resend e.2) c
    let sent := if resend then x.sentChunks else (x.sentChunks ++ chunks).eraseDups
    let upAt := if sent.length = k.nch ∧ !resend then some (c.tb.boundaries + k.rto) else x.upAt
    c.setKitty key { k with last := some { x with sentChunks := sent, upAt := upAt } }

/-- Enqueue chunks, as results or as upward Antes. -/
def Chip.enqueueChunks (key : Nat) (chunks : List Nat) (c : Chip) : Chip :=
  if (c.kitty key).parent = 0 then c.sendResults key chunks else c.sendUpward key false chunks

/-- Store the bodies of chunks as the payloads the Kitty will send. -/
def Chip.keepBodies (key : Nat) (bodies : List (Nat × List Byte)) (c : Chip) : Chip :=
  let k := c.kitty key
  match k.last with
  | none => c
  | some x =>
    let put (t : Tab (List Byte)) : Tab (List Byte) := bodies.foldl (fun t e => Tab.put e.1 (k.payload x e.1 e.2) t) t
    let x' := if k.parent = 0 then { x with results := put x.results } else { x with upward := put x.upward }
    c.setKitty key { k with last := some x' }

/-- The plain sum of a Kitty without a recipe is converted and sent, from Deal c + 1 (R249, R254). -/
def Chip.showPlain (key : Nat) (c : Chip) : Chip :=
  let k := c.kitty key
  match k.last with
  | none => c
  | some x =>
    let all := List.range k.nch
    let bodies := all.map (fun i => (i, convertChunk k.outFmt k.sr (c.free + i * k.chunk) (x.bank.sumsOf k i)))
    let c := { c with free := c.free + k.n }
    (c.keepBodies key bodies).enqueueChunks key all

/-! ### Antes (R234 to R242) -/

/-- A C2 packet that Kitty control takes for an ACK or an RNACK, by the chunk field of SEQ (R232). -/
def isAck (p : Packet) : Bool := p.seq % 65536 == 0xFFFF
def isNack (p : Packet) : Bool := p.seq % 65536 == 0xFFFE

def anteStep (p : Packet) : Nat := bitsAt (p.word 1) 0 48
def anteAttempt (p : Packet) : Nat := bitsAt (p.word 0) 56 4
def anteCidx (p : Packet) : Nat := bitsAt (p.word 0) 44 12
def anteElems (p : Packet) : Nat := bitsAt (p.word 0) 30 14

/-- bad_header of R235. -/
def badHeader (k : Kitty) (p : Packet) : Bool :=
  let chunk := p.seq % 65536
  bitsAt (p.word 0) 27 3 != k.inFmt || decide (k.expect ≤ anteCidx p) || decide (k.nch ≤ chunk) ||
    anteElems p != k.chunkLen chunk || p.length != 32 + bodyBytes k.inFmt (anteElems p) ||
    p.seq / 65536 != anteStep p % 65536 || bitsAt (p.word 0) 60 4 != 1

/-- A refusal counts in the Kitty: register and field of R236. -/
def Chip.refuseAnte (key reg lsb : Nat) (c : Chip) : Chip := c.bump (ktCnt key reg lsb) 1

/-- The late answer: the whole result again, at most once per sender per Deal, while it is held (R251). -/
def Chip.lateAnswer (key src step : Nat) (c : Chip) : Chip :=
  let k := c.kitty key
  match k.last with
  | none => c
  | some x =>
    if x.done ∧ x.step = step ∧ !x.answered.contains src then
      (c.setKitty key { k with last := some { x with answered := src :: x.answered } }).resendChunks key src (List.range k.nch)
    else c

/-- The last lines of R235 for an Ante whose sender is in the Roll: bind, mark, sum and count (R237 to R242). -/
def Chip.acceptAnte (key : Nat) (p : Packet) (c : Chip) : Chip :=
  let h := key / 32768
  let chunk := p.seq % 65536
  let cidx := anteCidx p
  let n := anteElems p
  let fresh := !(c.kitty key).bank.heard.any (fun e => e.1 == cidx)
  let prev := match (c.kitty key).last with | some x => x.step + 1 == (c.kitty key).step | none => false
  let c : Chip := if fresh && prev then c.confirm key p.src else c
  let k := c.kitty key
  let b := k.bank
  let vs := bodyValues k.inFmt n (p.payload.drop 32)
  let sums := addChunk k.sr c.free (b.sumsOf k chunk) vs
  let count := max 1 (bitsAt (p.word 1) 48 16)
  let b' : Bank :=
    { sums := Tab.put chunk sums b.sums
      inf := b.inf || vs.any overflowsF32
      arrived := Tab.put (65536 * cidx + chunk) true b.arrived
      got := Tab.put cidx (Tab.get 0 cidx b.got + 1) b.got
      counts := Tab.put chunk (min 65535 (Tab.get 0 chunk b.counts + count)) b.counts
      heard := b.heard.filter (fun e => e.1 != cidx) ++ [(cidx, c.deal)]
      deadline := if b.heard.isEmpty && k.wait != 0 then some (c.tb.boundaries + k.wait) else b.deadline }
  let k' := { k with owners := Tab.put cidx p.src k.owners, bank := b' }
  let c := { c.setKitty key k' with free := if k.sr then c.free + n else c.free }
  let c := (c.occur h 0x0A none none 1).occur h 0x0B none none (max 1 (ceilDiv n 16384))
  if b'.complete k = k.expect ∧ (b.complete k) < k.expect then c.endCollection key false else c

/-- The steps of R235 from the Roll lookup on, for an Ante whose key is in the cache. -/
def Chip.learnAnte (key port : Nat) (p : Packet) (c : Chip) : Chip :=
  let k := c.kitty key
  let h := key / 32768
  let isStatic := match c.rollFind h k.id p.src with | some (_, e) => e.kind == 2 | none => false
  if k.strict && !isStatic then
    let c := c.refuseAnte key 0 48
    if k.unknownRaised then c
    else (c.setKitty key { k with unknownRaised := true }).raise 0x0903 2 [(32, k.id), (48, p.src)]
  else
    match c.rollLearn h k.id p.src port with
    | (c, false) => c
    | (c, true) => c.acceptAnte key p

def Chip.setKittyHalf (h : Nat) (v : KittyHalf) (c : Chip) : Chip := { c with kit := { c.kit with half := c.kit.half.set h v } }

/-- A packet at the front of the ingest queue (R234). -/
def Chip.ingestFirst (h port : Nat) (p : Packet) (c : Chip) : Chip :=
  c.setKittyHalf h { c.kit.half.get h with ingest := (p, port) :: (c.kit.half.get h).ingest }

/-- Misses outstanding: keys whose HBM read has not completed (R208). -/
def RollHalf.outstanding (r : RollHalf) : Nat := ((r.misses.map (fun e => rollKey e.1.id e.1.src)).eraseDups).length

/-- A lookup that misses the cache: the Ante waits for the HBM read, an Ante of the same key joining it; with 256
misses outstanding Kitty control waits, the Ante first in its ingest queue (R208, R210). -/
def Chip.missAnte (h port : Nat) (p : Packet) (c : Chip) : Chip :=
  let r := c.rl h
  let joined := r.misses.any (fun e => e.1.id == p.id && e.1.src == p.src)
  if !joined && decide (256 ≤ r.outstanding) then c.ingestFirst h port p
  else
    let c := c.setRl h { r with misses := r.misses ++ [(p, port)] }
    if joined then c else ((c.bump (rlCount h 1 32) 1).occur h 0x0C none none 1).chargeRoll h 256

/-- The Roll lookup of an Ante: `looked` when its HBM read has completed. -/
def Chip.lookAnte (key port : Nat) (looked : Bool) (p : Packet) (c : Chip) : Chip :=
  let h := key / 32768
  let id := (c.kitty key).id
  if c.rollHit h id p.src then (c.rollAccess h id p.src).learnAnte key port p
  else if looked then (if (c.rollFind h id p.src).isSome then c.rollCache h id p.src else c).learnAnte key port p
  else c.missAnte h port p

/-- An Ante of an ACTIVE Kitty (R235). -/
def Chip.checkAnte (key port : Nat) (looked : Bool) (p : Packet) (c : Chip) : Chip :=
  let k := c.kitty key
  let h := key / 32768
  let chunk := p.seq % 65536
  let cidx := anteCidx p
  let step := anteStep p
  let attempt := anteAttempt p
  let held := match k.last with | some x => x.step == step | none => false
  if !p.crcGood then (c.sendAnack h k p.src step attempt [chunk]).refuseAnte key 1 0
  else if badHeader k p then c.refuseAnte key 0 48
  else if attempt < k.attempt then c.refuseAnte key 0 32
  else if k.attempt < attempt ∨ k.step < step then c.refuseAnte key 0 32
  else if step < k.step then
    if held then (c.lateAnswer key p.src step).refuseAnte key 0 16 else c.refuseAnte key 0 32
  else
    match k.ownerOf cidx with
    | some o =>
      if o ≠ p.src then
        let c := c.refuseAnte key 0 48
        if k.conflictRaised then c
        else (c.setKitty key { k with conflictRaised := true }).raise 0x0902 3 [(1, h), (15, key % 32768), (12, cidx), (48, o), (48, p.src)]
      else if Tab.get false (65536 * cidx + chunk) k.bank.arrived then c.refuseAnte key 0 0
      else c.lookAnte key port looked p
    | none => c.lookAnte key port looked p

/-- A Kitty packet beyond the ingest limit is dropped (R234). -/
def Chip.ingestDrop (h : Nat) (c : Chip) : Chip :=
  let x := c.kit.half.get h
  let c := c.bump (ktHcnt h 32) 1
  if x.ingestRaised then c
  else ({ c with kit := { c.kit with half := c.kit.half.set h { x with ingestRaised := true } } }).raise 0x0901 2 [(1, h)]

/-- A packet for a Kitty in one of the states `live`; with no such Kitty it counts in NO_KITTY (R236). -/
def Chip.forKitty (h : Nat) (p : Packet) (live : KittyState → Bool) (f : Nat → Chip → Chip) (c : Chip) : Chip :=
  match c.findKitty p.id with
  | none => c.bump (ktHcnt h 0) 1
  | some (key, k) => if live k.state then f key c else c.bump (ktHcnt h 0) 1

def KittyState.active_ : KittyState → Bool | .active => true | _ => false
def KittyState.begun : KittyState → Bool | .active | .failed => true | .opening => false

/-- An Ante that Kitty control takes up; `looked` when the HBM read of its key has completed. -/
def Chip.takeAnte (h port : Nat) (looked : Bool) (p : Packet) (c : Chip) : Chip :=
  c.forKitty h p KittyState.active_ (fun key => Chip.checkAnte key port looked p)

/-! ### Confirmation and repair (R251, R252) -/

/-- Header checks of a packet without elements: its kind, and SEQ against STEP. -/
def plainHeader (kind : Nat) (p : Packet) : Bool :=
  bitsAt (p.word 0) 60 4 == kind && p.seq / 65536 == anteStep p % 65536

def Chip.ackAt (p : Packet) (key : Nat) (c : Chip) : Chip :=
  if !p.crcGood then c.refuseAnte key 1 0
  else if !plainHeader 2 p then c.refuseAnte key 0 48
  else
    match (c.kitty key).last with
    | some x => if x.done ∧ x.step = anteStep p ∧ x.attempt = anteAttempt p then c.confirm key p.src else c
    | none => c

/-- The chunks that an RNACK lists go again to its sender, those of them that have been sent (R251). -/
def Chip.rnackAt (p : Packet) (key : Nat) (c : Chip) : Chip :=
  let k := c.kitty key
  if !p.crcGood then c.refuseAnte key 1 0
  else if !plainHeader 5 p then c.refuseAnte key 0 48
  else
    match k.last with
    | some x =>
      if x.step = anteStep p ∧ x.attempt = anteAttempt p then
        if (x.bank.contributors k).contains p.src then
          c.resendChunks key p.src ((nackChunks k.nch (p.payload.drop 32)).filter (fun i => x.relayed.contains i))
        else c
      else c.refuseAnte key 0 32
    | none => c.refuseAnte key 0 32

/-- A result whose RTO has passed goes again to each contributor that has not confirmed (R251). -/
def Chip.resendResult (key : Nat) (c : Chip) : Chip :=
  let k := c.kitty key
  match k.last with
  | none => c
  | some x =>
    if !x.done ∨ c.tb.boundaries < x.resendAt then c
    else
      let left := (x.bank.contributors k).filter (fun s => !x.confirmed.contains s)
      let c := left.foldl (fun c s => c.resendChunks key s (List.range k.nch)) c
      (c.setKitty key { c.kitty key with last := some { x with resendAt := c.tb.boundaries + k.rto } }).raise 0x0906 2
        [(32, k.id), (48, x.step), (13, left.length)]

def execKittyResultResend (half slot : Nat) (s : State) : Host.Outcome State Fault Refusal :=
  s.run (okHalf half && okKslot slot) (Chip.fabric (Chip.resendResult (32768 * half + slot)))

/-! ### A child's parent (R255, R256) -/

/-- The child's ACK of its parent's result. -/
def Chip.ackParent (key : Nat) (x : Showdown) (c : Chip) : Chip :=
  let k := c.kitty key
  c.sendUp (key / 32768) k (kittySeq x.step 0xFFFF) false
    (codeHeader (kittyWord0 2 x.attempt k.parentCidx 0 0 false false false) (kittyWord1 0 x.step) 0)

def Chip.resultAt (p : Packet) (key : Nat) (c : Chip) : Chip :=
  let k := c.kitty key
  let chunk := p.seq % 65536
  if k.parent = 0 then c.refuseAnte key 0 48
  else if !p.crcGood then c.refuseAnte key 1 0
  else if !plainHeader 3 p ∨ k.nch ≤ chunk then c.refuseAnte key 0 48
  else
    match k.last with
    | none => c
    | some x =>
      if x.step ≠ anteStep p ∨ x.attempt ≠ anteAttempt p ∨ k.attempt ≠ x.attempt then c
      else if x.results.any (fun e => e.1 == chunk) then c
      else
        let x' := { x with results := Tab.put chunk p.payload x.results, toRelay := x.toRelay ++ [chunk] }
        let c := c.setKitty key { k with last := some x' }
        if x'.results.length = k.nch then c.ackParent key x' else c

def Chip.anackAt (p : Packet) (key : Nat) (c : Chip) : Chip :=
  let k := c.kitty key
  if k.parent = 0 then c.refuseAnte key 0 48
  else if !p.crcGood then c.refuseAnte key 1 0
  else if !plainHeader 4 p then c.refuseAnte key 0 48
  else
    match k.last with
    | none => c
    | some x =>
      if x.step ≠ anteStep p ∨ x.attempt ≠ anteAttempt p then c
      else c.sendUpward key true (nackChunks k.nch (p.payload.drop 32))

/-! ### The ingest queue (R208, R225, R234) -/

/-- Kitty control takes up a packet, by its class and the chunk field of SEQ (R232). -/
def Chip.takeKitty (h port : Nat) (p : Packet) (c : Chip) : Chip :=
  if p.cls = 2 then
    if isAck p then c.forKitty h p KittyState.begun (Chip.ackAt p)
    else if isNack p then c.forKitty h p KittyState.begun (Chip.rnackAt p)
    else c.takeAnte h port false p
  else if isNack p then c.forKitty h p KittyState.begun (Chip.anackAt p)
  else c.forKitty h p KittyState.begun (Chip.resultAt p)

/-- The packet is an Ante, which occupies the vector adders. -/
def isAnte (p : Packet) : Bool := p.cls == 2 && !isAck p && !isNack p

/-- Kitty control has room for a packet in this core cycle: two packets, and one Ante, whose at most 15,808 elements the adders sum
in one core cycle (R228, R234, R264). -/
def Chip.serves (c : Chip) (h : Nat) (p : Packet) : Bool :=
  match (c.kit.half.get h).served with
  | none => true
  | some (t, n, ante) => t != c.tb.lt || (decide (n < 2) && !(ante && isAnte p))

/-- Kitty control takes up a packet in this core cycle. -/
def Chip.takeUp (h port : Nat) (p : Packet) (c : Chip) : Chip :=
  let x := c.kit.half.get h
  let (n, ante) := match x.served with | some (t, n, a) => if t = c.tb.lt then (n, a) else (0, false) | none => (0, false)
  (c.setKittyHalf h { x with served := some (c.tb.lt, n + 1, ante || isAnte p) }).takeKitty h port p

/-- Kitty control goes through its ingest queue, at most `n` packets, until one has to wait. -/
def Chip.drainIngest (h : Nat) : Nat → Chip → Chip
  | 0, c => c
  | n + 1, c =>
    match (c.kit.half.get h).ingest with
    | [] => c
    | (p, port) :: rest =>
      if !c.serves h p then c
      else
        let c := (c.setKittyHalf h { c.kit.half.get h with ingest := rest }).takeUp h port p
        if rest.length < (c.kit.half.get h).ingest.length then c else Chip.drainIngest h n c

/-- The packets of the ingest queue that Kitty control takes up in this core cycle. -/
def Chip.serveIngest (h : Nat) (c : Chip) : Chip := c.drainIngest h (min 2 (c.kit.half.get h).ingest.length)

/-- A packet reaches Kitty control of half `h`: one whose ID names the other half crosses the Span (R225), one beyond
INGEST_LIMIT is dropped, one behind a waiting packet waits, and another is taken up (R234). -/
def Chip.kittyIngest (h port : Nat) (p : Packet) (c : Chip) : Chip :=
  let c := c.serveIngest h
  let x := c.kit.half.get h
  if namesOther h p then
    let (tag, c) := c.newTag
    c.follow h (field 3 60 4) none false { tag := tag, pkt := p, cells := p.cells, arrived := p.cells }
  else if x.ingestLimit < x.ingestCells + p.cells then c.ingestDrop h
  else if x.ingest.isEmpty && c.serves h p then c.takeUp h port p
  else c.setKittyHalf h { x with ingest := x.ingest ++ [(p, port)] }

/-- An Ante at Kitty control. -/
def Chip.ante (h port : Nat) (p : Packet) (c : Chip) : Chip :=
  if p.cls ≠ 2 ∨ isAck p ∨ isNack p then c else c.kittyIngest h port p

def execAnte (half port : Nat) (pkt : Packet) (s : State) : Host.Outcome State Fault Refusal :=
  s.run (okHalf half && okPort port && okPacket pkt) (Chip.fabric (Chip.ante half port pkt))

def Chip.ack (h : Nat) (p : Packet) (c : Chip) : Chip := if p.cls ≠ 2 ∨ !isAck p then c else c.kittyIngest h 0 p

def execAck (half : Nat) (pkt : Packet) (s : State) : Host.Outcome State Fault Refusal :=
  s.run (okHalf half && okPacket pkt) (Chip.fabric (Chip.ack half pkt))

def Chip.rnack (h : Nat) (p : Packet) (c : Chip) : Chip := if p.cls ≠ 2 ∨ !isNack p then c else c.kittyIngest h 0 p

def execRnack (half : Nat) (pkt : Packet) (s : State) : Host.Outcome State Fault Refusal :=
  s.run (okHalf half && okPacket pkt) (Chip.fabric (Chip.rnack half pkt))

def Chip.result (h : Nat) (p : Packet) (c : Chip) : Chip := if p.cls ≠ 3 ∨ isNack p then c else c.kittyIngest h 0 p

def execResult (half : Nat) (pkt : Packet) (s : State) : Host.Outcome State Fault Refusal :=
  s.run (okHalf half && okPacket pkt) (Chip.fabric (Chip.result half pkt))

def Chip.anack (h : Nat) (p : Packet) (c : Chip) : Chip := if p.cls ≠ 3 ∨ !isNack p then c else c.kittyIngest h 0 p

def execAnack (half : Nat) (pkt : Packet) (s : State) : Host.Outcome State Fault Refusal :=
  s.run (okHalf half && okPacket pkt) (Chip.fabric (Chip.anack half pkt))

/-- The HBM read of the oldest miss completes: its Antes go on, its key in the cache if it has an entry, and then what
waits in the ingest queue (R208, R210, R217). -/
def Chip.missFill (h way : Nat) (check : HbmCheck) (c : Chip) : Chip :=
  let r := c.rl h
  match r.misses with
  | [] => c
  | (p, _) :: _ =>
    let mine := r.misses.filter (fun e => e.1.id == p.id && e.1.src == p.src)
    let c := c.setRl h { r with misses := r.misses.filter (fun e => !(e.1.id == p.id && e.1.src == p.src)) }
    let at_ := 2 ^ 21 * way + c.rollSlot way p.id p.src
    let c : Chip := if hbmOk check then c.hbmCe h [1024 + at_ / 2048] check else c.rollLose h at_
    let c := mine.foldl (fun c e => c.takeAnte h e.2 true e.1) c
    c.serveIngest h

def execRollMissFill (half way : Nat) (check : HbmCheck) (s : State) : Host.Outcome State Fault Refusal :=
  s.run (okHalf half && decide (way < 4)) (Chip.fabric (Chip.missFill half way check))

/-- A child's RTO passes: with no RESULT it resends its upward Antes, with some it asks for the rest (R251, R255). -/
def Chip.resendUpward (key : Nat) (c : Chip) : Chip :=
  let k := c.kitty key
  match k.last with
  | none => c
  | some x =>
    match x.upAt with
    | none => c
    | some at_ =>
      if c.tb.boundaries < at_ ∨ x.done ∨ x.results.length = k.nch then c
      else
        let c : Chip :=
          if x.results.isEmpty then c.sendUpward key true (List.range k.nch)
          else
            let missing := (List.range k.nch).filter (fun i => !x.results.any (fun e => e.1 == i))
            c.sendUp (key / 32768) k (kittySeq x.step 0xFFFE) false
              (codeHeader (kittyWord0 5 x.attempt k.parentCidx 0 0 false false false) (kittyWord1 0 x.step) 0 ++ nackBody missing)
        c.setKitty key { c.kitty key with last := some { x with upAt := some (c.tb.boundaries + k.rto) } }

def execChildAnteResend (half slot : Nat) (s : State) : Host.Outcome State Fault Refusal :=
  s.run (okHalf half && okKslot slot) (Chip.fabric (Chip.resendUpward (32768 * half + slot)))

/-! ### Deadlines (R243, R244) -/

/-- A round still collecting reaches its deadline. -/
def Chip.kittyDeadline (key : Nat) (c : Chip) : Chip :=
  let k := c.kitty key
  match k.bank.deadline with
  | none => c
  | some at_ =>
    if k.state ≠ .active ∨ c.tb.boundaries < at_ then c
    else
      let h := key / 32768
      let short := k.bank.got.filter (fun e => e.2 != k.nch)
      let c := short.foldl (fun c e =>
        match k.ownerOf e.1 with
        | none => c
        | some src =>
          c.sendAnack h k src k.step k.attempt ((List.range k.nch).filter (fun i => !Tab.get false (65536 * e.1 + i) k.bank.arrived))) c
      let c := c.raise 0x0904 2 [(32, k.id), (48, k.step), (13, k.bank.complete k), (13, k.bank.heard.length), (13, k.expect)]
      if k.policy = 1 then
        if (List.range k.nch).all (fun i => decide (k.quorum ≤ Tab.get 0 i k.bank.counts)) then c.endCollection key true
        else (c.setKitty key { c.kitty key with bank := { k.bank with deadline := none } }).failRound key k.step 4
      else if k.policy = 2 then (c.setKitty key { c.kitty key with bank := { k.bank with deadline := none } }).failRound key k.step 3
      else c.setKitty key { c.kitty key with bank := { k.bank with deadline := some (c.tb.boundaries + k.wait) } }

def execKittyDeadline (half slot : Nat) (s : State) : Host.Outcome State Fault Refusal :=
  s.run (okHalf half && okKslot slot) (Chip.fabric (Chip.kittyDeadline (32768 * half + slot)))

/-! ### Pieces (R246 to R249, R384, R385, R407) -/

/-- The result bodies of a piece in its Bench buffer, by chunk (R248). -/
def Chip.pieceBodies (c : Chip) (k : Kitty) (j : Nat) : List (Nat × List Byte) :=
  let base := 2 ^ 23 * k.home
  (k.pieceChunks j).map (fun i =>
    let first := (i - j * (k.piece / max 1 k.chunk)) * k.chunk
    let n := k.chunkLen i
    let es := Memory.readBytes (base + k.resultAt j + elementBytes k.outFmt first) (elementBytes k.outFmt n) c.loom.bench
    let ss := Memory.readBytes (base + k.scalesAt j + first / 32) (scaleBytes k.outFmt n) c.loom.bench
    (i, ss ++ es))

/-- Kitty control moves a piece's result back, and enqueues it at once if the boundary after its run has passed,
else at that boundary (R246, R249, R385). -/
def Chip.showdownReturn (key j : Nat) (c : Chip) : Chip :=
  let k := c.kitty key
  match k.last with
  | none => c
  | some x =>
    match x.ran.find? (fun e => e.1 == j) with
    | none => c
    | some e =>
      let now := decide (e.2 < c.tb.boundaries)
      let x' := { x with ran := x.ran.filter (fun y => y.1 != j), returned := if now then x.returned else x.returned ++ [j] }
      let c := (c.freeScratch (key / 32768) 1).setKitty key { k with last := some x' }
      let c := c.keepBodies key (c.pieceBodies k j)
      if now then c.enqueueChunks key (k.pieceChunks j) else c

/-- A Kitty return of half `h` is waiting (R315). -/
def Chip.returnWaiting (c : Chip) (h : Nat) : Bool :=
  c.kit.kitty.any (fun e => e.1 / 32768 == h && (match e.2.last with | some x => !x.ran.isEmpty | none => false))

/-- The run of a piece has ended; a fault fails the round (R249). -/
def Chip.pieceEnded (key step attempt j fault : Nat) (c : Chip) : Chip :=
  let k := c.kitty key
  match k.last with
  | none => c
  | some x =>
    if x.step ≠ step ∨ x.attempt ≠ attempt ∨ !x.inBench.any (fun e => e.1 == j) then c
    else if fault ≠ 0 then c.failRound key step (if fault = 7 then 2 else 1)
    else
      c.setKitty key { k with
        last := some { x with inBench := x.inBench.filter (fun e => e.1 != j), ran := x.ran ++ [(j, c.tb.boundaries)] } }

/-- A prefetch of a Kitty's state meets an error: the round fails (R278, R380, R386). -/
def Chip.prefetchFailed (key step attempt : Nat) (c : Chip) : Chip :=
  match (c.kitty key).last with
  | some x => if x.step = step ∧ x.attempt = attempt ∧ !x.done then c.failRound key step 1 else c
  | none => c

/-- Coded step of the Table in a half: the smallest among its live members (R407, R410). -/
def Chip.tableCoded (c : Chip) (h : Nat) : Nat :=
  let t := c.table8 h
  if t.rebuild = 1 ∨ t.rebuild = 2 ∨ t.returning ≠ 0 then t.held
  else
    ((List.range 8).filter (fun m => m != c.twin.member && !bitAt c.twin.lost m)).foldl
      (fun a m => min a (Tab.get (0, false) m t.reports).1) t.coded

/-- The piece word (R248). -/
def Kitty.pieceWord (k : Kitty) (x : Showdown) (j : Nat) : Nat :=
  field x.step 0 48 + field x.attempt 48 4 + field j 52 16 + field (j * k.piece) 68 23 + field (k.pieceLen j) 91 23 +
    field (b2n x.isPartial) 114 1 + field (b2n x.nan) 115 1 + field (b2n x.inf) 116 1 + field (x.step % 2) 117 1

/-- Bytes of a buffer as a transfer writes them: piece word, chunk counts, sums. -/
def Kitty.pieceBytes (k : Kitty) (x : Showdown) (j : Nat) : List Byte × List Byte :=
  let counts := (k.pieceChunks j).map (fun i => Tab.get 0 i x.bank.counts)
  let cbytes := counts.flatMap (leBytes 2)
  let pad := ceilDiv cbytes.length 64 * 64 - cbytes.length
  (leBytes 64 (k.pieceWord x j) ++ cbytes ++ List.replicate pad 0,
    (k.pieceChunks j).flatMap (fun i => (x.bank.sumsOf k i).flatMap (leBytes 4)))

/-- What a half has used of a Deal's transfers: bytes each way, state granules, and the Loom and slot pairs
taken. -/
structure XferUse where
  toward : Nat := 0
  back : Nat := 0
  taken : List (Nat × Nat) := []

/-- Bytes that the prefetch of piece `j` reads: none without STATE or state bytes. -/
def Chip.prefetchBytes (c : Chip) (k : Kitty) (j : Nat) : Nat := if k.state_ = 0 then 0 else k.pieceLen j * c.stateBytes k

/-- Bytes each way of piece `j`. -/
def Kitty.toward (k : Kitty) (j : Nat) : Nat := towardBytes (k.pieceChunks j).length (k.pieceLen j)
def Kitty.back (k : Kitty) (j : Nat) : Nat := backBytes k.outFmt (k.pieceLen j)

/-- A Kitty whose STATE is protected waits for the Table coded step, and for a rebuild to end (R407, R410). -/
def Chip.codedWait (c : Chip) (h : Nat) (k : Kitty) (x : Showdown) : Bool :=
  k.state_ != 0 && (c.table8 h).protectedList.contains k.state_ &&
    ((c.table8 h).rebuild == 1 || (c.table8 h).rebuild == 2 || (c.table8 h).returning != 0 || decide (c.tableCoded h + 1 < x.step))

/-- Piece `j` fits this Deal (R247, R297, R384, R385). -/
def Chip.pieceFits (c : Chip) (h : Nat) (k : Kitty) (x : Showdown) (j : Nat) (u : XferUse) : Bool :=
  let limit := (c.kit.half.get h).xferBudget * 256
  decide (u.toward + k.toward j ≤ limit) && decide (u.back + k.back j ≤ limit) && !u.taken.contains (k.home, k.slot) &&
    decide (((c.ld h).kittyUsed + granules (c.prefetchBytes k j)) * 64 ≤ (c.ld h).kittyBw * 65536) &&
    decide ((c.ld h).scratch + c.deadIn h 5120 256 < 256) && !c.codedWait h k x

/-- The prefetch of a piece is one that the half's Larder serves: a region of its own half (R54), inside the region, whole granules,
no damage (R380, R386). -/
def Chip.prefetchOk (c : Chip) (k : Kitty) (x : Showdown) (j : Nat) : Bool :=
  let n := c.prefetchBytes k j
  n == 0 || (n % 64 == 0 && bitsAt k.state_ 31 1 == k.half && (c.region (handleKey k.state_)).state != 2 &&
    c.rangeOk k.state_ (k.stateOff (c.stateBytes k) ((x.step + 1) % 2) j) n)

/-- Granules of 4 KiB that a Bench range touches (R277). -/
def benchGranules (a n : Nat) : List Nat := if n = 0 then [] else (List.range ((a + n - 1) / 4096 - a / 4096 + 1)).map (fun i => a / 4096 + i)

/-- Transfer piece `j`: piece word, counts and sums into the Bench, and the prefetch of its state (R246). -/
def Chip.transferPiece (key j : Nat) (x : Showdown) (c : Chip) : Chip :=
  let k := c.kitty key
  let h := key / 32768
  let (head, sums) := k.pieceBytes x j
  let base := 2 ^ 23 * k.home
  let bench := Memory.writeBytes (base + k.sumsAt j) sums (Memory.writeBytes (base + k.buf j) head c.loom.bench)
  let n := c.prefetchBytes k j
  let sb := c.stateBytes k
  let loom := Tab.get {} k.home c.loom.loom
  let fill : Fill :=
    { bench := k.stateBuf sb j, length := n, region := k.state_, offset := k.stateOff sb ((x.step + 1) % 2) j
      granules := benchGranules (k.stateBuf sb j) n, deal := c.deal, prefetch := some (key, x.step, x.attempt) }
  let loom' := if n = 0 then loom else { loom with fills := loom.fills ++ [fill] }
  let l := c.ld h
  let c := { c with loom := { c.loom with bench := bench, loom := Tab.put k.home loom' c.loom.loom } }
  let c := c.setLd h { l with scratch := l.scratch + 1, kittyUsed := l.kittyUsed + granules n }
  let c := c.occur (2 + h) 0x06 (some (k.home % 32)) none ((k.toward j + n + 63) / 64)
  c.setKitty key { k with last := some { x with next := j + 1, inBench := x.inBench ++ [(j, c.tb.boundaries + 1)] } }

/-- The transfers of one Kitty at a boundary. -/
def Chip.kittyTransfer (key : Nat) (r : Chip × XferUse) : Chip × XferUse :=
  let c := r.1
  let k := c.kitty key
  let h := key / 32768
  match k.last with
  | none => r
  | some x =>
    let j := x.next
    if k.recipe = 0 ∨ k.state ≠ .active ∨ x.done ∨ k.pieces ≤ j then r
    else if !c.loomServes k.home then (c.failRound key x.step 1, r.2)
    else if !c.pieceFits h k x j r.2 then (c.bump (ktCnt key 1 48) 1, r.2)
    else if !c.prefetchOk k x j then (c.failRound key x.step 1, r.2)
    else
      (c.transferPiece key j x,
        { toward := r.2.toward + k.toward j, back := r.2.back + k.back j, taken := (k.home, k.slot) :: r.2.taken })

/-- Keys of the Kitties of a half whose round has ended, in the order in which their collections ended. -/
def Chip.showOrder (c : Chip) (h : Nat) : List Nat :=
  let l := c.kit.kitty.filterMap (fun e => if e.1 / 32768 = h then e.2.last.map (fun x => (x.order, e.1)) else none)
  (l.mergeSort (fun a b => decide (a.1 ≤ b.1))).map Prod.snd

/-- What a half's Kitties send and transfer at the boundary that begins a Deal: plain sums of rounds ended in the
last Deal, relayed chunks, returned pieces, and the next transfers (R246, R249, R250, R254, R256). -/
def Chip.kittyBoundary (h : Nat) (c : Chip) : Chip :=
  let send (c : Chip) (key : Nat) : Chip :=
    let k := c.kitty key
    match k.last with
    | none => c
    | some x =>
      let c : Chip := if k.recipe = 0 ∧ x.relayed.isEmpty ∧ x.upward.isEmpty ∧ x.results.isEmpty then c.showPlain key else c
      let c : Chip :=
        if x.returned.isEmpty then c
        else
          let c := c.setKitty key { c.kitty key with last := (c.kitty key).last.map (fun y => { y with returned := [] }) }
          c.enqueueChunks key (x.returned.flatMap k.pieceChunks)
      if x.toRelay.isEmpty then c
      else
        let c := c.setKitty key { c.kitty key with last := (c.kitty key).last.map (fun y => { y with toRelay := [] }) }
        c.sendResults key x.toRelay
  let c := (c.showOrder h).foldl send c
  ((c.showOrder h).foldl (fun r key => Chip.kittyTransfer key r) (c, ({} : XferUse))).1

/-- The once-a-Deal flags of Kitties and of late answers start anew. -/
def Chip.kittyNewDeal (c : Chip) : Chip :=
  let fresh (k : Kitty) : Kitty :=
    { k with conflictRaised := false, unknownRaised := false, last := k.last.map (fun x => { x with answered := [] }) }
  let half (x : KittyHalf) : KittyHalf := { x with ingestRaised := false }
  { c with kit := { c.kit with
      kitty := c.kit.kitty.map (fun e => (e.1, fresh e.2)), half := ⟨half c.kit.half.h0, half c.kit.half.h1⟩ } }

end Sys2Proof.Machine
end

