-- ==== Sys2Proof/Machine/Ledger.lean ====
section
/-! DEFINITION. The commands of Kitties and of the Ledger, and what they change at their boundaries (R224 to
R231, R257 to R264). -/

namespace Sys2Proof.Machine

open Sys2Proof

/-! ### Opening (R227 to R231) -/

/-- Kitty slots of a half in use: open Kitties and those that gates reserve (R351). -/
def Chip.slotsUsed (c : Chip) (h : Nat) : List Nat :=
  (c.kit.kitty.filter (fun e => e.1 / 32768 == h)).map (fun e => e.1 % 32768) ++
    (c.gate.gate.filter (fun e => e.1 / 16 == h)).flatMap (fun e => e.2.kslots)

/-- The lowest free slots of a half. -/
def Chip.freeSlots (c : Chip) (h n : Nat) : List Nat :=
  let used := c.slotsUsed h
  ((List.range (used.length + n)).filter (fun i => !used.contains i)).take n

/-- Cells that accepted opens of a half will take. -/
def Chip.openingCells (c : Chip) (h : Nat) : Nat :=
  (c.kit.kitty.filter (fun e => e.1 / 32768 == h && e.2.state == .opening)).foldl (fun a e => a + kittyCells e.2.desc) 0

/-- The slots and cells a Kitty or gate would take are not free (R230, R351). -/
def Chip.noKittySpace (c : Chip) (h slots cells : Nat) : Bool :=
  decide (32768 < (c.slotsUsed h).length + slots) || decide (c.sharedFree h < cells) ||
    decide ((c.kit.half.get h).poolLimit < c.poolUsed h + c.openingCells h + cells)

/-- Usable lanes of the Crossing–Loom link of a half (R88). DESIGN CHOICE: until the LAMP stage has ended all of them count, though
none is LOCKED yet. -/
def Chip.loomLinkLanes (c : Chip) (h : Nat) : Nat :=
  if !bitAt c.boot.ended 5 then 128
  else
    let count (j0 : Nat) : Nat := ((List.range 128).filter (fun j => (c.lane (0x800 + 0x200 * h + j0 + j)).usable)).length
    min (count 0) (count 128)

/-- Link bytes of the gates of a half (R356). -/
def Chip.gateLinks (c : Chip) (h : Nat) : Nat :=
  (c.gate.gate.filter (fun e => e.1 / 16 == h)).foldl (fun a e => a + gateLink e.2.desc) 0

/-- Bytes of the Crossing-Loom link that spill and the loaded gates leave in a Deal (R264, R356). -/
def Chip.linkLeft (c : Chip) (h : Nat) : Nat :=
  3200 * (c.dealCycles - 64) * c.loomLinkLanes h / 128 - (c.xbar.buf.get h).rate * 65536 - c.gateLinks h

/-- Largest XFER_BUDGET of a half, in units of 256 B (R264, R356). -/
def Chip.xferMax (c : Chip) (h : Nat) : Nat := c.linkLeft h / 256

/-- The checks of R228. -/
def Chip.badDescriptor (c : Chip) (k : Kitty) : Bool :=
  let z := k.fld 0 12 1 != 0 || k.fld 3 17 15 != 0 || k.fld 4 0 16 != 0 || k.fld 5 12 4 != 0
  let limit := (c.kit.half.get k.half).xferBudget * 256
  z || k.id == 0 || decide (3 < k.inFmt) || decide (3 < k.outFmt) || k.policy == 3 ||
    k.n == 0 || decide (4194304 < k.n) || k.chunk == 0 || k.chunk % 64 != 0 ||
    decide (maxChunk k.inFmt < k.chunk) || decide (65535 < k.nch) || decide (16777216 < k.expect * k.nch) ||
    decide (k.expect < k.quorum) || k.piece == 0 || k.piece % k.chunk != 0 || decide (k.rto < 2 * c.nest.horizon) ||
    (k.recipe != 0 && (decide (2 ^ 23 < k.benchEnd (c.stateBytes k)) ||
      decide (limit < k.toward 0) || decide (limit < k.back 0))) ||
    !(k.resultSrc == c.nest.self || (k.resultSrc == c.nest.pair && k.resultSrc != 0)) ||
    (k.parent != 0 && !c.nameOk k.parent)

def kittyOpenCmd : Command where
  words := fun _ => 12
  act := fun r c =>
    let k : Kitty := { desc := (List.range 6).map (fun i => r.long (2 * i)) }
    let h := k.half
    if !c.tb.aligned then refuse c .notAligned
    else if k.recipe ≠ 0 ∧ (!(capsOf c.fuses.variant).recipes ∨ c.loomAbsent k.home) then refuse c .absent
    else if c.kittyIsOpen k.id then refuse c .exists_
    else if c.purging h k.id then refuse c .busy
    else if (c.job h k.job).isNone then refuse c .noLedger
    else if c.noKittySpace h 1 (kittyCells k.desc) then refuse c .noSpace
    else if c.badDescriptor k then refuse c .badValue
    else
      let slot := (c.freeSlots h 1).headD 0
      let d := c.effectDeal
      answer ((c.setKitty (32768 * h + slot) k).schedule d (.kittyOpen (32768 * h + slot))) (slot :: dealWords d)

def execKittyOpen (k : Nat) (s : State) : Host.Outcome State Fault Refusal :=
  s.run (okMbx k) (Chip.live (Chip.accept 0x0901 k kittyOpenCmd))

/-- An open takes effect: the round is the Ledger's step and attempt (R231). -/
def Chip.applyKittyOpen (key : Nat) (c : Chip) : Chip :=
  let k := c.kitty key
  let j := (c.job (key / 32768) k.job).getD {}
  c.setKitty key { k with state := .active, opened := c.deal, step := j.step, attempt := j.attempt }

/-! ### Closing, status, settings (R263, R264) -/

def kittyCloseCmd : Command where
  words := fun _ => 1
  act := fun r c =>
    match c.findKitty (r.w 0) with
    | none => refuse c .notFound
    | some (key, k) =>
      match k.closing with
      | some d => answer c (dealWords d)
      | none => atBoundary (.kittyClose key) (c.setKitty key { k with closing := some c.effectDeal })

def execKittyClose (k : Nat) (s : State) : Host.Outcome State Fault Refusal :=
  s.run (okMbx k) (Chip.live (Chip.accept 0x0902 k kittyCloseCmd))

def Chip.applyKittyClose (key : Nat) (c : Chip) : Chip :=
  let c := c.dropShow key
  { c with kit := { c.kit with kitty := Tab.erase key c.kit.kitty } }

/-- KT_KSTAT. -/
def Kitty.status (k : Kitty) : Nat :=
  let st := if k.closing.isSome then 4 else match k.state with | .opening => 1 | .active => 2 | .failed => 3
  let done := match k.last with | some x => x.done | none => false
  let up := match k.last with | some x => x.upAt.isSome | none => false
  field st 0 3 + field k.step 3 16 + field k.attempt 19 4 + field (k.bank.complete k) 23 13 + field k.bank.heard.length 36 13 +
    field (b2n (k.last.isSome && !done)) 49 1 + field (b2n up) 50 1 + field (b2n done) 51 1 + field (b2n k.nan) 52 1 +
    field (b2n k.inf) 53 1 + field (b2n k.isPartial) 54 1 + field k.failReason 55 3

/-- KT_KSTAT of a slot: a combine Kitty reads ACTIVE, a free slot zero (R351). -/
def Chip.ktKstat (c : Chip) (h slot : Nat) : Nat :=
  match c.kit.kitty.find? (fun e => e.1 == 32768 * h + slot) with
  | some e => e.2.status
  | none => if c.gate.gate.any (fun e => e.1 / 16 == h && e.2.kslots.contains slot) then 2 else 0

def kittyStatusCmd : Command where
  words := fun _ => 1
  act := fun r c =>
    match c.findKitty (r.w 0) with
    | none => refuse c .notFound
    | some (key, k) => answer c (key % 32768 :: twoWords k.status)

def execKittyStatus (k : Nat) (s : State) : Host.Outcome State Fault Refusal :=
  s.run (okMbx k) (Chip.live (Chip.accept 0x0903 k kittyStatusCmd))

def kittyConfigCmd : Command where
  words := fun _ => 3
  act := fun r c =>
    let h := bitsAt (r.w 0) 0 1
    let pool := bitsAt (r.w 0) 1 20
    let budget := bitsAt (r.w 1) 0 17
    if 524288 < pool ∨ pool < c.poolUsed h ∨ c.xferMax h < budget then refuse c .badValue
    else atBoundary (.kittyConfig h pool budget (bitsAt (r.w 2) 0 17)) c

def execKittyConfig (k : Nat) (s : State) : Host.Outcome State Fault Refusal :=
  s.run (okMbx k) (Chip.live (Chip.accept 0x0904 k kittyConfigCmd))

def Chip.applyKittyConfig (h pool budget ingest : Nat) (c : Chip) : Chip :=
  c.setKittyHalf h { c.kit.half.get h with poolLimit := pool, xferBudget := min budget (c.xferMax h), ingestLimit := ingest }

/-- Firmware lowers XFER_BUDGET to its largest value (R264). -/
def Chip.lowerXfer (h : Nat) (c : Chip) : Chip :=
  c.setKittyHalf h { c.kit.half.get h with xferBudget := min (c.kit.half.get h).xferBudget (c.xferMax h) }

def Chip.ktCfg (c : Chip) (h : Nat) : Nat :=
  let x := c.kit.half.get h
  field x.poolLimit 0 20 + field x.xferBudget 20 17 + field x.ingestLimit 37 17

/-- KT_HSTAT. -/
def Chip.ktHstat (c : Chip) (h : Nat) : Nat :=
  let kitties := (c.kit.kitty.filter (fun e => e.1 / 32768 == h && e.2.state != .opening)).length
  let gates := (c.gate.gate.filter (fun e => e.1 / 16 == h)).foldl (fun a e => a + e.2.kslots.length) 0
  field (kitties + gates) 0 16 + field (c.poolUsed h) 16 20 + field (c.kit.half.get h).ingestCells 36 17

/-! ### The Ledger (R257 to R262) -/

def ledgerOpenCmd : Command where
  words := fun _ => 5
  act := fun r c =>
    let j := bitsAt (r.w 0) 0 8
    let follow := bitAt (r.w 0) 8
    let s0 := r.name 1
    if (c.job 0 j).isSome || (c.job 1 j).isSome || (follow && c.kit.stJob.isSome) then refuse c .busy
    else if !c.nameOk (r.name 3) then refuse c .badAddr
    else
      let x : Job := { step := s0, collector := r.name 3, began := c.deal }
      let c := (c.setJob 0 j x).setJob 1 j x
      if follow then
        answer { c with kit := { c.kit with stJob := some j }, tb := { c.tb with stStep := s0 % 65536 } }
      else answer c

def execLedgerOpen (k : Nat) (s : State) : Host.Outcome State Fault Refusal :=
  s.run (okMbx k) (Chip.live (Chip.mirrored (Chip.accept 0x0911 k ledgerOpenCmd)))

/-- Open Kitties of a job in a half. -/
def Chip.kittiesOf (c : Chip) (h j : Nat) : List (Nat × Kitty) :=
  c.kit.kitty.filter (fun e => e.1 / 32768 == h && e.2.job == j && e.2.state != .opening)

/-- The Kitty has ended collection of step `s`. -/
def Kitty.ended (k : Kitty) (s : Nat) : Bool := decide (s < k.step)

/-- A half's job accepts an abort to step `s`; collection of the step after it may have ended in an attempt that an abort has ended
since (R261). -/
def Chip.abortable_ (c : Chip) (h j s : Nat) (x : Job) : Bool :=
  s == x.step || (s + 1 == x.step && x.closedOne && (c.kittiesOf h j).all (fun e => !e.2.ended x.step) &&
    x.ended.all (fun e => decide (e < x.step)))

def ledgerAbortCmd : Command where
  words := fun _ => 3
  act := fun r c =>
    let j := bitsAt (r.w 0) 0 8
    let s := r.name 1
    match c.job 0 j, c.job 1 j with
    | some a, some b =>
      let has (h : Nat) : Bool := !(c.kittiesOf h j).isEmpty
      let ok0 := c.abortable_ 0 j s a || (!has 0 && has 1)
      let ok1 := c.abortable_ 1 j s b || (!has 1 && has 0)
      if !(ok0 && ok1) then refuse c .late
      else if a.abortPending then refuse c .busy
      else
        let d := c.effectDeal
        let c := (c.setJob 0 j { a with abortPending := true }).setJob 1 j { b with abortPending := true }
        answer (c.schedule d (.ledgerAbort j s)) (dealWords d ++ [(a.attempt + 1) % 16])
    | _, _ => refuse c .notFound

def execLedgerAbort (k : Nat) (s : State) : Host.Outcome State Fault Refusal :=
  s.run (okMbx k) (Chip.live (Chip.mirrored (Chip.accept 0x0912 k ledgerAbortCmd)))

/-- A Kitty of an aborted job: its banks are cleared, its round is `s` of the new attempt, and a held result of the
step before is kept (R262). -/
def Chip.abortKitty (s attempt key : Nat) (c : Chip) : Chip :=
  let keep := match (c.kitty key).last with | some x => x.done && x.step + 1 == s | none => false
  let c : Chip := if keep then c else c.dropShow key
  let k := c.kitty key
  let done := match k.doneStep with | some d => if d.1 < s then some d else none | none => none
  c.setKitty key { k with bank := {}, step := s, attempt := attempt, state := .active, failReason := 0, doneStep := done }

/-- An abort in one half. -/
def Chip.abortHalf (j s : Nat) (c : Chip) (h : Nat) : Chip :=
  match c.job h j with
  | none => c
  | some x =>
    let a := (x.attempt + 1) % 16
    let c := c.setJob h j { x with
      step := s, attempt := a, abortPending := false, lateRounds := 0, maxLag := 0, lags := [], ahead := [], began := c.deal }
    ((c.kittiesOf h j).map Prod.fst).foldl (fun c key => c.abortKitty s a key) c

/-- ST restarts with a step number (R22). -/
def Chip.restartSt (step : Nat) (c : Chip) : Chip := { c with tb := { c.tb with st := 0, stStep := step % 65536 } }

/-- An abort takes effect, in both halves (R262). -/
def Chip.applyLedgerAbort (j s : Nat) (c : Chip) : Chip :=
  match c.job 0 j with
  | none => c
  | some x =>
    let c := [0, 1].foldl (Chip.abortHalf j s) c
    let c : Chip := if c.kit.stJob = some j then c.restartSt s else c
    c.raise 0x0907 1 [(8, j), (48, s), (4, (x.attempt + 1) % 16)]

def ledgerCloseCmd : Command where
  words := fun _ => 1
  act := fun r c =>
    let j := bitsAt (r.w 0) 0 8
    if (c.job 0 j).isNone then refuse c .notFound
    else if c.kit.kitty.any (fun e => e.2.job == j) then refuse c .busy
    else
      answer { c with kit := { c.kit with
        jobs := c.kit.jobs.filter (fun e => e.1 % 256 != j), stJob := if c.kit.stJob = some j then none else c.kit.stJob } }

def execLedgerClose (k : Nat) (s : State) : Host.Outcome State Fault Refusal :=
  s.run (okMbx k) (Chip.live (Chip.mirrored (Chip.accept 0x0913 k ledgerCloseCmd)))

/-- The Kitty's Showdown of step `s` is done. -/
def Kitty.doneOf (k : Kitty) (s : Nat) : Bool := match k.doneStep with | some d => decide (s ≤ d.1) | none => false

/-- KT_LEDGER_STAT. -/
def Chip.ktLedgerStat (c : Chip) (h j : Nat) : Nat :=
  match c.job h j with
  | none => 0
  | some x =>
    let ks := c.kittiesOf h j
    field ks.length 0 16 + field (ks.filter (fun e => e.2.doneOf x.step)).length 16 16 + field x.lateRounds 32 8 + field x.maxLag 40 8

def ledgerStatusCmd : Command where
  words := fun _ => 1
  act := fun r c =>
    let j := bitsAt (r.w 0) 0 8
    let h := bitsAt (r.w 0) 8 1
    if (c.job h j).isNone then refuse c .notFound
    else answer c (twoWords (c.ktLedger h j) ++ twoWords (c.ktLedgerStat h j) ++ twoWords (c.ktLedgerLast h j))

def execLedgerStatus (k : Nat) (s : State) : Host.Outcome State Fault Refusal :=
  s.run (okMbx k) (Chip.live (Chip.accept 0x0914 k ledgerStatusCmd))

/-! ### Advances (R258, R259) -/

/-- STEP_DONE (R259). -/
def stepDone (s h deal len kitties : Nat) (x : Job) : List Byte :=
  beBytes 6 s ++ beBytes 1 x.attempt ++ beBytes 1 h ++ beBytes 6 deal ++ beBytes 4 (min len 0xFFFFFFFF) ++
    beBytes 2 x.lateRounds ++ beBytes 2 x.maxLag ++ beBytes 2 kitties ++ List.replicate 8 0

/-- Every open Kitty of the job in the half has its Showdown of the current step done. -/
def Chip.stepComplete (c : Chip) (h j : Nat) (x : Job) : Bool :=
  !(c.kittiesOf h j).isEmpty && (c.kittiesOf h j).all (fun e => e.2.doneOf x.step)

/-- The half advances a job, and reports (R258 to R260). -/
def Chip.advanceJob (h j : Nat) (c : Chip) : Chip :=
  match c.job h j with
  | none => c
  | some x =>
    let s := x.step
    let len := c.deal - x.began
    let next : Job :=
      { step := s + 1, attempt := x.attempt, abortPending := x.abortPending, collector := x.collector, lastDeal := c.deal, lastLen := len
        began := c.deal, closed := x.lags, closedOne := true, ended := x.ended, ahead := x.ahead.filter (fun e => e.1 != s + 1) }
    let next := (x.ahead.filter (fun e => e.1 == s + 1)).foldl (fun y e => y.note e.2.1 e.2.2) next
    (c.setJob h j next).originate h x.collector 1 0 (s % 2 ^ 32) (stepDone s h c.deal len (c.kittiesOf h j).length x)

/-- The other half has closed step `s` of the job, or has no Kitty that could (R258). -/
def Chip.laterHalf (c : Chip) (h j s : Nat) : Bool :=
  match c.job (1 - h) j with
  | none => true
  | some y => decide (s < y.step) || (c.kittiesOf (1 - h) j).isEmpty

end Sys2Proof.Machine
end

