-- ==== Sys2Proof/Machine/Tensor.lean ====
section
/-! DEFINITION. What the array, vector-unit and copy instructions compute, the Bench ranges they touch and the
faults of their operands (10_looms.md, 11_recipes.md). A function here takes the instruction word, the registers
it took at issue and a view of the Bench. -/

namespace Sys2Proof.Machine

open Sys2Proof

/-! ### Fields and registers -/

/-- The opcode and its class (R304). -/
def opcodeOf (w : Nat) : Nat := bitsAt w 58 6

/-- Register `i` of a run; s0 reads zero (R302). -/
def reg (regs : List Nat) (i : Nat) : Nat := if i = 0 then 0 else regs.getD i 0

/-- Write a register; s0 discards it (R302). -/
def setReg (i v : Nat) (regs : List Nat) : List Nat := if i = 0 then regs else regs.set i (v % 2 ^ 64)

/-- The register that a five-bit field names. -/
def regAt (w : Nat) (regs : List Nat) (lo : Nat) : Nat := reg regs (bitsAt w lo 5)

/-- Element address, scale address and scale row stride of a packed register (R303). -/
def elemAddr (v : Nat) : Nat := bitsAt v 0 23
def scaleAddr (v : Nat) : Nat := bitsAt v 23 23
def scaleStride (v : Nat) : Nat := bitsAt v 46 16

/-- Bench ranges as (address, bytes). -/
abbrev Ranges := List (Nat × Nat)

/-- Two ranges share a byte (R311). -/
def meets (a b : Nat × Nat) : Bool := decide (a.1 < b.1 + b.2) && decide (b.1 < a.1 + a.2) && a.2 != 0 && b.2 != 0

def Ranges.meet (xs ys : Ranges) : Bool := xs.any (fun x => ys.any (fun y => meets x y))

/-- A range inside the Bench (R303). -/
def inBench (r : Nat × Nat) : Bool := r.2 == 0 || decide (r.1 + r.2 ≤ 2 ^ 23)

/-- What an instruction reads and writes in the Bench. -/
structure Access where
  reads : Ranges := []
  writes : Ranges := []

/-- Bytes that an instruction writes into the Bench, in order, and the flags NAN, INF and SAT it sets. -/
structure Written where
  bytes : List (Nat × List Byte) := []
  flags : Nat := 0

/-- The Bench of one Loom. -/
structure BenchView where
  base : Nat
  mem : List Host.Cell

def BenchView.byte (b : BenchView) (a : Nat) : Nat := (Memory.read (b.base + a) b.mem).toNat

def BenchView.word (b : BenchView) (a n : Nat) : Nat := Memory.readLe (b.base + a) n b.mem

/-- The element at index `i` of a row at `a` (R279). -/
def BenchView.element (b : BenchView) (code a i : Nat) : Nat := elementAt code (fun j => b.byte (a + j)) i

/-- Bytes of `n` packed elements (R279). -/
def packedBytes (code n : Nat) : Nat := (n * fmtBits code + 7) / 8

/-- Flags of a list of FP32 results (R287). -/
def flagsOfAll (l : List Nat) : Nat := l.foldl (fun a x => a ||| flagsOf x) 0

/-- The NaN that the arrays and the vector unit write (R287). -/
def quietNan : Nat := 0x7FC00000

/-! ### Array instructions (R268, R269, R282, R289, R305) -/

/-- The fields of an array instruction. -/
structure Mm where
  a : Nat
  aScale : Nat
  aScaleStride : Nat
  w : Nat
  wScale : Nat
  c : Nat
  bias : Nat
  m : Nat
  k : Nat
  n : Nat
  aStride : Nat
  cStride : Nat
  aFmt : Nat
  wFmt : Nat
  mode : Nat
  keep : Bool

/-- Tile K and N of a supported pair of formats (R268). -/
def tileOf (a w : Nat) : Option (Nat × Nat) :=
  let mx (x : Nat) : Bool := decide (2 ≤ x) && decide (x ≤ 6)
  if a = 6 ∧ w = 6 then some (256, 128)
  else if mx a && mx w then some (128, 128)
  else if a = 7 ∧ w = 7 then some (128, 128)
  else if a = 1 ∧ w = 1 then some (64, 64)
  else none

def mmOf (word : Nat) (regs : List Nat) : Mm :=
  let a := regAt word regs 53
  let w := regAt word regs 48
  let c := regAt word regs 43
  let s := regAt word regs 38
  let af := bitsAt word 34 4
  let wf := bitsAt word 30 4
  let tileK := ((tileOf af wf).getD (0, 0)).1
  { a := elemAddr a, aScale := scaleAddr a
    aScaleStride := if scaleStride a = 0 then tileK / 32 else scaleStride a
    w := elemAddr w, wScale := scaleAddr w, c := elemAddr c, bias := scaleAddr c
    m := bitsAt s 0 16, k := bitsAt s 16 9, n := bitsAt s 25 8
    aStride := 16 * bitsAt s 33 15, cStride := 16 * bitsAt s 48 16
    aFmt := af, wFmt := wf, mode := bitsAt word 28 2, keep := bitAt word 27 }

/-- Rows each array streams (R266). -/
def Mm.rows (x : Mm) : Nat := (x.m + 3) / 4

/-- MX formats carry scales (R281). -/
def Mm.scales (x : Mm) : Bool := decide (2 ≤ x.aFmt) && decide (x.aFmt ≤ 6)

def Mm.blocks (x : Mm) : Nat := (x.k + 31) / 32

/-- An instruction with M = 0 or N = 0 does nothing (R289). -/
def Mm.empty (x : Mm) : Bool := x.m == 0 || x.n == 0

/-- Bytes from one stationary row to the next. -/
def Mm.wRow (x : Mm) : Nat := packedBytes x.wFmt ((tileOf x.aFmt x.wFmt).getD (0, 0)).2

def Mm.access (x : Mm) : Access :=
  let cRows := (List.range x.m).map (fun i => (x.c + x.cStride * i, 4 * x.n))
  if x.empty then {}
  else
    { reads :=
        (if x.k = 0 then []
          else
            (List.range x.m).map (fun i => (x.a + x.aStride * i, packedBytes x.aFmt x.k)) ++
              (if x.scales then (List.range x.m).map (fun i => (x.aScale + x.aScaleStride * i, x.blocks)) else []) ++
              (if x.keep then [] else [(x.w, x.k * x.wRow)] ++ (if x.scales then [(x.wScale, 128 * x.blocks)] else []))) ++
          (if x.mode = 1 then [(x.bias, 4 * x.n)] else if x.mode = 2 then cRows else [])
      writes := if x.k = 0 ∧ x.mode = 2 then [] else cRows }

/-- The fault of an array instruction's operands, 0 for none (R268, R303, R305). -/
def Mm.fault (x : Mm) : Nat :=
  match tileOf x.aFmt x.wFmt with
  | none => 2
  | some t =>
    if t.1 < x.k ∨ t.2 < x.n then 3
    else if x.empty then 0
    else if x.a % 16 ≠ 0 ∨ x.c % 16 ≠ 0 ∨ (!x.keep ∧ x.w % 128 ≠ 0) ∨ (x.mode = 1 ∧ x.bias % 4 ≠ 0) then 4
    else if (x.access.reads ++ x.access.writes).all inBench then 0
    else 4

/-- The stationary tile as loaded: element codes by row and column, and scales by block and column. -/
def Mm.loadTile (x : Mm) (b : BenchView) : List (List Nat) × List (List Nat) :=
  ((List.range x.k).map (fun i => (List.range x.n).map (fun j => b.element x.wFmt (x.w + i * x.wRow) j)),
    if x.scales then (List.range x.blocks).map (fun i => (List.range x.n).map (fun j => b.byte (x.wScale + 128 * i + j))) else [])

/-- The instruction loads a stationary tile (R271, R289). -/
def Mm.loads (x : Mm) : Bool := !x.keep && x.k != 0

def cellOf (t : List (List Nat)) (i j : Nat) : Nat := (t.getD i []).getD j 0

/-- A block's exact sum times its two scale factors (R282). -/
def scaleSum (v : Num) (xa xw : Nat) : Num :=
  if xa = 0xFF ∨ xw = 0xFF then .nan
  else match v with | .fin n m e => .fin n m (e + xa - 127 + xw - 127) | v => v

/-- One floating-point output of A × W (R282). -/
def Mm.dot (x : Mm) (tile tscales : List (List Nat)) (b : BenchView) (i j : Nat) : Nat :=
  let prod (k : Nat) : Num :=
    (ofElement x.aFmt (b.element x.aFmt (x.a + x.aStride * i) k)).mul (ofElement x.wFmt (cellOf tile k j))
  if x.scales then
    (List.range x.blocks).foldl (fun acc q =>
      let s := (List.range (min 32 (x.k - 32 * q))).foldl (fun a k => a.add (prod (32 * q + k))) (.fin false 0 0)
      toF32 ((ofF32 acc).add (scaleSum s (b.byte (x.aScale + x.aScaleStride * i + q)) (cellOf tscales q j)))) 0
  else (List.range x.k).foldl (fun acc k => toF32 ((ofF32 acc).add (prod k))) 0

/-- One INT8 output of A × W, exact (R282). -/
def Mm.intDot (x : Mm) (tile : List (List Nat)) (b : BenchView) (i j : Nat) : Int :=
  (List.range x.k).foldl (fun a k => a + toSigned (b.byte (x.a + x.aStride * i + k)) 8 * toSigned (cellOf tile k j) 8) 0

/-- INT32 with saturation: bits and whether SAT is set (R287). -/
def satInt32 (v : Int) : Nat × Nat :=
  if v < -(2 ^ 31) then (2 ^ 31, 4) else if (2 ^ 31 : Int) ≤ v then (2 ^ 31 - 1, 4) else (ofSigned v 32, 0)

/-- One output element: its bits and flags (R269, R289). -/
def Mm.output (x : Mm) (tile tscales : List (List Nat)) (b : BenchView) (i j : Nat) : Nat × Nat :=
  let prior := if x.mode = 1 then b.word (x.bias + 4 * j) 4 else b.word (x.c + x.cStride * i + 4 * j) 4
  if x.k = 0 then (if x.mode = 0 then 0 else prior, 0)
  else if x.aFmt = 7 then
    let v := x.intDot tile b i j
    satInt32 (if x.mode = 0 then v else v + toSigned prior 32)
  else
    let v := x.dot tile tscales b i j
    let r := if x.mode = 0 then v else toF32 ((ofF32 prior).add (ofF32 v))
    (r, flagsOf r)

/-- What an array instruction writes, with the tile in its stationary buffer. -/
def Mm.eval (x : Mm) (tile tscales : List (List Nat)) (b : BenchView) : Written :=
  if x.empty || (x.k == 0 && x.mode == 2) then {}
  else
    let rows := (List.range x.m).map (fun i => (List.range x.n).map (x.output tile tscales b i))
    { bytes := rows.mapIdx (fun i r => (x.c + x.cStride * i, r.flatMap (fun e => leBytes 4 e.1)))
      flags := rows.foldl (fun a r => r.foldl (fun a e => a ||| e.2) a) 0 }

/-! ### Vector arithmetic (R280, R287, R306) -/

/-- Count of elements of an instruction with COUNT at `lo` and its count register (R306, R307). -/
def countOf (w : Nat) (regs : List Nat) (lo nreg nr : Nat) : Nat :=
  if bitAt w nr then min (regAt w regs nreg) 2048 else bitsAt w lo 11 + 1

/-- Operands that a vector function uses: A, B, C. -/
def vecUses (fn : Nat) : List Nat :=
  match fn with
  | 0 | 1 | 2 | 4 | 5 | 8 => [0, 1]
  | 3 | 9 => [0, 1, 2]
  | _ => [0]

/-- FP32 bits of min or max (R280, R287). -/
def pickBits (fn : Nat) (isMax : Bool) (a b : Nat) : Nat :=
  let x := ofF32 a
  let y := ofF32 b
  if x.isNan || y.isNan then quietNan
  else if x.isZero && y.isZero then (if x.neg == y.neg then a else toF32 (.fin (Config.zeroSign fn) 0 0))
  else if x.lt y then (if isMax then b else a) else if isMax then a else b

/-- The comparisons of CND (R306, R287). -/
def compareBits (cnd a b : Nat) : Bool :=
  let x := ofF32 a
  let y := ofF32 b
  let nan := x.isNan || y.isNan
  let eq := !nan && !x.lt y && !y.lt x
  match cnd with
  | 0 => eq
  | 1 => !eq
  | 2 => !nan && x.lt y
  | 3 => !nan && (x.lt y || eq)
  | 4 => !nan && y.lt x
  | _ => !nan && (y.lt x || eq)

/-- FP32 of one and minus one. -/
def oneF32 : Nat := 0x3F800000

/-- One lane of a vector function, on FP32 bits (R280, R306). -/
def vecLane (fn cnd a b c : Nat) : Nat :=
  let x := ofF32 a
  match fn with
  | 0 => toF32 (x.add (ofF32 b))
  | 1 => toF32 (x.sub (ofF32 b))
  | 2 => toF32 (x.mul (ofF32 b))
  | 3 => toF32 ((x.mul (ofF32 b)).add (ofF32 c))
  | 4 => pickBits 4 false a b
  | 5 => pickBits 5 true a b
  | 6 => if x.isNan then quietNan else a % 2 ^ 31
  | 7 => if x.isNan then quietNan else (a + 2 ^ 31) % 2 ^ 32
  | 8 => if compareBits cnd a b then oneF32 else 0
  | 9 => toF32 (ofF32 (if (ofF32 c).isZero then b else a))
  | 0xA => toF32 x.sqrt
  | 0xF => if x.isNan then quietNan else if x.isZero then a else if x.neg then oneF32 + 2 ^ 31 else oneF32
  | n => approxFn n a

/-- Bytes of one element of a vector operand: BF16 or FP32. -/
def laneBytes (isBf16 : Bool) : Nat := if isBf16 then 2 else 4

/-- One vector operand of an instruction: its register number, and whether it is broadcast and BF16. -/
structure VecOperand where
  regNo : Nat
  broadcast : Bool
  isBf16 : Bool

def vecOperand (w i : Nat) : VecOperand :=
  { regNo := bitsAt w (42 - 5 * i) 5, broadcast := bitAt w (19 - i), isBf16 := bitAt w (16 - i) }

/-- FP32 bits of lane `j` of an operand. -/
def VecOperand.lane (o : VecOperand) (regs : List Nat) (b : BenchView) (j : Nat) : Nat :=
  if o.broadcast then reg regs o.regNo % 2 ^ 32
  else if o.isBf16 then b.word (reg regs o.regNo + 2 * j) 2 * 65536
  else b.word (reg regs o.regNo + 4 * j) 4

def vecCount (w : Nat) (regs : List Nat) : Nat := countOf w regs 21 3 2

/-- Operands that are read from the Bench. -/
def vecMem (w : Nat) : List VecOperand := ((vecUses (bitsAt w 52 6)).map (vecOperand w)).filter (fun o => !o.broadcast)

def vecAccess (w : Nat) (regs : List Nat) : Access :=
  let n := vecCount w regs
  { reads := (vecMem w).map (fun o => (reg regs o.regNo, n * laneBytes o.isBf16))
    writes := [(regAt w regs 47, n * laneBytes (bitAt w 13))] }

/-- The rounding that a code names, with the generator's draw for a lane (R284). -/
def roundingOf (code draw : Nat) : Rounding := if code = 0 then .nearest else if code = 1 then .zero else .sr draw

/-- What a vector arithmetic instruction writes; `draw` gives the generator's draw for a lane. -/
def vecEval (w : Nat) (regs : List Nat) (draw : Nat → Nat) (b : BenchView) : Written :=
  let n := vecCount w regs
  let fn := bitsAt w 52 6
  let o (i : Nat) : VecOperand := vecOperand w i
  let use (i j : Nat) : Nat := if (vecUses fn).contains i then (o i).lane regs b j else 0
  let lane (j : Nat) : Nat := vecLane fn (bitsAt w 8 3) (use 0 j) (use 1 j) (use 2 j)
  let d := regAt w regs 47
  let rs := (List.range n).map lane
  if bitAt w 13 then
    let out := rs.mapIdx (fun j r => bf16.round (roundingOf (bitsAt w 11 2) (draw j)) (ofF32 r))
    { bytes := [(d, out.flatMap (leBytes 2))], flags := flagsOfAll (out.map (· * 65536)) }
  else { bytes := [(d, rs.flatMap (leBytes 4))], flags := flagsOfAll rs }

/-- A plain address register: bits [63:23] zero, aligned, and its range inside the Bench (R303). -/
def plainOk (v len align : Nat) : Bool := decide (v < 2 ^ 23) && v % align == 0 && inBench (v, len)

def vecFault (w : Nat) (regs : List Nat) : Nat :=
  let n := vecCount w regs
  let ok (v : Nat) (bf : Bool) : Bool := plainOk v (n * laneBytes bf) (laneBytes bf)
  if bitAt w 13 ∧ bitsAt w 11 2 = 3 then 2
  else if (vecMem w).all (fun o => ok (reg regs o.regNo) o.isBf16) && ok (regAt w regs 47) (bitAt w 13) then 0
  else 4

/-! ### Conversions (R284 to R286, R307) -/

def cvtCount (w : Nat) (regs : List Nat) : Nat := countOf w regs 29 21 20

/-- An MX element format. -/
def isMx (code : Nat) : Bool := decide (2 ≤ code) && decide (code ≤ 6)

/-- Scale bytes of `n` elements of a format. -/
def scaleCount (code n : Nat) : Nat := if isMx code then (n + 31) / 32 else 0

def cvtAccess (w : Nat) (regs : List Nat) : Access :=
  let n := cvtCount w regs
  let a := regAt w regs 40
  let d := regAt w regs 45
  let sf := bitsAt w 54 4
  let df := bitsAt w 50 4
  { reads := [(elemAddr a, packedBytes sf n), (scaleAddr a, scaleCount sf n)]
    writes := [(elemAddr d, packedBytes df n), (scaleAddr d, scaleCount df n)] }

/-- Alignment of a format's operands (R303). -/
def fmtAlign (code : Nat) : Nat := if code = 0 ∨ code = 8 then 4 else if code = 1 then 2 else 1

def cvtFault (w : Nat) (regs : List Nat) : Nat :=
  let n := cvtCount w regs
  let sf := bitsAt w 54 4
  let df := bitsAt w 50 4
  let packed (x : Nat) : Bool := x == 4 || x == 5 || x == 6
  if bitsAt w 26 2 = 3 ∨ 8 < sf ∨ 8 < df then 2
  else if bitAt w 28 && (packed sf || packed df) && n % 32 != 0 then 3
  else if elemAddr (regAt w regs 40) % fmtAlign sf ≠ 0 ∨ elemAddr (regAt w regs 45) % fmtAlign df ≠ 0 then 4
  else if ((cvtAccess w regs).reads ++ (cvtAccess w regs).writes).all inBench then 0
  else 4

/-- The exact value of a source element. -/
def cvtSource (sf elem scale : Nat) : Num :=
  if sf = 7 then ofInt (toSigned elem 8)
  else if sf = 8 then ofInt (toSigned elem 32)
  else if isMx sf then scaled sf elem scale
  else ofElement sf elem

/-- FP32 to INT32 by the rounding named; the spec states no result for a NaN or a value beyond INT32, which is
the free value `own`. -/
def toInt32 (r : Rounding) (own : Nat) : Num → Nat
  | .fin n m e =>
    let q := roundAt r m e 0
    if n then (if q ≤ 2 ^ 31 then ofSigned (-(q : Int)) 32 else own) else if q < 2 ^ 31 then q else own
  | _ => own

/-- Converted elements, their MX scales, and the flags (R284 to R286). -/
def convertAll (sf df : Nat) (rnd : Nat → Rounding) (own : Nat → Nat) (vs : List Num) : List Nat × List Nat × Nat :=
  if isMx df then
    let scales := (chunksOf 32 (vs.length + 1) vs).map (blockScale df)
    (vs.mapIdx (fun j v => blockElement df (scales.getD (j / 32) 0) (rnd j) v), scales, if scales.contains 0xFF then 1 else 0)
  else if df = 7 then
    let out := vs.mapIdx (fun j v => toInt8 (rnd j) v)
    (out.map Prod.fst, [], if out.any (·.2) then 4 else 0)
  else if df = 8 then (vs.mapIdx (fun j v => toInt32 (rnd j) (own j) v), [], 0)
  else if df = 1 then
    let out := vs.mapIdx (fun j v => bf16.round (rnd j) v)
    (out, [], flagsOfAll (out.map (· * 65536)))
  else
    let out := vs.mapIdx (fun j v => fp32.round (if sf = 8 then .nearest else rnd j) v)
    (out, [], flagsOfAll out)

/-- What a conversion writes: `draw` is the generator's. -/
def cvtEval (w : Nat) (regs : List Nat) (draw : Nat → Nat) (b : BenchView) : Written :=
  let n := cvtCount w regs
  let a := regAt w regs 40
  let d := regAt w regs 45
  let sf := bitsAt w 54 4
  let df := bitsAt w 50 4
  let elem (j : Nat) : Nat := b.element sf (elemAddr a) j
  let scale (j : Nat) : Nat := if isMx sf then b.byte (scaleAddr a + j / 32) else 0
  let own (j : Nat) : Nat := (Config.beyondInt32 sf (elem j) (scale j)).toNat
  let vs := (List.range n).map (fun j => cvtSource sf (elem j) (scale j))
  let (es, scales, flags) := convertAll sf df (fun j => roundingOf (bitsAt w 26 2) (draw j)) own vs
  { bytes := [(elemAddr d, packElements df es), (scaleAddr d, scales.map (BitVec.ofNat 8))], flags := flags }

/-! ### Reductions and top-k (R280, R307, R317) -/

def redCount (w : Nat) (regs : List Nat) : Nat := countOf w regs 31 11 10

def redSeg (w : Nat) : Nat := 2 ^ bitsAt w 25 4

/-- Bytes that each segment writes: one FP32 value, or a record. -/
def redBytes (w : Nat) : Nat := if bitsAt w 52 6 = 2 then 64 else 4

def redAccess (w : Nat) (regs : List Nat) : Access :=
  let n := redCount w regs
  { reads := [(regAt w regs 42, n * laneBytes (bitAt w 29))]
    writes := [(regAt w regs 47, n / redSeg w * redBytes w)] }

def redFault (w : Nat) (regs : List Nat) : Nat :=
  let n := redCount w regs
  let bf := bitAt w 29
  if n % redSeg w ≠ 0 then 3
  else if plainOk (regAt w regs 42) (n * laneBytes bf) (laneBytes bf) && plainOk (regAt w regs 47) (n / redSeg w * redBytes w) 4 then 0
  else 4

/-- Neighbours of a list added in pairs. -/
def addPairs : List Nat → List Nat
  | a :: b :: t => toF32 ((ofF32 a).add (ofF32 b)) :: addPairs t
  | l => l

/-- The fixed pairwise tree in lane order, each step rounded to nearest-even (R280). -/
def treeSum : Nat → List Nat → Nat
  | 0, l => l.headD 0
  | n + 1, l => treeSum n (addPairs l)

/-- A ranks before B: larger values first, a NaN below −Inf; equal values keep their order (R317). -/
def ranksBefore (a b : Nat) : Bool :=
  let x := ofF32 a
  let y := ofF32 b
  !x.isNan && (y.isNan || y.lt x)

/-- Insert a candidate behind those it does not rank before. -/
def rankInsert (x : Nat × Nat) : List (Nat × Nat) → List (Nat × Nat)
  | [] => [x]
  | y :: t => if ranksBefore x.2 y.2 then x :: y :: t else y :: rankInsert x t

/-- The best `k` of (index, value) candidates, best first; equal ones keep the order given. -/
def bestOf (k : Nat) (l : List (Nat × Nat)) : List (Nat × Nat) := l.foldl (fun a x => (rankInsert x a).take k) []

/-- Weights of candidates by the SOFT formula over the first `ks` (R317). -/
def softWeights (ks : Nat) (vals : List Nat) : List Nat :=
  let first := vals.take ks
  let v0 := ofF32 (vals.headD 0)
  if v0.isNan || v0.isInf || first.any (fun v => (ofF32 v).isNan) then vals.map (fun _ => quietNan)
  else vals.map (fun v =>
    if (ofF32 v).isNan then quietNan
    else near 4 (encloseSoft v0 (ofF32 v) (first.map ofF32)) (Config.softWeight (BitVec.ofNat 32 v) (first.map (BitVec.ofNat 32))).toNat)

/-- The 64-byte record of a segment and its flags (R317). -/
def topkRecord (k ks : Nat) (soft : Bool) (seg : List Nat) : List Byte × Nat :=
  let best := bestOf k (seg.mapIdx (fun i v => (i, v)))
  let vals := best.map Prod.snd
  let ws := if soft then softWeights ks vals else vals.map (fun v => toF32 (ofF32 v))
  let top := toF32 (ofF32 (vals.headD 0))
  let pad (n z : Nat) (l : List Nat) : List Nat := l ++ List.replicate (n - l.length) z
  ((pad 8 0 ws).flatMap (leBytes 4) ++ (pad 8 0xFFFF (best.map Prod.fst)).flatMap (leBytes 2) ++ leBytes 4 top ++ leBytes 12 0,
    flagsOfAll ws ||| (if seg.any (fun v => (ofF32 v).isNan) then 1 else 0))

/-- What a reduction writes. -/
def redEval (w : Nat) (regs : List Nat) (b : BenchView) : Written :=
  let n := redCount w regs
  let d := regAt w regs 47
  let o : VecOperand := { regNo := bitsAt w 42 5, broadcast := false, isBf16 := bitAt w 29 }
  let seg := redSeg w
  let segs := (List.range (n / seg)).map (fun i => (List.range seg).map (fun j => o.lane regs b (seg * i + j)))
  match bitsAt w 52 6 with
  | 0 =>
    let out := segs.map (fun s => toF32 (ofF32 (treeSum 11 s)))
    { bytes := [(d, out.flatMap (leBytes 4))], flags := flagsOfAll out }
  | 1 =>
    let out := segs.map (fun s => match s with | [] => 0 | v :: t => t.foldl (pickBits 5 true) (toF32 (ofF32 v)))
    { bytes := [(d, out.flatMap (leBytes 4))], flags := flagsOfAll out }
  | _ =>
    let out := segs.map (topkRecord (bitsAt w 21 4) (bitsAt w 17 4) (bitAt w 16))
    { bytes := [(d, out.flatMap Prod.fst)], flags := out.foldl (fun x r => x ||| r.2) 0 }

/-! ### copy (R308) -/

def copyAccess (w : Nat) (regs : List Nat) : Access :=
  { reads := [(regAt w regs 42, regAt w regs 37)], writes := [(regAt w regs 47, regAt w regs 37)] }

def copyFault (w : Nat) (regs : List Nat) : Nat :=
  let n := regAt w regs 37
  if n % 4 ≠ 0 then 3
  else if plainOk (regAt w regs 42) n 1 && plainOk (regAt w regs 47) n 1 then 0
  else 4

def copyEval (w : Nat) (regs : List Nat) (b : BenchView) : Written :=
  { bytes := [(regAt w regs 47, Memory.readBytes (b.base + regAt w regs 42) (regAt w regs 37) b.mem)] }

/-! ### Transfers, emits and scalar accesses (R303, R308, R314 to R316) -/

/-- Bench, region handle, offset and length of a fetch or store. -/
structure Move where
  bench : Nat
  region : Nat
  offset : Nat
  length : Nat

def moveOf (w : Nat) (regs : List Nat) : Move :=
  { bench := regAt w regs 47, region := regAt w regs 42 % 2 ^ 32, offset := regAt w regs 37, length := regAt w regs 32 }

def Move.badAddr (x : Move) : Bool :=
  x.offset % 64 != 0 || x.length % 64 != 0 || !plainOk x.bench x.length 64

/-- Vectors, their input and output bytes each, of a sieve instruction (R316). -/
structure SieveShape where
  vectors : Nat
  inElems : Nat
  inBytes : Nat
  outElems : Nat

def sieveShape (w : Nat) (regs : List Nat) : SieveShape :=
  let outn := bitsAt w 24 8 + 1
  let trans := bitAt w 32
  let ins := if trans then outn else 256
  { vectors := regAt w regs 37, inElems := ins, inBytes := ins * laneBytes (bitAt w 23), outElems := if trans then 256 else outn }

def sieveAccess (w : Nat) (regs : List Nat) : Access :=
  let x := sieveShape w regs
  { reads := [(regAt w regs 42, x.vectors * x.inBytes)], writes := [(regAt w regs 47, x.vectors * (4 * x.outElems))] }

def sieveFault (w : Nat) (regs : List Nat) : Nat :=
  let x := sieveShape w regs
  if x.vectors = 0 ∨ 4096 < x.vectors then 3
  else if plainOk (regAt w regs 42) (x.vectors * x.inBytes) (laneBytes (bitAt w 23)) &&
      plainOk (regAt w regs 47) (x.vectors * (4 * x.outElems)) 4 then 0
  else 4

/-- Effective address of a scalar access: A plus the signed OFFSET, modulo 2^64. -/
def scalarAddr (w : Nat) (regs : List Nat) : Nat := (((regAt w regs 42 : Int) + toSigned (bitsAt w 0 32) 32) % (2 ^ 64 : Int)).toNat

def scalarBytes (w : Nat) : Nat := 2 ^ bitsAt w 56 2

def scalarFault (w : Nat) (regs : List Nat) : Nat :=
  if regAt w regs 42 < 2 ^ 23 ∧ plainOk (scalarAddr w regs) (scalarBytes w) (scalarBytes w) = true then 0 else 4

/-- Bench ranges of an instruction: of one that issues, or of one in flight (R273, R311). -/
def accessOf (w : Nat) (regs : List Nat) : Access :=
  match opcodeOf w with
  | 0x01 => (mmOf w regs).access
  | 0x08 => vecAccess w regs
  | 0x09 => cvtAccess w regs
  | 0x0A => redAccess w regs
  | 0x13 => { reads := [(scalarAddr w regs, scalarBytes w)] }
  | 0x14 => { writes := [(scalarAddr w regs, scalarBytes w)] }
  | 0x20 => copyAccess w regs
  | 0x21 => { writes := [((moveOf w regs).bench, (moveOf w regs).length)] }
  | 0x22 => { reads := [((moveOf w regs).bench, (moveOf w regs).length)] }
  | 0x28 => { reads := [(regAt w regs 47, 32), (regAt w regs 42, regAt w regs 37)] }
  | 0x29 => sieveAccess w regs
  | _ => {}

/-! ### Advancing addresses (R312) -/

/-- What an instruction with ADV advances: register, element bytes, scale bytes, and whether it is packed. -/
structure Advance where
  regNo : Nat
  elem : Nat
  scale : Nat := 0
  packed : Bool := false

def advances (w : Nat) (regs : List Nat) : List Advance :=
  match opcodeOf w with
  | 0x08 =>
    let n := vecCount w regs
    { regNo := bitsAt w 47 5, elem := n * laneBytes (bitAt w 13) } ::
      (vecMem w).map (fun o => { regNo := o.regNo, elem := n * laneBytes o.isBf16 })
  | 0x09 =>
    let n := cvtCount w regs
    let sf := bitsAt w 54 4
    let df := bitsAt w 50 4
    [{ regNo := bitsAt w 45 5, elem := packedBytes df n, scale := scaleCount df n, packed := true },
      { regNo := bitsAt w 40 5, elem := packedBytes sf n, scale := scaleCount sf n, packed := true }]
  | 0x0A =>
    let n := redCount w regs
    [{ regNo := bitsAt w 47 5, elem := n / redSeg w * redBytes w }, { regNo := bitsAt w 42 5, elem := n * laneBytes (bitAt w 29) }]
  | 0x20 => [{ regNo := bitsAt w 47 5, elem := regAt w regs 37 }, { regNo := bitsAt w 42 5, elem := regAt w regs 37 }]
  | 0x21 | 0x22 => [{ regNo := bitsAt w 47 5, elem := regAt w regs 32 }]
  | 0x29 =>
    let x := sieveShape w regs
    [{ regNo := bitsAt w 47 5, elem := x.vectors * (4 * x.outElems) }, { regNo := bitsAt w 42 5, elem := x.vectors * x.inBytes }]
  | _ => []

/-- The count register of an instruction, which never advances. -/
def countReg (w : Nat) : Option Nat :=
  match opcodeOf w with
  | 0x08 => if bitAt w 2 then some (bitsAt w 3 5) else none
  | 0x09 => if bitAt w 20 then some (bitsAt w 21 5) else none
  | 0x0A => if bitAt w 10 then some (bitsAt w 11 5) else none
  | 0x20 | 0x29 => some (bitsAt w 37 5)
  | 0x21 | 0x22 => some (bitsAt w 32 5)
  | _ => none

/-- Bit of ADV. -/
def advBit (w : Nat) : Bool :=
  match opcodeOf w with
  | 0x08 | 0x20 | 0x21 | 0x22 | 0x29 => bitAt w 20
  | 0x09 => bitAt w 28
  | 0x0A => bitAt w 30
  | _ => false

/-- A register advanced: plain, or packed by field. -/
def Advance.apply (x : Advance) (v : Nat) : Nat :=
  if x.packed then v / 2 ^ 46 * 2 ^ 46 + (scaleAddr v + x.scale) % 2 ^ 23 * 2 ^ 23 + (elemAddr v + x.elem) % 2 ^ 23 else v + x.elem

/-- Registers after an instruction with ADV: each named register advances once, by the largest amount. -/
def advanced (w : Nat) (regs : List Nat) : List Nat :=
  if !advBit w then regs
  else
    let l := (advances w regs).filter (fun x => some x.regNo != countReg w)
    let most (r : Nat) : Advance :=
      (l.filter (fun x => x.regNo == r)).foldl (fun a x => { x with elem := max a.elem x.elem, scale := max a.scale x.scale })
        { regNo := r, elem := 0 }
    (l.map (·.regNo)).eraseDups.foldl (fun rs r => setReg r ((most r).apply (reg regs r)) rs) regs

end Sys2Proof.Machine
end

