-- ==== Sys2Proof/Machine/Bench.lean ====
section
/-! DEFINITION. Access to Looms, their Benches and recipes, the layout of a gate's Bench regions, and what the end
of a gate run does (R265, R302, R323, R337 to R343, R355). -/

namespace Sys2Proof.Machine

open Sys2Proof

/-! ### Looms -/

def Chip.loomAt (c : Chip) (n : Nat) : Loom := Tab.get {} n c.loom.loom

def Chip.setLoom (n : Nat) (v : Loom) (c : Chip) : Chip := { c with loom := { c.loom with loom := Tab.set {} n v c.loom.loom } }

/-- Slot `k` of Loom `n`. -/
def Chip.loomSlot (c : Chip) (n k : Nat) : LoomSlot := Tab.get {} (16 * n + k) c.loom.slots

def Chip.setLoomSlot (n k : Nat) (v : LoomSlot) (c : Chip) : Chip :=
  { c with loom := { c.loom with slots := Tab.set {} (16 * n + k) v c.loom.slots } }

def Chip.recipe (c : Chip) (handle : Nat) : Option Recipe := (c.loom.recipes.find? (fun e => e.1 == handle)).map Prod.snd

/-- The handle is sealed on a Loom (R323). -/
def Chip.sealedOn (c : Chip) (handle n : Nat) : Bool :=
  match c.recipe handle with
  | some r => r.isSealed && r.bases.any (fun e => e.1 == n)
  | none => false

/-- The instruction of a run at its PC. -/
def Chip.instrAt (c : Chip) (handle pc : Nat) : Nat := match c.recipe handle with | some r => Tab.get 0 pc r.code | none => 0

def Chip.benchOf (c : Chip) (n : Nat) : BenchView := { base := 2 ^ 23 * n, mem := c.loom.bench }

/-- Write bytes into the Bench of Loom `n`. -/
def Chip.writeBench (n a : Nat) (bs : List Byte) (c : Chip) : Chip :=
  { c with loom := { c.loom with bench := Memory.writeBytes (2 ^ 23 * n + a) bs c.loom.bench } }

def Chip.readBench (c : Chip) (n a len : Nat) : List Byte := Memory.readBytes (2 ^ 23 * n + a) len c.loom.bench

/-- Offset of the window of Loom `n`, and its counters (LM_CNT0 to LM_CNT3, LM_RCNT0, LM_RCNT1). -/
def loomWindow (n : Nat) : Nat := 0x3000000 + 0x10000 * n
def lmCount (n i lsb : Nat) : CtrField := ⟨loomWindow n + 0x10 + 8 * i, lsb, 31, lsb + 31⟩
def lmCount15 (n i lsb : Nat) : CtrField := ⟨loomWindow n + 0x10 + 8 * i, lsb, 15, lsb + 15⟩
def lmRuns (n : Nat) : CtrField := ⟨loomWindow n + 0x110, 0, 31, 31⟩
def lmRcnt15 (n lsb : Nat) : CtrField := ⟨loomWindow n + 0x110, lsb, 15, lsb + 15⟩
def lmEmit (n lsb : Nat) : CtrField := ⟨loomWindow n + 0x118, lsb, 31, lsb + 31⟩

/-- Loom cycles of a number of core cycles (2.4 GHz to 2.0 GHz). -/
def loomCycles (core : Nat) : Nat := core * 6 / 5

/-- Loom cycle of the Deal: whole loom cycles since the first loom edge at or after the boundary (R13). -/
def Chip.loomCycle (c : Chip) : Nat :=
  let start := c.tb.lt - c.cycle
  (c.tb.lt * 6 / 5) - (start * 6 + 4) / 5

/-- Loom work budget of a period (R11). -/
def loomBudget (period : Nat) : Nat := [1151, 2380, 4837, 9752, 19583].getD period 0

/-- Loom cycles in the current Deal, for a sync CYCLE beyond it (R318). -/
def Chip.loomDeal (c : Chip) : Nat := c.dealCycles * 6 / 5

/-! ### Gates (R337 to R343) -/

def Chip.gateOf (c : Chip) (key : Nat) : Option Gate := (c.gate.gate.find? (fun e => e.1 == key)).map Prod.snd

def Chip.setGate (key : Nat) (v : Gate) (c : Chip) : Chip := { c with gate := { gate := Tab.put key v c.gate.gate } }

/-- The loaded gate of an ID, with its key (R329). -/
def Chip.findGate (c : Chip) (id : Nat) : Option (Nat × Gate) := c.gate.gate.find? (fun e => e.2.desc.getD 0 0 / 2 ^ 32 == id)

def Gate.fld (g : Gate) (i lo len : Nat) : Nat := bitsAt (g.desc.getD i 0) lo len

def Gate.id (g : Gate) : Nat := g.fld 0 32 32
def Gate.experts (g : Gate) : Nat := g.fld 0 22 10 + 1
def Gate.k (g : Gate) : Nat := g.fld 0 19 3 + 1
def Gate.cands (g : Gate) : Nat := g.fld 0 16 3 + 1
def Gate.fmt (g : Gate) : Nat := g.fld 0 12 4
def Gate.policy (g : Gate) : Nat := g.fld 0 10 2
def Gate.wait (g : Gate) : Nat := g.fld 0 3 7
def Gate.model (g : Gate) : Nat := 128 * g.fld 1 56 8
def Gate.shards (g : Gate) : Nat := 2 ^ g.fld 1 53 3
def Gate.replicas (g : Gate) : Nat := g.fld 1 47 6
def Gate.cq (g : Gate) : Nat := g.fld 1 44 3
def Gate.batchM (g : Gate) : Nat := g.fld 1 31 13
def Gate.region (g : Gate) : Nat := g.fld 2 32 32
def Gate.wbytes (g : Gate) : Nat := 64 * g.fld 2 8 24
def Gate.resultSrc (g : Gate) : Nat := g.fld 3 16 48

/-- Experts of a shard, its logit segment, its tiles, and the tokens of a combine binding (R337, R339). -/
def Gate.es (g : Gate) : Nat := ceilDiv g.experts g.shards
def Gate.seg (g : Gate) : Nat := max 8 (2 ^ Nat.clog 2 g.es)
def Gate.tiles (g : Gate) : Nat := g.fld 1 56 8 * ceilDiv g.es 128
def Gate.mc (g : Gate) : Nat := ceilDiv g.batchM (max 1 g.cq)

/-- Dispatch bindings; the combine bindings follow them. -/
def Gate.dispatches (g : Gate) : Nat := g.replicas * g.shards

/-- Replica of a binding. -/
def Gate.replicaOf (g : Gate) (b : Nat) : Nat :=
  if b < g.dispatches then b / g.shards else (b - g.dispatches) / max 1 g.cq

/-- Combine binding `j` of replica `q`. -/
def Gate.combineAt (g : Gate) (q j : Nat) : Nat := g.dispatches + q * g.cq + j

/-- Loom and Bench base of a binding. -/
def Gate.loomOf (g : Gate) (b : Nat) : Nat := (g.bindings.getD b (0, 0, 0)).1
def Gate.baseOf (g : Gate) (b : Nat) : Nat := 64 * (g.bindings.getD b (0, 0, 0)).2.2

/-- Round up to 64 bytes. -/
def up64 (n : Nat) : Nat := ceilDiv n 64 * 64

/-- Bytes of a token buffer, and the areas of a dispatch region from its base (R339). -/
def Gate.bufBytes (g : Gate) : Nat := up64 (g.batchM * (33 * g.model / 32))
def Gate.weightsAt (g : Gate) (bank : Nat) : Nat := bank * g.wbytes
def Gate.tokensAt (g : Gate) (parity : Nat) : Nat := 2 * g.wbytes + parity * g.bufBytes
def Gate.logitsAt (g : Gate) : Nat := g.tokensAt 2
def Gate.recordsAt (g : Gate) : Nat := g.logitsAt + up64 (4 * g.batchM * g.seg)
def Gate.dispatchBytes (g : Gate) : Nat := g.recordsAt + 64 * g.batchM

/-- The areas of a combine region from its base, by buffer parity (R339). -/
def Gate.rowsBytes (g : Gate) : Nat := g.mc * g.k * 2 * g.model
def Gate.combineBytes (g : Gate) : Nat := g.rowsBytes + 64 * g.mc + up64 (32 * g.mc) + g.mc * 2 * g.model
def Gate.rowsAt (g : Gate) (p : Nat) : Nat := p * g.combineBytes
def Gate.combineRecordsAt (g : Gate) (p : Nat) : Nat := g.rowsAt p + g.rowsBytes
def Gate.templatesAt (g : Gate) (p : Nat) : Nat := g.combineRecordsAt p + 64 * g.mc
def Gate.outputsAt (g : Gate) (p : Nat) : Nat := g.templatesAt p + up64 (32 * g.mc)

/-- Local rows that a batch has given a replica. -/
def Batch.rowsOf (x : Batch) (q : Nat) : Nat := (x.tokens.filter (fun t => t.replica == q)).length

def Batch.replicaAt (x : Batch) (q : Nat) : Option ReplicaBatch := x.replicas.find? (fun r => r.replica == q)

def Batch.setReplica (v : ReplicaBatch) (x : Batch) : Batch :=
  { x with replicas := x.replicas.map (fun r => if r.replica = v.replica then v else r) }

def Gate.setBatch (v : Batch) (g : Gate) : Gate := { g with batches := g.batches.map (fun x => if x.deal = v.deal then v else x) }

def Gate.batchOf (g : Gate) (deal : Nat) : Option Batch := g.batches.find? (fun x => x.deal == deal)

/-- Window of a gate and its counters (XG_GATE_CNT0 to XG_GATE_CNT3). -/
def gateWindow (key : Nat) : Nat := 0x2900000 + 0x40000 * (key / 16) + 0x4000 * (key % 16)
def gateCnt31 (key i lsb : Nat) : CtrField := ⟨gateWindow key + 0x30 + 8 * i, lsb, 31, lsb + 31⟩
def gateCnt15 (key i lsb : Nat) : CtrField := ⟨gateWindow key + 0x30 + 8 * i, lsb, 15, lsb + 15⟩

/-- The run that a gate has for a binding: batch Deal, oldest first, of a dispatch or combine run not yet
started (R331, R343, R354). -/
def Gate.runFor (g : Gate) (b now : Nat) : Option Nat :=
  let due (x : Batch) : Bool :=
    match x.replicaAt (g.replicaOf b) with
    | some r =>
      r.awaiting.contains b &&
        (if b < g.dispatches then r.phase == .running && decide (x.deal < now) else r.phase == .combining && decide (r.transferred < now))
    | none => false
  (g.batches.find? due).map (·.deal)

/-- Registers s1 to s14 of a gate run (R302, R343, R354). -/
def Gate.regs (g : Gate) (b : Nat) (x : Batch) (now : Nat) : List Nat :=
  let base := g.baseOf b
  let q := g.replicaOf b
  if b < g.dispatches then
    let buf := base + g.tokensAt (x.deal % 2)
    let w := base + g.weightsAt g.wbank
    [buf, x.rowsOf q, base + g.recordsAt, w + 2 ^ 23 * (w + g.tiles * 16384), base + g.logitsAt, g.model, g.es, now, 0,
      buf + g.batchM * g.model, 0, 0, 0, g.id]
  else
    let p := ((x.replicaAt q).map (·.parity)).getD 0
    let j := (b - g.dispatches) % max 1 g.cq
    let rows := x.rowsOf q
    [base + g.rowsAt p, (rows + g.cq - 1 - j) / max 1 g.cq, base + g.combineRecordsAt p, base + g.outputsAt p,
      base + g.templatesAt p, g.model, g.k, now, 1, 0, 0, 0, 0, g.id]

/-- A replica's batch is dropped: no TICKET or DISPATCH, and its tokens count in REFUSED (R355). -/
def Chip.dropReplicaBatch (key deal q : Nat) (c : Chip) : Chip :=
  match c.gateOf key with
  | none => c
  | some g =>
    match g.batchOf deal with
    | none => c
    | some x =>
      let lost := (x.tokens.filter (fun t => t.replica == q && !t.dropped)).length
      let x' := { x with tokens := x.tokens.map (fun t => if t.replica = q then { t with dropped := true } else t)
                         replicas := x.replicas.map (fun r => if r.replica = q then { r with phase := .released, awaiting := [] } else r) }
      (c.setGate key (g.setBatch x')).bump (gateCnt31 key 0 32) lost

/-- A gate run has ended (R343, R354, R355). -/
def Chip.gateRunEnded (key deal b fault : Nat) (c : Chip) : Chip :=
  match c.gateOf key with
  | none => c
  | some g =>
    match g.batchOf deal with
    | none => c
    | some x =>
      let q := g.replicaOf b
      match x.replicaAt q with
      | none => c
      | some r =>
        if !r.awaiting.contains b then c
        else if b < g.dispatches ∧ fault ≠ 0 then c.dropReplicaBatch key deal q
        else
          let left := r.awaiting.filter (fun y => y != b)
          let phase := if b < g.dispatches then r.phase else if left.isEmpty then .released else r.phase
          c.setGate key (g.setBatch (x.setReplica { r with awaiting := left, phase := phase }))

end Sys2Proof.Machine
end

