-- ==== Sys2Proof/Machine/Looms.lean ====
section
/-! DEFINITION. Looms: flags and faults, the start and end of runs, slots, recipes, and the commands of
10_looms.md and 11_recipes.md. -/

namespace Sys2Proof.Machine

open Sys2Proof

/-! ### Flags, Bench errors and retirement (R278, R287, R291, R292) -/

/-- Set flags of LM_RSTAT for a run: NAN, INF, SAT and EMPTY_K from bit 0 (R322). -/
def Loom.note (rid flags : Nat) (x : Loom) : Loom :=
  match x.run.filter (fun r => r.id == rid) with
  | some r => { x with run := some { r with flags := r.flags ||| flags } }
  | none =>
    if x.yielded.any (fun e => e.2.id == rid) then
      { x with yielded := x.yielded.map (fun e => if e.2.id = rid then (e.1, { e.2 with flags := e.2.flags ||| flags }) else e) }
    else if x.lastRun = rid then { x with flags := x.flags ||| flags }
    else x

/-- Set the sticky bits NAN, INF and SAT of LM_FLAGS, and the flags of the run. -/
def Chip.loomFlags (n rid flags : Nat) (c : Chip) : Chip :=
  let c := (bitsSet 3 flags).foldl (fun c b => c.stick (loomWindow n + 8) b) c
  c.setLoom n ((c.loomAt n).note rid flags)

/-- A retirement of the Loom awaits its boundary. -/
def Chip.loomRetiring (c : Chip) (n : Nat) : Bool :=
  c.due.any (fun e => match e.2 with | .retireLoom m _ => m == n | _ => false)

/-- Firmware retires a Loom in service at the boundary R16 gives (R292). -/
def Chip.retireLoomSoon (n reason : Nat) (c : Chip) : Chip :=
  if !c.loomServes n || c.loomRetiring n then c else c.schedule c.effectDeal (.retireLoom n reason)

/-- Instants of the last second, with now (R292). -/
def lastSecond (now : Nat) (l : List Nat) : List Nat := now :: l.filter (fun t => decide (now ≤ t + 2000000000))

/-- An uncorrectable Bench error at an address (R278); the second within 1 s retires the Loom. -/
def Chip.benchUe (n a : Nat) (c : Chip) : Chip :=
  let c := ((c.bump (lmCount15 n 3 32) 1).stick (loomWindow n + 8) 4).raise 0x0A03 3 [(6, n), (23, a)]
  let times := lastSecond c.tb.lt (c.loomAt n).eccs
  let c := c.setLoom n { c.loomAt n with eccs := times }
  if 2 ≤ times.length then c.retireLoomSoon n 3 else c

/-- A recompute that also mismatched (R291); the second within 1 s retires the Loom. -/
def Chip.checkFail (n array : Nat) (c : Chip) : Chip :=
  let c := ((c.bump (lmCount15 n 2 48) 1).stick (loomWindow n + 8) 3).raise 0x0A02 3 [(6, n), (2, array)]
  let times := lastSecond c.tb.lt (c.loomAt n).checks
  let c := c.setLoom n { c.loomAt n with checks := times }
  if 2 ≤ times.length then c.retireLoomSoon n 2 else c

/-! ### The end of a run (R299, R320 to R322) -/

/-- Loom cycles of a run in its Deal, saturated (LM_RSTAT.CYCLES). -/
def Chip.runCycles (c : Chip) (r : Run) : Nat := min 32767 (loomCycles (c.tb.lt - r.began))

/-- LM_RSTAT takes the state of a run that is no longer in progress. -/
def Loom.keep (r : Run) (st : RunState) (fault pc cycles : Nat) (x : Loom) : Loom :=
  { x with run := none, rstate := st, fault := fault, pc := pc, slot := r.slot, handle := r.handle, flags := r.flags
           cycles := cycles, rdeal := r.deal, lastRun := r.id }

/-- Count and raise a run's fault (R321). -/
def Chip.reportFault (n slot handle pc fault : Nat) (c : Chip) : Chip :=
  (c.bump (lmRcnt15 n 32) 1).raise 0x0B01 3 [(6, n), (4, slot), (16, handle), (13, pc), (5, fault)]

/-- A Kitty piece faults NO_RECIPE at the start it should have had, and LM_RSTAT records it where no run is in progress (R320,
R323). -/
def Chip.faultPiece (key j : Nat) (x : Showdown) (c : Chip) : Chip :=
  let k := c.kitty key
  let n := k.home
  let y := c.loomAt n
  let kept : Loom := { y with rstate := .faulted, fault := 0xD, pc := 0, slot := k.slot, handle := k.recipe, flags := 0, cycles := 0
                              rdeal := c.deal, lastRun := 0 }
  ((if y.run.isSome then c else c.setLoom n kept).reportFault n k.slot k.recipe 0 0xD).pieceEnded key x.step x.attempt j 0xD

/-- What the end of a run does to the work it served (R249, R321, R355). -/
def Chip.settleRun (n : Nat) (r : Run) (fault : Nat) (c : Chip) : Chip :=
  match r.forWhom with
  | .kitty key step attempt piece => c.pieceEnded key step attempt piece fault
  | .gate key batch b => c.gateRunEnded key batch b fault
  | .self => if fault = 0 then c else c.setLoomSlot n r.slot { c.loomSlot n r.slot with faulted := true }

/-- The run in progress ends, DONE or FAULTED, with the PC to record. -/
def Chip.stopRun (n fault pc : Nat) (c : Chip) : Chip :=
  let x := c.loomAt n
  match x.run with
  | none => c
  | some r =>
    let c := c.setLoom n (x.keep r (if fault = 0 then .done else .faulted) fault pc (c.runCycles r))
    let c : Chip := if fault = 0 then c else c.reportFault n r.slot r.handle pc fault
    c.settleRun n r fault

/-! ### The start of a run (R296 to R298, R302, R323) -/

/-- The piece of a Kitty that is due on a Loom and slot: key, its Showdown and the piece; the oldest (R296). -/
def Chip.duePiece (c : Chip) (n k : Nat) : Option (Nat × Showdown × Nat) :=
  let busy (key j : Nat) : Bool :=
    match (c.loomAt n).run with
    | some r => (match r.forWhom with | .kitty key' _ _ j' => key' == key && j' == j | _ => false)
    | none => false
  let at_ (e : Nat × Kitty) : Option (Nat × Nat × Showdown × Nat) :=
    if e.2.home = n ∧ e.2.slot = k then
      match e.2.last with
      | none => none
      | some x => (x.inBench.find? (fun p => decide (p.2 ≤ c.tb.boundaries) && !busy e.1 p.1)).map (fun p => (p.2, e.1, x, p.1))
    else none
  let l := c.kit.kitty.filterMap at_
  (l.foldl (fun a y => match a with | none => some y | some z => if y.1 < z.1 then some y else a) none).map Prod.snd

/-- The gate run due on a Loom and slot: gate key, batch and binding (R331). -/
def Chip.dueGate (c : Chip) (n k id : Nat) : Option (Nat × Nat × Nat) :=
  match c.findGate id with
  | none => none
  | some (key, g) =>
    let bs := (List.range g.bindings.length).filter (fun b =>
      let e := g.bindings.getD b (0, 0, 0)
      e.1 == n && e.2.1 == k)
    let busy (deal b : Nat) : Bool :=
      match (c.loomAt n).run with | some r => r.forWhom == .gate key deal b | none => false
    (bs.filterMap (fun b => (g.runFor b c.deal).bind (fun d => if busy d b then none else some (key, d, b)))).head?

/-- Registers of a Kitty run (R302, R324). -/
def Chip.kittyRegs (c : Chip) (k : Kitty) (x : Showdown) (j : Nat) : List Nat :=
  let sb := c.stateBytes k
  [k.buf j, k.countsAt j, k.sumsAt j, k.resultAt j, if 2 ≤ k.outFmt then k.scalesAt j else 0, k.pieceLen j,
    if sb = 0 then 0 else k.stateBuf sb j, x.step, x.attempt, k.state_, if sb = 0 then 0 else k.stateOff sb (x.step % 2) j,
    j * k.piece, b2n x.isPartial + 2 * b2n x.nan + 4 * b2n x.inf, k.outFmt, k.chunk]

/-- s0 to s31 from s1 onward and the slot's parameter words (R302). -/
def runRegs (low params : List Nat) : List Nat :=
  let l := (0 :: low) ++ List.replicate (15 - low.length) 0
  (l ++ (List.range 8).map (fun i => params.getD i 0) ++ List.replicate 8 0).map (· % 2 ^ 64)

/-- What a fresh run needs: whom it serves, its handle, and s1 onward. -/
structure Work where
  forWhom : RunFor
  handle : Nat
  low : List Nat

/-- Work for a slot at its start by its MODE, apart from the continuation of a yielded run (R296). -/
def Chip.freshWork (c : Chip) (n k : Nat) : Option Work :=
  let s := c.loomSlot n k
  if !s.en || (c.loomAt n).yielded.any (fun e => e.1 == k) then none
  else if s.mode = 1 then
    match c.duePiece n k with
    | some (key, x, j) =>
      let kt := c.kitty key
      some { forWhom := .kitty key x.step x.attempt j, handle := kt.recipe, low := c.kittyRegs kt x j }
    | none => none
  else if s.mode = 2 then
      match c.dueGate n k s.gate with
      | some (key, d, b) =>
        match (c.gateOf key).bind (fun g => (g.batchOf d).map (fun x => g.regs b x c.deal)) with
        | some low => some { forWhom := .gate key d b, handle := s.handle, low := low }
        | none => none
      | none => none
  else if s.faulted then none
  else if s.mode = 3 ∨ (s.mode = 4 ∧ s.runAt.any c.reached) then
    some { forWhom := .self, handle := s.handle, low := [c.deal, s.runs] }
  else none

/-- The run of a slot that yielded in an earlier Deal (R300). -/
def Chip.yieldedRun (c : Chip) (n k : Nat) : Option Run :=
  if (c.loomSlot n k).en then
    (((c.loomAt n).yielded.find? (fun e => e.1 == k)).map Prod.snd).filter (fun r => r.yieldAt != c.tb.boundaries)
  else none

/-- Something waits to run at the slot's start. -/
def Chip.hasWork (c : Chip) (n k : Nat) : Bool := (c.yieldedRun n k).isSome || (c.freshWork n k).isSome

/-- A dispatch run of a gate, which with no token completes at once (R343). -/
def Chip.noTokens (c : Chip) (w : RunFor) : Bool :=
  match w with
  | .gate key _ b => (match c.gateOf key with | some g => decide (b < g.dispatches) | none => false)
  | _ => false

/-- A fresh run starts, or faults NO_RECIPE at its start (R322, R323). -/
def Chip.startFresh (n k : Nat) (w : Work) (c : Chip) : Chip :=
  let s := c.loomSlot n k
  let r : Run :=
    { id := c.loom.nextRun, slot := k, handle := w.handle, regs := runRegs w.low s.params, s2 := w.low.getD 1 0
      forWhom := w.forWhom, deal := c.deal, began := c.tb.lt, workAt := c.tb.boundaries }
  let c := { c with loom := { c.loom with nextRun := c.loom.nextRun + 1 } }
  let c := c.setLoomSlot n k { s with runs := s.runs + 1, runAt := none }
  let c := ((c.setLoom n { c.loomAt n with run := some r }).bump (lmRuns n) 1).occur (2 + n / 32) 0x07 (some (n % 32)) none 1
  if !c.sealedOn w.handle n then c.stopRun n 0xD 0
  else if c.noTokens w.forWhom && r.s2 == 0 then c.stopRun n 0 0
  else c

/-- Start what a slot has to run, if anything. -/
def Chip.beginSlot (n k : Nat) (c : Chip) : Chip :=
  match c.yieldedRun n k with
  | some r =>
    let x := c.loomAt n
    c.setLoom n { x with run := some { r with began := c.tb.lt, workAt := c.tb.boundaries }, yielded := Tab.erase k x.yielded }
  | none =>
    match c.freshWork n k with
    | some w => c.startFresh n k w
    | none => c

/-- The waiting slot starts of a Loom, in order of OFFSET, until one runs (R298). -/
def Chip.startNext (n : Nat) : Nat → Chip → Chip
  | 0, c => c
  | fuel + 1, c =>
    let x := c.loomAt n
    match x.run, x.waiting with
    | none, k :: rest => Chip.startNext n fuel ((c.setLoom n { x with waiting := rest }).beginSlot n k)
    | _, _ => c

/-- The run in progress ends, and the next one that waits starts. -/
def Chip.endRun (n fault pc : Nat) (c : Chip) : Chip := (c.stopRun n fault pc).startNext n 16

/-- A fault of an instruction of run `rid`: the run in progress, or one that has yielded, ends FAULTED (R321). -/
def Chip.faultRun (n rid pc fault : Nat) (c : Chip) : Chip :=
  let x := c.loomAt n
  if x.run.any (fun r => r.id == rid) then c.endRun n fault pc
  else
    match x.yielded.find? (fun e => e.2.id == rid) with
    | none => c
    | some e =>
      let x' := { x with yielded := Tab.erase e.1 x.yielded }
      let c := c.setLoom n (if x.run.isSome then x' else x'.keep e.2 .faulted fault pc x.cycles)
      (c.reportFault n e.1 e.2.handle pc fault).settleRun n e.2 fault

/-- A slot's place among those waiting: by OFFSET (R298). -/
def Chip.queueSlot (c : Chip) (n k : Nat) (l : List Nat) : List Nat :=
  let off (j : Nat) : Nat := (c.loomSlot n j).offset
  l.takeWhile (fun j => decide (off j ≤ off k)) ++ k :: l.dropWhile (fun j => decide (off j ≤ off k))

/-- Core cycle of the current Deal in which loom cycle `o` of the Loom die's Deal begins: loom cycle 0 is the first loom clock
edge at or after the boundary, and 6 loom cycles take 5 core cycles (R13, R41). -/
def Chip.slotCycle (c : Chip) (o : Nat) : Nat :=
  let l := c.tb.lt - c.cycle
  ((6 * l + 4) / 5 + o) * 5 / 6 - l

/-- A Kitty piece due on a slot that is not in KITTY mode faults at the slot's start, which stays with the slot's own work (R296,
R323). -/
def Chip.refusePiece (n k : Nat) (c : Chip) : Chip :=
  let s := c.loomSlot n k
  if !s.en || s.mode == 1 then c
  else match c.duePiece n k with | some (key, x, j) => c.faultPiece key j x | none => c

/-- A slot start, at the loom cycle of the slot's OFFSET and at no later one (R41, R296, R298). -/
def Chip.slotStart (n k : Nat) (c : Chip) : Chip :=
  let s := c.loomSlot n k
  let at_ := c.slotCycle s.offset
  if !c.loomServes n || s.started == some c.tb.boundaries || decide (at_ < c.cycle) || !(c.hasWork n k || (c.duePiece n k).isSome) then c
  else
    let c := (c.advanceTo at_).refusePiece n k
    if !c.hasWork n k then c
    else
    let c := c.setLoomSlot n k { c.loomSlot n k with started := some c.tb.boundaries }
    let x := c.loomAt n
    if x.run.isNone then c.beginSlot n k
    else (c.setLoom n { x with waiting := if x.waiting.contains k then x.waiting else c.queueSlot n k x.waiting }).bump (lmRcnt15 n 48) 1

def execRecipeSlotStart (loom slot : Nat) (s : State) : Host.Outcome State Fault Refusal :=
  s.run (okLoom loom && decide (slot < 16)) (Chip.fabric (Chip.slotStart loom slot))

/-! ### Guard and boundary (R18, R19, R277, R292, R299 to R301, R326) -/

/-- Looms with something in them. -/
def Chip.loomKeys (c : Chip) : List Nat := c.loom.loom.map Prod.fst

/-- Work still running when the guard begins is late (R18). -/
def Chip.loomGuard (c : Chip) : Chip :=
  c.loomKeys.foldl (fun c n =>
    let x := c.loomAt n
    match x.run with
    | some r => c.setLoom n { x with run := some { r with flags := r.flags ||| 16 } }
    | none => c) c

/-- The Punar raises PREFETCH_LATE, once per Loom per Deal (R277). -/
def Chip.prefetchLate (n : Nat) (c : Chip) : Chip :=
  let x := c.loomAt n
  if x.prefetchRaised then c
  else ((c.setLoom n { x with prefetchRaised := true }).stick (loomWindow n + 8) 5).raise 0x0A01 2 [(6, n)]

/-- TB_OVERRUN records work of Deal `d` of a unit that has passed `n` boundaries (R18). -/
def Chip.noteOverrun (unit d n : Nat) (c : Chip) : Chip :=
  { c with tb := { c.tb with overrunDeal := d, overrunUnit := unit, overrunOver := n } }

/-- DEAL_OVERRUN of a unit, with TB_OVERRUN and the sticky bit of TB_STATUS (R18). -/
def Chip.overrun (unit d n : Nat) (c : Chip) : Chip :=
  ((c.noteOverrun unit d n).stick 0x10008 7).raise 0x0101 3 [(8, unit), (48, d)]

/-- A fill that these reads wait for belongs to an earlier Deal (R277). -/
def Loom.lateFill (x : Loom) (deal : Nat) (reads : Ranges) : Bool :=
  x.fills.any (fun f => f.deal != deal && reads.any (fun r => (benchGranules r.1 r.2).any (fun g => f.granules.contains g)))

/-- What a boundary does to a run in progress: overrun, and abort at the second boundary (R18, R19). -/
def Chip.loomOverrun (n : Nat) (c : Chip) : Chip :=
  let c := c.setLoom n { c.loomAt n with prefetchRaised := false }
  let x := c.loomAt n
  match x.run with
  | none => c
  | some r =>
    if r.workAt + 2 ≤ c.tb.boundaries then (c.overrun n (c.dealBefore 2) 2).endRun n 7 r.pc
    else
      let c := c.setLoom n { x with run := some { r with flags := r.flags ||| 32 } }
      let c := c.overrun n (c.dealBefore 1) 1
      let w := c.instrAt r.handle r.pc
      if r.held.any (fun h => h.fill) && x.lateFill c.deal (accessOf w r.regs).reads then c.prefetchLate n else c

/-- A yielded run is discarded (R300). -/
def Chip.discardYielded (n k : Nat) (c : Chip) : Chip :=
  let x := c.loomAt n
  match x.yielded.find? (fun e => e.1 == k) with
  | none => c
  | some e => (c.setLoom n { x with yielded := Tab.erase k x.yielded }).raise 0x0B02 2 [(6, n), (4, k), (16, e.2.handle)]

/-- A run that `recipe.run` named for this Deal is discarded when its slot is disabled or reconfigured (R326). -/
def Chip.discardNamed (n k : Nat) (c : Chip) : Chip :=
  let s := c.loomSlot n k
  if s.runAt = some c.deal then (c.setLoomSlot n k { s with runAt := none }).raise 0x0B02 2 [(6, n), (4, k), (16, s.handle)] else c

/-- The run of a slot that is in progress goes on, and is discarded if it yields (R300, R326). -/
def Chip.staleRun (n k : Nat) (c : Chip) : Chip :=
  let x := c.loomAt n
  match x.run with
  | some r => if r.slot = k then c.setLoom n { x with run := some { r with stale := true } } else c
  | none => c

/-- `slot.config` takes effect (R325, R326); a slot whose range a change of period has left beyond the budget stays disabled
(R301). -/
def Chip.applySlotConfig (key : Nat) (en : Bool) (mode offset length handle gate : Nat) (c : Chip) : Chip :=
  let n := key / 16
  let k := key % 16
  let c := (c.discardYielded n k).discardNamed n k
  let s := c.loomSlot n k
  let fits := decide (offset + length ≤ loomBudget c.tb.period)
  let c := c.setLoomSlot n k
    { s with en := en && fits, mode := mode, offset := offset, length := length, handle := handle, gate := gate, faulted := false, runs := 0 }
  let c := c.staleRun n k
  if en && !fits then c.raise 0x0B03 2 [(6, n), (4, k)] else c

/-- `recipe.param` takes effect (R325). -/
def Chip.applyRecipeParam (key first : Nat) (words : List Nat) (c : Chip) : Chip :=
  let s := c.loomSlot (key / 16) (key % 16)
  let params := (words.zipIdx).foldl (fun l e => l.set (first + e.2) e.1) s.params
  c.setLoomSlot (key / 16) (key % 16) { s with params := params }

/-- The slots whose range ends beyond the new budget are disabled at a change of period (R301). -/
def Chip.disableSlots (c : Chip) : Chip :=
  (c.loom.slots.filter (fun e => e.2.en && decide (loomBudget c.tb.period < e.2.offset + e.2.length))).foldl (fun c e =>
    let n := e.1 / 16
    let k := e.1 % 16
    let c := ((c.discardYielded n k).discardNamed n k).staleRun n k
    (c.setLoomSlot n k { c.loomSlot n k with en := false }).raise 0x0B03 2 [(6, n), (4, k)]) c

/-- A Loom is retired at a boundary (R292); packets already in its emit buffer leave (R321). -/
def Chip.retireLoom (n reason : Nat) (c : Chip) : Chip :=
  if !c.loomServes n then c
  else
    let c := (c.setLoom n { c.loomAt n with waiting := [] }).stopRun n 8 (match (c.loomAt n).run with | some r => r.pc | none => 0)
    let c := ((c.loomAt n).yielded.map Prod.fst).foldl (fun c k => c.discardYielded n k) c
    let c := c.setLoom n { c.loomAt n with reason := reason, flight := [], fills := [], waiting := [] }
    let c := { c with sv := { c.sv with queue := c.sv.queue.filter (fun o => o.loom != n) } }
    (c.noteRetired c.deal 3 n).raise 0x0A04 3 [(6, n), (4, reason)]

/-- A generator is seeded: every Loom in service, each with the seed plus its number, or one (R284). -/
def Chip.applySeed (loom : Option Nat) (seed : Nat) (c : Chip) : Chip :=
  let one (n v : Nat) (c : Chip) : Chip := c.setLoom n { c.loomAt n with seed := some (v % 2 ^ 64), draws := 0 }
  match loom with
  | some n => one n seed c
  | none => ((List.range 64).filter (fun n => c.loomServes n)).foldl (fun c n => one n (seed + n) c) c

/-- Pieces whose recipe Deal has passed on a slot that is not enabled in KITTY mode fault NO_RECIPE (R323). -/
def Chip.missedPieces (c : Chip) : Chip :=
  c.kit.kitty.foldl (fun c e =>
    match e.2.last with
    | none => c
    | some x =>
      let s := c.loomSlot e.2.home e.2.slot
      match x.inBench.find? (fun p => decide (p.2 < c.tb.boundaries)) with
      | some p =>
        if s.en && s.mode == 1 then c else c.faultPiece e.1 p.1 x
      | none => c) c

/-- What the boundary that begins a Deal does to the Looms, after the changes due have been applied. -/
def Chip.loomBoundary (c : Chip) : Chip :=
  let c := c.loomKeys.foldl (fun c n => c.loomOverrun n) c
  let idle := c.loom.slots.filter (fun e => e.2.runAt == some c.deal && !(e.2.en && e.2.mode == 4))
  (idle.foldl (fun c e => c.discardNamed (e.1 / 16) (e.1 % 16)) c).missedPieces

/-! ### Registers (LM_) -/

/-- LM_STATE. -/
def Chip.lmState (c : Chip) (n : Nat) : Nat :=
  let x := c.loomAt n
  let act :=
    if x.flight.any (fun f => opcodeOf f.word == 1) then 1
    else if !x.flight.isEmpty then 2
    else if x.run.any (fun r => r.held.isSome) then 3 else 0
  act + field ((x.run.map (·.slot)).getD 0) 2 4 + field x.flight.length 6 4 + field (b2n (c.loomRetiring n)) 10 1

def RunState.code : RunState → Nat
  | .idle => 0 | .running => 1 | .waiting => 2 | .yielded => 3 | .done => 4 | .faulted => 5

/-- LM_RSTAT and LM_RDEAL. -/
def Chip.lmRstat (c : Chip) (n : Nat) : Nat :=
  let x := c.loomAt n
  let w (st fault pc slot handle flags cycles : Nat) : Nat :=
    st + field fault 3 5 + field pc 8 13 + field slot 21 4 + field handle 25 16 + field flags 41 6 + field cycles 47 15
  match x.run with
  | some r => w 1 0 r.pc r.slot r.handle r.flags (c.runCycles r)
  | none => w x.rstate.code x.fault x.pc x.slot x.handle x.flags x.cycles

def Chip.lmRdeal (c : Chip) (n : Nat) : Nat :=
  let x := c.loomAt n
  (match x.run with | some r => r.deal | none => x.rdeal) % 2 ^ 48

/-- A `slot.config` awaits its boundary. -/
def Chip.slotPending (c : Chip) (key : Nat) : Bool :=
  c.due.any (fun e => match e.2 with | .slotConfig k _ _ _ _ _ _ => k == key | _ => false)

/-- LM_SLOT. -/
def Chip.lmSlot (c : Chip) (n k : Nat) : Nat :=
  let s := c.loomSlot n k
  b2n s.en + field s.mode 1 3 + field s.offset 4 15 + field s.length 19 15 + field s.handle 34 16 + field (b2n s.faulted) 50 1 +
    field (b2n (c.slotPending (16 * n + k))) 51 1 + field (b2n s.runAt.isSome) 52 1

def Chip.lmSampleCfg (c : Chip) (n : Nat) : Nat := b2n (c.loomAt n).sampleEn + field (c.loomAt n).samplePeriod 1 20

def lmSampleStat (n : Nat) : Nat := loomWindow n + 0x608
def lmLost (n : Nat) : CtrField := ⟨lmSampleStat n, 13, 32, 45⟩

/-- LM_DIE_MAP and LM_DIE_REASON of a half. -/
def Chip.loomReason (c : Chip) (n : Nat) : Nat := if bitAt (capsOf c.fuses.variant).loomMask n then (c.loomAt n).reason else 1

def Chip.lmDieMap (c : Chip) (h : Nat) : Nat :=
  (List.range 32).foldl (fun a i =>
    let r := c.loomReason (32 * h + i)
    a + (if r = 0 then 2 ^ i else if 2 ≤ r ∧ r ≤ 4 then 2 ^ (32 + i) else 0)) 0

def Chip.lmDieReason (c : Chip) (h part : Nat) : Nat :=
  (List.range 16).foldl (fun a i => a + field (c.loomReason (32 * h + 16 * part + i)) (4 * i) 4) 0

/-! ### Commands of the Looms -/

def loomStatusCmd : Command where
  words := fun _ => 1
  act := fun r c =>
    let n := bitsAt (r.w 0) 0 6
    if c.loomAbsent n then refuse c .absent
    else answer c (twoWords (c.lmState n) ++ twoWords (c.ctrImage (loomWindow n + 8)))

def execLoomStatus (k : Nat) (s : State) : Host.Outcome State Fault Refusal :=
  s.run (okMbx k) (Chip.live (Chip.accept 0x0A01 k loomStatusCmd))

def loomRetireCmd : Command where
  words := fun _ => 1
  act := fun r c =>
    let n := bitsAt (r.w 0) 0 6
    if c.loomAbsent n then refuse c .absent
    else if c.loomRetiring n then refuse c .busy
    else atBoundary (.retireLoom n 4) c

def execLoomRetire (k : Nat) (s : State) : Host.Outcome State Fault Refusal :=
  s.run (okMbx k) (Chip.live (Chip.accept 0x0A02 k loomRetireCmd))

def loomSeedCmd : Command where
  words := fun _ => 3
  act := fun r c =>
    let n := bitsAt (r.w 0) 0 6
    let all := bitAt (r.w 0) 6
    if !all && c.loomAbsent n then refuse c .absent
    else atBoundary (.loomSeed (if all then none else some n) (r.long 1)) c

def execLoomSeed (k : Nat) (s : State) : Host.Outcome State Fault Refusal :=
  s.run (okMbx k) (Chip.live (Chip.accept 0x0A03 k loomSeedCmd))

/-- Address and count of a `bench` command are out of range. -/
def benchBad (a n : Nat) : Bool := a % 4 != 0 || n == 0 || decide (128 < n) || decide (2 ^ 23 < a + 4 * n)

def benchWriteCmd : Command where
  words := fun w => 3 + w 2
  act := fun r c =>
    let n := bitsAt (r.w 0) 0 6
    let a := bitsAt (r.w 1) 0 23
    if c.loomAbsent n then refuse c .absent
    else if benchBad a (r.w 2) then refuse c .badValue
    else answer ((c.writeBench n a ((List.range (r.w 2)).flatMap (fun i => leBytes 4 (r.w (3 + i))))).occur (2 + n / 32) 0x06 (some (n % 32)) none
      ((4 * r.w 2 + 63) / 64))

def execBenchWrite (k : Nat) (s : State) : Host.Outcome State Fault Refusal :=
  s.run (okMbx k) (Chip.live (Chip.accept 0x0A11 k benchWriteCmd))

def benchReadCmd (read : BenchRead) : Command where
  words := fun _ => 3
  act := fun r c =>
    let n := bitsAt (r.w 0) 0 6
    let a := bitsAt (r.w 1) 0 23
    let len := 4 * r.w 2
    if c.loomAbsent n then refuse c .absent
    else if benchBad a (r.w 2) then refuse c .badValue
    else
      let c := (c.bump (lmCount n 3 0) read.corrected).occur (2 + n / 32) 0x06 (some (n % 32)) none ((len + 63) / 64)
      match read.bad.filter (fun e => decide (a / 8 * 8 ≤ e) && decide (e < a + len)) with
      | some e => refuse (c.benchUe n e) .ecc
      | none => answer c ((List.range (r.w 2)).map (fun i => leNat (c.readBench n (a + 4 * i) 4)))

def execBenchRead (k : Nat) (read : BenchRead) (s : State) : Host.Outcome State Fault Refusal :=
  s.run (okMbx k) (Chip.live (Chip.accept 0x0A12 k (benchReadCmd read)))

/-! ### Recipes: loading (R319, R323) -/

/-- A part with no Loom in service refuses every command of 11_recipes.md (R5). -/
def noRecipes (c : Chip) : Bool := !(capsOf c.fuses.variant).recipes

/-- First base at which `len` instructions fit on Loom `n` (R323). -/
def Chip.firstFit (c : Chip) (n len : Nat) : Option Nat :=
  let taken := c.loom.recipes.flatMap (fun e => (e.2.bases.filter (fun b => b.1 == n)).map (fun b => (b.2, e.2.length)))
  let cand := (0 :: taken.map (fun t => t.1 + t.2)).mergeSort (· ≤ ·)
  cand.find? (fun b => decide (b + len ≤ 8192) && taken.all (fun t => decide (b + len ≤ t.1) || decide (t.1 + t.2 ≤ b)))

def recipeCreateCmd : Command where
  absent := noRecipes
  words := fun _ => 4
  act := fun r c =>
    let handle := bitsAt (r.w 0) 0 16
    let looms := bitsSet 64 (r.long 1)
    let len := bitsAt (r.w 3) 0 13
    let sb := bitsAt (r.w 3) 13 6
    let fits := looms.map (fun n => (n, c.firstFit n len))
    if (c.recipe handle).isSome then refuse c .exists_
    else if 1024 ≤ c.loom.recipes.length ∨ fits.any (fun e => e.2.isNone) then refuse c .noSpace
    else if looms.any (fun n => c.loomAbsent n) then refuse c .absent
    else if handle = 0 ∨ len = 0 ∨ 32 < sb then refuse c .badValue
    else
      let v : Recipe := { length := len, stateBytes := sb, bases := fits.map (fun e => (e.1, e.2.getD 0)) }
      answer { c with loom := { c.loom with recipes := Tab.put handle v c.loom.recipes } }

def execRecipeCreate (k : Nat) (s : State) : Host.Outcome State Fault Refusal :=
  s.run (okMbx k) (Chip.live (Chip.accept 0x0B01 k recipeCreateCmd))

def recipeLoadCmd : Command where
  absent := noRecipes
  words := fun w => 2 + 2 * bitsAt (w 1) 0 6
  act := fun r c =>
    let handle := bitsAt (r.w 0) 0 16
    let first := bitsAt (r.w 0) 16 13
    let n := bitsAt (r.w 1) 0 6
    match c.recipe handle with
    | none => refuse c .notFound
    | some v =>
      if n = 0 ∨ 60 < n ∨ v.length < first + n then refuse c .badIndex
      else if v.isSealed then refuse c .busy
      else
        let code := (List.range n).foldl (fun t i => Tab.set 0 (first + i) (r.long (2 + 2 * i)) t) v.code
        answer { c with loom := { c.loom with recipes := Tab.put handle { v with code := code } c.loom.recipes } }

def execRecipeLoad (k : Nat) (s : State) : Host.Outcome State Fault Refusal :=
  s.run (okMbx k) (Chip.live (Chip.accept 0x0B02 k recipeLoadCmd))

/-- Bits [57:0] that an instruction of a class leaves unnamed, and must be zero (R305 to R308). -/
def zeroBits (w : Nat) : List (Nat × Nat) :=
  match opcodeOf w with
  | 0x01 => [(0, 27)]
  | 0x08 => [(0, 2)]
  | 0x09 => [(0, 20)]
  | 0x0A => [(0, 10)]
  | 0x10 | 0x15 => [(0, 37)]
  | 0x11 => [(32, 10)]
  | 0x12 => [(52, 6), (41, 6), (32, 8)]
  | 0x13 => [(52, 4), (32, 10)]
  | 0x14 => [(47, 9), (32, 5)]
  | 0x16 => [(52, 6), (8, 39)]
  | 0x18 => [(47, 8), (16, 21)]
  | 0x19 => [(16, 42)]
  | 0x20 => [(52, 6), (21, 16), (0, 20)]
  | 0x21 | 0x22 => [(52, 6), (21, 11), (0, 20)]
  | 0x28 => [(52, 6), (21, 11), (0, 19)]
  | 0x29 => [(52, 6), (21, 2), (0, 20)]
  | 0x30 => [(16, 39)]
  | _ => [(0, 58)]

/-- Every opcode and code field is defined (R304 to R308, R319). -/
def codesDefined (w : Nat) : Bool :=
  match opcodeOf w with
  | 0x01 => bitsAt w 28 2 != 3 && decide (bitsAt w 34 4 ≤ 8) && decide (bitsAt w 30 4 ≤ 8)
  | 0x08 => decide (bitsAt w 52 6 ≤ 0xF) && bitsAt w 11 2 != 3 && decide (bitsAt w 8 3 ≤ 5)
  | 0x09 => decide (bitsAt w 54 4 ≤ 8) && decide (bitsAt w 50 4 ≤ 8) && bitsAt w 26 2 != 3
  | 0x0A =>
    decide (bitsAt w 52 6 ≤ 2) && decide (3 ≤ bitsAt w 25 4) && decide (bitsAt w 25 4 ≤ 11) &&
      (bitsAt w 52 6 != 2 ||
        (decide (1 ≤ bitsAt w 21 4) && decide (bitsAt w 21 4 ≤ 8) && decide (1 ≤ bitsAt w 17 4) && decide (bitsAt w 17 4 ≤ bitsAt w 21 4)))
  | 0x10 | 0x11 => decide (bitsAt w 52 6 ≤ 0xC)
  | 0x15 => decide (bitsAt w 52 6 ≤ 7)
  | 0x16 => decide (bitsAt w 0 8 ≤ 6)
  | 0x18 => decide (bitsAt w 55 3 ≤ 5)
  | 0x30 => decide (bitsAt w 55 3 ≤ 3)
  | op => [0x00, 0x12, 0x13, 0x14, 0x19, 0x20, 0x21, 0x22, 0x28, 0x29, 0x3F].contains op

/-- Target of a branch or jump at `i`, as an integer (R308). -/
def targetOf (w i : Nat) : Int := (i : Int) + toSigned (bitsAt w 0 16) 16

/-- Instruction `i` of a recipe of `len` is one that `recipe.seal` accepts (R319). -/
def instrOk (len i w : Nat) : Bool :=
  let op := opcodeOf w
  codesDefined w && (zeroBits w).all (fun z => bitsAt w z.1 z.2 == 0) &&
    (!(op == 0x18 || op == 0x19) || (decide (0 ≤ targetOf w i) && decide (targetOf w i < len))) &&
    (i + 1 != len || op == 0x3F || op == 0x19)

def recipeSealCmd : Command where
  absent := noRecipes
  words := fun _ => 2
  act := fun r c =>
    let handle := bitsAt (r.w 0) 0 16
    match c.recipe handle with
    | none => refuse c .notFound
    | some v =>
      let code := (List.range v.length).map (fun i => Tab.get 0 i v.code)
      let crc := crc32c (code.flatMap (leBytes 8))
      let bad := (List.range v.length).find? (fun i => !instrOk v.length i (code.getD i 0))
      let words := [crc, bad.getD 0xFFFFFFFF]
      if crc ≠ r.w 1 then refuse c .badCheck words
      else if bad.isSome then refuse c .badEntry words
      else answer { c with loom := { c.loom with recipes := Tab.put handle { v with isSealed := true } c.loom.recipes } } words

def execRecipeSeal (k : Nat) (s : State) : Host.Outcome State Fault Refusal :=
  s.run (okMbx k) (Chip.live (Chip.accept 0x0B03 k recipeSealCmd))

/-- A slot, an open Kitty on a Loom of its mask, or a loaded gate names the handle (R326). -/
def Chip.recipeNamed (c : Chip) (handle : Nat) (v : Recipe) : Bool :=
  c.loom.slots.any (fun e => e.2.handle == handle) ||
    c.due.any (fun e => match e.2 with | .slotConfig _ _ _ _ _ x _ => x == handle | _ => false) ||
    c.kit.kitty.any (fun e => e.2.recipe == handle && v.bases.any (fun b => b.1 == e.2.home))

def recipeFreeCmd : Command where
  absent := noRecipes
  words := fun _ => 1
  act := fun r c =>
    let handle := bitsAt (r.w 0) 0 16
    match c.recipe handle with
    | none => refuse c .notFound
    | some v =>
      if c.recipeNamed handle v then refuse c .busy
      else answer { c with loom := { c.loom with recipes := Tab.erase handle c.loom.recipes } }

def execRecipeFree (k : Nat) (s : State) : Host.Outcome State Fault Refusal :=
  s.run (okMbx k) (Chip.live (Chip.accept 0x0B04 k recipeFreeCmd))

/-! ### Slots (R295, R325) -/

/-- A slot as it will be once the accepted `slot.config` commands have taken effect. -/
def Chip.slotAfter (c : Chip) (n k : Nat) : LoomSlot :=
  c.due.foldl (fun s e =>
    match e.2 with
    | .slotConfig key en mode offset length handle gate =>
      if key = 16 * n + k then { s with en := en, mode := mode, offset := offset, length := length, handle := handle, gate := gate } else s
    | _ => s) (c.loomSlot n k)

/-- The range of a slot collides with the others or leaves the budget (R295). -/
def Chip.slotClash (c : Chip) (n k offset length : Nat) : Bool :=
  decide (loomBudget c.tb.period < offset + length) ||
    (List.range 16).any (fun j =>
      let s := c.slotAfter n j
      j != k && s.en && decide (offset < s.offset + s.length) && decide (s.offset < offset + length))

/-- An open Kitty or a loaded gate binds the slot in its mode (11_recipes.md, `slot.config`). -/
def Chip.slotBound (c : Chip) (n k : Nat) : Option Nat :=
  if c.kit.kitty.any (fun e => e.2.recipe != 0 && e.2.home == n && e.2.slot == k) then some 1
  else if c.gate.gate.any (fun e => e.2.bindings.any (fun b => b.1 == n && b.2.1 == k)) then some 2
  else none

def slotConfigCmd : Command where
  absent := noRecipes
  words := fun _ => 4
  act := fun r c =>
    let n := bitsAt (r.w 0) 0 6
    let k := bitsAt (r.w 0) 6 4
    let en := bitAt (r.w 0) 10
    let mode := bitsAt (r.w 0) 11 3
    let offset := bitsAt (r.w 1) 0 15
    let length := bitsAt (r.w 1) 15 15
    let handle := bitsAt (r.w 2) 0 16
    let s := c.slotAfter n k
    if c.loomAbsent n then refuse c .absent
    else if 4 < mode || (en && c.slotClash n k offset length) then refuse c .badValue
    else if 2 ≤ mode ∧ !c.sealedOn handle n then refuse c .notFound
    else if (c.slotBound n k).any (fun m => s.mode == m && (mode != m || (s.en && !en))) then refuse c .busy
    else atBoundary (.slotConfig (16 * n + k) en mode offset length handle (r.w 3)) c

def execSlotConfig (k : Nat) (s : State) : Host.Outcome State Fault Refusal :=
  s.run (okMbx k) (Chip.live (Chip.accept 0x0B11 k slotConfigCmd))

def recipeParamCmd : Command where
  absent := noRecipes
  words := fun w => 1 + 2 * bitsAt (w 0) 13 4
  act := fun r c =>
    let n := bitsAt (r.w 0) 0 6
    let first := bitsAt (r.w 0) 10 3
    let count := bitsAt (r.w 0) 13 4
    if c.loomAbsent n then refuse c .absent
    else if count = 0 ∨ 8 < first + count then refuse c .badValue
    else atBoundary (.recipeParam (16 * n + bitsAt (r.w 0) 6 4) first ((List.range count).map (fun i => r.long (1 + 2 * i)))) c

def execRecipeParam (k : Nat) (s : State) : Host.Outcome State Fault Refusal :=
  s.run (okMbx k) (Chip.live (Chip.accept 0x0B12 k recipeParamCmd))

def recipeRunCmd : Command where
  absent := noRecipes
  words := fun _ => 3
  act := fun r c =>
    let n := bitsAt (r.w 0) 0 6
    let k := bitsAt (r.w 0) 6 4
    let s := c.loomSlot n k
    let d := r.name 1
    if c.loomAbsent n then refuse c .absent
    else if !(s.en && s.mode == 4) then refuse c .badValue
    else if s.runAt.isSome || (c.loomAt n).yielded.any (fun e => e.1 == k) || (c.loomAt n).run.any (fun x => x.slot == k) then refuse c .busy
    else if c.tooLate d then refuse c .late
    else answer (c.setLoomSlot n k { s with runAt := some d })

def execRecipeRun (k : Nat) (s : State) : Host.Outcome State Fault Refusal :=
  s.run (okMbx k) (Chip.live (Chip.accept 0x0B13 k recipeRunCmd))

def sampleConfigCmd : Command where
  absent := noRecipes
  words := fun _ => 2
  act := fun r c =>
    let n := bitsAt (r.w 0) 0 6
    let all := bitAt (r.w 0) 6
    let period := bitsAt (r.w 1) 0 20
    let one (c : Chip) (n : Nat) : Chip := c.setLoom n { c.loomAt n with sampleEn := bitAt (r.w 0) 7, samplePeriod := period }
    if !all && c.loomAbsent n then refuse c .absent
    else if period < 64 then refuse c .badValue
    else answer (if all then ((List.range 64).filter (fun n => c.loomServes n)).foldl one c else one c n)

def execSampleConfig (k : Nat) (s : State) : Host.Outcome State Fault Refusal :=
  s.run (okMbx k) (Chip.live (Chip.accept 0x0B21 k sampleConfigCmd))

/-! ### Sampling (R327, R328) -/

/-- A read sample is freed: `n` of the oldest (LM_SAMPLE_ACK). -/
def Chip.sampleAck (n count : Nat) (c : Chip) : Chip :=
  let x := c.loomAt n
  let k := min count x.ring.length
  if !c.loomServes n then c else c.setLoom n { x with ring := x.ring.drop k, head := (x.head + k) % 64 }

def execSampleAck (loom n : Nat) (s : State) : Host.Outcome State Fault Refusal :=
  s.run (okLoom loom && decide (n < 128)) (Chip.fabric (Chip.sampleAck loom n))

end Sys2Proof.Machine
end

