-- ==== Sys2Proof/Machine/Recipes.lean ====
section
/-! DEFINITION. The recipe instructions: waits, issue, completion, fills, emits and samples (R303 to R318,
R327, R328). -/

namespace Sys2Proof.Machine

open Sys2Proof

/-! ### What holds an instruction back (R273, R277, R309, R311, R314, R318) -/

/-- Row of an instruction word: opcode, and the function of a reduction or the mode of a sync. -/
def rowOf (w : Nat) : Nat × Nat :=
  (opcodeOf w, if opcodeOf w = 0x0A then bitsAt w 52 6 else if opcodeOf w = 0x30 then bitsAt w 55 3 else 0)

/-- Array, vector-unit and copy instructions, and those of the separate limit (R311). -/
def inFlightClass (op : Nat) : Bool := [0x01, 0x08, 0x09, 0x0A, 0x20].contains op
def transferClass (op : Nat) : Bool := [0x21, 0x22, 0x28, 0x29].contains op

/-- Reads of an array instruction apart from its prior output. -/
def Mm.ownReads (x : Mm) : Ranges :=
  if x.mode = 2 then ({ x with mode := 0 } : Mm).access.reads else x.access.reads

/-- An ACCUM chain: both work on the same C range (R273). -/
def sameChain (older newer : Nat × List Nat) : Bool :=
  opcodeOf older.1 == 1 && opcodeOf newer.1 == 1 &&
    (let x := mmOf older.1 older.2
     let y := mmOf newer.1 newer.2
     y.mode == 2 && x.c == y.c && x.cStride == y.cStride && x.m == y.m && x.n == y.n)

/-- A newer instruction must wait for an older one in flight (R273, R311). -/
def mustWait (older newer : Nat × List Nat) : Bool :=
  let o := accessOf older.1 older.2
  let n := accessOf newer.1 newer.2
  if sameChain older newer then
    Ranges.meet (mmOf newer.1 newer.2).ownReads o.writes || Ranges.meet n.writes (mmOf older.1 older.2).ownReads
  else Ranges.meet n.reads o.writes || Ranges.meet n.writes o.reads || Ranges.meet n.writes o.writes

/-- Sieve instructions of a Loom at or in the Sieve. -/
def Chip.sieveOps (c : Chip) (n : Nat) : List InFlight :=
  (c.sv.queue ++ c.sv.busy.toList).filterMap (fun o => if o.loom = n then some o.op else none)

/-- Fetches of a run still landing. -/
def Loom.fetches (x : Loom) (rid : Nat) : List Fill := x.fills.filter (fun f => f.prefetch.isNone && f.run == rid)

/-- Fetches of recipes, not the Larder's prefetches. -/
def Loom.ownFills (x : Loom) : List Fill := x.fills.filter (fun f => f.prefetch.isNone && f.run != 0)

/-- A read touches a granule that a fill has still to write (R277). -/
def Loom.pendingRead (x : Loom) (reads : Ranges) : Bool :=
  reads.any (fun r => (benchGranules r.1 r.2).any (fun g => x.fills.any (fun f => f.granules.contains g)))

/-- Bytes in the emit buffer (R315). -/
def Loom.emitBytes (x : Loom) : Nat := x.emits.foldl (fun a e => a + e.1.length) 0

/-- Why the instruction at PC cannot issue now: 0 it can; 1 a range, 3 a fill, 5 the in-flight limit, which is over when the oldest
has completed (R273, R311), 6 a sync (R328). -/
def Chip.blockOf (c : Chip) (n : Nat) (r : Run) (w : Nat) : Nat :=
  let x := c.loomAt n
  let op := opcodeOf w
  let acc := accessOf w r.regs
  let fetches := x.fetches r.id
  let ops := c.sieveOps n
  let mine := ops.filter (fun o => o.run == r.id)
  if op = 0x30 then
    match bitsAt w 55 3 with
    | 0 => if (r.held.map (·.deal)).getD c.deal = c.deal ∧ (c.loomCycle : Int) < toSigned (bitsAt w 0 16) 16 then 6 else 0
    | 1 => if fetches.isEmpty && mine.isEmpty then 0 else 6
    | 2 => if x.flight.isEmpty then 0 else 6
    | _ => 0
  else if op = 0x3F then (if fetches.isEmpty && mine.isEmpty && x.flight.isEmpty then 0 else 6)
  else if inFlightClass op && x.flight.any (fun f => decide (f.seq + 8 ≤ x.nextFlight)) then 5
  else if transferClass op && (x.ownFills.map (·.seq) ++ ops.map (·.seq)).any (fun q => decide (q + 16 ≤ x.nextXfer)) then 5
  else if x.pendingRead acc.reads || Ranges.meet acc.reads (fetches.map (fun f => (f.bench, f.length))) then 3
  else if Ranges.meet acc.writes (fetches.map (fun f => (f.bench, f.length))) ||
      (x.flight ++ ops).any (fun f => mustWait (f.word, f.regs) (w, r.regs)) then 1
  else if op = 0x28 ∧ 65536 < x.emitBytes + regAt w r.regs 37 then 1
  else 0

/-! ### Faults of an instruction (R303, R314 to R316, R320) -/

/-- The Sieve is fitted and not retired (R1, R368). -/
def Chip.sieveHere (c : Chip) : Bool := (capsOf c.fuses.variant).sieve && c.sv.state != .retired

/-- A bank serves instructions (R363). -/
def Chip.bankServes (c : Chip) (b : Nat) : Bool :=
  c.sieveHere && ((Tab.get {} b c.sv.bank).state == .ready || (Tab.get {} b c.sv.bank).state == .degraded)

/-- A 64-bit word of a header template, most significant byte first (R116, R315). -/
def BenchView.header (b : BenchView) (a i : Nat) : Nat := beNat (Memory.readBytes (b.base + a + 8 * i) 8 b.mem)

/-- The fault of an instruction at issue, 0 for none. A Loom reaches the regions of its own half alone (R54). -/
def Chip.faultOf (c : Chip) (n : Nat) (r : Run) (w : Nat) : Nat :=
  match opcodeOf w with
  | 0x01 => (mmOf w r.regs).fault
  | 0x08 => vecFault w r.regs
  | 0x09 => cvtFault w r.regs
  | 0x0A => redFault w r.regs
  | 0x13 | 0x14 => scalarFault w r.regs
  | 0x20 => copyFault w r.regs
  | 0x21 | 0x22 =>
    let m := moveOf w r.regs
    if m.badAddr then 4 else if bitsAt m.region 31 1 == n / 32 && c.rangeOk m.region m.offset m.length then 0 else 0xC
  | 0x28 =>
    let t := regAt w r.regs 47
    let len := regAt w r.regs 37
    if 16384 < len then 0xA
    else if !plainOk t 32 1 || !plainOk (regAt w r.regs 42) len 1 then 4
    else if bitsAt ((c.benchOf n).header t 0) 13 3 ≤ 1 then 0xA
    else 0
  | 0x29 => if !c.bankServes (bitsAt w 33 2) then 0xB else sieveFault w r.regs
  | 0x30 => if bitsAt w 55 3 = 3 ∧ r.forWhom ≠ .self then 9 else 0
  | _ => 0

/-! ### Scalar instructions (R308) -/

/-- Result of a scalar function; a register shift of 64 or more, which the spec does not give, is `own`. -/
def scalarFn (fn own a b : Nat) : Nat :=
  let sa := toSigned a 64
  let sb := toSigned b 64
  match fn with
  | 0x00 => a + b
  | 0x01 => a + (2 ^ 64 - b % 2 ^ 64)
  | 0x02 => a &&& b
  | 0x03 => a ||| b
  | 0x04 => a ^^^ b
  | 0x05 => if b < 64 then a * 2 ^ b else own
  | 0x06 => if b < 64 then a / 2 ^ b else own
  | 0x07 => if b < 64 then ofSigned (sa / (2 ^ b : Int)) 64 else own
  | 0x08 => a * b
  | 0x09 => if sb < sa then b else a
  | 0x0A => if sa < sb then b else a
  | 0x0B => b2n (decide (sa < sb))
  | _ => b2n (decide (a < b))

/-- Result of a scalar FP32 function (R308, R309). -/
def scalarFp (fn a b : Nat) : Nat :=
  let x := ofF32 a
  let y := ofF32 b
  match fn with
  | 0 => toF32 (x.add y)
  | 1 => toF32 (x.sub y)
  | 2 => toF32 (x.mul y)
  | 3 => approxFn 0x0B (a % 2 ^ 32)
  | 4 => toF32 x.sqrt
  | 5 => approxFn 0x0D (a % 2 ^ 32)
  | 6 => approxFn 0x0E (a % 2 ^ 32)
  | _ => toF32 (ofInt (toSigned a 64))

/-- The branch of CND is taken (R308). -/
def branchTaken (cnd a b : Nat) : Bool :=
  match cnd with
  | 0 => a == b
  | 1 => a != b
  | 2 => decide (toSigned a 64 < toSigned b 64)
  | 3 => decide (toSigned b 64 ≤ toSigned a 64)
  | 4 => decide (a < b)
  | _ => decide (b ≤ a)

/-- The value that mfs reads (R308). -/
def Chip.special (c : Chip) (n : Nat) (r : Run) (sel : Nat) : Nat :=
  match sel with
  | 0 => c.deal
  | 1 => c.loomCycle
  | 2 => r.slot
  | 3 => n
  | 4 => r.s2
  | 5 => c.ctrImage (loomWindow n + 8)
  | _ => (c.loomAt n).flight.length

/-- The run in progress takes its state after an instruction. -/
def Chip.setRun (n : Nat) (r : Run) (c : Chip) : Chip := c.setLoom n { c.loomAt n with run := some r }

/-- Past the instruction at PC, with the register at D written. -/
def Run.result (w v : Nat) (r : Run) : Run := { r with pc := r.pc + 1, held := none, regs := setReg (bitsAt w 47 5) v r.regs }

/-- A scalar instruction or move from special. -/
def Chip.issueScalar (n : Nat) (r : Run) (w : Nat) (c : Chip) : Chip :=
  let fn := bitsAt w 52 6
  let a := regAt w r.regs 42
  let b := regAt w r.regs 37
  match opcodeOf w with
  | 0x10 =>
    let far := (Config.farShift fn (BitVec.ofNat 64 a) (BitVec.ofNat 64 b)).toNat
    c.setRun n (r.result w (scalarFn fn far a b))
  | 0x11 =>
    let imm := ofSigned (toSigned (bitsAt w 0 32) 32) 64
    let imm := if 5 ≤ fn ∧ fn ≤ 7 then imm % 64 else imm
    c.setRun n (r.result w (scalarFn fn 0 a imm))
  | 0x12 =>
    let old := regAt w r.regs 47
    c.setRun n (r.result w (if bitAt w 40 then bitsAt w 0 32 * 2 ^ 32 + old % 2 ^ 32 else bitsAt w 0 32))
  | 0x15 =>
    let v := scalarFp fn a b
    (c.setRun n (r.result w v)).loomFlags n r.id (flagsOf v)
  | _ => c.setRun n (r.result w (c.special n r (bitsAt w 0 8)))

/-! ### Emits (R315) -/

/-- The counts of packets refused at admission, and of those for the Span (R163, R177). -/
def Chip.tailDrops (c : Chip) : List Nat :=
  ((c.ports.port.map Prod.fst).map (fun p => c.count (qdrop p 0))) ++ [c.count (bufDrop 0 0), c.count (bufDrop 1 0)]

/-- A packet of the emit buffer leaves; one refused at admission counts in EMIT_DROPS. -/
def Chip.sendEmit (n : Nat) (e : Packet × Option Nat) (c : Chip) : Chip :=
  let h := n / 32
  match c.currentEpoch h with
  | none => c.bump (routeStat h 16) 1
  | some ep =>
    let p := { e.1 with epoch := ep }
    let (tag, c) := c.newTag
    let x : QPacket := { tag := tag, pkt := p, cells := p.cells, arrived := p.cells, stamp := e.2 }
    match c.route h p with
    | (c, none) => c
    | (c, some b) =>
      let c' := c.follow h b none false x
      let held := c'.xbar.queues.any (fun q => (q.2.pkts ++ q.2.spilled).any (fun y => y.tag == tag))
      let action := bitsAt b 60 4
      let goes := [1, 2, 4].contains action || (action == 3 && namesOther h p)
      let lost := goes && (!held || (action == 4 && c'.tailDrops != c.tailDrops)) && c'.count (routeStat h 48) == c.count (routeStat h 48)
      if lost then c'.bump (lmEmit n 32) 1 else c'

/-- Emitted packets of a half leave, in issue order, while no Kitty return waits (R315). -/
def Chip.drainEmits (h : Nat) (c : Chip) : Chip :=
  if c.returnWaiting h then c
  else
    ((c.loom.loom.filter (fun e => e.1 / 32 == h)).map Prod.fst).foldl (fun c n =>
      let l := (c.loomAt n).emits
      l.foldl (fun c e => c.sendEmit n e) (if l.isEmpty then c else c.setLoom n { c.loomAt n with emits := [] })) c

/-- emit copies its packet into the buffer. -/
def Chip.issueEmit (n : Nat) (r : Run) (w : Nat) (c : Chip) : Chip :=
  let b := c.benchOf n
  let t := regAt w r.regs 47
  let payload := c.readBench n (regAt w r.regs 42) (regAt w r.regs 37)
  let w0 := b.header t 0
  let w2 := b.header t 2
  let p := mkPacket (bitsAt w0 16 48) (bitsAt w0 13 3) 0 (if bitAt w 19 then c.nest.pair else c.nest.self) (bitsAt w2 32 32) (bitsAt w2 0 32) false payload
  let stamp := if bitAt w 20 then some (regAt w r.regs 32 % 65536) else none
  let x := c.loomAt n
  let c := c.setLoom n { x with emits := x.emits ++ [(p, stamp)], nextXfer := x.nextXfer + 1, run := some { r with pc := r.pc + 1, held := none } }
  ((c.bump (lmEmit n 0) 1).occur (2 + n / 32) 0x06 (some (n % 32)) none ((payload.length + 63) / 64)).drainEmits (n / 32)

/-! ### Issue (R309 to R318) -/

/-- Loom cycles that an instruction occupies the vector unit (R280, R310). -/
def occupancy (w : Nat) (regs : List Nat) : Nat :=
  match opcodeOf w with
  | 0x08 => ceilDiv (vecCount w regs) (if 0xA ≤ bitsAt w 52 6 ∧ bitsAt w 52 6 ≤ 0xE then 512 else 2048)
  | 0x09 => ceilDiv (cvtCount w regs) 2048
  | 0x0A => ceilDiv (redCount w regs) (if bitsAt w 52 6 = 2 then 1024 else 2048)
  | _ => 0

/-- Array instructions in flight, the oldest first. -/
def Loom.arrays (x : Loom) : List Mm := (x.flight.filter (fun f => opcodeOf f.word == 1)).map (fun f => mmOf f.word f.regs)

/-- Stationary load stall of an array instruction as it issues (R271, R272); one with K = 0 loads nothing and waits for
nothing (R289). -/
def Chip.stationaryStall (c : Chip) (n : Nat) (x : Mm) : Nat :=
  let l := c.loomAt n
  if x.k == 0 then 0
  else
    match l.arrays.getLast? with
    | some f => if x.keep then 0 else 128 - f.rows
    | none => if 64 ≤ loomCycles (c.tb.lt - l.arraysIdle) then 16 * (n % 4) else 0

/-- The stationary buffer that an array instruction just issued loads: the active one with the arrays idle, the shadow one
behind the instruction that streams; a later one's load waits for the shadow buffer (R271). -/
def Chip.loadBuffer (n : Nat) (m : Mm) (c : Chip) : Chip :=
  let x := c.loomAt n
  let t := m.loadTile (c.benchOf n)
  if !m.loads then c
  else
    match x.arrays.length with
    | 1 => c.setLoom n { x with tile := t.1, tileScales := t.2 }
    | 2 => c.setLoom n { x with shadow := t }
    | _ => c

/-- An array instruction has left the arrays: the next one's tile becomes the active one, and the load of the one after it
begins (R271). -/
def Chip.nextBuffer (n : Nat) (c : Chip) : Chip :=
  let x := c.loomAt n
  let c : Chip := if (x.arrays.head?).any Mm.loads then c.setLoom n { x with tile := x.shadow.1, tileScales := x.shadow.2 } else c
  match x.arrays with
  | _ :: m :: _ => if m.loads then c.setLoom n { c.loomAt n with shadow := m.loadTile (c.benchOf n) } else c
  | _ => c

/-- Bank waits of a vector instruction that issues while the arrays stream: a further loom cycle for each operand, and each
result, of 8 KiB or a part of it (R275). -/
def Loom.bankWaits (x : Loom) (w : Nat) (regs : List Nat) : Nat :=
  let a := accessOf w regs
  if x.arrays.isEmpty || !([0x08, 0x09, 0x0A].contains (opcodeOf w)) then 0
  else (a.reads ++ a.writes).foldl (fun s r => s + ceilDiv r.2 8192) 0

/-- Count loom cycles in a counter and its programmable source. -/
def Chip.loomTime (n : Nat) (f : CtrField) (src cycles : Nat) (c : Chip) : Chip :=
  if cycles = 0 then c else (c.bump f cycles).occur (2 + n / 32) src (some (n % 32)) none cycles

/-- An array, vector-unit or copy instruction issues. -/
def Chip.issueFlight (n : Nat) (r : Run) (w : Nat) (c : Chip) : Chip :=
  let mm := mmOf w r.regs
  let isMm := opcodeOf w == 1
  let r' := { r with pc := r.pc + 1, held := none, regs := advanced w r.regs }
  if isMm && mm.empty then c.setRun n r'
  else
    let stall := if isMm then c.stationaryStall n mm else 0
    let x := c.loomAt n
    let f : InFlight := { run := r.id, pc := r.pc, word := w, regs := r.regs, issued := loomClock c.tb.lt, seq := x.nextFlight }
    let c := c.setLoom n { x with flight := x.flight ++ [f], nextFlight := x.nextFlight + 1, run := some r' }
    let c := c.loomTime n (lmCount n 0 32) 0x02 (occupancy w r.regs)
    let c := c.loomTime n (lmCount n 2 0) 0x05 (x.bankWaits w r.regs)
    let c : Chip := if isMm then c.loadBuffer n mm else c
    if isMm then (c.loomTime n (lmCount n 1 0) 0x03 stall).loomTime n (lmCount n 0 0) 0x01 mm.rows else c

/-- A fetch issues: its granules are pending until they land (R277, R314). -/
def Chip.issueFetch (n : Nat) (r : Run) (w : Nat) (c : Chip) : Chip :=
  let m := moveOf w r.regs
  let x := c.loomAt n
  let f : Fill := { run := r.id, pc := r.pc, bench := m.bench, length := m.length, region := m.region, offset := m.offset
                    granules := benchGranules m.bench m.length, deal := c.deal, seq := x.nextXfer }
  let r' := { r with pc := r.pc + 1, held := none, regs := advanced w r.regs }
  (c.setLoom n { x with run := some r', nextXfer := x.nextXfer + 1, fills := if m.length = 0 then x.fills else x.fills ++ [f] }).chargeRecipe (bitsAt m.region 31 1) m.length

/-- A store reads its Bench range and writes the region (R314). -/
def Chip.issueStore (n : Nat) (r : Run) (w : Nat) (c : Chip) : Chip :=
  let m := moveOf w r.regs
  let bytes := c.readBench n m.bench m.length
  let x := c.loomAt n
  let c := c.setLoom n { x with nextXfer := x.nextXfer + 1, run := some { r with pc := r.pc + 1, held := none, regs := advanced w r.regs } }
  let c := (c.occur (2 + n / 32) 0x06 (some (n % 32)) none (granules m.length)).occur (2 + n / 32) 0x09 none none (granules m.length)
  if m.length = 0 then c else (c.writeRegion m.region m.offset bytes).chargeRecipe (bitsAt m.region 31 1) m.length

/-- sync YIELD ends the run's work for the Deal (R300); a run whose slot was reconfigured is discarded (R326). -/
def Chip.issueYield (n : Nat) (r : Run) (c : Chip) : Chip :=
  let r' := { r with pc := r.pc + 1, held := none, yieldAt := c.tb.boundaries }
  let x := (c.loomAt n).keep r' .yielded 0 r'.pc (c.runCycles r)
  let c := c.setLoom n { x with yielded := Tab.put r.slot r' x.yielded }
  (if r.stale then c.discardYielded n r.slot else c).startNext n 16

/-- LP_SV_CNT0.TRIM_WAITS (R365). -/
def svTrimWaits : CtrField := ⟨0x3500030, 32, 31, 63⟩

/-- A trim window is open: 256 core cycles from its start (R365). -/
def Chip.trimOpen (c : Chip) : Bool := c.sv.trimming.isSome && decide (c.tb.lt < c.sv.trimFrom + 256)

/-- An instruction reaches the Sieve: of those that reach it in one loom cycle the lower package Loom goes first (R371). -/
def sieveJoin (o : SieveOp) : List SieveOp → List SieveOp
  | [] => [o]
  | q :: t => if q.arrived = o.arrived ∧ o.loom < q.loom then o :: q :: t else q :: sieveJoin o t

/-- An instruction that neither faults nor waits issues. -/
def Chip.issueNow (n : Nat) (r : Run) (w : Nat) (c : Chip) : Chip :=
  let next := { r with pc := r.pc + 1, held := none }
  match opcodeOf w with
  | 0x01 | 0x08 | 0x09 | 0x0A | 0x20 => c.issueFlight n r w
  | 0x10 | 0x11 | 0x12 | 0x15 | 0x16 => c.issueScalar n r w
  | 0x13 => c.setRun n (r.result w ((c.benchOf n).word (scalarAddr w r.regs) (scalarBytes w)))
  | 0x14 => (c.setRun n next).writeBench n (scalarAddr w r.regs) (leBytes (scalarBytes w) (regAt w r.regs 37))
  | 0x18 =>
    c.setRun n (if branchTaken (bitsAt w 55 3) (regAt w r.regs 42) (regAt w r.regs 37) then { next with pc := (targetOf w r.pc).toNat } else next)
  | 0x19 => c.setRun n { next with pc := (targetOf w r.pc).toNat }
  | 0x21 => c.issueFetch n r w
  | 0x22 => c.issueStore n r w
  | 0x28 => c.issueEmit n r w
  | 0x29 =>
    let x := c.loomAt n
    let op : SieveOp := { loom := n, arrived := loomCycles c.tb.lt, op := { run := r.id, pc := r.pc, word := w, regs := r.regs, seq := x.nextXfer } }
    let c := c.setLoom n { x with nextXfer := x.nextXfer + 1 }
    let c : Chip := if c.trimOpen then c.bump svTrimWaits 1 else c
    ({ c with sv := { c.sv with queue := sieveJoin op c.sv.queue } }).setRun n { next with regs := advanced w r.regs }
  | 0x30 => if bitsAt w 55 3 = 3 then c.issueYield n r else c.setRun n next
  | 0x3F => c.endRun n 0 r.pc
  | _ => c.setRun n next

/-- Instructions that read the Bench as they issue: ld, lstore and emit. -/
def readsAtIssue (op : Nat) : Bool := op == 0x13 || op == 0x22 || op == 0x28

/-- An instruction that neither faults nor waits issues, and a store meets what its access to HBM does (R314, R382). DESIGN CHOICE: one
that meets an uncorrectable error writes nothing. -/
def Chip.issueChecked (n : Nat) (r : Run) (w : Nat) (check : HbmCheck) (c : Chip) : Chip :=
  let m := moveOf w r.regs
  let h := bitsAt m.region 31 1
  let pages := (c.region (handleKey m.region)).touched m.offset m.length
  if opcodeOf w != 0x22 || pages.isEmpty then c.issueNow n r w
  else if hbmOk check then (c.hbmCe h pages check).issueNow n r w
  else (c.eccUe h (hbmPage pages check)).endRun n 0xC r.pc

/-- The instruction at PC issues; the single-bit errors that its reads correct are counted, and an uncorrectable Bench word faults
it (R278). -/
def Chip.issueRead (n : Nat) (r : Run) (w : Nat) (read : BenchRead) (c : Chip) : Chip :=
  let hit (a : Nat) : Bool := Ranges.meet [(a / 8 * 8, 8)] (accessOf w r.regs).reads
  let c := if readsAtIssue (opcodeOf w) then c.bump (lmCount n 3 0) read.corrected else c
  match read.bad.filter (fun a => readsAtIssue (opcodeOf w) && hit a) with
  | some a => (c.benchUe n a).endRun n 5 r.pc
  | none => c.issueChecked n r w read.hbm

/-- A fault that rests on a header template in the Bench, which counts only once the emit need not wait (R315, R321). -/
def templateFault (fault w : Nat) (regs : List Nat) : Bool :=
  opcodeOf w == 0x28 && fault == 0xA && decide (regAt w regs 37 ≤ 16384)

/-- The instruction at PC faults, waits or issues. -/
def Chip.tryIssue (n : Nat) (r : Run) (w : Nat) (read : BenchRead) (c : Chip) : Chip :=
  let fault := c.faultOf n r w
  let why := c.blockOf n r w
  if fault ≠ 0 ∧ (why = 0 ∨ !templateFault fault w r.regs) then c.endRun n fault r.pc
  else if why ≠ 0 then
    let late := why == 3 && (c.loomAt n).lateFill c.deal (accessOf w r.regs).reads
    let c := c.setRun n { r with held := some { lt := c.tb.lt, deal := c.deal, fill := why == 3 } }
    if late then c.prefetchLate n else c
  else c.issueRead n r w read

/-- A Loom issues the instruction at its PC, which is one of row `row`; `imem` is false where the instruction
memory gives an uncorrectable error (R323). -/
def Chip.issueRow (n : Nat) (row : Nat × Nat) (imem : Bool) (read : BenchRead) (c : Chip) : Chip :=
  match (c.loomAt n).run with
  | none => c
  | some r =>
    let w := c.instrAt r.handle r.pc
    if !c.loomServes n || r.held.isSome || rowOf w != row then c
    else if !imem then c.endRun n 1 r.pc
    else c.tryIssue n r w read

/-- A held instruction's wait ends and it issues (R309, R311). -/
def Chip.waitEnd (n : Nat) (read : BenchRead) (c : Chip) : Chip :=
  match (c.loomAt n).run with
  | none => c
  | some r =>
    match r.held with
    | none => c
    | some hold =>
      let w := c.instrAt r.handle r.pc
      if !c.loomServes n || c.blockOf n r w != 0 then c
      else
        let c := if hold.fill then c.loomTime n (lmCount n 1 32) 0x04 (loomCycles (c.tb.lt - hold.lt)) else c
        c.tryIssue n r w read

def execNop (loom : Nat) (imem : Bool) (s : State) : Host.Outcome State Fault Refusal :=
  s.run (okLoom loom) (Chip.fabric (Chip.issueRow loom (0x00, 0) imem {}))

def execMm (loom : Nat) (imem : Bool) (s : State) : Host.Outcome State Fault Refusal :=
  s.run (okLoom loom) (Chip.fabric (Chip.issueRow loom (0x01, 0) imem {}))

def execVectorOp (loom : Nat) (imem : Bool) (s : State) : Host.Outcome State Fault Refusal :=
  s.run (okLoom loom) (Chip.fabric (Chip.issueRow loom (0x08, 0) imem {}))

def execVcvt (loom : Nat) (imem : Bool) (s : State) : Host.Outcome State Fault Refusal :=
  s.run (okLoom loom) (Chip.fabric (Chip.issueRow loom (0x09, 0) imem {}))

def execVredSum (loom : Nat) (imem : Bool) (s : State) : Host.Outcome State Fault Refusal :=
  s.run (okLoom loom) (Chip.fabric (Chip.issueRow loom (0x0A, 0) imem {}))

def execVredMax (loom : Nat) (imem : Bool) (s : State) : Host.Outcome State Fault Refusal :=
  s.run (okLoom loom) (Chip.fabric (Chip.issueRow loom (0x0A, 1) imem {}))

def execVredTopk (loom : Nat) (imem : Bool) (s : State) : Host.Outcome State Fault Refusal :=
  s.run (okLoom loom) (Chip.fabric (Chip.issueRow loom (0x0A, 2) imem {}))

def execScalarReg (loom : Nat) (imem : Bool) (s : State) : Host.Outcome State Fault Refusal :=
  s.run (okLoom loom) (Chip.fabric (Chip.issueRow loom (0x10, 0) imem {}))

def execScalarImm (loom : Nat) (imem : Bool) (s : State) : Host.Outcome State Fault Refusal :=
  s.run (okLoom loom) (Chip.fabric (Chip.issueRow loom (0x11, 0) imem {}))

def execLoadImmediate (loom : Nat) (imem : Bool) (s : State) : Host.Outcome State Fault Refusal :=
  s.run (okLoom loom) (Chip.fabric (Chip.issueRow loom (0x12, 0) imem {}))

def execLd (loom : Nat) (imem : Bool) (read : BenchRead) (s : State) : Host.Outcome State Fault Refusal :=
  s.run (okLoom loom) (Chip.fabric (Chip.issueRow loom (0x13, 0) imem read))

def execSt (loom : Nat) (imem : Bool) (s : State) : Host.Outcome State Fault Refusal :=
  s.run (okLoom loom) (Chip.fabric (Chip.issueRow loom (0x14, 0) imem {}))

def execScalarFp (loom : Nat) (imem : Bool) (s : State) : Host.Outcome State Fault Refusal :=
  s.run (okLoom loom) (Chip.fabric (Chip.issueRow loom (0x15, 0) imem {}))

def execMfs (loom : Nat) (imem : Bool) (s : State) : Host.Outcome State Fault Refusal :=
  s.run (okLoom loom) (Chip.fabric (Chip.issueRow loom (0x16, 0) imem {}))

def execBranch (loom : Nat) (imem : Bool) (s : State) : Host.Outcome State Fault Refusal :=
  s.run (okLoom loom) (Chip.fabric (Chip.issueRow loom (0x18, 0) imem {}))

def execJmp (loom : Nat) (imem : Bool) (s : State) : Host.Outcome State Fault Refusal :=
  s.run (okLoom loom) (Chip.fabric (Chip.issueRow loom (0x19, 0) imem {}))

def execCopy (loom : Nat) (imem : Bool) (s : State) : Host.Outcome State Fault Refusal :=
  s.run (okLoom loom) (Chip.fabric (Chip.issueRow loom (0x20, 0) imem {}))

def execLfetch (loom : Nat) (imem : Bool) (s : State) : Host.Outcome State Fault Refusal :=
  s.run (okLoom loom) (Chip.fabric (Chip.issueRow loom (0x21, 0) imem {}))

def execLstore (loom : Nat) (imem : Bool) (read : BenchRead) (s : State) : Host.Outcome State Fault Refusal :=
  s.run (okLoom loom) (Chip.fabric (Chip.issueRow loom (0x22, 0) imem read))

def execEmit (loom : Nat) (imem : Bool) (read : BenchRead) (s : State) : Host.Outcome State Fault Refusal :=
  s.run (okLoom loom) (Chip.fabric (Chip.issueRow loom (0x28, 0) imem read))

def execSieveOp (loom : Nat) (imem : Bool) (s : State) : Host.Outcome State Fault Refusal :=
  s.run (okLoom loom) (Chip.fabric (Chip.issueRow loom (0x29, 0) imem {}))

def execSyncCycle (loom : Nat) (imem : Bool) (s : State) : Host.Outcome State Fault Refusal :=
  s.run (okLoom loom) (Chip.fabric (Chip.issueRow loom (0x30, 0) imem {}))

def execSyncFills (loom : Nat) (imem : Bool) (s : State) : Host.Outcome State Fault Refusal :=
  s.run (okLoom loom) (Chip.fabric (Chip.issueRow loom (0x30, 1) imem {}))

def execSyncDrain (loom : Nat) (imem : Bool) (s : State) : Host.Outcome State Fault Refusal :=
  s.run (okLoom loom) (Chip.fabric (Chip.issueRow loom (0x30, 2) imem {}))

def execSyncYield (loom : Nat) (imem : Bool) (s : State) : Host.Outcome State Fault Refusal :=
  s.run (okLoom loom) (Chip.fabric (Chip.issueRow loom (0x30, 3) imem {}))

def execEndRun (loom : Nat) (imem : Bool) (s : State) : Host.Outcome State Fault Refusal :=
  s.run (okLoom loom) (Chip.fabric (Chip.issueRow loom (0x3F, 0) imem {}))

def execInstructionWaitEnd (loom : Nat) (read : BenchRead) (s : State) : Host.Outcome State Fault Refusal :=
  s.run (okLoom loom) (Chip.fabric (Chip.waitEnd loom read))

/-! ### Completion (R270, R273, R283, R289 to R291) -/

/-- Draw `j` of a Loom's stochastic rounding generator from its next one (R284). -/
def Chip.loomDraw (c : Chip) (n j : Nat) : Nat :=
  let x := c.loomAt n
  match x.seed with
  | some s => (Config.seededDraw s (x.draws + j)).toNat
  | none => (Config.freeWord (c.free + j)).toNat % 2 ^ 24

/-- Draws that an instruction makes: one a lane with stochastic rounding. -/
def lanesDrawn (w : Nat) (regs : List Nat) : Nat :=
  match opcodeOf w with
  | 0x08 => if bitAt w 13 ∧ bitsAt w 11 2 = 2 then vecCount w regs else 0
  | 0x09 => if bitsAt w 26 2 = 2 then cvtCount w regs else 0
  | _ => 0

/-- What an instruction in flight writes (R280 to R289). -/
def Chip.evaluate (c : Chip) (n : Nat) (f : InFlight) : Written :=
  let b := c.benchOf n
  match opcodeOf f.word with
  | 0x01 =>
    let x := mmOf f.word f.regs
    let l := c.loomAt n
    x.eval l.tile l.tileScales b
  | 0x08 => vecEval f.word f.regs (c.loomDraw n) b
  | 0x09 => cvtEval f.word f.regs (c.loomDraw n) b
  | 0x0A => redEval f.word f.regs b
  | _ => copyEval f.word f.regs b

/-- The instruction leaves the in-flight list; the arrays go on to the next array instruction, or go idle with the last. -/
def Chip.leaveFlight (n i : Nat) (f : InFlight) (c : Chip) : Chip :=
  let x := c.loomAt n
  let rest := x.flight.eraseIdx i
  let idle := opcodeOf f.word == 1 && !rest.any (fun g => opcodeOf g.word == 1)
  let c := c.setLoom n { x with flight := rest, arraysIdle := if idle then c.tb.lt else x.arraysIdle }
  if opcodeOf f.word = 1 then c.nextBuffer n else c

/-- An older instruction in flight must complete before this one; array instructions complete in the order in which their
rows entered the arrays (R267, R273). -/
def Loom.blockedBy (x : Loom) (i : Nat) (f : InFlight) : Bool :=
  (x.flight.take i).any (fun g => mustWait (g.word, g.regs) (f.word, f.regs) || (opcodeOf g.word == 1 && opcodeOf f.word == 1))

/-- The Loom computes an array instruction a second time: its rows stream again (R291). -/
def Chip.recompute (n : Nat) (f : InFlight) (c : Chip) : Chip :=
  ((c.bump (lmCount15 n 2 32) 1).occur (2 + n / 32) 0x08 (some (n % 32)) none 1).loomTime n (lmCount n 0 0) 0x01 (mmOf f.word f.regs).rows

/-- The instruction held back now waits for something else than before: a fill wait begins, or ends and counts (R277). -/
def Chip.refreshHold (n : Nat) (c : Chip) : Chip :=
  match (c.loomAt n).run with
  | none => c
  | some r =>
    match r.held with
    | none => c
    | some hold =>
      let why := c.blockOf n r (c.instrAt r.handle r.pc)
      if why = 0 ∨ (why == 3) = hold.fill then c
      else
        let c := if hold.fill then c.loomTime n (lmCount n 1 32) 0x04 (loomCycles (c.tb.lt - hold.lt)) else c
        c.setRun n { r with held := some { hold with lt := c.tb.lt, fill := why == 3 } }

/-- The results `v` of an instruction are written, and its flags recorded. -/
def Chip.finishFlight (n : Nat) (f : InFlight) (v : Written) (c : Chip) : Chip :=
  let drawn := lanesDrawn f.word f.regs
  let c := v.bytes.foldl (fun c e => c.writeBench n e.1 e.2) c
  let c := { c with free := c.free + drawn }
  let c := c.setLoom n { c.loomAt n with draws := (c.loomAt n).draws + drawn }
  let empty := opcodeOf f.word == 1 && (mmOf f.word f.regs).k == 0
  c.loomFlags n f.run (v.flags ||| (if empty then 8 else 0))

/-- Instruction `i` in flight completes: `recompute` where a check mismatch made the Loom compute it twice,
`bad` an uncorrectable Bench word it read, `corrected` the single-bit errors its reads corrected. -/
def Chip.complete (n i : Nat) (recompute : Bool) (bad : Option Nat) (corrected : Nat) (c : Chip) : Chip :=
  let x := c.loomAt n
  match x.flight[i]? with
  | none => c
  | some f =>
    if !c.loomServes n || x.blockedBy i f then c
    else
      let v := c.evaluate n f
      let c := (c.bump (lmCount n 3 0) corrected).leaveFlight n i f
      let hit (a : Nat) : Bool := Ranges.meet [(a / 8 * 8, 8)] (accessOf f.word f.regs).reads
      match bad.filter hit with
      | some a => (c.benchUe n a).faultRun n f.run f.pc 5
      | none =>
        let again := recompute && opcodeOf f.word == 1
        let c : Chip := if again then c.recompute n f else c
        (c.finishFlight n f v).refreshHold n

def execInstructionComplete (loom index : Nat) (recompute : Bool) (bad : Option Nat) (corrected : Nat) (s : State) :
    Host.Outcome State Fault Refusal :=
  s.run (okLoom loom && decide (index < 8)) (Chip.fabric (Chip.complete loom index recompute bad corrected))

/-- `n` free bytes from draw `base` on. -/
def freeBytes (base n : Nat) : List Byte := (List.range n).map (fun i => BitVec.ofNat 8 (Config.freeWord (base + i)).toNat)

/-- Undefined outputs: every byte that an instruction would have written is free (R291). -/
def Chip.scramble (n : Nat) (writes : Ranges) (c : Chip) : Chip :=
  writes.foldl (fun c r => { c.writeBench n r.1 (freeBytes c.free r.2) with free := c.free + r.2 }) c

/-- The recompute of array instruction `i` in flight also mismatches (R291). -/
def Chip.loomCheckFail (n array i : Nat) (c : Chip) : Chip :=
  let x := c.loomAt n
  match x.flight[i]? with
  | none => c
  | some f =>
    if !c.loomServes n || opcodeOf f.word != 1 || (mmOf f.word f.regs).k == 0 || x.blockedBy i f then c
    else
      let c := (c.recompute n f).leaveFlight n i f
      let c := c.scramble n (accessOf f.word f.regs).writes
      (c.checkFail n array).faultRun n f.run f.pc 6

def execLoomCheckFail (loom array index : Nat) (s : State) : Host.Outcome State Fault Refusal :=
  s.run (okLoom loom && decide (array < 4) && decide (index < 8)) (Chip.fabric (Chip.loomCheckFail loom array index))

/-! ### Fills (R277, R314, R380, R382) -/

/-- Bank waits that a fill of `len` bytes makes of a Loom with instructions in flight: at most one in each loom cycle that
the fill port, at 512 bytes a loom cycle, takes its banks; how many is free (R275). -/
def Chip.fillWaits (n len : Nat) (c : Chip) : Chip :=
  if (c.loomAt n).flight.isEmpty then c
  else
    let (v, c) := c.draw
    c.loomTime n (lmCount n 2 0) 0x05 (v % (ceilDiv len 512 + 1))

/-- The transfers that move now: the first of the external stream, the Larder's for Kitties and gates, and the first of the recipe's
stream (R313). -/
def Loom.moving (x : Loom) : List Fill :=
  let ext (f : Fill) : Bool := f.prefetch.isSome || f.run == 0
  (x.fills.find? ext).toList ++ (x.fills.find? (fun f => !ext f)).toList

/-- A granule of a fetch or of Kitty control's prefetch lands; an uncorrectable HBM error fails it. -/
def Chip.fillLanded (n granule : Nat) (check : HbmCheck) (c : Chip) : Chip :=
  let x := c.loomAt n
  match x.moving.find? (fun f => f.granules.contains granule) with
  | none => c
  | some f =>
    let h := bitsAt f.region 31 1
    let r := c.region (handleKey f.region)
    let first := max f.bench (4096 * granule)
    let len := min (f.bench + f.length) (4096 * granule + 4096) - first
    let off := f.offset + (first - f.bench)
    let f' := { f with granules := f.granules.filter (fun g => g != granule) }
    let fills := (x.fills.map (fun g => if g = f then f' else g)).filter (fun g => !g.granules.isEmpty)
    let c := c.setLoom n { x with fills := fills }
    let c := (c.occur (2 + n / 32) 0x06 (some (n % 32)) none (granules len)).occur (2 + h) 0x09 none none (granules len)
    let c := c.fillWaits n len
    let dead := (r.touched off len).any (fun q => c.deadPage h q)
    if hbmOk check && !dead then (c.hbmCe h (r.touched off len) check).writeBench n first (c.readRegion h r off len)
    else
      let c := if hbmOk check then c else c.eccUe h (hbmPage (r.touched off len) check)
      match f.prefetch with
      | some (key, step, attempt) => c.prefetchFailed key step attempt
      | none => c.faultRun n f.run f.pc 0xC

def execFillLanded (loom granule : Nat) (check : HbmCheck) (s : State) : Host.Outcome State Fault Refusal :=
  s.run (okLoom loom && decide (granule < 2048)) (Chip.fabric (fun c => (c.fillLanded loom granule check).refreshHold loom))

/-! ### Kitty returns and the emit buffer (R246, R315) -/

/-- A piece's result is read from the Bench: single-bit errors count, and an uncorrectable word fails the round (R278). -/
def Chip.returnPiece (key : Nat) (p : PieceReturn) (c : Chip) : Chip :=
  let k := c.kitty key
  match k.last with
  | none => c
  | some x =>
    if !x.ran.any (fun e => e.1 == p.piece) then c
    else
      let c := c.bump (lmCount k.home 3 0) p.read.corrected
      let n := k.pieceLen p.piece
      let reads : Ranges := [(k.resultAt p.piece, elementBytes k.outFmt n), (k.scalesAt p.piece, scaleBytes k.outFmt n)]
      match p.read.bad.filter (fun a => Ranges.meet [(a / 8 * 8, 8)] reads) with
      | some a => (c.benchUe k.home a).failRound key x.step 1
      | none => c.showdownReturn key p.piece

def execShowdownReturn (half slot : Nat) (piece : PieceReturn) (s : State) : Host.Outcome State Fault Refusal :=
  s.run (okHalf half && okKslot slot)
    (Chip.fabric (fun c => (Chip.returnPiece (32768 * half + slot) piece c).drainEmits half))

/-! ### Sampling (R327, R328) -/

/-- CAUSE of the loom cycle sampled; `stall` is 1 where the result of a scalar instruction is still awaited (R309), 2 for a stationary
load stall and 4 for a bank conflict. -/
def Chip.sampleCause (c : Chip) (n stall : Nat) : Nat :=
  match (c.loomAt n).run with
  | none => 7
  | some r =>
    if stall ≠ 0 then stall
    else if r.held.isNone then 0 else c.blockOf n r (c.instrAt r.handle r.pc)

/-- A sample goes into the ring, or is lost when the ring is full. -/
def Chip.sample (n stall : Nat) (c : Chip) : Chip :=
  let x := c.loomAt n
  if !c.loomServes n || !x.sampleEn then c
  else if 64 ≤ x.ring.length then c.bump (lmLost n) 1
  else
    let (pc, slot, handle) := match x.run with | some r => (r.pc, r.slot, r.handle) | none => (0, x.slot, x.handle)
    let v := field pc 0 13 + field (c.sampleCause n stall) 13 3 + field slot 16 4 + field handle 20 16 +
      field c.loomCycle 36 15 + field c.deal 51 13
    c.setLoom n { x with ring := x.ring ++ [v], samples := Tab.set 0 ((x.head + x.ring.length) % 64) v x.samples }

def execLoomSample (loom stall : Nat) (s : State) : Host.Outcome State Fault Refusal :=
  s.run (okLoom loom && (decide (stall ≤ 2) || decide (stall = 4))) (Chip.fabric (Chip.sample loom stall))

end Sys2Proof.Machine
end

