-- ==== Sys2Proof/Machine/Crossing.lean ====
section
/-! DEFINITION. The Crossing: arriving blocks, metering, spill read-back, and its commands
(06_crossing_core.md, R114 to R123, R196 to R198). -/

namespace Sys2Proof.Machine

open Sys2Proof

/-! ### Packets that have been sent, blocks that arrive -/

/-- The packet being received is dropped, counted once (R122). -/
def Chip.dropIngress (p lsb : Nat) (x : Ingress) (c : Chip) : Chip :=
  if x.dropped then c
  else
    let c := (c.bump (portDrop p lsb) 1).abandon x.tag
    c.setPort p { c.port p with ingress := some { x with dropped := true } }

/-- The counter of a block's own fault: its check, a reserved TYPE or ABORT (R121, R122). -/
def blockFault (sure : Bool) (b : DataBlock) : Option Nat :=
  match b.check with
  | .crcFail => some 0
  | .uncorrectable => some (if sure then 16 else 0)
  | .good => if b.abort || b.kind == .reserved then some 32 else none

/-- A good block of a reserved TYPE, each of which counts in FRAME_DROPS (R114). -/
def isReserved (b : DataBlock) : Bool := b.check == .good && b.kind == .reserved

/-- A port is sending the packet with this tag from the head of a queue. -/
def Chip.sendsTag (c : Chip) (tag p : Nat) : Bool :=
  match (c.sched p).sending with
  | none => false
  | some k => match (c.queue (halfOf p) (pointOf p) k).pkts with | [] => false | y :: _ => y.tag == tag

/-- The copy that a port is sending goes on with a block that has arrived. One that IDLE blocks have stretched past its close time
counts in SCHED_OVERRUNS (R173, R187). The Span sends on for one block time at least. -/
def Chip.stretch (c : Chip) (p : Nat) : Chip :=
  let s := c.sched p
  if 0x1000 ≤ p then c.setSched p { s with busyUntil := max s.busyUntil (100 * c.tb.ft + c.blockTime p) }
  else
    let c := c.refit p
    let t := c.sched p
    let mid := match s.sending with | some k => decide (2 ≤ k) | none => false
    if mid && !s.overran && decide (s.busyUntil < t.busyUntil) && decide (t.closeAt < t.busyUntil) then
      (c.setSched p { t with overran := true }).bump ⟨0xB80000 + 8 * p, 36, 15, 51⟩ 1
    else c

/-- Of a packet in the queues `n` blocks have arrived. -/
def Chip.arrive (tag n : Nat) (c : Chip) : Chip :=
  let ps := (c.sch.sched.map Prod.fst).filter (c.sendsTag tag)
  ps.foldl Chip.stretch ((ps.foldl (fun c p => c.settlePort p) c).setArrived tag n)

/-- The last block of a packet has passed: it is whole in the queues, or goes to its unit (R115, R172). -/
def Chip.completeIngress (p : Nat) (x : Ingress) (c : Chip) : Chip :=
  let c := c.setPort p { c.port p with ingress := none }
  if x.toUnit then c.log (.deliver (halfOf p) (LocalUnit.of x.pkt.cls) x.pkt) else c.arrive x.tag x.pkt.cells

/-- A block of a packet of which nothing is kept: the packet is counted once (R122), and every block of a reserved TYPE (R114). -/
def Chip.strayBlock (p : Nat) (b : DataBlock) (c : Chip) : Chip :=
  let x := c.port p
  let ends := b.kind == .last || b.kind == .only
  let fresh := !x.stray || b.kind == .first || b.kind == .only || isReserved b
  let c := c.setPort p { x with stray := !ends }
  if fresh then c.bump (portDrop p 32) 1 else c

/-- A data block after the first, in its turn (R115, R122). -/
def Chip.nextBlock (p : Nat) (b : DataBlock) (c : Chip) : Chip :=
  let y := c.port p
  let c := c.setPort p { y with nextBseqRx := some ((b.bseq + 1) % 4096) }
  match y.ingress with
  | none => c.strayBlock p b
  | some x =>
    let seen := x.seen + 1
    let x := { x with seen := seen }
    let endHere := b.kind == .last
    let fault := match blockFault (y.cls == 1) b with
      | some f => some f
      | none => if (b.kind == .middle && decide (seen < x.pkt.cells)) || (endHere && seen == x.pkt.cells) then none else some 32
    let c := c.setPort p { c.port p with ingress := some x }
    let c := if x.dropped && isReserved b then c.bump (portDrop p 32) 1
      else match fault with | some f => c.dropIngress p f x | none => c
    if endHere then (if x.dropped || fault.isSome then c.setPort p { c.port p with ingress := none } else c.completeIngress p x)
    else if fault.isNone && !x.dropped && !x.toUnit then c.arrive x.tag seen
    else c

/-! ### Meters (R196 to R198) -/

def Chip.meter (c : Chip) (m : Nat) : Meter := Tab.get {} m c.sch.meters

def Chip.setMeter (m : Nat) (v : Meter) (c : Chip) : Chip :=
  { c with sch := { c.sch with meters := Tab.set {} m v c.sch.meters } }

/-- Units of a token bucket in a byte: exact for whole Mb/s and core cycles, and a multiple of 1024. -/
def tokenUnit : Nat := 128000

/-- Refill of the buckets to a local time (R197). -/
def Meter.refill (lt : Nat) (m : Meter) : Meter :=
  let dt := lt - m.refilled
  { m with tc := min (m.cbs * tokenUnit) (m.tc + 8 * m.cir * dt), tp := min (m.pbs * tokenUnit) (m.tp + 8 * m.pir * dt), refilled := lt }

/-- The decision of R197 on `n` counted bytes: the meter and the colour, 0 green, 1 yellow, 2 red. -/
def Meter.decide (n : Nat) (m : Meter) : Meter × Nat :=
  let u := n * tokenUnit
  if m.tp < u then (m, 2) else if m.tc < u then ({ m with tp := m.tp - u }, 1) else ({ m with tp := m.tp - u, tc := m.tc - u }, 0)

/-- Register base of a meter. -/
def meterBase (m : Nat) : Nat := 0xD00000 + 0x100000 * (m / 4096) + 0x20 * (m % 4096)

/-- A packet is metered: the part, the packet as it goes on, or none when it is dropped (R196 to R198). -/
def Chip.meterPacket (p : Nat) (pkt : Packet) (c : Chip) : Chip × Option Packet :=
  let bind : Nat := Tab.get 0 (8 * p + pkt.cls) c.sch.bindings
  if !bitAt bind 15 then (c, some pkt)
  else
    let m := 4096 * halfOf p + bind % 4096
    let (x, colour) := ((c.meter m).refill c.tb.lt).decide (32 + pkt.length + (c.sched p).ovh)
    let c := c.setMeter m x
    let base := meterBase m
    let c := c.bump (if colour = 0 then ⟨base + 0x10, 0, 31, 31⟩ else if colour = 1 then ⟨base + 0x10, 32, 31, 63⟩ else ⟨base + 0x18, 0, 31, 31⟩) 1
    match if colour = 0 then x.actG else if colour = 1 then x.actY else x.actR with
    | 0 => (c, some pkt)
    | 1 => (c, some (if pkt.cls ≤ 1 then pkt else { pkt with mark := true }))
    | 2 => (c, some { pkt with cls := 7 })
    | _ => (c.bump ⟨base + 0x18, 32, 31, 63⟩ 1, none)

/-! ### A packet's first block (R122, R131, R163) -/

/-- The role of a port refuses a class (R131). -/
def Chip.refusesClass (c : Chip) (p k : Nat) : Bool :=
  decide (p < 2048) && (c.port p).role == 2 && decide (2 ≤ k) && decide (k ≤ 5)

/-- What is wrong with a first block and its header, as a field of XG_PORT_DROP. -/
def Chip.firstFault (c : Chip) (p : Nat) (pkt : Packet) (b : DataBlock) : Option Nat :=
  match blockFault ((c.port p).cls == 1) b with
  | some f => some f
  | none =>
    if (b.kind == .only) != (pkt.cells == 1) then some 32
    else if pkt.hops == 31 || c.refusesClass p pkt.cls then some 48
    else none

/-- The packet whose blocks the port takes next; nothing is kept of a one-block packet. -/
def Chip.beginIngress (p : Nat) (b : DataBlock) (x : Ingress) (c : Chip) : Chip :=
  c.setPort p { c.port p with ingress := if b.kind = .only then none else some x }

/-- A packet is dropped by policy once its header has been looked at. -/
def Chip.policyDrop (p : Nat) (b : DataBlock) (pkt : Packet) (c : Chip) : Chip :=
  (c.bump (portDrop p 48) 1).beginIngress p b { pkt := pkt, dropped := true }

/-- A good packet's header: it is metered, looked up and admitted (R141, R163, R181, R196). -/
def Chip.takeHeader (p : Nat) (pkt : Packet) (b : DataBlock) (c : Chip) : Chip :=
  let h := halfOf p
  let disputed := (c.port p).link == LinkState.disputed
  match c.meterPacket p pkt with
  | (c, none) => if disputed then c.policyDrop p b pkt else c.beginIngress p b { pkt := pkt, dropped := true }
  | (c, some pkt) =>
    if disputed && decide (2 ≤ pkt.cls) then c.policyDrop p b pkt
    else
      match c.route h pkt with
      | (c, none) => if disputed then c.policyDrop p b pkt else c.beginIngress p b { pkt := pkt, dropped := true }
      | (c, some w) =>
        if bitsAt w 60 4 = 3 ∧ namesOther h pkt = false then
          let c := c.beginIngress p b { pkt := pkt, toUnit := true }
          if b.kind = .only then c.log (.deliver h (LocalUnit.of pkt.cls) pkt) else c
        else if disputed then c.policyDrop p b pkt
        else
          let (tag, c) := c.newTag
          let x : QPacket := { tag := tag, pkt := pkt, cells := pkt.cells, arrived := 1, inWidth := c.ctWidth p }
          (c.beginIngress p b { pkt := pkt, tag := tag }).follow h w (some p) false x

/-- A packet's first block, in its turn. -/
def Chip.firstInTurn (p : Nat) (pkt : Packet) (b : DataBlock) (c : Chip) : Chip :=
  let c := c.setPort p { c.port p with nextBseqRx := some ((b.bseq + 1) % 4096) }
  if b.kind = .middle ∨ b.kind = .last then c.nextBlock p b
  else
    let c : Chip := match (c.port p).ingress with | some x => c.dropIngress p 32 x | none => c
    let c := c.setPort p { c.port p with ingress := none, stray := false }
    match c.firstFault p pkt b with
    | some f => (c.bump (portDrop p f) 1).beginIngress p b { pkt := pkt, dropped := true }
    | none => c.takeHeader p pkt b

/-- Any data block, in its turn. -/
def Chip.inTurn (p : Nat) (pkt : Option Packet) (b : DataBlock) (c : Chip) : Chip :=
  match pkt with | some x => c.firstInTurn p x b | none => c.nextBlock p b

/-- Blocks held because they came ahead of their turn, now taken in order. -/
def Chip.takeAhead (p : Nat) : Nat → Chip → Chip
  | 0, c => c
  | n + 1, c =>
    let y := c.port p
    match y.ahead.find? (fun x => y.nextBseqRx == some x.block.bseq) with
    | none => c
    | some x => Chip.takeAhead p n ((c.setPort p { y with ahead := y.ahead.erase x }).inTurn p x.pkt x.block)

/-- Blocks that may come ahead of their turn within 16 ns of skew (R115): 32 core cycles hold at most three
blocks of each of the other lanes. -/
def aheadMax : Nat := 9

/-- How far a block is ahead of the one expected. -/
def Port.distance (x : Port) (bseq : Nat) : Nat := match x.nextBseqRx with | none => 0 | some e => (bseq + 4096 - e) % 4096

/-- The blocks before one of the given BSEQ are lost: the packet being received is dropped, or one of which nothing came
(R122). -/
def Chip.loseBlocks (p bseq : Nat) (begins : Bool) (c : Chip) : Chip :=
  let c : Chip := match (c.port p).ingress with
    | some x => c.dropIngress p 32 x
    | none => if begins && !(c.port p).stray then c.bump (portDrop p 32) 1 else c
  c.setPort p { c.port p with nextBseqRx := some bseq }

/-- A block held ahead of its turn for longer than the skew of R115: the blocks before it do not come any more. -/
def Chip.expireAhead (p : Nat) : Nat → Chip → Chip
  | 0, c => c
  | n + 1, c =>
    let y := c.port p
    if y.ahead.any (fun x => decide (x.came + 32 < c.tb.lt)) then
      let near := y.ahead.foldl (fun a x => min a (y.distance x.block.bseq)) 4096
      match y.ahead.find? (fun x => y.distance x.block.bseq == near) with
      | none => c
      | some x => Chip.expireAhead p n ((c.loseBlocks p x.block.bseq x.pkt.isSome).takeAhead p aheadMax)
    else c

/-- A port examines data blocks: live, or within its receive drain (R111, R122). -/
def Port.receives (x : Port) : Bool := x.link.live || x.draining

/-- What a block's header and its lane's decoder tell a port that takes blocks (R114, R121). -/
def Chip.hearBlock (p : Nat) (b : DataBlock) (c : Chip) : Chip :=
  let x := c.port p
  if !(x.receives || x.link == .train) then c
  else
    let c := c.noteFec p b.fec
    if b.check == .good && (x.link.live || x.link == .train) then c.hearLanes p b.lanes else c

/-- A data block arrives: it is taken in its turn by BSEQ, held while it is ahead within the skew, and a larger step is a gap
(R115, R122). A port in TRAIN drops the packet (R122). -/
def Chip.takeBlock (p : Nat) (pkt : Option Packet) (b : DataBlock) (c : Chip) : Chip :=
  let c := c.hearBlock p b
  let y := c.port p
  if y.link = .train then c.strayBlock p b
  else if !y.receives then c
  else
    let c := ((c.endSent).countRx p 1).expireAhead p aheadMax
    let cls := match pkt with | some x => some x.cls | none => ((c.port p).ingress).map (fun x => x.pkt.cls)
    let c := c.occur (halfOf p) 0x01 (some p) cls 1
    let d := (c.port p).distance b.bseq
    if d = 0 then (c.inTurn p pkt b).takeAhead p aheadMax
    else if d ≤ aheadMax then c.setPort p { c.port p with ahead := (c.port p).ahead ++ [⟨c.tb.lt, pkt, b⟩] }
    else ((c.loseBlocks p b.bseq pkt.isSome).inTurn p pkt b).takeAhead p aheadMax

/-- An IDLE or CONTROL block arrives of which only its check counts: one that fails is discarded and counted (R121, R122). -/
def Chip.takeFiller (p : Nat) (b : DataBlock) (c : Chip) : Chip :=
  let y := c.port p
  if (y.link = .train ∨ y.receives) ∧ b.check ≠ .good then (c.hearBlock p b).bump (portDrop p 0) 1 else c.hearBlock p b

/-- A packet's first data block reaches the Crossing. -/
def Chip.firstBlock (p : Nat) (pkt : Packet) (b : DataBlock) (c : Chip) : Chip := c.takeBlock p (some pkt) b

def execPacketFirstBlock (port : Nat) (pkt : Packet) (block : DataBlock) (s : State) : Host.Outcome State Fault Refusal :=
  s.run (okPort port && okPacket pkt && okBlock block) (Chip.fabric (Chip.firstBlock port pkt block))

/-- A later block arrives. -/
def Chip.laterBlock (p : Nat) (b : DataBlock) (c : Chip) : Chip :=
  if b.kind = .idle ∨ b.kind = .control then c.takeFiller p b else c.takeBlock p none b

def execDataBlock (port : Nat) (block : DataBlock) (s : State) : Host.Outcome State Fault Refusal :=
  s.run (okPort port && okBlock block) (Chip.fabric (Chip.laterBlock port block))

/-! ### Spill read-back (R170, R171, R382) -/

/-- The oldest written page of a queue is read back: its cells come on chip, never by eviction (R170, R171). A page with an
uncorrectable error is discarded with its packets (R382). -/
def Chip.readBack (h q k : Nat) (check : HbmCheck) (c : Chip) : Chip :=
  let qu := c.queue h q k
  let b := c.xbar.buf.get h
  match qu.pages with
  | [] => c
  | p :: rest =>
    let own := overlap (fun x => c.holds h x) qu.pending (qu.pending + p.live) 0 qu.spilled
    let s := sharedNeed (p.live - own) (c.qcfg h q k).min qu.depth
    if decide (p.filled < 256) || decide (256 ≤ qu.depth) || decide (c.queueLimit h q k < qu.depth + 256) ||
        decide (c.sharedFree h < s) || decide (b.rate ≤ b.spillReads) then c
    else
      let c := (c.setBuf h { b with spillReads := b.spillReads + 1 }).hbmCe h [p.number] check
      if hbmOk check then
        c.setQueue h q k { qu with
          pages := rest, landing := qu.landing ++ [p.number], pending := qu.pending + p.live, pendingShared := qu.pendingShared + s }
      else
        let (gone, qu) := qu.losePage p.number
        (((c.setQueue h q k qu).dropCopies h gone).bump (bufDrop h 16) gone.length).eccUe h p.number

def execSpillReadback (half point cls : Nat) (check : HbmCheck) (s : State) : Host.Outcome State Fault Refusal :=
  s.run (okHalf half && decide (point < 1026) && decide (cls < 8)) (Chip.fabric (fun c => (c.endSent).readBack half point cls check))

/-- The spilled packets whose cells have all been read back join their queue (R170). -/
def Chip.joinSpilled (h q k : Nat) : Nat → Chip → Chip
  | 0, c => c
  | n + 1, c =>
    let qu := c.queue h q k
    match qu.spilled with
    | [] => c
    | x :: t =>
      if qu.pending < x.cells then c
      else
        let s := if c.holds h x then 0 else min x.cells qu.pendingShared
        let y := { x with shared := if x.mcast then 0 else s }
        let c := (c.chargeCopy h x s 0).setQueue h q k { qu with
          pkts := qu.pkts ++ [y], spilled := t, pending := qu.pending - x.cells, pendingShared := qu.pendingShared - s }
        Chip.joinSpilled h q k n c

/-- A queue at a boundary: its pages read back are free (R170). -/
def Chip.settleQueue (c : Chip) (key : Nat) : Chip :=
  let h := key / 8 / 1027
  let q := key / 8 % 1027
  let k := key % 8
  let qu := c.queue h q k
  if qu.landing.isEmpty then c
  else (c.setQueue h q k { qu with landing := [] }).joinSpilled h q k qu.spilled.length

/-- A partly filled spill page is written, and takes no more packets (R169). -/
def closePage : List SpillPage → List SpillPage
  | [] => []
  | [p] => [{ p with filled := 256 }]
  | p :: t => p :: closePage t

/-- The partly filled pages of the Deal are written in its guard: those that its beginning finds, and at its end those opened in
it. -/
def Chip.spillGuard (c : Chip) : Chip :=
  { c with xbar := { c.xbar with queues := c.xbar.queues.map (fun e => (e.1, { e.2 with pages := closePage e.2.pages })) } }

/-- Pages read back, flushed or lost return to the region at a boundary, packets read back join their
queues, and the Deal's budget is new (R170, R171, R178). -/
def Chip.spillBoundary (c : Chip) : Chip :=
  let c := c.spillGuard
  let c := (c.xbar.queues.map Prod.fst).foldl Chip.settleQueue c
  let buf (h : Nat) : BufHalf :=
    { c.xbar.buf.get h with returning := [], spillWrites := 0, spillReads := 0, spillFullRaised := false }
  { c with xbar := { c.xbar with buf := ⟨buf 0, buf 1⟩ } }

/-! ### Disputes (R180 to R182) -/

/-- The views of a port in UP disagree (R180). -/
def Chip.disagrees (c : Chip) (p : Nat) : Bool :=
  (c.port p).link == .up && ((c.expect p).mode == 1 || ((c.expect p).mode == 2 && (c.expect p).name != (c.port p).farName))

/-- The views are checked now: an entry into DISPUTED at the boundary R16 gives (R181). -/
def Chip.checkView (p : Nat) (c : Chip) : Chip := if c.disagrees p then c.schedule c.effectDeal (.dispute p) else c

/-- The entry into DISPUTED at a boundary (R181). A port that has gone DOWN keeps the dispute pending
(R179, R182). -/
def Chip.enterDispute (p : Nat) (c : Chip) : Chip :=
  let x := c.expect p
  let c := c.setExpect p { x with pending := true }
  match (c.port p).link with
  | .up | .resize =>
    let c := (c.setPort p { c.port p with link := .disputed }).bump (bufDrop (halfOf p) 32) 1
    c.raise 0x0602 3 [(12, p), (2, x.mode), (48, x.name), (48, (c.port p).farName), (3, 5)]
  | _ => c

/-- `port.resolve` takes effect: the return to UP that ACCEPT_DATA gives, or the end of the dispute of a port that ACCEPT_MGMT
disables (R182). -/
def Chip.resolveDispute (p : Nat) (mgmt : Bool) (c : Chip) : Chip :=
  if mgmt then c.setExpect p { c.expect p with pending := false } else
  let x := c.port p
  let c := c.setExpect p { mode := 2, name := x.farName, pending := false }
  if x.link = .disputed then c.setPort p { x with link := if x.resizeAt.isSome then .resize else .up } else c

def portExpectCmd : Command where
  words := fun _ => 3
  act := fun r c =>
    let p := bitsAt (r.w 0) 0 12
    let mode := bitsAt (r.w 0) 12 2
    if !c.isPort p then refuse c .badLane
    else if mode = 3 ∨ (mode = 2 ∧ !c.nameOk (r.name 1)) then refuse c .badAddr
    else answer ((c.setExpect p { c.expect p with mode := mode, name := if mode = 2 then r.name 1 else 0 }).checkView p)

def execPortExpect (k : Nat) (s : State) : Host.Outcome State Fault Refusal :=
  s.run (okMbx k) (Chip.live (Chip.mirrored (Chip.accept 0x0621 k portExpectCmd)))

def portResolveCmd : Command where
  words := fun _ => 1
  act := fun r c =>
    let p := bitsAt (r.w 0) 0 12
    if !c.isPort p then refuse c .badLane
    else if !(c.expect p).pending then refuse c .noDispute
    else if bitAt (r.w 0) 12 then
      answer ((c.planDisable p).schedule c.effectDeal (.resolve p true)) (dealWords c.effectDeal)
    else atBoundary (.resolve p false) c

def execPortResolve (k : Nat) (s : State) : Host.Outcome State Fault Refusal :=
  s.run (okMbx k) (Chip.live (Chip.mirrored (Chip.accept 0x0622 k portResolveCmd)))

/-! ### Commands -/

/-- `buf.config` (R161, R166). DESIGN CHOICE: it and `queue.config` check P + ΣMIN against the values in force, not against those
of commands accepted for a boundary still to come. -/
def bufConfigCmd : Command where
  words := fun _ => 3
  act := fun r c =>
    let h := bitsAt (r.w 0) 0 1
    let p := bitsAt (r.w 0) 1 17
    if p < c.privUsed h then refuse c .busy
    else if bufferCells < p + c.sumMin h then refuse c .badValue
    else atBoundary (.bufConfig h p (r.long 1)) c

def execBufConfig (k : Nat) (s : State) : Host.Outcome State Fault Refusal :=
  s.run (okMbx k) (Chip.live (Chip.accept 0x0601 k bufConfigCmd))

/-- Bits of the push-out matrix that may be set: v above a (R166). -/
def pushoutMask (m : Nat) : Nat :=
  (List.range 8).foldl (fun a i => (List.range 8).foldl (fun a v => if i < v ∧ bitAt m (8 * i + v) then a + 2 ^ (8 * i + v) else a) a) 0

def Chip.applyBufConfig (h p m : Nat) (c : Chip) : Chip := c.setBuf h { c.xbar.buf.get h with priv := p, pushout := pushoutMask m }

def queueConfigCmd : Command where
  words := fun _ => 3
  act := fun r c =>
    let p := bitsAt (r.w 0) 0 12
    let span := p == 0xFFF
    let h := if span then bitsAt (r.w 0) 20 1 else halfOf p
    let q := if span then 1026 else pointOf p
    let ks := bitsSet 8 (bitsAt (r.w 0) 12 8)
    let min := bitsAt (r.w 1) 0 8
    let alpha := bitsAt (r.w 1) 8 4
    let spill := bitAt (r.w 1) 25
    if !span && !c.isPort p then refuse c .badLane
    else
      let delta : Int := (ks.map (fun k => Int.ofNat min - Int.ofNat (c.qcfg h q k).min)).foldl (· + ·) 0
      let sum := Int.ofNat (c.sumMin h + (c.xbar.buf.get h).priv) + delta
      if 9 < alpha ∨ (spill = true ∧ (span = true ∨ ks.any (fun k => decide (k ≤ 1)) = true)) ∨ Int.ofNat bufferCells < sum then refuse c .badValue
      else atBoundary (.queueConfig (ks.map (fun k => qKey h q k)) min alpha (bitsAt (r.w 1) 12 12) (bitAt (r.w 1) 24) spill (bitsAt (r.w 2) 0 16)) c

def execQueueConfig (k : Nat) (s : State) : Host.Outcome State Fault Refusal :=
  s.run (okMbx k) (Chip.live (Chip.accept 0x0602 k queueConfigCmd))

def Chip.applyQueueConfig (keys : List Nat) (v : QConfig) (c : Chip) : Chip :=
  { c with xbar := { c.xbar with qcfg := keys.foldl (fun t k => Tab.set (resetQConfig (k % 8)) k v t) c.xbar.qcfg } }

def spillRateCmd : Command where
  words := fun _ => 1
  act := fun r c =>
    let rate := bitsAt (r.w 0) 1 10
    if spillRateMax c.fuses.variant c.tb.period < rate then refuse c .badValue
    else answer (c.schedule ((c.deal + 1) % 2 ^ 48) (.spillRate (bitsAt (r.w 0) 0 1) rate))

def execSpillRate (k : Nat) (s : State) : Host.Outcome State Fault Refusal :=
  s.run (okMbx k) (Chip.live (Chip.accept 0x0603 k spillRateCmd))

def mcastSetCmd : Command where
  words := fun w => 1 + bitsAt (w 0) 16 8
  act := fun r c =>
    let h := bitsAt (r.w 0) 0 1
    let ps := (List.range (bitsAt (r.w 0) 16 8)).map (fun i => bitsAt (r.w (i + 1)) 0 12)
    let number (p : Nat) : Bool := decide (p < 0x804) || p == 0xFFF
    if ps.any (fun p => decide (p < 0x804) && halfOf p != h) then refuse c .badLane
    else if ps.any (fun p => !number p) then refuse c .badValue
    else
      let bits := ps.foldl (fun a p => a ||| 2 ^ (if p = 0xFFF then 1026 else pointOf p)) 0
      atBoundary (.mcastSet (8192 * h + bitsAt (r.w 0) 1 13) (bitAt (r.w 0) 15) (bits + field (bitsAt (r.w 0) 14 1) 1027 1)) c

def execMcastSet (k : Nat) (s : State) : Host.Outcome State Fault Refusal :=
  s.run (okMbx k) (Chip.live (Chip.accept 0x0611 k mcastSetCmd))

/-- `mcast.set` takes effect: APPEND adds ports and takes LOOP from the command. -/
def Chip.applyMcast (g : Nat) (append : Bool) (set : Nat) (c : Chip) : Chip :=
  let old := if append then (Tab.get 0 g c.xbar.groups : Nat) % 2 ^ 1027 else 0
  { c with xbar := { c.xbar with groups := Tab.set 0 g (old ||| set) c.xbar.groups } }

/-! ### Registers -/

def Chip.xgQstat (c : Chip) (h q k : Nat) : Nat :=
  let x := c.endSent.queue h q k
  field x.depth 0 21 + field x.spillPages 21 16 + field (b2n (decide ((c.qcfg h q k).markT * 64 ≤ x.d))) 37 1

def Chip.xgBufCfg (c : Chip) (h : Nat) : Nat := field (c.xbar.buf.get h).priv 0 17 + field (c.xbar.buf.get h).rate 17 10

def Chip.xgBufStat (c : Chip) (h : Nat) : Nat :=
  let c := c.endSent
  field (c.sharedFree h) 0 21 + field (c.privFree h) 21 17 + field (c.sharedSize h) 38 21

end Sys2Proof.Machine
end

