-- ==== Sys2Proof/Machine/Time.lean ====
section
/-! DEFINITION. Fabric time, its servo, PTP, captures and timestamps (01_the_deal.md, R444). -/

namespace Sys2Proof.Machine

open Sys2Proof

/-! ### The servo (R23 to R27) -/

def FtState.code : FtState → Nat
  | .free => 0 | .acquire => 1 | .track => 2 | .holdover => 3

def PtState.code : PtState → Nat
  | .disabled => 0 | .listening => 1 | .uncalibrated => 2 | .slave => 3

/-- FT_UNALIGNED with its arguments. -/
def Chip.raiseUnaligned (c : Chip) : Chip :=
  c.raise 0x0103 2 [(2, c.tb.ftState.code), (32, ofSigned c.tb.servo.offsetNs 32)]

/-- DEAL_ALIGNED takes a value; going from 1 to 0 raises FT_UNALIGNED (R27). -/
def Chip.setAligned (b : Bool) (c : Chip) : Chip :=
  let c' := { c with tb := { c.tb with aligned := b } }
  if c.tb.aligned && !b then c'.raiseUnaligned else c'

def Chip.setServo (s : Servo) (c : Chip) : Chip := { c with tb := { c.tb with servo := s } }

def Chip.setFtState (s : FtState) (c : Chip) : Chip := { c with tb := { c.tb with ftState := s } }

/-- The part is the FT master: by its role, or because it takes its boundaries from DEAL_IN (R34). -/
def Chip.ftMaster (c : Chip) : Bool := c.tb.ftRole || c.tb.dealSrc

/-- The port toward the parent followed now (R50). -/
def Chip.parentPort (c : Chip) : Nat := if c.tb.parentSel then c.tb.parentB else c.tb.parentA

/-- Entry into HOLDOVER: FT keeps its last frequency. With a valid parent B its exchanges are with parent B from now on, and
the first four are a trial (R25, R26). -/
def Chip.enterHoldover (c : Chip) : Chip :=
  let c := { c with tb := { c.tb with
    ftState := .holdover
    servo := { c.tb.servo with holdSince := c.tb.lt, missRun := 0, goodRun := 0, trial := if c.tb.parentBValid then some 0 else none } } }
  if c.tb.parentBValid then
    ({ c with tb := { c.tb with parentSel := true } }).raise 0x0102 1 [(11, c.tb.parentB)]
  else c

/-- An exchange has missed (R24, R25). -/
def Chip.missExchange (c : Chip) : Chip :=
  let s := c.tb.servo
  let c := c.setServo { s with missRun := s.missRun + 1, goodRun := 0, outstanding := none }
  if c.tb.ftState = .track ∧ 4 ≤ s.missRun + 1 then c.enterHoldover else c

/-- Payload of a time exchange packet (R24). -/
def Chip.timePayload (c : Chip) (kind deal t1 t2 t3 : Nat) : List Byte :=
  beBytes 8 (field kind 60 4 + field c.tb.ftState.code 58 2 + field (b2n c.tb.aligned) 57 1 + field deal 0 48) ++
    beBytes 8 t1 ++ beBytes 8 t2 ++ beBytes 8 t3 ++ beBytes 8 0 ++ beBytes 8 0 ++ beBytes 8 0 ++ beBytes 8 0

/-- The reserved window of a port has not closed; one that is not in UP has none (R185). -/
def Chip.inWindow (c : Chip) (p : Nat) : Bool :=
  (c.port p).link != LinkState.up || decide (100 * c.tb.ft ≤ (c.sched p).windowEnd)

/-- The exchange with the parent at the first C0 slot of a Deal that is a multiple of 16, in the reserved window (R23, R185). One
still unanswered counts as missed; where that enters HOLDOVER with a parent B, this exchange is with parent B, at once (R26).
Until the parent's port is first UP, the first exchange waits (R444). -/
def Chip.sendExchange (c : Chip) : Chip :=
  if c.ftMaster || c.deal % 16 != 0 || c.tb.servo.outstanding == some c.deal || !c.inWindow c.parentPort then c
  else
    let c := if c.tb.servo.outstanding.isSome then c.missExchange else c
    let p := c.parentPort
    if (c.port p).link.live then
      let c := c.setServo { c.tb.servo with outstanding := some c.deal }
      c.sendOnPort p (c.port p).farName 0 0 c.deal false (c.timePayload 1 c.deal 0 0 0) (some 1)
    else if c.tb.servo.exchanged then c.setServo { c.tb.servo with outstanding := some c.deal }
    else c

def execTimeExchangeSend (s : State) : Host.Outcome State Fault Refusal :=
  s.run true (Chip.fabric Chip.sendExchange)

/-- The Deal number names the current or the previous Deal (R24). -/
def Chip.recentDeal (c : Chip) (d : Nat) : Bool := d == c.deal || (d + 1) % 2 ^ 48 == c.deal

/-- The answer to a child's request (R24). -/
def Chip.answerExchange (p : Nat) (pkt : Packet) (t2 : Nat) (c : Chip) : Chip :=
  let d := bitsAt (pkt.word 0) 0 48
  if pkt.crcGood && bitsAt (pkt.word 0) 60 4 == 1 && c.recentDeal d && (c.port p).link.live then
    c.sendOnPort p (c.port p).farName 0 0 d false (c.timePayload 2 d (pkt.word 1) t2 0) (some 3)
  else c

def execTimeReq (port : Nat) (pkt : Packet) (t2 : Nat) (s : State) : Host.Outcome State Fault Refusal :=
  s.run (okPort port && okPacket pkt && decide (t2 < 2 ^ 64)) (Chip.fabric (Chip.answerExchange port pkt t2))

/-- Difference of two 64-bit times in ns. -/
def timeDiff (a b : Nat) : Int := toSigned ((a + 2 ^ 64 - b % 2 ^ 64) % 2 ^ 64) 64

/-- FT steps by the offset to its parent's time, and the servo enters ACQUIRE (R25, R504). -/
def Chip.stepToParent (c : Chip) : Chip :=
  let c := (c.setServo { c.tb.servo with goodRun := 0, missRun := 0, trial := none }).setFtState .acquire
  c.jumpFt (Int.toNat (Int.ofNat c.tb.ft + 2 * c.tb.servo.offsetNs))

/-- FT takes a frequency within ±10 ppm of nominal, which one R25 leaves open: a free value. -/
def Chip.slewFt (c : Chip) : Chip :=
  let (v, c) := c.draw
  { c with tb := { c.tb with ftRate := Int.ofNat (v % 20001) - 10000 } }

/-- The servo's answer to a measured offset, in ps (R25, R26): the first exchange steps FT, later ones slew it; sixteen good
ones in a row reach TRACK, from HOLDOVER too, where FT keeps its last tracked frequency till then and the four of a trial with
parent B decide at once. -/
def Chip.servoUpdate (offsetPs : Int) (c : Chip) : Chip :=
  let s := c.tb.servo
  let n := if offsetPs.natAbs ≤ 4000 then s.goodRun + 1 else 0
  let count (c : Chip) : Chip :=
    let c := (c.setServo { s with goodRun := n }).slewFt
    if 16 ≤ n then (c.setFtState .track).setAligned true else c
  match c.tb.ftState, s.trial with
  | .free, _ => c.stepToParent
  | .acquire, _ => count c
  | .track, _ => (c.setServo { s with goodRun := n }).slewFt
  | .holdover, none => if 16 ≤ n then count c else c.setServo { s with goodRun := n }
  | .holdover, some k =>
    if 20000 < offsetPs.natAbs then
      (({ c with tb := { c.tb with aligned := false } }).stepToParent).raiseUnaligned
    else if 4 ≤ k + 1 then (((c.setServo { s with trial := none }).slewFt).setFtState .track).setAligned true
    else c.setServo { s with trial := some (k + 1) }

/-- A response from the parent: mean delay, offset, servo (R24). One that fails a check is discarded. -/
def Chip.takeExchange (p : Nat) (pkt : Packet) (t4 : Nat) (c : Chip) : Chip :=
  let d := bitsAt (pkt.word 0) 0 48
  if !c.ftMaster && p == c.parentPort && pkt.crcGood && bitsAt (pkt.word 0) 60 4 == 2 && c.recentDeal d &&
      c.tb.servo.outstanding == some d then
    let t1 := pkt.word 1
    let t2 := pkt.word 2
    let t3 := pkt.word 3
    let a := (c.port p).asymPs
    let m := (timeDiff t4 t1 - timeDiff t3 t2) * 500
    let off := (timeDiff t2 t1 - timeDiff t4 t3) * 500 - a / 2
    let c := c.setServo { c.tb.servo with
      offsetNs := off / 1000, delayNs := (m - a / 2) / 1000, outstanding := none, missRun := 0, exchanged := true }
    c.servoUpdate off
  else c

def execTimeRsp (port : Nat) (pkt : Packet) (t4 : Nat) (s : State) : Host.Outcome State Fault Refusal :=
  s.run (okPort port && okPacket pkt && decide (t4 < 2 ^ 64)) (Chip.fabric (Chip.takeExchange port pkt t4))

/-- 400 ms in HOLDOVER have passed (R25). -/
def Chip.expireHoldover (c : Chip) : Chip := if c.tb.ftState = .holdover then c.setAligned false else c

def execHoldoverExpiry (s : State) : Host.Outcome State Fault Refusal :=
  s.run true (Chip.fabric Chip.expireHoldover)

/-! ### TB_STATUS and the time commands (R50, R444) -/

/-- Milliseconds in the current HOLDOVER, holding at 0xFFFF. -/
def Chip.holdoverMs (c : Chip) : Nat :=
  if c.tb.ftState = .holdover then min 0xFFFF ((c.tb.lt - c.tb.servo.holdSince) / 2000000) else 0

/-- TB_STATUS. -/
def Chip.tbStatus (c : Chip) : Nat :=
  field c.tb.ftState.code 0 2 + field (b2n c.tb.aligned) 2 1 + field (b2n c.tb.parentSel) 3 1 +
    field c.tb.ptState.code 4 2 + field (b2n c.tb.dealInOk) 6 1 + c.ctrImage 0x10008 +
    field (b2n c.quiescent) 12 1 + field c.holdoverMs 16 16

/-- TB_CTRL. -/
def Chip.tbCtrl (c : Chip) : Nat :=
  field c.tb.period 0 3 + field (b2n c.tb.dealSrc) 3 1 + field (b2n c.tb.ftRole) 4 1 + field (b2n c.tb.ftFromPt) 5 1 +
    field (b2n c.tb.ptEn) 6 1 + field (b2n c.tb.parentBValid) 7 1 + field c.tb.parentA 8 11 + field c.tb.parentB 19 11

/-- `time.set`. -/
def timeSetCmd : Command where
  words := fun _ => 3
  act := fun r c =>
    if !c.tb.ftRole then refuse c .conflict
    else if !c.quiescent then refuse c .busy
    else if r.w 2 % 8192 ≠ 0 ∨ 1000000000 ≤ r.w 2 then refuse c .badValue
    else answer { c with tb := { c.tb with timeSet := some ((r.name 0 * 1000000000 + r.w 2) * 2) } } (twoWords (r.name 0))

def execTimeSet (k : Nat) (s : State) : Host.Outcome State Fault Refusal :=
  s.run (okMbx k) (Chip.live (Chip.accept 0x0101 k timeSetCmd))

/-- FT is loaded 4096 core cycles after `time.set` was accepted; the master enters TRACK, and with
DEAL_SRC = 1 the next edge is awaited (R36, R444). -/
def Chip.loadTime (c : Chip) : Chip :=
  match c.tb.timeSet with
  | none => c
  | some v =>
    let c := c.jumpFt v
    let c := { c with tb := { c.tb with timeSet := none, ftState := .track } }
    let c := { c with tb := { c.tb with dealIn := { c.tb.dealIn with loadedDeal := some c.deal } } }
    if c.tb.dealSrc then
      ({ c with tb := { c.tb with dealIn := { c.tb.dealIn with last := none, edgesFrom := c.tb.lt + 4096, goodRun := 0, faultRun := 0 } } }).setAligned false
    else c.setAligned true

def execTimeSetLoad (s : State) : Host.Outcome State Fault Refusal :=
  s.run true (Chip.fabric Chip.loadTime)

def timeStepCmd : Command where
  words := fun _ => 0
  act := fun _ c => atBoundary .stepTime c

def execTimeStep (k : Nat) (s : State) : Host.Outcome State Fault Refusal :=
  s.run (okMbx k) (Chip.live (Chip.accept 0x0102 k timeStepCmd))

def timeAsymCmd : Command where
  words := fun _ => 2
  act := fun r c =>
    let p := bitsAt (r.w 0) 0 12
    let a := toSigned (r.w 1) 32
    if !c.isPort p then refuse c .badLane
    else if 1000000 < a.natAbs then refuse c .badValue
    else answer (c.setPort p { c.port p with asymPs := a })

def execTimeAsym (k : Nat) (s : State) : Host.Outcome State Fault Refusal :=
  s.run (okMbx k) (Chip.live (Chip.accept 0x0103 k timeAsymCmd))

/-- A change of role or source starts the servo again in FREE (R25, R36, R444). -/
def Chip.restartServo (c : Chip) : Chip :=
  let c := { c with tb := { c.tb with
    ftState := .free, parentSel := false, servo := {}, ftRate := 0, ftFrac := 0
    dealIn := { c.tb.dealIn with last := none, edgesFrom := c.tb.lt + 4096, goodRun := 0, faultRun := 0 } } }
  c.setAligned false

def timeRoleCmd : Command where
  words := fun _ => 1
  act := fun r c =>
    let w := r.w 0
    let role := bitAt w 0
    let src := bitAt w 1
    let bv := bitAt w 2
    let a := bitsAt w 3 11
    let b := bitsAt w 14 11
    let changed := role != c.tb.ftRole || src != c.tb.dealSrc
    if changed && !c.quiescent then refuse c .busy
    else if !role && (!c.isPort a || (bv && !c.isPort b)) then refuse c .badLane
    else
      let c := { c with tb := { c.tb with ftRole := role, dealSrc := src, parentBValid := bv, parentA := a, parentB := b } }
      answer (if changed then c.restartServo else c)

def execTimeRole (k : Nat) (s : State) : Host.Outcome State Fault Refusal :=
  s.run (okMbx k) (Chip.live (Chip.accept 0x0104 k timeRoleCmd))

def timeStatusCmd : Command where
  words := fun _ => 0
  act := fun _ c =>
    answer c (twoWords c.tbStatus ++
      [ofSigned c.tb.servo.offsetNs 32, ofSigned c.tb.servo.delayNs 32, ofSigned c.tb.ptp.offsetNs 32,
        ofSigned c.tb.ptp.utcOffset 32] ++ dealWords c.deal)

def execTimeStatus (k : Nat) (s : State) : Host.Outcome State Fault Refusal :=
  s.run (okMbx k) (Chip.live (Chip.accept 0x0105 k timeStatusCmd))

/-- FT instant, in core cycles, of a change of period at FT second `sec` (R38). -/
def periodInstant (sec : Nat) : Nat := (sec * 2000000000 + 16383) / 16384 * 16384

def dealPeriodCmd : Command where
  words := fun _ => 3
  act := fun r c =>
    let code := bitsAt (r.w 0) 0 3
    let sec := r.name 1
    if !c.tb.aligned then refuse c .notAligned
    else if !c.quiescent then refuse c .busy
    else if sec ≤ c.ftSec then refuse c .late
    else if 4 < code then refuse c .badValue
    else answer { c with tb := { c.tb with periodChange := some (code, sec) } }
      (dealWords (periodInstant sec / (1024 * 2 ^ code)))

def execDealPeriod (k : Nat) (s : State) : Host.Outcome State Fault Refusal :=
  s.run (okMbx k) (Chip.live (Chip.accept 0x0107 k dealPeriodCmd))

/-! ### The IEEE 1588 follower (R31 to R33) -/

def ptpConfigCmd : Command where
  words := fun _ => 4
  act := fun r c =>
    let w := r.w 0
    let en := bitAt w 0
    let fromPt := bitAt w 9
    if fromPt && !c.ftMaster then refuse c .conflict
    else if 32 < bitsAt (r.w 2) 0 6 then refuse c .badValue
    else
      let lost := c.tb.ptState == .slave
      let c := { c with tb := { c.tb with
        ptEn := en, ftFromPt := fromPt, ftRate := if c.ftMaster && !fromPt then 0 else c.tb.ftRate, ptState := if en then .listening else .disabled
        ptp := { domain := bitsAt w 2 7, transport := bitsAt w 1 1, ip := r.w 1, prefixLen := bitsAt (r.w 2) 0 6, gateway := r.w 3 } } }
      answer (if lost then c.raise 0x0105 2 [(2, c.tb.ptState.code)] else c)

def execPtpConfig (k : Nat) (s : State) : Host.Outcome State Fault Refusal :=
  s.run (okMbx k) (Chip.live (Chip.accept 0x0106 k ptpConfigCmd))

/-- Announce `a` is better than `b` under the default best master selection (R31): of two grandmasters by priority 1, class,
accuracy, variance, priority 2 and identity, of one grandmaster by fewer steps removed and then by the sender. PRESUMED: the order
of the data sets is that of IEEE 1588-2019. -/
def Announce.better (a b : Announce) : Bool :=
  if a.identity = b.identity then decide ([a.stepsRemoved, a.source] < [b.stepsRemoved, b.source])
  else
    decide ([a.priority1, a.clockClass, a.accuracy, a.variance, a.priority2, a.identity] <
      [b.priority1, b.clockClass, b.accuracy, b.variance, b.priority2, b.identity])

/-- An Announce message is taken into best-master selection: the selected master's own brings its latest data, another's counts
where it is better (R31). -/
def Chip.takeAnnounce (a : Announce) (c : Chip) : Chip :=
  let p := c.tb.ptp
  if !c.tb.ptEn || a.domain != p.domain || a.transport != p.transport || c.stew.phase == .restarting then c
  else
    let takes := match p.master with
      | none => true
      | some m => a.source == m.source || Announce.better a m
    if !takes then c
    else
      let same := match p.master with | none => false | some m => a.source == m.source
      let st := if same then c.tb.ptState else .uncalibrated
      let lost := c.tb.ptState == .slave && !same
      let c := { c with tb := { c.tb with ptState := st
                                          ptp := { p with master := some a, utcOffset := a.utcOffset, t1 := if same then p.t1 else none } } }
      if lost then c.raise 0x0105 2 [(2, c.tb.ptState.code)] else c

def execPtpAnnounce (msg : Announce) (s : State) : Host.Outcome State Fault Refusal :=
  s.run (okAnnounce msg) (Chip.live (Chip.takeAnnounce msg))

/-- The message comes from the selected master, in the domain and over the transport that `ptp.config` selects, at a
message interval that R31 accepts. -/
def Chip.fromMaster (c : Chip) (lo hi : Int) (m : PtpHeader) : Bool :=
  c.tb.ptEn && c.stew.phase != .restarting && m.domain == c.tb.ptp.domain && m.transport == c.tb.ptp.transport &&
    decide (lo ≤ m.interval) && decide (m.interval ≤ hi) &&
    (match c.tb.ptp.master with | none => false | some x => x.source == m.identity)

/-- An instant at the port, in ns, to the resolution of R31. -/
def portTime (ns : Nat) : Nat := ns / 8 * 8

/-- A Sync message: arrival `t2`, and with one step the departure `t1`, in ns of PT (R31). -/
def Chip.takeSync (m : PtpHeader) (seq : Nat) (twoStep : Bool) (t1 t2 : Nat) (c : Chip) : Chip :=
  if !c.fromMaster (-4) 1 m then c
  else { c with tb := { c.tb with ptp := { c.tb.ptp with
    syncSeq := seq, awaitFollowUp := twoStep, t1 := if twoStep then none else some (Int.ofNat t1), t2 := Int.ofNat (portTime t2) } } }

def execPtpSync (msg : PtpHeader) (seq : Nat) (twoStep : Bool) (t1 t2 : Nat) (s : State) : Host.Outcome State Fault Refusal :=
  s.run (okPtp msg && decide (seq < 65536)) (Chip.live (Chip.takeSync msg seq twoStep t1 t2))

def Chip.takeFollowUp (m : PtpHeader) (seq t1 : Nat) (c : Chip) : Chip :=
  if c.fromMaster (-4) 1 m && c.tb.ptp.awaitFollowUp && c.tb.ptp.syncSeq == seq then
    { c with tb := { c.tb with ptp := { c.tb.ptp with awaitFollowUp := false, t1 := some (Int.ofNat t1) } } }
  else c

def execPtpFollowUp (msg : PtpHeader) (seq t1 : Nat) (s : State) : Host.Outcome State Fault Refusal :=
  s.run (okPtp msg && decide (seq < 65536)) (Chip.live (Chip.takeFollowUp msg seq t1))

/-- A Delay_Req leaves, its departure `t3` noted in PT (R31). -/
def Chip.sendDelayReq (c : Chip) : Chip :=
  if c.tb.ptEn && c.tb.ptp.t1.isSome && c.stew.phase != .restarting then
    let q := (c.tb.ptp.delaySeq + 1) % 65536
    ({ c with tb := { c.tb with ptp := { c.tb.ptp with
      delaySeq := q, t3 := some (Int.ofNat (portTime (c.tb.pt / 2))) } } }).log (.ptpDelayReq q)
  else c

def execPtpDelayReqTimer (s : State) : Host.Outcome State Fault Refusal :=
  s.run true (Chip.live Chip.sendDelayReq)

/-- PT steps by an offset beyond 1 µs and slews otherwise (R32): it takes a frequency, which R32 does not give, and keeps
it until the next measurement. -/
def Chip.adjustPt (off : Int) (c : Chip) : Chip :=
  if 1000 < off.natAbs then { c with tb := { c.tb with pt := Int.toNat (Int.ofNat c.tb.pt - 2 * off), ptRunning := true } }
  else
    let (v, c) := c.draw
    { c with tb := { c.tb with ptRunning := true, ptRate := Int.ofNat (v % 400000001) - 200000000 } }

/-- An FT master in TRACK with FT_FROM_PT is steered in frequency toward PT, by at most 200 parts per 10^9; how far R33
leaves open (R33). -/
def Chip.steerFt (c : Chip) : Chip :=
  if c.ftMaster && c.tb.ftFromPt && c.tb.ftState == .track then
    let (v, c) := c.draw
    let part := Int.ofNat (v % 201)
    { c with tb := { c.tb with ftRate := if c.tb.pt < c.tb.ft then -part else part } }
  else c

/-- A Delay_Resp completes a measurement: the follower is SLAVE, PT steps or slews, and an FT master follows (R31 to R33). -/
def Chip.takeDelayResp (m : PtpHeader) (seq t4 : Nat) (c : Chip) : Chip :=
  match c.tb.ptp.t1, c.tb.ptp.t3 with
  | some t1, some t3 =>
    if c.fromMaster (-4) 2 m && c.tb.ptp.delaySeq == seq then
      let off := ((c.tb.ptp.t2 - t1) - (Int.ofNat t4 - t3)) / 2
      let c := { c with tb := { c.tb with ptState := .slave, ptp := { c.tb.ptp with offsetNs := off, t3 := none } } }
      (c.adjustPt off).steerFt
    else c
  | _, _ => c

def execPtpDelayResp (msg : PtpHeader) (seq t4 : Nat) (s : State) : Host.Outcome State Fault Refusal :=
  s.run (okPtp msg && decide (seq < 65536)) (Chip.live (Chip.takeDelayResp msg seq t4))

/-- announceReceiptTimeout expires (R32). -/
def Chip.loseMaster (c : Chip) : Chip :=
  if !c.tb.ptEn || c.stew.phase == .restarting then c
  else
    let lost := c.tb.ptState == .slave
    let c := { c with tb := { c.tb with ptState := .listening, ptp := { c.tb.ptp with master := none, t1 := none, t3 := none, awaitFollowUp := false } } }
    if lost then c.raise 0x0105 2 [(2, PtState.listening.code)] else c

def execPtpAnnounceTimeout (s : State) : Host.Outcome State Fault Refusal :=
  s.run true (Chip.live Chip.loseMaster)

/-! ### Captures, timestamps and latched reads (R43 to R51) -/

def Chip.cap (c : Chip) (n : Nat) : Capture := if n = 0 then c.tb.cap0 else c.tb.cap1

def Chip.setCap (n : Nat) (v : Capture) (c : Chip) : Chip :=
  if n = 0 then { c with tb := { c.tb with cap0 := v } } else { c with tb := { c.tb with cap1 := v } }

/-- The selection CAPn_EDGE takes this edge (TB_CAP_CTRL). -/
def Chip.capSelects (c : Chip) (n : Nat) (rising : Bool) : Bool :=
  bitAt (if n = 0 then c.tb.capEdge0 else c.tb.capEdge1) (if rising then 0 else 1)

/-- A selected edge is recorded, or counted in MISSED while a capture is held or under way (R43, R44). -/
def Chip.captureEdge (n : Nat) (rising : Bool) (c : Chip) : Chip :=
  let x := c.cap n
  if !c.capSelects n rising then c
  else if x.valid || x.waiting then
    (c.setCap n { x with missed := (x.missed + 1) % 2 ^ 14 }).stick 0x10008 (10 + n)
  else c.setCap n { x with sec := c.ftSec, ns := c.ftSubNs, aligned := c.tb.aligned, waiting := true }

def execTimeCapEdge (n : Nat) (rising : Bool) (s : State) : Host.Outcome State Fault Refusal :=
  s.run (decide (n < 2)) (Chip.fabric (Chip.captureEdge n rising))

/-- 32 core cycles after the edge the capture is held (R43). -/
def Chip.captureReady (n : Nat) (c : Chip) : Chip :=
  let x := c.cap n
  if x.waiting then (c.setCap n { x with waiting := false, valid := true }).raise 0x0108 0 [(1, n)] else c

def execTimeCaptured (n : Nat) (s : State) : Host.Outcome State Fault Refusal :=
  s.run (decide (n < 2)) (Chip.fabric (Chip.captureReady n))

/-- TB_CAPn_A. -/
def Capture.word (x : Capture) : Nat :=
  field x.sec 0 48 + field x.missed 48 14 + field (b2n x.aligned) 62 1 + field (b2n x.valid) 63 1

/-- A read of TB_CAPn_A (R45). -/
def Chip.readCap (n : Nat) (c : Chip) : Chip :=
  let x := c.cap n
  let c := c.log (.readData x.word)
  if x.valid then c.setCap n { x with valid := false, missed := 0, latchedNs := x.ns }
  else c.setCap n { x with latchedNs := 0 }

def execTimeCapRead (n : Nat) (s : State) : Host.Outcome State Fault Refusal :=
  s.run (decide (n < 2)) (Chip.fabric (Chip.readCap n))

/-- TB_TSQh_HI and TB_TSQh_LO of an entry (R49). -/
def Stamp.hi (x : Stamp) : Nat :=
  field x.deal 0 48 + field x.port 48 11 + field x.cls 59 3 + field x.epoch 62 1 + field 1 63 1

def Stamp.lo (x : Stamp) : Nat := field x.ftNs 0 32 + field x.ftSecLo 32 16 + field x.id 48 16

/-- A read of TB_TSQh_HI (R49). -/
def Chip.popStamp (h : Nat) (c : Chip) : Chip :=
  let q := c.tb.tsq.get h
  match q.entries with
  | [] => ({ c with tb := { c.tb with tsq := c.tb.tsq.set h { q with latchedLo := 0 } } }).log (.readData 0)
  | x :: t => ({ c with tb := { c.tb with tsq := c.tb.tsq.set h { entries := t, latchedLo := x.lo } } }).log (.readData x.hi)

def execTsqPop (half : Nat) (s : State) : Host.Outcome State Fault Refusal :=
  s.run (okHalf half) (Chip.fabric (Chip.popStamp half))

/-- A read of TB_FT_NS or TB_PT_NS latches the matching seconds for its requester (R51). -/
def Chip.readNs (req : Requester) (pt : Bool) (c : Chip) : Chip :=
  let ptSec := c.tb.pt / 2000000000 % 2 ^ 48
  let c := match req, pt with
    | .host, false => { c with tb := { c.tb with ftLatchHost := c.ftSec } }
    | .host, true => { c with tb := { c.tb with ptLatchHost := ptSec } }
    | .steward, false => { c with tb := { c.tb with ftLatchSteward := c.ftSec } }
    | .steward, true => { c with tb := { c.tb with ptLatchSteward := ptSec } }
    | .jtag, _ => c
  c.log (.readData (if pt then c.tb.pt / 2 % 1000000000 else c.ftSubNs))

def execFtNsRead (req : Requester) (pt : Bool) (s : State) : Host.Outcome State Fault Refusal :=
  s.run true (Chip.fabric (Chip.readNs req pt))

end Sys2Proof.Machine
end

