-- ==== Sys2Proof/Machine/Calendars.lean ====
section
/-! DEFINITION. Calendars, the egress schedulers and the meters' commands (07_calendars_and_meters.md). -/

namespace Sys2Proof.Machine

open Sys2Proof

/-! ### Calendars (R190 to R194) -/

/-- Entries of a `cal.load` written into a bank. -/
def CalBank.write (x : CalBank) (first : Nat) (l : List Nat) : CalBank :=
  { x with entries := (l.mapIdx (fun i w => (first + i, w))).foldl (fun t e => Tab.set (0xFF, 0) e.1 (bitsAt e.2 0 8, bitsAt e.2 8 16) t) x.entries }

def calLoadCmd : Command where
  words := fun w => 1 + bitsAt (w 0) 15 6
  act := fun r c =>
    let k := 32 * bitsAt (r.w 0) 0 1 + bitsAt (r.w 0) 1 5
    let first := bitsAt (r.w 0) 6 9
    let n := bitsAt (r.w 0) 15 6
    let commit := bitAt (r.w 0) 21
    let x := c.cal k
    let b := if x.running then 1 - x.active else x.active
    let bank := (x.bank b).write first ((List.range n).map (fun i => r.w (i + 1)))
    let bank := if commit then { bank with n := first + n, deals := bitsAt (r.w 0) 22 7 } else bank
    if 32 < n ∨ 256 < first + n ∨ (commit = true ∧ bank.valid c.dealCycles = false) then refuse c .badValue
    else if x.commitPending.isSome || x.stopPending.isSome then refuse c .busy
    else
      let y := x.setBank b bank
      if !commit then answer (c.setCal k y) [0, 0]
      else if x.running then
        let d := x.nextStart ((c.effectDeal + 2 ^ 48 - 1) % 2 ^ 48)
        answer (c.setCal k { y with commitPending := some d }) (dealWords d)
      else answer (c.setCal k { y with active := b }) (dealWords c.deal)

def execCalLoad (k : Nat) (s : State) : Host.Outcome State Fault Refusal :=
  s.run (okMbx k) (Chip.live (Chip.mirrored (Chip.accept 0x0701 k calLoadCmd)))

def calStartCmd : Command where
  words := fun _ => 3
  act := fun r c =>
    let k := 32 * bitsAt (r.w 0) 0 1 + bitsAt (r.w 0) 1 5
    let d := r.name 1
    let x := c.cal k
    if x.running then refuse c .busy
    else if c.tooLate d then refuse c .late
    else if !(x.bank x.active).valid c.dealCycles then refuse c .badValue
    else if !c.tb.aligned then refuse c .notAligned
    else answer (c.setCal k { x with running := true, origin := d, base := d, begun := false, entry := 0, opened := 0 })

def execCalStart (k : Nat) (s : State) : Host.Outcome State Fault Refusal :=
  s.run (okMbx k) (Chip.live (Chip.accept 0x0702 k calStartCmd))

def calStopCmd : Command where
  words := fun _ => 1
  act := fun r c =>
    let k := 32 * bitsAt (r.w 0) 0 1 + bitsAt (r.w 0) 1 5
    let x := c.cal k
    if !x.running then refuse c .badValue
    else
      let d := x.stopPending.getD (x.nextStart ((c.effectDeal + 2 ^ 48 - 1) % 2 ^ 48))
      answer (c.setCal k { x with stopPending := some d, commitPending := none }) (dealWords d)

def execCalStop (k : Nat) (s : State) : Host.Outcome State Fault Refusal :=
  s.run (okMbx k) (Chip.live (Chip.accept 0x0703 k calStopCmd))

def calBindCmd : Command where
  words := fun _ => 1
  act := fun r c =>
    let p := bitsAt (r.w 0) 0 12
    let k := bitsAt (r.w 0) 12 5
    let en := bitAt (r.w 0) 17
    if !c.isPort p then refuse c .badLane
    else
      let x := c.cal (32 * halfOf p + k)
      let d := if en && x.running then x.nextStart ((c.effectDeal + 2 ^ 48 - 1) % 2 ^ 48) else c.effectDeal
      answer (c.schedule d (.calBind p k en)) (dealWords d)

def execCalBind (k : Nat) (s : State) : Host.Outcome State Fault Refusal :=
  s.run (okMbx k) (Chip.live (Chip.accept 0x0704 k calBindCmd))

def schedConfigCmd : Command where
  words := fun _ => 2
  act := fun r c =>
    let p := bitsAt (r.w 0) 0 12
    if !c.isPort p then refuse c .badLane
    else if bitsAt (r.w 0) 22 3 = 0 then refuse c .badValue
    else atBoundary (.schedConfig p (bitsAt (r.w 0) 12 10) (bitsAt (r.w 0) 22 3) ((List.range 4).map (fun i => bitsAt (r.w 1) (4 * i) 4))) c

def execSchedConfig (k : Nat) (s : State) : Host.Outcome State Fault Refusal :=
  s.run (okMbx k) (Chip.live (Chip.accept 0x0705 k schedConfigCmd))

/-- A Calendar as it stands at core cycle `ft` of fabric time: each entry opens when the one before it has run its
DURATION (R193). -/
def Calendar.stand (ft : Nat) : Nat → Calendar → Calendar
  | 0, x => x
  | n + 1, x =>
    let b := x.bank x.active
    let t := x.opened + (b.entry x.entry).2
    if x.running && x.begun && decide (x.entry + 1 < b.n) && decide (t ≤ ft) then
      Calendar.stand ft n { x with entry := x.entry + 1, opened := t }
    else x

/-- The Calendar that governs a port now, if it runs and has begun (R190). DEDUCED: a DISPUTED port sends nothing under its gates
(R195) and still drains (R181), so it drains as a port without a Calendar. -/
def Chip.calOf (c : Chip) (p : Nat) : Option Calendar :=
  let s := c.sched p
  if !s.calEn || (c.port p).link == .disputed then none
  else
    let x := c.cal (32 * halfOf p + s.cal)
    if x.running && x.begun then some (x.stand c.tb.ft 256) else none

/-- The gate of class `k` is open in entry `e` of a bank; C0 and C1 always are (R191). -/
def CalBank.open_ (x : CalBank) (e k : Nat) : Bool := decide (k ≤ 1) || bitAt (x.entry e).1 k

/-- The next entry of a Calendar opens when the one before it has run its DURATION (R193); the first opens at
a cycle start, with its boundary. -/
def Chip.openEntry (k : Nat) (c : Chip) : Chip :=
  let x := (c.cal k).stand c.tb.ft 256
  let b := x.bank x.active
  let t := x.opened + (b.entry x.entry).2
  if !x.running || !x.begun || decide (b.n ≤ x.entry + 1) then c
  else if c.tb.ft + c.toBoundary ≤ t then c
  else (c.advance (t - c.tb.ft)).setCal k { x with entry := x.entry + 1, opened := t }

def execCalEntryOpen (half cal : Nat) (s : State) : Host.Outcome State Fault Refusal :=
  s.run (okHalf half && decide (cal < 32)) (Chip.fabric (Chip.openEntry (32 * half + cal)))

/-- Some entry of a bank opens the gate of a class. -/
def CalBank.opens (x : CalBank) (k : Nat) : Bool := (List.range x.n).any (fun e => x.open_ e k)

/-- Classes C2 to C7 of a port at the end of a Calendar cycle: one that waited the whole cycle, its gate
opening, without fitting is late (R187). At the first cycle start, `whole` false, no cycle ends. -/
def Sched.endCycle (whole : Bool) (heads : Nat → Bool) (b : CalBank) (s : Sched) : Sched :=
  { s with
    waits := (List.range 6).map (fun i => if whole && bitAt s.since (i + 2) && b.opens (i + 2) && !bitAt s.fitted (i + 2) then 2 else s.waits.getD i 0)
    since := (List.range 8).foldl (fun a k => if heads k then a + 2 ^ k else a) 0
    tried := 0, fitted := 0 }

/-- The same at the end of a Deal on a port without a Calendar. A Deal in which the port never tried the head counts neither
way. -/
def Sched.endDeal (s : Sched) : Sched :=
  { s with
    waits := (List.range 6).map (fun i =>
      if bitAt s.fitted (i + 2) then 0 else if bitAt s.tried (i + 2) then s.waits.getD i 0 + 1 else s.waits.getD i 0)
    tried := 0, fitted := 0 }

/-- A class of a port has a packet that has not begun. -/
def Chip.hasHead (c : Chip) (p k : Nat) : Bool := (c.queue (halfOf p) (pointOf p) k).pkts.any (fun x => !x.started)

/-- A Calendar at a boundary: stop, bank switch, cycle start (R193, R194, R200). -/
def Chip.calBoundary (c : Chip) (key : Nat) : Chip :=
  let x := c.cal key
  let d := c.deal
  if !x.running then c
  else
    let startsNow := c.reached x.base && (d + 2 ^ 48 - x.base) % 2 ^ 48 % max 1 x.length == 0
    let stops := match x.stopPending with | some e => c.reached e | none => false
    let commits := match x.commitPending with | some e => c.reached e | none => false
    let old := x.bank x.active
    let ps := (c.sch.sched.filter (fun e => decide (e.1 < 0x1000) && e.2.calEn && 32 * halfOf e.1 + e.2.cal == key)).map Prod.fst
    let c : Chip := if stops || startsNow then ps.foldl (fun c p => c.setSched p ((c.sched p).endCycle x.begun (c.hasHead p) old)) c else c
    if stops then c.setCal key { x with running := false, begun := false, stopPending := none, commitPending := none, entry := 0 }
    else if !startsNow then c.setCal key (x.stand c.tb.ft 256)
    else
      let x := if commits then { x with active := 1 - x.active, base := d, commitPending := none } else x
      c.setCal key { x with begun := true, entry := 0, opened := c.tb.ft }

/-! ### The scheduler (R183 to R189) -/

/-- Closing time in core cycles of the gate of class `k`, no later than the next boundary `lim` (R186). -/
def CalBank.closing (b : CalBank) (k lim : Nat) : Nat → Nat → Nat → Nat
  | 0, _, _ => lim
  | n + 1, e, t => if lim ≤ t ∨ b.n ≤ e then lim else if b.open_ e k then CalBank.closing b k lim n (e + 1) (t + (b.entry e).2) else t

/-- Close time of class `k` at a port (R186). -/
def Chip.closeTime (c : Chip) (p k : Nat) : Nat :=
  let lim := c.tb.ft + c.toBoundary
  match c.calOf p with
  | none => lim
  | some x =>
    let b := x.bank x.active
    b.closing k lim 256 (x.entry + 1) (x.opened + (b.entry x.entry).2)

/-- The gate of class `k` is open at a port. -/
def Chip.gateOpen (c : Chip) (p k : Nat) : Bool :=
  match c.calOf p with
  | none => true
  | some x => (x.bank x.active).open_ x.entry k

/-- The head of a queue, if it can leave: cut-through, or whole (R172). -/
def Queue.ready (lt : Nat) (x : Queue) : Option QPacket :=
  match x.pkts with
  | [] => none
  | y :: _ => if y.started ∨ lt < y.after then none else if y.cutThrough || decide (y.cells ≤ y.arrived) then some y else none

/-- What the scheduler finds of one class: nothing to start, a head that does not fit, one that fits, or one
that starts late under R187. -/
inductive Offer where
  | idle | unfit | fits | late
  deriving DecidableEq, Repr

/-- The time exchange of this Deal is still to be sent on a port (R23). -/
def Chip.exchangeDue (c : Chip) (p : Nat) : Bool :=
  !c.ftMaster && c.deal % 16 == 0 && c.tb.servo.outstanding != some c.deal && p == c.parentPort

/-- The first block time of the reserved window of a port is not over at `t` (R185). -/
def Chip.firstOfWindow (c : Chip) (p t : Nat) : Bool :=
  decide (t + (c.sched p).rsvd * c.blockTime p < (c.sched p).windowEnd + c.blockTime p)

/-- The offer of class `k` at start time `t` (hundredths of a core cycle) on `w` lanes. The first block of the window is kept for
the time exchange (R185). -/
def Chip.offer (c : Chip) (p k t w : Nat) : Offer :=
  match (c.queue (halfOf p) (pointOf p) k).ready c.tb.lt with
  | none => .idle
  | some x =>
    if k ≤ 1 then (if c.exchangeDue p && c.firstOfWindow p t then .idle else .fits)
    else if !c.gateOpen p k || decide (t < (c.sched p).windowEnd) then .idle
    else if t + blockTimes x.cells w * c.blockTime p ≤ 100 * c.closeTime p k then .fits
    else if 2 ≤ (c.sched p).waits.getD (k - 2) 0 then .late
    else .unfit

/-- Counted length of the head of a class (R183). -/
def Chip.headLength (c : Chip) (p k : Nat) : Nat :=
  match (c.queue (halfOf p) (pointOf p) k).ready c.tb.lt with
  | none => 0
  | some x => 32 + x.pkt.length + (c.sched p).ovh

/-- Deficit round robin over C2 to C5 (R189): the settings after the pick, and the class. -/
def drr (able : Nat → Bool) (len : Nat → Nat) : Nat → Sched → Sched × Option Nat
  | 0, s => (s, none)
  | n + 1, s =>
    let i := s.rr
    let w := s.weights.getD i 0
    let pass : Sched := { s with rr := (i + 1) % 4, visiting := false }
    if able (i + 2) && decide (0 < w) then
      let def0 := s.deficits.getD i 0
      let have_ := if s.visiting then def0 else def0 + w * 4096
      if len (i + 2) ≤ have_ then ({ s with visiting := true, deficits := s.deficits.set i (have_ - len (i + 2)) }, some (i + 2))
      else drr able len n { pass with deficits := s.deficits.set i have_ }
    else drr able len n pass

/-- The class to start, in the order of R188. -/
def Chip.pick (c : Chip) (p : Nat) (able : Nat → Bool) (s : Sched) : Sched × Option Nat :=
  match [0, 1].find? able with
  | some k => (s, some k)
  | none =>
    let mid := [2, 3, 4, 5].filter able
    match mid with
    | k :: _ => if mid.all (fun k => s.weights.getD (k - 2) 0 == 0) then (s, some k) else drr able (c.headLength p) 40 s
    | [] => (s, [6, 7].find? able)

/-- A bit cleared, or set, in a mask. -/
def maskSet (m b : Nat) (on : Bool) : Nat := if on then m ||| 2 ^ b else maskDiff m (2 ^ b)

/-- A packet of class `k` starts on a port (R173, R184, R187). -/
def Chip.startPacket (p k : Nat) (late : Bool) (c : Chip) : Chip :=
  let h := halfOf p
  let q := pointOf p
  let qu := c.queue h q k
  match qu.pkts with
  | [] => c
  | x :: rest =>
    let s := c.sched p
    let c := c.setQueue h q k { qu with pkts := { x with started := true } :: rest }
    let c := c.setSched p { s with
      sending := some k, closeAt := 100 * c.closeTime p k, overran := late
      waits := if k < 2 then s.waits else s.waits.set (k - 2) 0
      tried := maskSet s.tried k false, fitted := maskSet s.fitted k false, since := maskSet s.since k false }
    let c := if late then c.bump ⟨0xB80000 + 8 * p, 36, 15, 51⟩ 1 else c
    let c := c.putOut p { pkt := x.pkt, since := 0, lanes := 0, queued := true, stamp := x.stamp }
    let c := c.occur h 0x03 (some p) (some k) 1
    let c := if x.pkt.mark then c.occur h 0x04 (some p) (some k) 1 else c
    c.occur h (if x.cutThrough then 0x07 else 0x08) (some p) (some k) 1

/-- Lanes by which the look-ahead counts: those that take data now, or where none does RUN_WIDTH (R186, R195). -/
def Chip.aheadLanes (c : Chip) (p : Nat) : Nat := if c.dataLanes p = 0 then max 1 (c.ctWidth p) else c.dataLanes p

/-- The next block of the packet under way on a port is not there when the port needs it: it has not arrived (R173), or the port
places no data (R110). IDLE fills the gap. -/
def Chip.starved (c : Chip) (p : Nat) : Bool :=
  (c.sched p).leaving.any (fun x => decide (x.sent < x.pkt.cells) && decide (x.since ≤ 100 * c.tb.ft) &&
    (x.lanes == 0 || (x.queued && decide (c.headArrived p ≤ x.sent))))

/-- A port's scheduler picks a packet, or the port sends IDLE (R188). A port in RESIZE picks one too, whose data blocks wait for
the target, since it places none (R105, R110); one in DISPUTED drains (R181); one that is not up sends TRAINING blocks (R105). -/
def Chip.schedulePort (p : Nat) (c : Chip) : Chip :=
  let c := c.endSent
  let y := c.port p
  let s := c.sched p
  let w := c.aheadLanes p
  if y.link = .down ∨ y.link = .train then c.sendTraining p
  else if !y.link.live then c
  else if c.starved p then c.log (.idle p)
  else if s.sending.isSome || !s.leaving.isEmpty || decide (100 * c.tb.ft + 100 ≤ s.busyUntil) then c
  else if c.dataLanes p == 0 && y.link != LinkState.resize then c.log (.idle p)
  else
    let t := max s.busyUntil (100 * c.tb.ft)
    let offers := (List.range 8).map (fun k => c.offer p k t w)
    let able (k : Nat) : Bool := offers.getD k .idle == Offer.fits || offers.getD k .idle == Offer.late
    let s := { s with
      tried := (List.range 8).foldl (fun m k => if offers.getD k .idle == Offer.unfit then maskSet m k true else m) s.tried
      fitted := (List.range 8).foldl (fun m k => if offers.getD k .idle == Offer.fits then maskSet m k true else m) s.fitted }
    match c.pick p able s with
    | (s, none) => (c.setSched p s).log (.idle p)
    | (s, some k) => (c.setSched p s).startPacket p k (offers.getD k .idle == Offer.late)

/-- Blocks a Swift lane carries in a Deal, by period code (R117). -/
def swiftBlocks (period : Nat) : Nat := [95, 192, 386, 774, 1550].getD period 1550

/-- From a boundary on, the Span runs on the lanes then usable (R88). -/
def Chip.spanBoundary (h : Nat) (c : Chip) : Chip := c.setBuf h { c.xbar.buf.get h with spanWidth := c.spanLanes h }

/-- The packet under way on the Span goes on, on the lanes that it now has (R88, R95). -/
def Chip.refitSpan (h : Nat) (c : Chip) : Chip :=
  let s := c.sched (0x1000 + h)
  let b := c.xbar.buf.get h
  let lanes := c.spanNow h
  let now := 100 * c.tb.ft
  if s.sending.isNone || lanes == b.spanServing then c
  else
    let left := if b.spanServing = 0 then b.spanLeft else (s.busyUntil - now) * b.spanServing
    (c.setBuf h { b with spanServing := lanes, spanLeft := if lanes = 0 then left else 0 }).setSched (0x1000 + h)
      { s with busyUntil := if lanes = 0 then now else now + (left + lanes - 1) / lanes }

/-- The Span of half `h` serves its queues in strict order; the packet goes to the far half (R55, R177). -/
def Chip.scheduleSpan (h : Nat) (c : Chip) : Chip :=
  let c := c.endSent
  let p := 0x1000 + h
  let s := c.sched p
  let lanes := c.spanNow h
  if c.spanLanes h = 0 then c.flushSpan h
  else if lanes = 0 then c
  else if s.sending.isSome || decide (100 * c.tb.ft + 100 ≤ s.busyUntil) then c
  else
    match (List.range 8).find? (fun k => ((c.queue h 1026 k).ready c.tb.lt).isSome) with
    | none => c
    | some k =>
      let qu := c.queue h 1026 k
      match qu.pkts with
      | [] => c
      | x :: rest =>
        let t := max s.busyUntil (100 * c.tb.ft)
        let rate := lanes * (swiftBlocks c.tb.period + 1)
        let b := c.xbar.buf.get h
        let work := 100 * x.cells * c.dealCycles + (if t = s.busyUntil then b.spanFrac else 0)
        let c := c.setBuf h { b with spanFrac := work % rate, spanServing := lanes }
        let c := c.setQueue h 1026 k { qu with pkts := { x with started := true } :: rest }
        let c := (c.setSched p { s with sending := some k, busyUntil := t + work / rate }).occur h 0x0F none none x.cells
        let y := { x with started := false, priv := false, mcast := false, cutThrough := false, shared := 0, after := 0, fanout := [] }
        if x.fanout.isEmpty then c.follow (1 - h) x.via none true y else c.replicateNamed (1 - h) x.fanout y

def execEgressSchedule (port : Nat) (s : State) : Host.Outcome State Fault Refusal :=
  s.run (okEgress port) (Chip.fabric (if 0x1000 ≤ port then Chip.scheduleSpan (port - 0x1000) else Chip.schedulePort port))

/-- The marker and the reserved window of a live port at a boundary: the marker comes between two blocks of a packet that spans
the boundary, and the window follows the packet (R118, R185, R186). -/
def Chip.markerWindow (c : Chip) (p : Nat) : Chip :=
  let y := c.port p
  if y.link.live || y.link == LinkState.train then
    let c := c.settlePort p
    let s := c.sched p
    let b := c.blockTime p
    let stop := max s.busyUntil (100 * c.tb.ft) + b
    let s := if (c.calOf p).isSome then s else s.endDeal
    let later (x : Leaving) : Leaving := if x.sent < x.pkt.cells ∧ 0 < x.lanes then { x with since := x.since + b } else x
    (c.setSched p { s with leaving := s.leaving.map later, busyUntil := stop, windowEnd := stop + s.rsvd * b }).log (.marker p c.deal (c.hereMask p) c.tb.aligned c.tb.ftState.code)
  else c

/-! ### Meters (R197 to R199) -/

/-- Parameters of a meter as last accepted: in force, or awaiting their boundary. -/
def Chip.latestMeter (c : Chip) (m : Nat) : Meter :=
  c.due.foldl (fun x e => match e.2 with
    | .meterSet n cir pir cbs pbs g y r => if n = m then { x with cir := cir, pir := pir, cbs := cbs, pbs := pbs, actG := g, actY := y, actR := r } else x
    | _ => x) (c.meter m)

/-- A meter has a DEMOTE action. -/
def Meter.demotes (x : Meter) : Bool := x.actG == 2 || x.actY == 2 || x.actR == 2

/-- Bindings as last accepted. -/
def Chip.latestBindings (c : Chip) : Tab Nat :=
  c.due.foldl (fun t e => match e.2 with
    | .meterBind p k m en => Tab.set 0 (8 * p + k) (m + 0x8000 * b2n en) t
    | _ => t) c.sch.bindings

def meterSetCmd : Command where
  words := fun _ => 6
  act := fun r c =>
    let h := bitsAt (r.w 0) 0 1
    let m := 4096 * h + bitsAt (r.w 0) 1 12
    let g := bitsAt (r.w 5) 0 2
    let y := bitsAt (r.w 5) 2 2
    let d := bitsAt (r.w 5) 4 2
    let burst (v : Nat) : Bool := decide (17439 ≤ v) && decide (v ≤ 16777215)
    let demotes := g == 2 || y == 2 || d == 2
    let bound := c.latestBindings.any (fun e => halfOf (e.1 / 8) == h && e.2 == 0x8000 + m % 4096 && e.1 % 8 != 6)
    if 1600000 < r.w 1 ∨ 1600000 < r.w 2 ∨ r.w 2 < r.w 1 ∨ !burst (r.w 3) ∨ !burst (r.w 4) then refuse c .badValue
    else if demotes && bound then refuse c .conflict
    else atBoundary (.meterSet m (r.w 1) (r.w 2) (r.w 3) (r.w 4) g y d) c

def execMeterSet (k : Nat) (s : State) : Host.Outcome State Fault Refusal :=
  s.run (okMbx k) (Chip.live (Chip.accept 0x0711 k meterSetCmd))

def meterBindCmd : Command where
  words := fun _ => 1
  act := fun r c =>
    let p := bitsAt (r.w 0) 0 12
    let cls := bitsAt (r.w 0) 12 3
    let en := bitAt (r.w 0) 15
    let m := bitsAt (r.w 0) 16 12
    let x := c.latestMeter (4096 * halfOf p + m)
    if !c.isPort p then refuse c .badLane
    else if x.cbs = 0 then refuse c .badValue
    else if en && x.demotes && cls != 6 then refuse c .conflict
    else atBoundary (.meterBind p cls m en) c

def execMeterBind (k : Nat) (s : State) : Host.Outcome State Fault Refusal :=
  s.run (okMbx k) (Chip.live (Chip.accept 0x0712 k meterBindCmd))

/-- `meter.set` takes effect, with full buckets (R197, R199). -/
def Chip.applyMeter (m cir pir cbs pbs g y r : Nat) (c : Chip) : Chip :=
  c.setMeter m { cir := cir, pir := pir, cbs := cbs, pbs := pbs, actG := g, actY := y, actR := r
                 tc := cbs * tokenUnit, tp := pbs * tokenUnit, refilled := c.tb.lt }

def Chip.applyBinding (p k m : Nat) (en : Bool) (c : Chip) : Chip :=
  { c with sch := { c.sch with bindings := Tab.set 0 (8 * p + k) (m + 0x8000 * b2n en) c.sch.bindings } }

end Sys2Proof.Machine
end

