-- ==== Sys2Proof/Machine/Gates.lean ====
section
/-! DEFINITION. Gates: collecting tokens, the capacity check, dispatch, replies, the combine transfer, and the
commands of 12_gate_in_transit.md. -/

namespace Sys2Proof.Machine

open Sys2Proof

/-! ### Tokens (R331 to R335, R341, R342) -/

/-- Parts of a token row and of a reply row (R334). -/
def Gate.npartT (g : Gate) : Nat := (g.model + 8191) / 8192
def Gate.npartR (g : Gate) : Nat := (g.model + 4095) / 4096

/-- Elements of part `p` of a row cut into parts of `n`. -/
def partLen (model n p : Nat) : Nat := min n (model - n * p)

/-- Fields of a gate header (R335). -/
def gateKind (p : Packet) : Nat := bitsAt (p.word 0) 60 4
def gateFmt (p : Packet) : Nat := bitsAt (p.word 0) 56 4
def gateNelem (p : Packet) : Nat := bitsAt (p.word 0) 42 14
def gatePart (p : Packet) : Nat := bitsAt (p.word 0) 40 2
def gateNpart (p : Packet) : Nat := bitsAt (p.word 0) 38 2 + 1

/-- A TOKEN part fits its gate (R342). -/
def Gate.tokenOk (g : Gate) (p : Packet) : Bool :=
  let n := partLen g.model 8192 (gatePart p)
  p.crcGood && gateKind p == 6 && gateFmt p == g.fmt && gateNpart p == g.npartT && decide (gatePart p < g.npartT) &&
    gateNelem p == n && p.seq % 4 == gatePart p && p.length == 32 + ceilDiv n 32 + n

/-- Local row of a token: the tokens of its replica before it. -/
def Batch.localRow (x : Batch) (t : Token) : Nat := (x.tokens.filter (fun y => y.replica == t.replica && decide (y.row < t.row))).length

/-- The replica is in service (XG_GATE_STAT.LIVE). -/
def Gate.serves (g : Gate) (q : Nat) : Bool := bitAt g.live q

/-- A replica's batch is still held in Deal `now`: it is released at the boundary after its transfer (R354). -/
def ReplicaBatch.isHeld (r : ReplicaBatch) (now : Nat) : Bool :=
  !(r.phase == .released || (r.phase == .combining && r.transferred != now))

/-- The token of a source and TSEQ in a batch whose replica is still held. -/
def Gate.held (g : Gate) (src tseq now : Nat) : Option (Batch × Token) :=
  let here (x : Batch) : Option (Batch × Token) :=
    (x.tokens.find? (fun t => t.src == src && t.tseq == tseq && (x.replicaAt t.replica).any (fun r => r.isHeld now))).map (fun t => (x, t))
  g.batches.findSome? here

/-- A part is refused (R342). -/
def Chip.refuseToken (key : Nat) (c : Chip) : Chip := c.bump (gateCnt31 key 0 32) 1

/-- The batch that a token accepted now joins, a new one where there is none (R341). -/
def Gate.joining (g : Gate) (deal : Nat) : Batch :=
  (g.batchOf deal).getD { deal := deal, replicas := (List.range g.replicas).map (fun q => { replica := q, phase := if g.serves q then .collecting else .released }) }

/-- The replica for the next row of a batch: from row modulo Q on, the first in service with room. -/
def Gate.nextReplica (g : Gate) (x : Batch) : Option Nat :=
  let row := x.tokens.length
  ((List.range g.replicas).map (fun i => (row + i) % g.replicas)).find? (fun q => g.serves q && decide (x.rowsOf q < g.batchM))

/-- The scales and elements of a part go into the token buffer of every dispatch binding of its replica. -/
def Chip.writeToken (g : Gate) (x : Batch) (t : Token) (part : Nat) (payload : List Byte) (c : Chip) : Chip :=
  let n := partLen g.model 8192 part
  let body := payload.drop 32
  let row := x.localRow t
  (List.range g.shards).foldl (fun c s =>
    let b := t.replica * g.shards + s
    let buf := g.baseOf b + g.tokensAt (x.deal % 2)
    let c := c.writeBench (g.loomOf b) (buf + row * g.model + 8192 * part) (body.drop (ceilDiv n 32))
    c.writeBench (g.loomOf b) (buf + g.batchM * g.model + row * (g.model / 32) + 256 * part) (body.take (ceilDiv n 32))) c

/-- Keep a token with parts of it that have come, in its batch, that has it already (`known`) or not. The parts go to the Benches in
the batch's Deal of collection: those that come in the guard before it wait for its boundary (R341). -/
def Chip.keepToken (key : Nat) (known : Bool) (g : Gate) (x : Batch) (t : Token) (parts : Tab (List Byte)) (c : Chip) : Chip :=
  let t' := { t with parts := parts.foldl (fun l e => Tab.put e.1 e.2 l) t.parts }
  let x' := { x with tokens := if known then x.tokens.map (fun y => if y.row = t.row then t' else y) else x.tokens ++ [t'] }
  let g' := if g.batches.any (fun y => y.deal == x.deal) then g.setBatch x' else { g with batches := g.batches ++ [x'] }
  let c := c.setGate key g'
  let c : Chip := if known then c else (c.bump (gateCnt31 key 0 0) 1).occur (key / 16) 0x0D none none 1
  if x.deal = c.deal then parts.foldl (fun c e => c.writeToken g x' t' e.1 e.2) c else c

/-- The parts kept in the last guard go into the token buffers. -/
def Chip.writeKept (g : Gate) (c : Chip) : Chip :=
  match g.batchOf c.deal with
  | none => c
  | some x => x.tokens.foldl (fun c t => t.parts.foldl (fun c e => c.writeToken g x t e.1 e.2) c) c

/-- A TOKEN part looked at by its gate (R341, R342). DESIGN CHOICE: a part other than 0 that comes first is kept until its part 0 or
the next guard, which refuses it as INCOMPLETE; no row of R342 refuses it before. -/
def Chip.tokenAt (key : Nat) (g : Gate) (p : Packet) (c : Chip) : Chip :=
  let tseq := p.seq / 4 * 4
  if g.state ≠ .active ∨ !g.tokenOk p then c.refuseToken key
  else
    let mine (e : EarlyPart) : Bool := e.src == p.src && e.tseq == tseq
    match g.held p.src tseq c.deal with
    | some (x, t) =>
      if t.dropped || t.parts.any (fun e => e.1 == gatePart p) then c.refuseToken key
      else c.keepToken key true g x t [(gatePart p, p.payload)]
    | none =>
      if gatePart p ≠ 0 then
        (if g.early.any (fun e => mine e && e.part == gatePart p) then c.refuseToken key
        else c.setGate key { g with early := g.early ++ [⟨p.src, tseq, gatePart p, p.payload⟩] })
      else
        let x := g.joining ((c.deal + if c.inGuard then 1 else 0) % 2 ^ 48)
        match g.nextReplica x with
        | some q =>
          c.keepToken key false { g with early := g.early.filter (fun e => !mine e) } x
            { row := x.tokens.length, replica := q, src := p.src, tseq := tseq }
            ((0, p.payload) :: (g.early.filter mine).map (fun e => (e.part, e.body)))
        | none =>
          let c := (c.refuseToken key).bump (gateCnt15 key 3 32) 1
          if g.fullRaised then c else (c.setGate key { g with fullRaised := true }).raise 0x0C01 2 [(32, g.id)]

def Chip.token (h : Nat) (p : Packet) (c : Chip) : Chip :=
  match c.findGate p.id with
  | some (key, g) => if key / 16 = h ∧ p.cls = 4 then c.tokenAt key g p else c
  | none => c

def execToken (half : Nat) (pkt : Packet) (s : State) : Host.Outcome State Fault Refusal :=
  s.run (okHalf half && okPacket pkt) (Chip.fabric (Chip.token half pkt))

/-- The keys of the gates loaded. -/
def Chip.gateKeys (c : Chip) : List Nat := c.gate.gate.map Prod.fst

/-- Tokens of the Deal's batch that lack a part when its guard begins are dropped, and their parts count as
refused (R341, R342). -/
def Chip.gateGuard (c : Chip) : Chip :=
  c.gateKeys.foldl (fun c key =>
    match c.gateOf key with
    | none => c
    | some g0 =>
      let g := { g0 with early := [] }
      let c := if g0.early.isEmpty then c else (c.setGate key g).bump (gateCnt31 key 0 32) g0.early.length
      match g.batchOf c.deal with
      | none => c
      | some x =>
        let short (t : Token) : Bool := !t.dropped && decide (t.parts.length < g.npartT)
        let parts := (x.tokens.filter short).foldl (fun a t => a + t.parts.length) 0
        (c.setGate key (g.setBatch { x with tokens := x.tokens.map (fun t => if short t then { t with dropped := true } else t) })).bump
          (gateCnt31 key 0 32) parts) c

/-! ### The capacity check (R343 to R346) -/

/-- A candidate: expert, weight or value, FP32 bits. -/
abbrev Candidate := Nat × Nat

/-- The record of a token from shard `s`: its candidates and its largest logit (R317, R343). -/
def Chip.gateRecord (c : Chip) (g : Gate) (q row s : Nat) : List Candidate × Nat :=
  let b := q * g.shards + s
  let v := c.benchOf (g.loomOf b)
  let a := g.baseOf b + g.recordsAt + 64 * row
  ((List.range g.cands).map (fun j => (s * g.es + v.word (a + 32 + 2 * j) 2, v.word (a + 4 * j) 4)), v.word (a + 48) 4)

/-- The candidates of a token, best first with their weights, and its largest logit (R344). -/
def Chip.candidates (c : Chip) (g : Gate) (q row : Nat) : List Candidate × Nat :=
  if g.shards = 1 then c.gateRecord g q row 0
  else
    let all := ((List.range g.shards).map (c.gateRecord g q row)).flatMap Prod.fst
    let byNumber := all.mergeSort (fun a b => decide (a.1 ≤ b.1))
    let best := bestOf g.cands byNumber
    let ws := softWeights g.k (best.map Prod.snd)
    (best.mapIdx (fun i e => (e.1, ws.getD i 0)), toF32 (ofF32 ((best.map Prod.snd).headD 0)))

/-- Expert `e` of a gate is enabled and has room. -/
def Gate.room (g : Gate) (used : Tab Nat) (e : Nat) : Bool :=
  (Tab.get (0, false) e g.map).2 && decide (Tab.get 0 e used < Tab.get 0 e g.cap)

/-- The choices of one token and the counts after it (R346). -/
def Gate.choose (g : Gate) (cand : List Candidate) (used : Tab Nat) : List Choice × Tab Nat :=
  (List.range g.k).foldl (fun r j =>
    let own := cand.getD j (0xFFFF, 0)
    let take (e : Candidate) (o : Outcome) : List Choice × Tab Nat :=
      (r.1 ++ [{ expert := e.1, weight := e.2, outcome := o, name := (Tab.get (0, false) e.1 g.map).1 }], Tab.put e.1 (Tab.get 0 e.1 r.2 + 1) r.2)
    if g.room r.2 own.1 then take own .dispatched
    else if g.policy = 2 then (r.1 ++ [{ expert := own.1, weight := own.2, outcome := .scavenged, name := (Tab.get (0, false) own.1 g.map).1 }], r.2)
    else
      let spare := (cand.drop g.k).find? (fun e => g.room r.2 e.1 && !r.1.any (fun x => x.outcome == .substituted && x.expert == e.1))
      match (if g.policy = 0 then spare else none) with
      | some e => take e .substituted
      | none => (r.1 ++ [{ expert := own.1, weight := own.2, outcome := .residual }], r.2)) ([], used)

/-- A token after the check. -/
def Chip.checkToken (g : Gate) (x : Batch) (t : Token) (used : Tab Nat) (c : Chip) : Token × Tab Nat :=
  let (cand, top) := c.candidates g t.replica (x.localRow t)
  if (cand.take g.k).any (fun e => (ofF32 e.2).isNan) then
    ({ t with maxLogit := top, nan := true
              choices := (cand.take g.k).map (fun e => { expert := e.1, weight := e.2, outcome := .residual }) }, used)
  else
    let (choices, used) := g.choose cand used
    ({ t with maxLogit := top, choices := choices }, used)

/-- Choices of a list of tokens with an outcome. -/
def outcomes (o : Outcome) (l : List Token) : Nat := l.foldl (fun a t => a + (t.choices.filter (fun x => x.outcome == o)).length) 0

/-- Every dispatch run of a batch has ended (R331). -/
def Batch.ran (x : Batch) : Bool :=
  x.replicas.all (fun r => r.phase == .released || (r.phase == .running && r.awaiting.isEmpty))

/-- The gate unit checks the oldest batch whose dispatch runs have ended (R344 to R346). -/
def Chip.capacityCheck (key : Nat) (c : Chip) : Chip :=
  match c.gateOf key with
  | none => c
  | some g =>
    match g.batches.find? (fun x => !x.isChecked && x.ran) with
    | none => c
    | some x =>
      let step (r : List Token × Tab Nat) (t : Token) : List Token × Tab Nat :=
        if t.dropped then (r.1 ++ [t], r.2)
        else
          let (t', used) := c.checkToken g x t r.2
          (r.1 ++ [t'], used)
      let (tokens, _) := x.tokens.foldl step ([], [])
      let live := tokens.filter (fun t => !t.dropped)
      let x' := { x with isChecked := true, tokens := tokens
                         replicas := x.replicas.map (fun r => if r.phase = .running then { r with phase := .checked } else r) }
      let c := c.setGate key (g.setBatch x')
      let c := (c.bump (gateCnt15 key 1 0) (outcomes .substituted live)).bump (gateCnt15 key 1 16) (outcomes .residual live)
      (c.bump (gateCnt15 key 1 32) (outcomes .scavenged live)).bump (gateCnt15 key 1 48) (live.filter (·.nan)).length

def execGateCapacityCheck (half gate : Nat) (s : State) : Host.Outcome State Fault Refusal :=
  s.run (okHalf half && decide (gate < 16)) (Chip.fabric (Chip.capacityCheck (16 * half + gate)))

/-! ### Dispatch (R333, R335, R336, R347) -/

/-- A gate header (R335). -/
def gateHeader (kind fmt nelem part npart tsrc tseq deal : Nat) : List Byte :=
  beBytes 8 (field kind 60 4 + field fmt 56 4 + field nelem 42 14 + field part 40 2 + field (npart - 1) 38 2) ++
    beBytes 8 (field tsrc 16 48) ++ beBytes 8 (field tseq 32 32) ++ beBytes 8 (deal % 2 ^ 48)

/-- Code of an outcome in a TICKET (R336). -/
def Outcome.code : Outcome → Nat | .dispatched => 0 | .substituted => 1 | .residual => 2 | .scavenged => 3

/-- A list filled with `z` to `n` entries. -/
def padTo (n z : Nat) (l : List Nat) : List Nat := l ++ List.replicate (n - l.length) z

/-- No choice of the token was dispatched. -/
def Token.residual (t : Token) : Bool := t.choices.all (fun x => x.outcome == .residual)

/-- The payload of a token's TICKET (R335, R336). -/
def Gate.ticket (g : Gate) (deal : Nat) (t : Token) : List Byte :=
  let num (x : Choice) : Nat := if x.outcome = .residual then 0xFFFF else x.expert
  gateHeader 9 g.fmt 0 0 1 t.src t.tseq deal ++
    (padTo 8 0 (t.choices.map (·.weight))).flatMap (leBytes 4) ++ (padTo 8 0xFFFF (t.choices.map num)).flatMap (leBytes 2) ++
    (padTo 8 0xFF (t.choices.map (fun x => x.outcome.code))).flatMap (leBytes 1) ++ leBytes 4 t.maxLogit ++
    leBytes 4 (b2n t.residual + 2 * b2n t.nan)

/-- DSEQ of a part for a choice (R333). -/
def dseq (deal row choice part : Nat) : Nat := field deal 20 12 + field row 5 15 + field choice 2 3 + field part 0 2

/-- One DISPATCH copy to an expert by route lookup; only PORT and FAN routes carry it (R347). -/
def Chip.dispatchCopy (key tag : Nat) (many : Bool) (p : Packet) (c : Chip) : Chip :=
  let h := key / 16
  let x : QPacket := { tag := tag, pkt := p, cells := p.cells, arrived := p.cells, mcast := many }
  match c.route h p with
  | (c, none) => c.bump (gateCnt15 key 3 16) 1
  | (c, some b) =>
    if bitsAt b 60 4 = 1 ∨ bitsAt b 60 4 = 2 then
      let c : Chip := if many then c.occur h 0x0E none (some p.cls) 1 else c
      c.follow h b none false x
    else c.bump (gateCnt15 key 3 16) 1

/-- The DISPATCH copies of one part of a token. -/
def Chip.dispatchPart (key : Nat) (g : Gate) (deal : Nat) (t : Token) (part : Nat) (c : Chip) : Chip :=
  let h := key / 16
  let body := (Tab.get [] part t.parts).drop 32
  let payload := gateHeader 7 g.fmt (partLen g.model 8192 part) part g.npartT t.src t.tseq deal ++ body
  let goes := (t.choices.zipIdx).filter (fun e => e.1.outcome != .residual)
  match c.currentEpoch h with
  | none => c.bump (routeStat h 16) goes.length
  | some ep =>
    let (tag, c) := c.newTag
    goes.foldl (fun c e =>
      let p := mkPacket e.1.name (if e.1.outcome = .scavenged then 7 else 4) ep g.resultSrc g.id
        (dseq deal t.row e.2 part) false payload
      c.dispatchCopy key tag (decide (2 ≤ goes.length)) p) c

/-- A token's TICKET and DISPATCH copies are enqueued. -/
def Chip.dispatchToken (key : Nat) (g : Gate) (deal : Nat) (t : Token) (c : Chip) : Chip :=
  let c := c.originateFrom (key / 16) g.resultSrc t.src 4 g.id t.tseq false none (g.ticket deal t)
  if t.residual then c else (List.range g.npartT).foldl (fun c p => c.dispatchPart key g deal t p) c

/-- Parts that a token awaits: 4 × choice + part (R349). -/
def Gate.awaited (g : Gate) (t : Token) : List Nat :=
  if t.dropped then []
  else ((t.choices.zipIdx).filter (fun e => e.1.outcome != .residual)).flatMap (fun e => (List.range g.npartR).map (fun p => 4 * e.2 + p))

/-- Every awaited part of a replica has come. -/
def Gate.allReplied (g : Gate) (x : Batch) (q : Nat) : Bool :=
  (x.tokens.filter (fun t => t.replica == q)).all (fun t => (g.awaited t).all (fun i => t.replies.any (fun e => e.1 == i)))

/-- A checked batch is dispatched (R331, R347). -/
def Chip.dispatchBatch (key : Nat) (g : Gate) (x : Batch) (c : Chip) : Chip :=
  let ready (q : Nat) : Bool := (x.replicaAt q).any (fun r => r.phase == .checked)
  let c := (x.tokens.filter (fun t => !t.dropped && ready t.replica)).foldl (fun c t => c.dispatchToken key g x.deal t) c
  let open_ (r : ReplicaBatch) : ReplicaBatch :=
    if r.phase != .checked then r
    else if g.allReplied x r.replica then { r with phase := .collected, dispatched := c.deal, ended := c.deal }
    else { r with phase := .replies, dispatched := c.deal }
  let c : Chip := if x.deal + 2 < c.deal then c.bump (gateCnt15 key 3 48) 1 else c
  match c.gateOf key with
  | none => c
  | some g => c.setGate key (g.setBatch { x with replicas := x.replicas.map open_ })

/-! ### Replies (R352, R353) -/

/-- A REPLY part fits its gate (R352). -/
def Gate.replyOk (g : Gate) (p : Packet) : Bool :=
  let part := p.seq % 4
  let n := partLen g.model 4096 part
  p.crcGood && gateKind p == 8 && gateFmt p == 1 && gatePart p == part && decide (part < g.npartR) &&
    gateNelem p == n && p.length == 32 + 2 * n

/-- A REPLY looked at by its gate; from the boundary of the deadline on it is STALE (R352, R353). -/
def Chip.replyAt (key : Nat) (g : Gate) (p : Packet) (c : Chip) : Chip :=
  let stale := c.bump (gateCnt31 key 2 32) 1
  let i := 4 * bitsAt p.seq 2 3 + p.seq % 4
  let open_ (x : Batch) (q : Nat) : Bool := (x.replicaAt q).any (fun r => r.phase == .replies && decide (c.deal < r.dispatched + g.wait))
  match g.batches.find? (fun x => x.deal % 4096 == bitsAt p.seq 20 12 && x.replicas.any (fun r => r.phase == .replies)) with
  | none => stale
  | some x =>
    match x.tokens.find? (fun t => t.row == bitsAt p.seq 5 15) with
    | none => stale
    | some t =>
      if !g.replyOk p || !open_ x t.replica || !(g.awaited t).contains i || t.replies.any (fun e => e.1 == i) then stale
      else
        let t' := { t with replies := Tab.put i (p.payload.drop 32) t.replies }
        let x' := { x with tokens := x.tokens.map (fun y => if y.row = t.row then t' else y) }
        let done := g.allReplied x' t.replica
        let x' := if done then { x' with replicas := x'.replicas.map (fun r =>
          if r.replica = t.replica then { r with phase := .collected, ended := c.deal } else r) } else x'
        (c.setGate key (g.setBatch x')).bump (gateCnt31 key 2 0) 1

def Chip.reply (h : Nat) (p : Packet) (c : Chip) : Chip :=
  match c.findGate p.id with
  | some (key, g) => if key / 16 = h ∧ p.cls = 5 then c.replyAt key g p else c
  | none => c

def execReply (half : Nat) (pkt : Packet) (s : State) : Host.Outcome State Fault Refusal :=
  s.run (okHalf half && okPacket pkt) (Chip.fabric (Chip.reply half pkt))

/-- Reply collection of a batch's replicas ends at its deadline; tokens with a part missing are suppressed
(R353). -/
def Chip.combineDeadline (key : Nat) (c : Chip) : Chip :=
  match c.gateOf key with
  | none => c
  | some g =>
    let due (r : ReplicaBatch) : Bool := r.phase == .replies && decide (r.dispatched + g.wait ≤ c.deal)
    let late (x : Batch) (t : Token) : Bool :=
      (x.replicaAt t.replica).any due && !(g.awaited t).all (fun i => t.replies.any (fun e => e.1 == i))
    let count := g.batches.foldl (fun a x => a + (x.tokens.filter (late x)).length) 0
    let close (x : Batch) : Batch :=
      { x with tokens := x.tokens.map (fun t => if late x t then { t with suppressed := true } else t)
               replicas := x.replicas.map (fun r => if due r then { r with phase := .collected, ended := c.deal } else r) }
    let g' := { g with batches := g.batches.map close, suppressedNow := g.suppressedNow + count }
    let c := (c.setGate key g').bump (gateCnt15 key 3 0) count
    if 0 < count ∧ g.suppressedNow = 0 then c.raise 0x0C02 2 [(32, g.id), (16, min 65535 count)] else c

def execGateCombineDeadline (half gate : Nat) (s : State) : Host.Outcome State Fault Refusal :=
  s.run (okHalf half && decide (gate < 16)) (Chip.fabric (Chip.combineDeadline (16 * half + gate)))

/-! ### The combine transfer (R354) -/

/-- A header template: DEST, CLASS 5, the gate's ID and SEQ (R116, R354). -/
def template (dest id seq : Nat) : List Byte :=
  beBytes 8 (field dest 16 48 + field 5 13 3) ++ beBytes 8 0 ++ beBytes 8 (field id 32 32 + field seq 0 32) ++ beBytes 8 0

/-- The row of a choice: its reply parts, or zeros for one not awaited or not come. -/
def Gate.expertRow (g : Gate) (t : Token) (j : Nat) : List Byte :=
  (List.range g.npartR).flatMap (fun p =>
    let n := 2 * partLen g.model 4096 p
    match t.replies.find? (fun e => e.1 == 4 * j + p) with
    | some e => e.2
    | none => List.replicate n 0)

/-- Write one token of a batch into the combine buffer of its binding. -/
def Chip.writeCombine (g : Gate) (x : Batch) (parity : Nat) (t : Token) (c : Chip) : Chip :=
  let r := x.localRow t
  let b := g.combineAt t.replica (r % max 1 g.cq)
  let i := r / max 1 g.cq
  let base := g.baseOf b
  let n := g.loomOf b
  let rows := (List.range g.k).flatMap (fun j => g.expertRow t j)
  let waits (j : Nat) : Bool := (g.awaited t).contains (4 * j)
  let ws := padTo 16 0 ((t.choices.zipIdx).map (fun e => if waits e.2 then e.1.weight else 0))
  let here := t.dropped || t.suppressed || t.residual
  let dest := if here then c.nest.self else t.src
  let c := c.writeBench n (base + g.rowsAt parity + i * g.k * 2 * g.model) rows
  let c := c.writeBench n (base + g.combineRecordsAt parity + 64 * i) (ws.flatMap (leBytes 4))
  c.writeBench n (base + g.templatesAt parity + 32 * i) (template dest g.id t.tseq)

/-- The transfer of one replica's batch. -/
def Chip.transferBatch (key : Nat) (g : Gate) (x : Batch) (r : ReplicaBatch) (c : Chip) : Chip :=
  let parity := Tab.get 0 r.replica g.transfers % 2
  let c := (x.tokens.filter (fun t => t.replica == r.replica)).foldl (fun c t => c.writeCombine g x parity t) c
  let r' := { r with phase := .combining, transferred := c.deal, parity := parity
                     awaiting := (List.range g.cq).map (fun j => g.combineAt r.replica j) }
  let g' := { g with transfers := Tab.put r.replica (Tab.get 0 r.replica g.transfers + 1) g.transfers }
  c.setGate key (g'.setBatch (x.setReplica r'))

/-- At most one batch of each replica transfers in a Deal, the oldest collected before it. -/
def Chip.gateTransfers (key : Nat) (c : Chip) : Chip :=
  match c.gateOf key with
  | none => c
  | some g0 =>
    (List.range g0.replicas).foldl (fun c q =>
      match c.gateOf key with
      | none => c
      | some g =>
        match g.batches.find? (fun x => (x.replicaAt q).any (fun r => r.phase == .collected && decide (r.ended < c.deal))) with
        | none => c
        | some x => match x.replicaAt q with | some r => c.transferBatch key g x r | none => c) c

/-! ### Weights, loss of a replica, and boundaries (R338, R340, R355) -/

/-- The Larder's fetch of each shard's weights into a bank of its dispatch bindings (R338, R340). -/
def Chip.fetchWeights (g : Gate) (region bank : Nat) (c : Chip) : Chip :=
  (List.range g.dispatches).foldl (fun c b =>
    let n := g.loomOf b
    let a := g.baseOf b + g.weightsAt bank
    let f : Fill := { bench := a, length := g.wbytes, region := region, offset := b % g.shards * g.wbytes
                      granules := benchGranules a g.wbytes, deal := (c.deal + 3) % 2 ^ 48 }
    let x := c.loomAt n
    (if g.wbytes = 0 then c else c.setLoom n { x with fills := x.fills ++ [f] }).chargeRecipe (bitsAt region 31 1) g.wbytes) c

/-- `gate.load` takes effect. -/
def Chip.applyGateLoad (key : Nat) (c : Chip) : Chip :=
  match c.gateOf key with
  | none => c
  | some g =>
    let live := (List.range g.replicas).foldl (fun a q =>
      let mine := (List.range g.bindings.length).filter (fun b => g.replicaOf b == q)
      if mine.all (fun b => c.loomServes (g.loomOf b)) then a + 2 ^ q else a) 0
    let g' := { g with loadDeal := c.deal, live := live, state := if live = 0 then .failed else .loading }
    ((c.setGate key g').fetchWeights g g.region 0).lowerXfer (key / 16)

def Chip.applyGateUnload (key : Nat) (c : Chip) : Chip :=
  match c.gateOf key with
  | none => c
  | some g => c.setGate key { g with state := .unloading }

def Chip.applyGateMap (key first : Nat) (experts : List (Nat × Bool)) (c : Chip) : Chip :=
  match c.gateOf key with
  | none => c
  | some g => c.setGate key { g with map := (experts.zipIdx).foldl (fun t e => Tab.set (0, false) (first + e.2) e.1 t) g.map }

def Chip.applyGateCap (key first : Nat) (caps : List Nat) (c : Chip) : Chip :=
  match c.gateOf key with
  | none => c
  | some g => c.setGate key { g with cap := (caps.zipIdx).foldl (fun t e => Tab.set 0 (first + e.2) e.1 t) g.cap }

/-- A replica with a retired Loom is lost: its batches are dropped (R355). -/
def Chip.loseReplica (key q : Nat) (c : Chip) : Chip :=
  match c.gateOf key with
  | none => c
  | some g =>
    if !g.serves q then c
    else
      let live := g.live - 2 ^ q
      let c := c.setGate key { g with live := live, state := if live = 0 ∧ g.state ≠ .unloading then .failed else g.state }
      let held := (g.batches.filter (fun x => (x.replicaAt q).any (fun r => r.phase != .released))).map (·.deal)
      (held.foldl (fun c d => c.dropReplicaBatch key d q) c).raise 0x0C03 3 [(32, g.id), (5, q)]

/-- Replicas lost with a Loom. -/
def Chip.loseLoomReplicas (n : Nat) (c : Chip) : Chip :=
  c.gateKeys.foldl (fun c key =>
    match c.gateOf key with
    | none => c
    | some g =>
      let qs := ((List.range g.bindings.length).filter (fun b => g.loomOf b == n)).map g.replicaOf
      qs.eraseDups.foldl (fun c q => c.loseReplica key q) c) c

/-- A gate that accepts tokens has a batch for the Deal that ended, with no token where none came: its runs start, too (R343). -/
def Gate.emptyBatch (g : Gate) (now : Nat) : Gate :=
  let last := (now + 2 ^ 48 - 1) % 2 ^ 48
  if g.state = .active ∧ (g.batchOf last).isNone then { g with batches := g.batches ++ [g.joining last] } else g

/-- The batch collected in the Deal that ended starts its dispatch runs (R331). -/
def Gate.closeBatch (g : Gate) (now : Nat) : Gate :=
  let start (r : ReplicaBatch) : ReplicaBatch :=
    if r.phase = .collecting then { r with phase := .running, awaiting := (List.range g.shards).map (fun s => r.replica * g.shards + s) } else r
  match g.batches.find? (fun x => decide (x.deal < now) && x.replicas.any (fun r => r.phase == .collecting)) with
  | none => g
  | some x =>
    { g.setBatch { x with replicas := x.replicas.map start } with lastDeal := x.deal, lastTokens := min 0xFFFF x.tokens.length }

/-- Load, swap and batches of one gate at the boundary that begins a Deal. -/
def Chip.gateBoundary (key : Nat) (c : Chip) : Chip :=
  match c.gateOf key with
  | none => c
  | some g =>
    let g := { g with fullRaised := false, suppressedNow := 0 }
    let g := (g.emptyBatch c.deal).closeBatch c.deal
    let g := if g.state = .loading ∧ c.reached g.activeAt then { g with state := .active } else g
    let g := match g.swap with
      | some (_, f) => if c.reached f then { g with wbank := 1 - g.wbank, swap := none } else g
      | none => g
    let g := { g with batches := g.batches.filter (fun x => x.replicas.any (fun r => r.phase != .released)) }
    let c : Chip := (c.setGate key g).writeKept g
    let c : Chip := match g.swap with
      | some (region, f) => if f = (c.deal + 4) % 2 ^ 48 then c.fetchWeights g region (1 - g.wbank) else c
      | none => c
    if g.state = .unloading ∧ g.batches.isEmpty then { c with gate := { gate := Tab.erase key c.gate.gate } }
    else
      let ready := g.batches.filter (fun x => x.isChecked && decide (x.deal + 2 ≤ c.deal) && x.replicas.any (fun r => r.phase == .checked))
      (ready.foldl (fun c x => c.dispatchBatch key g x) c).gateTransfers key

/-- Every gate at a boundary. -/
def Chip.gatesBoundary (c : Chip) : Chip := c.gateKeys.foldl (fun c key => c.gateBoundary key) c

/-! ### Registers (XG_GATE_) -/

def GateState.code : GateState → Nat | .loading => 1 | .active => 2 | .unloading => 3 | .failed => 4

/-- XG_GATE_STAT, XG_GATE_LAST and XG_GATE_BIND. -/
def Gate.stat (g : Gate) : Nat := g.state.code + field g.wbank 3 1 + field (b2n g.swap.isSome) 4 1 + field g.live 5 32
def Gate.lastWord (g : Gate) : Nat := g.lastDeal % 2 ^ 48 + field g.lastTokens 48 16
def Chip.gateBind (c : Chip) (g : Gate) (b : Nat) : Nat :=
  match g.bindings[b]? with
  | none => 0
  | some e =>
    field e.1 0 6 + field e.2.1 6 4 + field e.2.2 10 17 + field (b2n (decide (g.dispatches ≤ b))) 27 1 + field (b2n (c.loomServes e.1)) 28 1

/-! ### Commands (R337, R338, R356) -/

/-- Gating is absent on RQ-PN9-T (R329). -/
def noGating (c : Chip) : Bool := !(capsOf c.fuses.variant).gating

/-- Two bindings name one Loom and slot. -/
def sameBinding : List (Nat × Nat × Nat) → Bool
  | [] => false
  | b :: t => t.any (fun x => x.1 == b.1 && x.2.1 == b.2.1) || sameBinding t

/-- The checks of BAD_VALUE of R338. DESIGN CHOICE: a WREGION of the other half holds no bytes for the gate (R54). -/
def Chip.gateBad (c : Chip) (g : Gate) : Bool :=
  let z := g.fld 0 0 3 != 0 || g.fld 1 0 31 != 0 || g.fld 2 0 8 != 0 || g.fld 3 0 16 != 0
  let fields := g.id == 0 || decide (g.cands < g.k) || !(g.fmt == 2 || g.fmt == 3) || g.policy == 3 || g.wait == 0 ||
    decide (64 < g.wait) || g.model == 0 || decide (16384 < g.model) || decide (5 < g.fld 1 53 3) || g.replicas == 0 ||
    decide (32 < g.replicas) || g.cq == 0 || decide (4 < g.cq) || decide (g.batchM < 4) || decide (4096 < g.batchM) ||
    !(g.resultSrc == c.nest.self || (g.resultSrc == c.nest.pair && g.resultSrc != 0))
  let past := (List.range g.bindings.length).any (fun b =>
    decide (2 ^ 23 < g.baseOf b + (if b < g.dispatches then g.dispatchBytes else 2 * g.combineBytes)))
  let region := match c.regionOf g.region with
    | some r => bitsAt g.region 31 1 != bitsAt g.id 31 1 || decide (r.pages * 65536 < g.shards * g.wbytes)
    | none => true
  z || fields || decide (2048 < g.seg) || decide (32 < g.dispatches) || decide (32 < g.replicas * g.cq) ||
    decide (32768 < g.replicas * g.batchM) || past || region

/-- Tokens per Deal of the gates of a half. -/
def Chip.gateTokens (c : Chip) (h : Nat) : Nat :=
  (c.gate.gate.filter (fun e => e.1 / 16 == h)).foldl (fun a e => a + e.2.replicas * e.2.batchM) 0

/-- The half has no room for the gate (R338, R351, R356). -/
def Chip.gateNoSpace (c : Chip) (h : Nat) (g : Gate) : Bool :=
  decide (16 ≤ (c.gate.gate.filter (fun e => e.1 / 16 == h)).length) || c.noKittySpace h (gateSlots g.desc) (gateCells g.desc) ||
    decide (2 * (c.dealCycles - 64) < c.gateTokens h + g.replicas * g.batchM) ||
    decide (c.linkLeft h < 256 * (c.kit.half.get h).xferBudget + gateLink g.desc)

/-- A binding that R338 refuses as CONFLICT. -/
def Chip.bindingConflict (c : Chip) (h id : Nat) (b : Nat × Nat × Nat) : Bool :=
  let s := c.slotAfter b.1 b.2.1
  b.1 / 32 != h || !(s.en && s.mode == 2 && s.gate == id)

def gateLoadCmd : Command where
  absent := noGating
  words := fun w =>
    let v := w 2 + 2 ^ 32 * w 3
    8 + bitsAt v 47 6 * (2 ^ bitsAt v 53 3 + bitsAt v 44 3)
  act := fun r c =>
    let desc := (List.range 4).map (fun i => r.long (2 * i))
    let bindings := (List.range (r.n - 8)).map (fun i => (bitsAt (r.w (8 + i)) 0 6, bitsAt (r.w (8 + i)) 6 4, bitsAt (r.w (8 + i)) 10 17))
    let g : Gate := { desc := desc, bindings := bindings }
    let h := bitsAt g.id 31 1
    if !c.tb.aligned then refuse c .notAligned
    else if bindings.any (fun b => c.loomAbsent b.1) then refuse c .absent
    else if (c.findGate g.id).isSome then refuse c .exists_
    else if bindings.any (c.bindingConflict h g.id) || sameBinding bindings then refuse c .conflict
    else if c.gateBad g then refuse c .badValue
    else if c.gateNoSpace h g then refuse c .noSpace
    else
      let i := ((List.range 16).find? (fun i => (c.gateOf (16 * h + i)).isNone)).getD 0
      let d := c.effectDeal
      let c := (c.setGate (16 * h + i) { g with kslots := c.freeSlots h (gateSlots desc), activeAt := (d + 4) % 2 ^ 48 }).schedule d (.gateLoad (16 * h + i))
      answer c (i :: (dealWords d ++ dealWords (d + 4)))

def execGateLoad (k : Nat) (s : State) : Host.Outcome State Fault Refusal :=
  s.run (okMbx k) (Chip.live (Chip.accept 0x0C01 k gateLoadCmd))

/-- A gate whose unload has been accepted. -/
def Chip.gateLeaving (c : Chip) (key : Nat) (g : Gate) : Bool :=
  g.state == .unloading || c.due.any (fun e => match e.2 with | .gateUnload k => k == key | _ => false)

/-- The gate of a command, not one on its way out. -/
def Chip.gateNamed (c : Chip) (id : Nat) : Option (Nat × Gate) := (c.findGate id).filter (fun e => !c.gateLeaving e.1 e.2)

def gateUnloadCmd : Command where
  absent := noGating
  words := fun _ => 1
  act := fun r c =>
    match c.gateNamed (r.w 0) with
    | none => refuse c .notFound
    | some (key, _) => atBoundary (.gateUnload key) c

def execGateUnload (k : Nat) (s : State) : Host.Outcome State Fault Refusal :=
  s.run (okMbx k) (Chip.live (Chip.accept 0x0C02 k gateUnloadCmd))

def gateMapCmd : Command where
  absent := noGating
  words := fun w => 2 + 2 * bitsAt (w 1) 10 6
  act := fun r c =>
    let first := bitsAt (r.w 1) 0 10
    let n := bitsAt (r.w 1) 10 6
    let experts := (List.range n).map (fun i => (r.name (2 + 2 * i), bitAt (r.w (3 + 2 * i)) 16))
    match c.gateNamed (r.w 0) with
    | none => refuse c .notFound
    | some (key, g) =>
      if n = 0 ∨ 60 < n ∨ g.experts < first + n then refuse c .badValue
      else if experts.any (fun e => !c.nameOk e.1) then refuse c .badAddr
      else atBoundary (.gateMap key first experts) c

def execGateMap (k : Nat) (s : State) : Host.Outcome State Fault Refusal :=
  s.run (okMbx k) (Chip.live (Chip.accept 0x0C03 k gateMapCmd))

def gateCapCmd : Command where
  absent := noGating
  words := fun w => 2 + (bitsAt (w 1) 10 7 + 1) / 2
  act := fun r c =>
    let first := bitsAt (r.w 1) 0 10
    let n := bitsAt (r.w 1) 10 7
    match c.gateNamed (r.w 0) with
    | none => refuse c .notFound
    | some (key, g) =>
      if n = 0 ∨ 120 < n ∨ g.experts < first + n then refuse c .badValue
      else atBoundary (.gateCap key first ((List.range n).map (fun i => bitsAt (r.w (2 + i / 2)) (16 * (i % 2)) 16))) c

def execGateCap (k : Nat) (s : State) : Host.Outcome State Fault Refusal :=
  s.run (okMbx k) (Chip.live (Chip.accept 0x0C04 k gateCapCmd))

def gateWeightsCmd : Command where
  absent := noGating
  words := fun _ => 4
  act := fun r c =>
    let f := r.name 2
    match c.gateNamed (r.w 0) with
    | none => refuse c .notFound
    | some (key, g) =>
      let small := match c.regionOf (r.w 1) with
        | some x => bitsAt (r.w 1) 31 1 != bitsAt g.id 31 1 || decide (x.pages * 65536 < g.shards * g.wbytes)
        | none => true
      if g.swap.isSome then refuse c .busy
      else if c.tooLate ((f + 2 ^ 48 - 4) % 2 ^ 48) then refuse c .late
      else if small then refuse c .badValue
      else answer (c.setGate key { g with swap := some (r.w 1, f) })

def execGateWeights (k : Nat) (s : State) : Host.Outcome State Fault Refusal :=
  s.run (okMbx k) (Chip.live (Chip.accept 0x0C05 k gateWeightsCmd))

def gateStatusCmd : Command where
  absent := noGating
  words := fun _ => 1
  act := fun r c =>
    match c.findGate (r.w 0) with
    | none => refuse c .notFound
    | some (key, g) => answer c ([key % 16] ++ twoWords g.stat ++ twoWords g.lastWord)

def execGateStatus (k : Nat) (s : State) : Host.Outcome State Fault Refusal :=
  s.run (okMbx k) (Chip.live (Chip.accept 0x0C06 k gateStatusCmd))

end Sys2Proof.Machine
end

