-- ==== Sys2Proof/Machine/Sieve.lean ====
section
/-! DEFINITION. The Sieve: its instructions, trims, calibrations, its comb's fade, and the commands of
13_sieve.md. -/

namespace Sys2Proof.Machine

open Sys2Proof

def Chip.setSv (v : Sieve) (c : Chip) : Chip := { c with sv := v }

def Chip.svBank (c : Chip) (b : Nat) : SieveBank := Tab.get {} b c.sv.bank

def Chip.setSvBank (b : Nat) (v : SieveBank) (c : Chip) : Chip := c.setSv { c.sv with bank := Tab.set {} b v c.sv.bank }

/-- Counters of the Sieve (LP_SV_CNT0, LP_SV_CNT1). -/
def svVectors : CtrField := ⟨0x3500030, 0, 31, 31⟩
def svNan : CtrField := ⟨0x3500038, 0, 31, 31⟩
def svTrimLate : CtrField := ⟨0x3500038, 32, 31, 63⟩

def BankState.code : BankState → Nat | .empty => 0 | .loading => 1 | .ready => 2 | .degraded => 3 | .failed => 4
def SieveState.code : SieveState → Nat | .off => 0 | .warming => 1 | .ready => 2 | .degraded => 3 | .retired => 4

/-! ### Trim windows (R365, R366) -/

/-- The bank after its measured effective bits at TI 3, from a trim (R366). One that has left READY and DEGRADED since the window
began is not the bank that was probed, and stays as it is. -/
def Chip.afterTrim (b eff : Nat) (c : Chip) : Chip :=
  let x := c.svBank b
  if !(x.state == .ready || x.state == .degraded) then c
  else if 55 ≤ eff then c.setSvBank b { x with state := .ready, eff3 := eff, recal := false }
  else
    let c := c.setSvBank b { x with state := .degraded, eff3 := eff, recal := true }
    if x.state = .degraded then c else c.raise 0x0D02 2 [(2, b), (7, eff)]

/-- A window begins, at core cycle `at_` of local time: the next bank in rotation that is READY or DEGRADED is probed. -/
def Chip.beginWindow (at_ : Nat) (c : Chip) : Chip :=
  let s := c.sv
  let banks := ((List.range 4).map (fun i => (s.nextTrim + i) % 4)).filter (fun b => (c.svBank b).state == .ready || (c.svBank b).state == .degraded)
  match banks with
  | b :: _ => c.setSv { s with trimming := some b, trimFrom := at_, nextTrim := (b + 1) % 4, trimLate := false }
  | [] => c.setSv { s with trimLate := false }

/-- The trim window of a Deal whose number is a multiple of TRIM_N: core cycles 0 to 255 of the Deal, or the 256 after the
instruction that runs at its start (R365). -/
def Chip.trimWindow (c : Chip) : Chip :=
  let s := c.sv
  if !c.sieveHere || c.deal % s.trimN != 0 || s.lastWindow == some c.tb.boundaries || decide (256 ≤ c.cycle) || c.trimOpen then c
  else
    let c := c.setSv { s with lastWindow := some c.tb.boundaries }
    if s.busy.isSome then (c.setSv { c.sv with trimLate := true }).bump svTrimLate 1 else c.beginWindow (c.tb.lt - c.cycle)

def execSieveTrimWindow (s : State) : Host.Outcome State Fault Refusal := s.run true (Chip.fabric Chip.trimWindow)

/-- A window has ended with the effective bits it measured for each TI, in 0.1 bit: not before its 256 core cycles (R365). -/
def Chip.trimEnd (effs : List Nat) (c : Chip) : Chip :=
  match c.sv.trimming with
  | none => c
  | some b =>
    if c.trimOpen then c
    else
      let c := c.setSv { c.sv with trimming := none, effs := effs }
      (c.setSvBank b { c.svBank b with trimmed := some c.tb.boundaries }).afterTrim b (effs.getD 3 0)

def execSieveTrimEnd (effs : List Nat) (s : State) : Host.Outcome State Fault Refusal :=
  s.run (decide (effs.length = 4) && effs.all (fun b => decide (b < 128))) (Chip.fabric (Chip.trimEnd effs))

/-- A full calibration ends, in idle Sieve time (R362, R366). -/
def Chip.calibrationDone (b bits : Nat) (c : Chip) : Chip :=
  let x := c.svBank b
  if !c.sieveHere || c.sv.busy.isSome || c.trimOpen then c
  else if x.state = .loading then (c.setSvBank b { x with state := .ready, eff3 := bits }).raise 0x0D01 1 [(2, b)]
  else if x.state = .degraded ∧ x.recal then
    if 55 ≤ bits then c.setSvBank b { x with state := .ready, eff3 := bits, recal := false }
    else if 40 ≤ bits then c.setSvBank b { x with eff3 := bits, recal := false }
    else (c.setSvBank b { x with state := .failed, eff3 := bits, recal := false }).raise 0x0D03 3 [(2, b), (7, bits)]
  else c

def execSieveCalibrationDone (bank bits : Nat) (s : State) : Host.Outcome State Fault Refusal :=
  s.run (decide (bank < 4) && decide (bits < 128)) (Chip.fabric (Chip.calibrationDone bank bits))

/-! ### Banks at their boundaries (R362, R371) -/

/-- The bank is in use by the instruction that runs. -/
def Chip.bankBusy (c : Chip) (b : Nat) : Bool := c.sv.busy.any (fun o => bitsAt o.op.word 33 2 == b)

def Chip.applySieveLoad (b : Nat) (p : List Nat) (sigma : Nat) (c : Chip) : Chip :=
  let x := c.svBank b
  if !c.sieveHere then c
  else if c.bankBusy b then c.setSvBank b { x with pendingLoad := some (p, sigma), pendingClear := false }
  else c.setSvBank b { state := .loading, sigma := sigma, p := p }

/-- `sieve.clear` at its boundary. A FAILED bank loses its matrix and stays FAILED until its next `sieve.load` (R366). -/
def Chip.clearBank (b : Nat) (c : Chip) : Chip :=
  c.setSvBank b (if (c.svBank b).state = .failed then { state := .failed, eff3 := (c.svBank b).eff3 } else {})

def Chip.applySieveClear (b : Nat) (c : Chip) : Chip :=
  if !c.sieveHere then c
  else if c.bankBusy b then c.setSvBank b { c.svBank b with pendingClear := true, pendingLoad := none }
  else c.clearBank b

/-- What waited for the instruction that has ended: the change of its bank, and a late window (R365, R371). -/
def Chip.afterInstruction (b : Nat) (c : Chip) : Chip :=
  let x := c.svBank b
  let c : Chip :=
    if x.pendingClear then c.clearBank b
    else match x.pendingLoad with
      | some (p, sigma) => c.setSvBank b { state := .loading, sigma := sigma, p := p }
      | none => c
  if c.sv.trimLate then c.beginWindow c.tb.lt else c

/-! ### Instructions (R316, R357 to R359, R363) -/

/-- The Sieve, free, takes the next instruction in order. -/
def Chip.sieveStart (c : Chip) : Chip :=
  match c.sv.queue with
  | [] => c
  | o :: rest =>
    if c.sv.busy.isSome || c.trimOpen then c
    else
      let c := c.setSv { c.sv with queue := rest }
      if c.bankServes (bitsAt o.op.word 33 2) then c.setSv { c.sv with busy := some o } else c.faultRun o.loom o.op.run o.op.pc 0xB

def execSieveInstructionStart (s : State) : Host.Outcome State Fault Refusal := s.run true (Chip.fabric Chip.sieveStart)

/-- Input values of vector `v` of an instruction, FP32 bits. -/
def sieveInput (w : Nat) (regs : List Nat) (b : BenchView) (v : Nat) : List Nat :=
  let x := sieveShape w regs
  let o : VecOperand := { regNo := bitsAt w 42 5, broadcast := false, isBf16 := bitAt w 23 }
  (List.range x.inElems).map (fun i => o.lane regs b (v * x.inElems + i))

/-- A value that the Sieve takes as zero: a zero or a subnormal (R358). -/
def sieveZero (bits : Nat) : Bool := bitsAt bits 23 8 == 0

/-- The inlet readings of the last minute lie within 1 °C of each other (R360). -/
def Pkg.inletSteady (p : Pkg) (now : Nat) : Bool :=
  let recent := (p.inletLog.filter (fun e => decide (now ≤ e.1 + 120000000000))).map Prod.snd
  recent.all (fun a => recent.all (fun b => decide (a ≤ b + 16)))

/-- The coolant meets R70 as far as the block senses it: the inlet from 15 °C to 40 °C and steady, and the flow set. DESIGN CHOICE:
dew point and pressure are not sensed and are taken as met. -/
def Pkg.coolantOk (p : Pkg) (now : Nat) : Bool :=
  let t := toSigned (Tab.get 0 0x14 p.telemetry) 16
  decide (240 ≤ t) && decide (t ≤ 640) && decide (300 ≤ p.flow) && p.inletSteady now

/-- Effective bits of an instruction in 0.1 bit: the table by TI under the conditions of R360, else what the latest trims
measured (R360, R361). A DEGRADED bank serves at its own EFF3. DESIGN CHOICE: LP_SV_BANK reports it at TI 3 alone; at a shorter
integration it is the smaller of EFF3 and what the latest trims measured (R363). -/
def Chip.sieveBits (c : Chip) (w : Nat) : Nat :=
  let b := c.svBank (bitsAt w 33 2)
  let ti := bitsAt w 35 2
  let fresh := b.trimmed.any (fun at_ => decide (c.tb.boundaries ≤ at_ + c.sv.trimN))
  if b.state == .degraded then (if ti = 3 then b.eff3 else min b.eff3 (c.sv.effs.getD ti 0))
  else if c.sv.state == .ready && b.state == .ready && fresh && c.pkg.coolantOk c.tb.lt then [40, 50, 60, 68].getD ti 0 else c.sv.effs.getD ti 0

/-- 2^(−b) for `b` in 0.1 bit, rounded up in its tenth bits to a multiple of 2^(−10). -/
def noiseScale (b : Nat) : Num := .fin false ([1024, 956, 892, 832, 777, 725, 676, 631, 589, 549].getD (b % 10) 0) (-10 - (b / 10 : Nat))

/-- An input as the Sieve takes it, subnormals as zero (R358). -/
def sieveNum (bits : Nat) : Num := if sieveZero bits then .fin false 0 0 else ofF32 bits

/-- F = σ × ‖x‖₂, the largest magnitude of an output (R360). -/
def sieveBound (sigma : Nat) (ins : List Nat) : Num :=
  ofF32 (toF32 ((ofF32 sigma).mul (((ins.map sieveNum).foldl (fun (a v : Num) => a.add (v.mul v)) (Num.fin false 0 0)).sqrt)))

/-- Row (TRANS = 0) or column (TRANS = 1) `i` of P times the input (R357). -/
def sieveExact (p : List Nat) (trans : Bool) (ins : List Nat) (i : Nat) : Num :=
  ((ins.map sieveNum).zipIdx).foldl
    (fun (a : Num) e => a.add (e.1.mul (ofF32 (p.getD (if trans then 256 * e.2 + i else 256 * i + e.2) 0)))) (Num.fin false 0 0)

/-- The free factors of the errors of a vector's outputs, whose rms is at most 1: free draws where theirs is, else the same draws
scaled into (−1, 1). DESIGN CHOICE: R360 bounds the rms error of each output; the model holds the outputs of one vector to that
bound together. -/
def noiseFactors (base outs : Nat) : List Num :=
  let d := (List.range outs).map (fun i => (ofInt (toSigned (Config.freeWord (base + i)).toNat 64)).mul (Num.fin false 1 (-32)))
  let squares := d.foldl (fun (a x : Num) => a.add (x.mul x)) (Num.fin false 0 0)
  if (ofInt outs).lt squares then d.map (fun x => x.mul (Num.fin false 1 (-31))) else d

/-- An output: the exact one, and an error of F × 2^(−b) times its factor, within ±F (R359, R360). -/
def sieveOutput (exact bound scale factor : Num) : Nat :=
  let y := exact.add ((bound.mul scale).mul factor)
  let y := if bound.lt y then bound else if y.lt bound.negate then bound.negate else y
  toF32 y

/-- The outputs of one vector, and whether it holds a NaN or an infinity: exact zeros for a vector of zeros, NaN
for one with a NaN or infinity, else values within the bound and the noise of R360 (R358 to R360). -/
def sieveVector (base outs : Nat) (x : SieveBank) (trans : Bool) (bits : Nat) (ins : List Nat) : List Nat × Bool :=
  if ins.any (fun v => (ofF32 v).isNan || (ofF32 v).isInf) then (List.replicate outs quietNan, true)
  else if ins.all sieveZero then (List.replicate outs 0, false)
  else
    let bound := sieveBound x.sigma ins
    (((noiseFactors base outs).zipIdx).map (fun e => sieveOutput (sieveExact x.p trans ins e.2) bound (noiseScale bits) e.1), false)

/-- The instruction completes and its outputs are written. -/
def Chip.sieveDone (c : Chip) : Chip :=
  match c.sv.busy with
  | none => c
  | some o =>
    let w := o.op.word
    let x := sieveShape w o.op.regs
    let b := c.benchOf o.loom
    let outs := (List.range x.vectors).map (fun v => 
      sieveVector (c.free + v * x.outElems) x.outElems (c.svBank (bitsAt w 33 2)) (bitAt w 32) (c.sieveBits w) (sieveInput w o.op.regs b v))
    let c := c.setSv { c.sv with busy := none }
    let c := { c with free := c.free + x.vectors * x.outElems }
    let c := (c.bump svVectors x.vectors).bump svNan (outs.filter (·.2)).length
    let c : Chip :=
      if c.loomServes o.loom then
        (c.writeBench o.loom (regAt w o.op.regs 47) (outs.flatMap (fun e => e.1.flatMap (leBytes 4)))).loomFlags o.loom o.op.run
          (outs.foldl (fun a e => a ||| flagsOfAll e.1) 0)
      else c
    c.afterInstruction (bitsAt w 33 2)

def execSieveInstructionDone (s : State) : Host.Outcome State Fault Refusal := s.run true (Chip.fabric Chip.sieveDone)

/-! ### The comb and retirement (R367, R368) -/

def Chip.sieveRetiring (c : Chip) : Bool := c.due.any (fun e => match e.2 with | .sieveRetire => true | _ => false)

/-- FADE of the comb in 0.1 dB. -/
def Chip.combFade (c : Chip) : Nat := c.laserFade 0x40

/-- What a fresh sample of the comb does at a boundary. -/
def Chip.combAction (c : Chip) : Chip :=
  if !(c.sieveHere && (c.sv.state == .ready || c.sv.state == .degraded)) then c
  else
    let f := c.laserFade16 0x40
    let x := c.laser 0x40
    let gone := (List.range 8).any (fun w =>
      match x.hist with
      | a :: b :: _ => decide (60 ≤ c.sampleFade 0x40 w a) && decide (60 ≤ c.sampleFade 0x40 w b)
      | _ => false)
    let c : Chip :=
      if 160 ≤ f ∧ !c.sv.warn then (c.setSv { c.sv with warn := true }).raise 0x0D04 2 [(8, c.combFade)]
      else if f ≤ 112 then c.setSv { c.sv with warn := false } else c
    let c : Chip := if 480 ≤ f then c.setSv { c.sv with state := .degraded } else c
    if gone && !c.sieveRetiring then c.schedule c.effectDeal .sieveRetire else c

/-- The Sieve is retired at a boundary: what is in progress faults ABSENT with undefined outputs. -/
def Chip.retireSieve (c : Chip) : Chip :=
  if c.sv.state = .retired then c
  else
    let ops := c.sv.queue
    let run := c.sv.busy
    let fade := c.combFade
    let c := c.setSv { c.sv with state := .retired, queue := [], busy := none, trimming := none, trimLate := false, bank := [] }
    let c : Chip := match run with
      | some o => (c.scramble o.loom (sieveAccess o.op.word o.op.regs).writes).faultRun o.loom o.op.run o.op.pc 0xB
      | none => c
    let c := ops.foldl (fun c o => c.faultRun o.loom o.op.run o.op.pc 0xB) c
    (c.noteRetired c.deal 4 0).raise 0x0D05 3 [(8, fade)]

/-! ### Registers and commands -/

/-- LP_SV_STAT. -/
def Chip.svStat (c : Chip) : Nat :=
  c.sv.state.code + field (b2n c.sv.busy.isSome) 3 1 + field c.combFade 4 8 +
    (List.range 4).foldl (fun a i => a + field (c.sv.effs.getD i 0) (12 + 7 * i) 7) 0 + field (b2n c.sv.warn) 40 1

/-- LP_SV_BANK. -/
def SieveBank.word (x : SieveBank) : Nat := x.state.code + field x.eff3 3 7 + field x.sigma 32 32

/-- The Sieve is not fitted, or its retirement is recorded (R4 to R6). -/
def noSieve (c : Chip) : Bool := !c.caps.sieve

def sieveLoadCmd : Command where
  absent := noSieve
  words := fun _ => 3
  act := fun r c =>
    let b := bitsAt (r.w 0) 0 2
    if (c.svBank b).state = .loading then refuse c .busy
    else if r.w 2 % 64 ≠ 0 || !c.rangeOk (r.w 1) (r.w 2) 262144 then refuse c .badValue
    else waits r 0x0D01 true [b, r.w 1, r.w 2] (c.chargeRecipe (bitsAt (r.w 1) 31 1) 262144)

def execSieveLoad (k : Nat) (s : State) : Host.Outcome State Fault Refusal :=
  s.run (okMbx k) (Chip.live (Chip.accept 0x0D01 k sieveLoadCmd))

/-- An FP32 value in units of 2^(−149), in which every finite one is whole. -/
def wholeF32 (bits : Nat) : Int :=
  let e := bitsAt bits 23 8
  let m : Nat := if e = 0 then bitsAt bits 0 23 else (bitsAt bits 0 23 + 8388608) * 2 ^ (e - 1)
  if bitAt bits 31 then -Int.ofNat m else Int.ofNat m

/-- Pᵀ × P of a 256 × 256 matrix, row by row. -/
def gram (p : List Int) : List (List Int) :=
  (List.range 256).map (fun i => (List.range 256).map (fun j =>
    (List.range 256).foldl (fun a k => a + p.getD (256 * k + i) 0 * p.getD (256 * k + j) 0) 0))

/-- A symmetric matrix of `n` rows has no negative eigenvalue: elimination without fractions. -/
def semidefinite : Nat → List (List Int) → Bool
  | 0, _ => true
  | n + 1, m =>
    match m with
    | (a :: row) :: rest =>
      if a < 0 then false
      else if a = 0 then row.all (fun x => x == 0) && semidefinite n (rest.map List.tail)
      else semidefinite n (rest.map (fun r => (r.tail.zip row).map (fun e => a * e.1 - r.headD 0 * e.2)))
    | _ => true

/-- No vector grows by more than the FP32 factor `s` under P: s² − PᵀP has no negative eigenvalue. -/
def normWithin (g : List (List Int)) (s : Nat) : Bool :=
  let q := wholeF32 s * wholeF32 s
  semidefinite 256 (g.zipIdx.map (fun r => r.1.zipIdx.map (fun e => if e.2 = r.2 then q - e.1 else -e.1)))

/-- σ = max(1, spectral norm of P) (R357). DESIGN CHOICE: of the FP32 values, the least that is no smaller; none where the
norm lies above every finite one. -/
def sieveSigma (p : List Nat) : Option Nat :=
  let g := gram (p.map wholeF32)
  let r := (List.range 31).foldl (fun (s : Nat × Nat) _ =>
    let mid := (s.1 + s.2) / 2
    if s.1 = s.2 then s else if normWithin g mid then (s.1, mid) else (mid + 1, s.2)) (0x3F800000, 0x7F800000)
  if r.2 < 0x7F800000 then some r.2 else none

/-- Firmware has read P and computed σ (R357, R362). An uncorrectable granule of P ends the command with ECC (R382). DESIGN CHOICE:
a σ that no finite FP32 value reaches is a free value. -/
def Chip.sieveLoadReady (b : Nat) (check : HbmCheck) (c : Chip) : Chip :=
  match c.waitingOf 0x0D01 (fun w => w.args.getD 0 0 == b) with
  | none => c
  | some w =>
    let x := w.args.getD 1 0
    let h := bitsAt x 31 1
    let off := w.args.getD 2 0
    let r := c.region (handleKey x)
    let bytes := c.readRegion h r off 262144
    let p := (chunksOf 4 65536 bytes).map leNat
    if c.stew.phase = .restarting then c
    else if !c.rangeOk x off 262144 then c.finish w .badValue []
    else if !hbmOk check then (c.eccUe h (hbmPage (r.touched off 262144) check)).finish w .ecc []
    else
    let c := c.hbmCe h (r.touched off 262144) check
    if p.any (fun v => (ofF32 v).isNan || (ofF32 v).isInf) || p.all (fun v => (ofF32 v).isZero) then c.finish w .badValue []
    else
      let d := c.effectDeal
      let (sigma, c) : Nat × Chip := match sieveSigma p with | some v => (v, c) | none => (c.draw.1 % 2 ^ 32, c.draw.2)
      (c.schedule d (.sieveLoad b p sigma)).finish w .ok (dealWords d ++ [sigma])

def execSieveLoadReady (bank : Nat) (check : HbmCheck) (s : State) : Host.Outcome State Fault Refusal :=
  s.run (decide (bank < 4)) (Chip.live (Chip.sieveLoadReady bank check))

def sieveClearCmd : Command where
  absent := noSieve
  words := fun _ => 1
  act := fun r c => atBoundary (.sieveClear (bitsAt (r.w 0) 0 2)) c

def execSieveClear (k : Nat) (s : State) : Host.Outcome State Fault Refusal :=
  s.run (okMbx k) (Chip.live (Chip.accept 0x0D02 k sieveClearCmd))

def sieveTrimCmd : Command where
  absent := noSieve
  words := fun _ => 1
  act := fun r c =>
    let n := bitsAt (r.w 0) 0 13
    if n < 64 ∨ 4096 < n then refuse c .badValue else atBoundary (.sieveTrim n) c

def execSieveTrim (k : Nat) (s : State) : Host.Outcome State Fault Refusal :=
  s.run (okMbx k) (Chip.live (Chip.accept 0x0D03 k sieveTrimCmd))

def sieveStatusCmd : Command where
  absent := noSieve
  words := fun _ => 0
  act := fun _ c => answer c (twoWords c.svStat ++ [(List.range 4).foldl (fun a b => a + field (c.svBank b).state.code (3 * b) 3) 0])

def execSieveStatus (k : Nat) (s : State) : Host.Outcome State Fault Refusal :=
  s.run (okMbx k) (Chip.live (Chip.accept 0x0D04 k sieveStatusCmd))

end Sys2Proof.Machine
end

