-- ==== Sys2Proof/Machine/Twin.lean ====
section
/-! DEFINITION. Twins, Tables, checkpoints, broadcasts and health (15_twins_tables_and_replay.md). -/

namespace Sys2Proof.Machine

open Sys2Proof

/-! ### Twin ports -/

/-- The twin ports of a half. -/
def twinPorts (h : Nat) : List Nat := [0x800 + 2 * h, 0x801 + 2 * h]

/-- The lowest-numbered twin port of a half that is UP (R391, R393). -/
def Chip.twinUp (c : Chip) (h : Nat) : Option Nat := (twinPorts h).find? (fun p => (c.port p).link == .up)

/-- A twin port is UP facing the partner (R388, R398). -/
def Chip.facing (c : Chip) : Bool :=
  (twinPorts 0 ++ twinPorts 1).any (fun p => (c.port p).link == .up && (c.port p).farName == c.twin.partner)

/-- A port is disabled at a boundary: what it still receives drains for the planned departure (R111). -/
def Chip.disableNow (p : Nat) (c : Chip) : Chip :=
  if (c.port p).link = .disabled then c else c.takeDown p .disabled (c.port p).link.live

def Chip.setTwin (v : Twin) (c : Chip) : Chip := { c with twin := v }

/-! ### Mirror packets (R391 to R394) -/

/-- A record as its 64 bytes (R393). -/
def MirrorRecord.bytes (h : Nat) (r : MirrorRecord) : List Byte :=
  beBytes 1 r.type ++ beBytes 1 h ++ beBytes 2 r.sub ++ beBytes 4 r.index ++
    (List.range 7).flatMap (fun i => beBytes 8 (r.body.getD i 0))

/-- A record from 64 bytes: its half and the record. -/
def readRecord (bs : List Byte) : Nat × MirrorRecord :=
  let at_ (i n : Nat) : Nat := beNat ((bs.drop i).take n)
  (at_ 1 1, { type := at_ 0 1, sub := at_ 2 2, index := at_ 4 4, body := (List.range 7).map (fun i => at_ (8 + 8 * i) 8) })

/-- The records of a byte string. -/
def readRecords : Nat → List Byte → List (Nat × MirrorRecord)
  | 0, _ => []
  | n + 1, bs => readRecord (bs.take 64) :: readRecords n (bs.drop 64)

/-- A packet for the partner leaves on the lowest twin port of the half that is UP, with no lookup (R393). -/
def Chip.toPartner (h seq : Nat) (resend : Bool) (payload : List Byte) (c : Chip) : Chip :=
  match c.twinUp h with
  | none => c
  | some p => c.sendOnPort p c.twin.partner 1 0 seq resend payload none

/-- A mirror packet (R406). -/
def mirrorPayload (h seq : Nat) (rs : List MirrorRecord) : List Byte :=
  codeHeader (field 1 52 8 + field h 51 1 + field rs.length 43 8) seq 0 ++ rs.flatMap (MirrorRecord.bytes h)

/-- A MACK with the highest SEQ applied (R391, R393). -/
def Chip.sendMack (h : Nat) (c : Chip) : Chip :=
  let n := ((c.mirror h).rxNext + 2 ^ 32 - 1) % 2 ^ 32
  c.toPartner h n false (codeHeader (field 2 52 8 + field h 51 1) n 0)

/-- Every unconfirmed packet is sent again, oldest first (R391, R393). -/
def Chip.resendMirror (h : Nat) (c : Chip) : Chip :=
  let m := c.mirror h
  m.unconfirmed.foldl (fun c p => c.toPartner h p.1 true (mirrorPayload h p.1 p.2.2)) (c.setMirror h { m with progress := c.tb.boundaries })

/-- Pack waiting changes, up to 255 records to a packet, and send them (R393). -/
def Chip.packMirror (h : Nat) : Nat → Chip → Chip
  | 0, c => c
  | n + 1, c =>
    let m := c.mirror h
    if m.changes.isEmpty then c
    else
      let rs := m.changes.take 255
      let now := c.tb.boundaries
      let c := c.setMirror h { m with
        changes := m.changes.drop 255, unconfirmed := m.unconfirmed ++ [(m.nextSeq, now, rs)], nextSeq := (m.nextSeq + 1) % 2 ^ 32
        progress := if m.unconfirmed.isEmpty then now else m.progress }
      Chip.packMirror h n (c.toPartner h m.nextSeq false (mirrorPayload h m.nextSeq rs))

/-- A JOB_START's payload with MIRROR set or clear. -/
def markMirror (m : Bool) (bs : List Byte) : List Byte :=
  beBytes 8 (beNat (bs.take 8) - 2 ^ 59 * b2n (bitAt (beNat (bs.take 8)) 59) + 2 ^ 59 * b2n m) ++ bs.drop 8

/-- A broadcast goes to the partner as a mirror copy, over the lowest twin port that is UP (R392, R418). -/
def Chip.mirrorJob (bseq : Nat) (payload : List Byte) (c : Chip) : Chip :=
  match c.twin.state, (twinPorts 0 ++ twinPorts 1).find? (fun p => (c.port p).link == .up) with
  | .paired, some p => c.sendOnPort p c.twin.partner 1 0 bseq false (markMirror true payload) none
  | _, _ => c

/-- The resync of R394 starts: every item of R392 but the Roll anew, the held broadcasts among them, then a full Roll pass. It takes
the numbers that the partner has not confirmed. -/
def Chip.startResync (h : Nat) (c : Chip) : Chip :=
  let m := c.mirror h
  let first := match m.unconfirmed with | [] => m.nextSeq | p :: _ => p.1
  let routes := [0, 1].flatMap (fun e => if (c.table h e).state.forwards then c.routeRecords h e else [])
  let items := (c.mirrorItems h).map (fun x => x.rec_)
  let c := c.setMirror h { m with
    unconfirmed := [], nextSeq := first, changes := routes ++ items, resync := true, copying := true, copyPos := 0 }
  (c.twin.bcast.holds.filter (·.own)).foldl (fun c x => c.mirrorJob x.bseq x.payload) c

/-- Confirm packets up to SEQ `n`. -/
def MirrorHalf.confirm (n now : Nat) (m : MirrorHalf) : MirrorHalf :=
  let left := m.unconfirmed.filter (fun p => decide (0 < (p.1 + 2 ^ 32 - n) % 2 ^ 32) && decide ((p.1 + 2 ^ 32 - n) % 2 ^ 32 < 2 ^ 31))
  if left.length < m.unconfirmed.length then { m with unconfirmed := left, progress := now } else m

/-- A packet of the partner's half that this chip, paired with it, takes; in LOST it brings the pair back at the next
boundary (R391). -/
def Chip.fromPartner (p : Packet) (xkind : Nat) (act : Nat → Chip → Chip) (c : Chip) : Chip :=
  let w := p.word 0
  c.intact p (fun c =>
    if (c.twin.state = .paired ∨ c.twin.state = .lost) ∧ p.src = c.twin.partner ∧ bitsAt w 60 4 = 0 ∧ bitsAt w 52 8 = xkind then
      let c : Chip := if c.twin.state = .lost then c.setTwin { c.twin with restore := true } else c
      act (bitsAt w 51 1) c
    else c)

def Chip.takeMack (p : Packet) (c : Chip) : Chip :=
  c.fromPartner p 2 (fun h c => c.setMirror h ((c.mirror h).confirm (p.word 1 % 2 ^ 32) c.tb.boundaries))

def execMack (pkt : Packet) (s : State) : Host.Outcome State Fault Refusal :=
  s.run (okPacket pkt) (Chip.fabric (Chip.takeMack pkt))

/-- Kitty ID of a descriptor. -/
def descId (body : List Nat) : Nat := body.getD 0 0 / 2 ^ 32

/-- A record from the partner takes its place in the Roll, in MIRROR and among the shadows (R392, R396). -/
def Chip.applyRecord (h : Nat) (r : MirrorRecord) (c : Chip) : Chip :=
  let m := c.mirror h
  let same (x : MirrorRecord) : Bool := x.type == r.type && x.sub == r.sub && x.index == r.index
  let held := if m.held.any same then m.held.map (fun x => if same x then r else x) else m.held ++ [r]
  if r.type = 1 then c.rollMirrored h (RollEntry.ofWords r.body)
  else if r.type = 2 then c.rollMirrorRemoved h (r.body.getD 0 0) (r.body.getD 1 0)
  else if r.type = 3 then
    let shadows := if m.shadows.length < 32768 then Tab.put (descId r.body) (r.body.take 6) m.shadows else m.shadows
    c.setMirror h { m with held := held, shadows := shadows }
  else if r.type = 4 then
    let id := r.body.getD 0 0
    c.setMirror h { m with held := m.held.filter (fun x => !(x.type == 3 && descId x.body == id)), shadows := Tab.erase id m.shadows }
  else c.setMirror h { m with held := held }

/-- A mirror packet: applied if it carries the next SEQ (R393). The first record of a resync discards what was held
(R394). Nothing in the layout of a packet tells it: of the packets whose first record is one that a resync can begin with, which the
Roll's records and a close are not, whether this one begins it is a free value. -/
def Chip.takeMirror (p : Packet) (c : Chip) : Chip :=
  c.fromPartner p 1 (fun h c =>
    let m := c.mirror h
    if p.word 1 % 2 ^ 32 ≠ m.rxNext then c
    else
      let (v, c) := c.draw
      let m := { m with rxNext := (m.rxNext + 1) % 2 ^ 32, rxApplied := true }
      let rs := readRecords (bitsAt (p.word 0) 43 8) (p.payload.drop 32)
      let first : Bool := match rs with | r :: _ => r.2.type != 1 && r.2.type != 2 && r.2.type != 4 | [] => false
      let c := c.setMirror h (if first ∧ v % 2 = 1 then { m with held := [], shadows := [] } else m)
      rs.foldl (fun c r => c.applyRecord h r.2) c)

def execMirrorPacket (pkt : Packet) (s : State) : Host.Outcome State Fault Refusal :=
  s.run (okPacket pkt) (Chip.fabric (Chip.takeMirror pkt))

/-- 8 Deals have passed without a confirmation advancing (R393). -/
def Chip.mirrorRetry (h : Nat) (c : Chip) : Chip :=
  let m := c.mirror h
  if m.on ∧ c.twin.state = .paired ∧ !m.unconfirmed.isEmpty ∧ m.progress + 8 ≤ c.tb.boundaries then c.resendMirror h else c

def execMirrorResend (half : Nat) (s : State) : Host.Outcome State Fault Refusal :=
  s.run (okHalf half) (Chip.fabric (Chip.mirrorRetry half))

def execMirrorStale (half : Nat) (s : State) : Host.Outcome State Fault Refusal :=
  s.run (okHalf half) (Chip.fabric (Chip.goStale half))

/-- A Deal of a full copy pass: COPY_RATE × 256 slots in slot order (R395); the end of a resync's pass clears STALE
(R394). DESIGN CHOICE: in a resync the pass waits while the backlog has no room for its records. -/
def Chip.copyPass (h : Nat) (bad : List Nat) (c : Chip) : Chip :=
  let m := c.mirror h
  let n := 256 * m.copyRate
  if !m.copying || (m.resync && decide (65536 < m.backlog + n / 4)) then c
  else
    let c := c.chargeRoll h (32 * n)
    let c := (bad.filter (fun s => decide (m.copyPos ≤ s) && decide (s < min (2 ^ 23) (m.copyPos + n)))).foldl (fun c s => c.rollLose h s) c
    let es := (c.rl h).entries.filter (fun e => decide (m.copyPos ≤ e.1) && decide (e.1 < m.copyPos + n))
    let c := es.foldl (fun c e => c.mirrorEntry h e.2) c
    let m := c.mirror h
    if m.copyPos + n < 2 ^ 23 then c.setMirror h { m with copyPos := m.copyPos + n }
    else
      let c := c.setMirror h { m with copying := false, copyPos := 0, resync := false, stale := m.stale && !m.resync }
      if m.resync then c.raise 0x0F03 1 [(1, h)] else c

def execMirrorCopyPass (pass : CopyPass) (s : State) : Host.Outcome State Fault Refusal :=
  s.run (okHalf pass.half) (Chip.fabric (Chip.copyPass pass.half pass.bad))

/-- In LOST a half sends a MACK every 8 Deals (R391). -/
def Chip.lostMack (h : Nat) (c : Chip) : Chip :=
  let m := c.mirror h
  if c.twin.state = .lost ∧ m.lastMack + 8 ≤ c.tb.boundaries then
    (c.setMirror h { m with lastMack := c.tb.boundaries }).sendMack h
  else c

def execTwinLostMack (half : Nat) (s : State) : Host.Outcome State Fault Refusal :=
  s.run (okHalf half) (Chip.fabric (Chip.lostMack half))

/-! ### Pairing and takeover (R388 to R399) -/

/-- A handle names a region of half `h` of at least `n` pages. -/
def Chip.regionAtLeast (c : Chip) (h x n : Nat) : Bool :=
  bitsAt x 31 1 == h && (match c.regionOf x with | none => false | some r => decide (n ≤ r.pages))

def twinPairCmd : Command where
  words := fun _ => 4
  act := fun r c =>
    let p := r.name 0
    if c.nest.pair = 0 ∨ !c.unitName p ∨ p = c.nest.self then refuse c .badAddr
    else if !c.regionAtLeast 0 (r.w 2) 512 ∨ !c.regionAtLeast 1 (r.w 3) 512 then refuse c .badRegion
    else if c.twin.state = .paired then refuse c .busy
    else atBoundary (.twinPair p (r.w 2) (r.w 3)) c

def execTwinPair (k : Nat) (s : State) : Host.Outcome State Fault Refusal :=
  s.run (okMbx k) (Chip.live (Chip.accept 0x0F01 k twinPairCmd))

/-- A twin port faces the partner: PAIRED, and a mirror that was on begins with a resync (R388, R399). -/
def Chip.twinFaced (c : Chip) : Chip :=
  if c.twin.pairPending && c.facing then
    let c := c.setTwin { c.twin with state := .paired, pairPending := false, downRun := 0, restore := false }
    [0, 1].foldl (fun c h =>
      let m := c.mirror h
      if m.on || m.resume then (c.setMirror h { m with on := true, resume := false }).startResync h else c) c
  else c

/-- A pairing takes effect: numbering and what was held start anew, and the twin ports expect the partner (R388,
R399). -/
def Chip.applyTwinPair (partner r0 r1 : Nat) (c : Chip) : Chip :=
  let half (x : MirrorHalf) (r : Nat) : MirrorHalf :=
    { on := x.on, resume := x.resume, copyRate := x.copyRate, region := r, progress := c.tb.boundaries }
  let t := c.twin
  let c := c.setTwin { t with partner := partner, pairPending := true, mirror := ⟨half t.mirror.h0 r0, half t.mirror.h1 r1⟩ }
  let view (c : Chip) (p : Nat) : Chip := (c.setExpect p { c.expect p with mode := 2, name := partner }).checkView p
  ((twinPorts 0 ++ twinPorts 1).foldl view c).twinFaced

/-- Every twin lane of a half is absent. -/
def Chip.noTwinLane (c : Chip) (h : Nat) : Bool := (List.range 8).all (fun i => c.laneAbsent (0x800 + 0x200 * h + 320 + i))

/-- `twin.link`: it disables at once, and sets the class of a port that is DISABLED (R104, R389). -/
def twinLinkCmd : Command where
  words := fun _ => 1
  act := fun r c =>
    let h := bitsAt (r.w 0) 0 1
    let cls := bitsAt (r.w 0) 1 1
    let en := bitAt (r.w 0) 2
    if c.noTwinLane h then refuse c .absent
    else
      let c := { c with ports := { c.ports with twinConfigured := c.ports.twinConfigured.set h true } }
      let set (c : Chip) (p : Nat) : Chip :=
        let c := if en then c else c.disableNow p
        let off := (c.port p).link == .disabled
        let c := c.setPort p { c.port p with cls := if off then cls else (c.port p).cls, role := 3 }
        if en && off then c.setPort p { c.port p with link := .down } else c
      answer ((twinPorts h).foldl set c)

def execTwinLink (k : Nat) (s : State) : Host.Outcome State Fault Refusal :=
  s.run (okMbx k) (Chip.live (Chip.accept 0x0F02 k twinLinkCmd))

def twinMirrorCmd : Command where
  words := fun _ => 1
  act := fun r c =>
    let rate := bitsAt (r.w 0) 3 8
    if c.twin.state = .unpaired ∧ !c.twin.pairPending then refuse c .notFound
    else if rate = 0 ∨ c.sweepMax / 8 < rate then refuse c .badValue
    else atBoundary (.twinMirror (bitsAt (r.w 0) 0 1) (bitAt (r.w 0) 1) (bitAt (r.w 0) 2) rate) c

def execTwinMirror (k : Nat) (s : State) : Host.Outcome State Fault Refusal :=
  s.run (okMbx k) (Chip.live (Chip.accept 0x0F03 k twinMirrorCmd))

/-- FULL starts the resync of R394, as bring-up uses it (18_bring_up.md, Twin and Table); before the partner is
faced it starts with the pair. -/
def Chip.applyTwinMirror (h : Nat) (on full : Bool) (rate : Nat) (c : Chip) : Chip :=
  let m := c.mirror h
  let c := c.setMirror h { m with
    on := on, resume := false, copyRate := min rate (max 1 (c.sweepMax / 8)), copying := m.copying && on, resync := m.resync && on }
  if full && on && c.twin.state == .paired then c.startResync h else c

/-- The twin ports that a takeover is to disable as `port.disable` would send their DISABLE NOTICEs at its acceptance; those UP facing
the partner await the boundary (R111, R397, R398). -/
def Chip.takeoverNotices (c : Chip) : Chip :=
  ((twinPorts 0 ++ twinPorts 1).filter (fun p => (c.port p).link.live && !((c.port p).link == .up && (c.port p).farName == c.twin.partner))).foldl
    (fun c p => c.sendNotice p .disable 0 c.effectDeal) c

def twinTakeoverCmd : Command where
  words := fun _ => 0
  act := fun _ c =>
    match c.twin.state with
    | .unpaired => refuse c .notFound
    | .takenOver => refuse c .busy
    | _ => atBoundary .twinTakeover (c.takeoverNotices)

def execTwinTakeover (k : Nat) (s : State) : Host.Outcome State Fault Refusal :=
  s.run (okMbx k) (Chip.live (Chip.accept 0x0F04 k twinTakeoverCmd))

/-- The takeover boundary (R397, R398). -/
def Chip.applyTakeover (c : Chip) : Chip :=
  if c.twin.state = .unpaired ∨ c.twin.state = .takenOver then c
  else
    let facing := c.facing
    let half (x : MirrorHalf) : MirrorHalf :=
      { x with on := false, resume := x.on || x.resume, changes := [], unconfirmed := [], stale := false, resync := false, copying := false }
    let t := c.twin
    let c := c.setTwin { t with state := .takenOver, restore := false, mirror := ⟨half t.mirror.h0, half t.mirror.h1⟩ }
    (twinPorts 0 ++ twinPorts 1).foldl (fun c p => if facing && (c.port p).link == .up then c.enterDispute p else c.disableNow p) c

def twinExportCmd : Command where
  words := fun _ => 2
  act := fun r c =>
    let h := bitsAt (r.w 0) 0 1
    if c.twin.state = .unpaired ∧ !c.twin.pairPending then refuse c .notFound
    else
      let rs := ((c.mirror h).held.drop (r.w 1)).take 7
      answer c (rs.length :: rs.flatMap (fun x => packWords (x.bytes h)))

def execTwinExport (k : Nat) (s : State) : Host.Outcome State Fault Refusal :=
  s.run (okMbx k) (Chip.live (Chip.accept 0x0F05 k twinExportCmd))

/-- PN_TWIN and PN_MIRROR. -/
def Chip.pnTwin (c : Chip) : Nat :=
  let st := match c.twin.state with | .unpaired => 0 | .paired => 1 | .lost => 2 | .takenOver => 3
  field st 0 2 + field (b2n c.twin.pairPending) 2 1 + field c.twin.partner 3 48

def Chip.pnMirror (c : Chip) (h : Nat) : Nat :=
  let m := c.mirror h
  let lag := match m.unconfirmed with | [] => 0 | p :: _ => c.tb.boundaries - p.2.1
  field (b2n m.on) 0 1 + field (b2n m.stale) 1 1 + field (b2n m.copying) 2 1 + field m.copyRate 3 8 + field m.backlog 11 17 +
    field (min 0xFFFF lag) 28 16

/-- A half's mirror at a boundary: a resync that is due, packets of changes, and the Deal's MACK (R393, R394). -/
def Chip.mirrorBoundary (h : Nat) (c : Chip) : Chip :=
  if c.twin.state ≠ .paired then c
  else
    let m := c.mirror h
    let up := (c.twinUp h).isSome
    let c : Chip := if m.on && m.stale && !m.resync && up then c.startResync h else c
    let c : Chip := if (c.mirror h).on && up then c.packMirror h ((c.mirror h).changes.length / 255 + 1) else c
    if (c.mirror h).rxApplied && up then (c.setMirror h { c.mirror h with rxApplied := false }).sendMack h else c

/-- The pair at a boundary: the loss after two boundaries without a twin port, and the way back (R390, R391). -/
def Chip.pairBoundary (c : Chip) : Chip :=
  let up := (twinPorts 0 ++ twinPorts 1).any (fun p => (c.port p).link == .up && (c.port p).aligned)
  let t := c.twin
  match t.state with
  | .paired =>
    if up then c.setTwin { t with downRun := 0 }
    else if t.downRun = 0 then c.setTwin { t with downRun := 1 }
    else
      let half (m : MirrorHalf) : MirrorHalf := { m with lastMack := c.tb.boundaries }
      (c.setTwin { t with state := .lost, downRun := 0, restore := false, mirror := ⟨half t.mirror.h0, half t.mirror.h1⟩ }).raise
        0x0F01 3 [(48, t.partner)]
  | .lost =>
    if t.restore then
      let c := (c.setTwin { t with state := .paired, downRun := 0, restore := false }).raise 0x0F0D 1 [(48, t.partner)]
      [0, 1].foldl (fun c h => if (c.mirror h).on && !(c.mirror h).stale then c.resendMirror h else c) c
    else c
  | _ => c

/-! ### The code (R402, R403) -/

/-- GF(2^8) with the polynomial 0x11D. -/
def gfDouble (a : Nat) : Nat := if a < 128 then 2 * a else (2 * a) ^^^ 0x11D

def gfMul (a b : Nat) : Nat :=
  (List.range 8).foldl (fun acc i => (if bitAt b (7 - i) then gfDouble acc ^^^ a else gfDouble acc)) 0

def gfPow (a n : Nat) : Nat := (List.range n).foldl (fun acc _ => gfMul acc a) 1

/-- The inverse: the 254th power. -/
def gfInv (a : Nat) : Nat := gfPow a 254

def gfScale (k : Nat) (bs : List Byte) : List Byte := bs.map (fun b => BitVec.ofNat 8 (gfMul k b.toNat))

/-- P and Q of six data units (R403). -/
def codeP (d : List (List Byte)) : List Byte := d.foldl xorBytes (List.replicate 65536 0)
def codeQ (d : List (List Byte)) : List Byte := (d.mapIdx (fun i x => gfScale (gfPow 2 i) x)).foldl xorBytes (List.replicate 65536 0)

/-- The six data units of a stripe from those units of it that are known (R403). -/
def solveStripe (d : List (Option (List Byte))) (p q : Option (List Byte)) : List (List Byte) :=
  let z : List Byte := List.replicate 65536 0
  let known := d.map (fun x => x.getD z)
  let p' := xorBytes (p.getD z) (codeP known)
  let q' := xorBytes (q.getD z) (codeQ known)
  match (List.range 6).filter (fun i => ((d.getD i none).isNone)) with
  | [i] => known.set i (if p.isSome then p' else gfScale (gfInv (gfPow 2 i)) q')
  | [i, j] =>
    let di := gfScale (gfInv (gfPow 2 i ^^^ gfPow 2 j)) (xorBytes q' (gfScale (gfPow 2 j) p'))
    (known.set i di).set j (xorBytes p' di)
  | _ => known

/-- Members that hold data of stripe `t`, in ascending order. -/
def dataMembers (t : Nat) : List Nat := (List.range 8).filter (fun x => x != pHolder t && x != qHolder t)

/-- Data unit of member `m` in stripe `t`. -/
def unitIn (m t : Nat) : Nat := 6 * (t / 8) + ((residues m).idxOf (t % 8))

/-- H of R402. -/
def Chip.codeH (c : Chip) : Nat := 2 * ceilDiv c.twin.umax 6

/-- Pages of a half's protected space per generation (R401). -/
def Chip.spacePages (c : Chip) (h : Nat) : Nat :=
  (c.table8 h).protectedList.foldl (fun a x => a + (c.region (handleKey x)).generation) 0

/-- Region and byte offset of unit `u` of a space (R401). -/
def Chip.unitPlace (c : Chip) (g : Nat) : List Nat → Nat → Option (Nat × Nat)
  | [], _ => none
  | x :: xs, u =>
    let n := (c.region (handleKey x)).generation
    if u < n then some (x, (g * n + u) * 65536) else Chip.unitPlace c g xs (u - n)

/-- A data unit of this chip; a missing one counts as zero (R402). -/
def Chip.readUnit (c : Chip) (h g u : Nat) : List Byte :=
  match c.unitPlace g (c.table8 h).protectedList u with
  | none => List.replicate 65536 0
  | some (x, off) => c.readRegion h (c.region (handleKey x)) off 65536

/-- SHARD page of a parity unit, if it lies in the parity area (R402). -/
def Chip.parityPage (c : Chip) (g q t : Nat) : Option Nat :=
  let k := 2 * (t / 8) + q
  if k < c.codeH then some (g * c.codeH + k) else none

def Chip.readParity (c : Chip) (h g q t : Nat) : List Byte :=
  match c.parityPage g q t with
  | none => List.replicate 65536 0
  | some page => c.readRegion h (c.region (handleKey (c.table8 h).shard)) (page * 65536) 65536

def Chip.storeParity (h g q t off : Nat) (bs : List Byte) (c : Chip) : Chip :=
  match c.parityPage g q t with
  | none => c
  | some page =>
    if off + bs.length ≤ 65536 then c.storeRegion h (c.region (handleKey (c.table8 h).shard)) (page * 65536 + off) bs else c

/-! ### Joining and members (R400, R401, R409) -/

/-- Members other than this chip that are not lost. -/
def Chip.liveOthers (c : Chip) : List Nat := (List.range 8).filter (fun m => m != c.twin.member && !bitAt c.twin.lost m)

def tableJoinCmd : Command where
  words := fun _ => 23
  act := fun r c =>
    let m := bitsAt (r.w 0) 0 3
    let names := (List.range 8).map (fun i => r.name (3 + 2 * i))
    let umax := r.w 21
    let rto := bitsAt (r.w 22) 0 16
    let need := 2 * (2 * ceilDiv umax 6) + 1024
    if c.twin.joined then refuse c .busy
    else if names.getD m 0 ≠ c.nest.self ∨ (c.twin.state = .paired ∧ names.getD (m ^^^ 1) 0 ≠ c.twin.partner) ∨ rto < 2 * c.nest.horizon then
      refuse c .badValue
    else if !c.regionAtLeast 0 (r.w 19) need ∨ !c.regionAtLeast 1 (r.w 20) need then refuse c .badRegion
    else
      let t := c.twin
      answer (c.setTwin { t with
        joined := true, member := m, tableName := r.name 1, members := names, lost := 0, tableLost := false, umax := umax
        job := bitsAt (r.w 0) 3 8, deltaRto := rto, table := ⟨{ shard := r.w 19 }, { shard := r.w 20 }⟩ })

def execTableJoin (k : Nat) (s : State) : Host.Outcome State Fault Refusal :=
  s.run (okMbx k) (Chip.live (Chip.accept 0x0F11 k tableJoinCmd))

def tableProtectCmd : Command where
  words := fun _ => 1
  act := fun r c =>
    let x := r.w 0
    let h := bitsAt x 31 1
    let t := c.table8 h
    match c.regionOf x with
    | none => refuse c .badRegion
    | some g =>
      if t.protectedList.contains x then refuse c .badRegion
      else if c.kit.kitty.any (fun e => e.1 / 32768 == h && e.2.job == c.twin.job) then refuse c .busy
      else if !c.twin.joined ∨ c.twin.umax < c.spacePages h + g.generation then refuse c .noSpace
      else answer (c.setTable8 h { t with protectedList := t.protectedList ++ [x] }) [c.spacePages h + g.generation]

def execTableProtect (k : Nat) (s : State) : Host.Outcome State Fault Refusal :=
  s.run (okMbx k) (Chip.live (Chip.accept 0x0F12 k tableProtectCmd))

/-- CODED packets of a half to every live member (R407). -/
def Chip.sendCoded (h : Nat) (c : Chip) : Chip :=
  let t := c.table8 h
  let drained := t.unacked.all (fun p => p.isPset) && t.deltaWait.isEmpty
  let body := codeHeader (field 3 52 8 + field h 51 1 + field (b2n drained) 50 1) (t.coded % 2 ^ 48) c.twin.job
  c.liveOthers.foldl (fun c m => c.originate h (c.twin.members.getD m 0) 1 0 (t.coded % 2 ^ 32) body)
    (c.setTable8 h { t with lastCoded := c.tb.boundaries })

/-- A DELTA written before the advance that noted `seqs` is still unacknowledged. -/
def TableHalf.owes (t : TableHalf) (seqs : Tab Nat) : Bool :=
  (t.unacked ++ t.deltaWait.map Prod.snd).any (fun p => !p.isPset && decide (0 < (Tab.get 0 p.member seqs + 2 ^ 32 - p.seq) % 2 ^ 32) &&
    decide ((Tab.get 0 p.member seqs + 2 ^ 32 - p.seq) % 2 ^ 32 < 2 ^ 31))

/-- The half's own coded step follows its Ledger and its acknowledgements; a change is reported (R407). -/
def Chip.settleCoded (h : Nat) (c : Chip) : Chip :=
  if !c.twin.joined then c
  else
    let t := c.table8 h
    let left := t.advances.dropWhile (fun a => !t.owes a.2)
    let coded := match left with | [] => c.tableStep h - 1 | a :: _ => a.1 - 1
    let c := c.setTable8 h { t with advances := left, coded := coded }
    if coded = t.coded then c else c.sendCoded h

/-- The half advances the Table job past step `s` (R407). -/
def Chip.noteAdvance (h j s : Nat) (c : Chip) : Chip :=
  let t := c.table8 h
  if !c.twin.joined ∨ j ≠ c.twin.job then c
  else if t.owes t.txSeq then (c.setTable8 h { t with advances := t.advances ++ [(s, t.txSeq)] }).settleCoded h
  else c.settleCoded h

def tableMemberCmd : Command where
  words := fun _ => 3
  act := fun r c =>
    let m := bitsAt (r.w 0) 0 3
    if !c.twin.joined then refuse c .notFound
    else if m = c.twin.member then refuse c .badValue
    else atBoundary (.tableMember m (bitAt (r.w 0) 3) (r.name 1)) c

def execTableMember (k : Nat) (s : State) : Host.Outcome State Fault Refusal :=
  s.run (okMbx k) (Chip.live (Chip.accept 0x0F13 k tableMemberCmd))

/-- The waiting `table.rebuild`, if any, ends. -/
def Chip.endRebuildWait (st : Status) (words : List Nat) (c : Chip) : Chip :=
  match c.waitingOf 0x0F14 (fun _ => true) with
  | none => c
  | some w => c.finish w st words

/-- Fewer than six live members are left: the protected content is lost and a rebuild fails (R409, R411). -/
def Chip.loseTable (c : Chip) : Chip :=
  if c.twin.tableLost ∨ popcount 8 c.twin.lost < 3 then c
  else
    let c := c.setTwin { c.twin with tableLost := true }
    let half (c : Chip) (h : Nat) : Chip :=
      let t := c.table8 h
      (c.setTable8 h { t with rebuild := if t.rebuild = 0 then 0 else 3, reads := [] }).raise 0x0F04 3 [(1, h), (8, c.twin.lost)]
    ([0, 1].foldl half c).endRebuildWait .noSource []

/-- A member is lost or named anew from this boundary on (R409 to R411). -/
def Chip.applyTableMember (m : Nat) (lost : Bool) (name : Nat) (c : Chip) : Chip :=
  if !c.twin.joined then c
  else if lost then
    let half (t : TableHalf) : TableHalf :=
      let again := t.rebuild == 2 && t.reads.any (fun r => r.member == m)
      { t with
        unacked := t.unacked.filter (fun p => p.member != m), deltaWait := t.deltaWait.filter (fun e => e.2.member != m)
        returning := maskDiff t.returning (2 ^ m)
        dacks := t.dacks.filter (fun x => x != m)
        reads := if again then [] else t.reads, issued := if again then t.done else t.issued }
    let t := c.twin
    let c := c.setTwin { t with lost := t.lost ||| 2 ^ m, table := ⟨half t.table.h0, half t.table.h1⟩ }
    ((((c.drainDeltas 0 (c.table8 0).deltaWait.length).drainDeltas 1 (c.table8 1).deltaWait.length).settleCoded 0).settleCoded 1).loseTable
  else
    let half (h : Nat) : TableHalf :=
      let t := c.table8 h
      { t with
        held := if t.rebuild = 1 ∨ t.rebuild = 2 ∨ t.returning ≠ 0 then t.held else c.tableCoded h
        returning := t.returning ||| 2 ^ m, reports := Tab.erase m t.reports, txSeq := Tab.erase m t.txSeq, rxSeq := Tab.erase m t.rxSeq
        unacked := t.unacked.filter (fun p => p.member != m), deltaWait := t.deltaWait.filter (fun e => e.2.member != m) }
    let t := c.twin
    let c := c.setTwin { t with lost := maskDiff t.lost (2 ^ m), members := t.members.set m name, table := ⟨half 0, half 1⟩ }
    (c.settleCoded 0).settleCoded 1

/-! ### DELTAs at the holder and back (R404 to R406) -/

/-- A packet of the Table from a live member: the member's index. -/
def Chip.fromMember (p : Packet) (kind xkind : Nat) (h : Nat) (act : Nat → Chip → Chip) (c : Chip) : Chip :=
  let w := p.word 0
  let m := c.twin.members.idxOf p.src
  c.intact p (fun c =>
    if c.twin.joined ∧ m < 8 ∧ m ≠ c.twin.member ∧ !bitAt c.twin.lost m ∧ bitsAt w 60 4 = kind ∧
        (kind ≠ 0 ∨ bitsAt w 52 8 = xkind) ∧ bitsAt w 51 1 = h then act m c
    else c)

/-- A DELTA or a PSET in the sequence of R405. -/
def Chip.takeCode (h : Nat) (p : Packet) (kind xkind : Nat) (apply_ : Chip → Chip) (c : Chip) : Chip :=
  c.fromMember p kind xkind h (fun m c =>
    let t := c.table8 h
    let next := Tab.get 0 m t.rxSeq
    let ack (t : TableHalf) : TableHalf := { t with dacks := if t.dacks.contains m then t.dacks else t.dacks ++ [m] }
    let ahead := (p.seq + 2 ^ 32 - next) % 2 ^ 32
    if ahead = 0 then apply_ (c.setTable8 h (ack { t with rxSeq := Tab.set 0 m ((next + 1) % 2 ^ 32) t.rxSeq }))
    else if ahead < 2 ^ 31 then c
    else c.setTable8 h (ack t))

def Chip.takeDelta (h : Nat) (p : Packet) (c : Chip) : Chip :=
  c.takeCode h p 0xC 0 (fun c =>
    let w := p.word 0
    let t := p.word 1 / 2 ^ 32
    let q := bitsAt w 49 1
    let off := bitsAt w 30 16
    let d := p.payload.drop 32
    let d := if q = 1 then gfScale (gfPow 2 (bitsAt w 46 3)) d else d
    let old := ((c.readParity h (bitsAt w 50 1) q t).drop off).take d.length
    (c.storeParity h (bitsAt w 50 1) q t off (xorBytes old d)).chargeRecipe h (2 * d.length))

def execDelta (half : Nat) (pkt : Packet) (s : State) : Host.Outcome State Fault Refusal :=
  s.run (okHalf half && okPacket pkt) (Chip.fabric (Chip.takeDelta half pkt))

def Chip.takePset (h : Nat) (p : Packet) (c : Chip) : Chip :=
  c.takeCode h p 0 6 (fun c =>
    let w := p.word 0
    (c.storeParity h (bitsAt w 50 1) (bitsAt w 49 1) (p.word 1 / 2 ^ 32) (bitsAt w 30 16) (p.payload.drop 32)).chargeRecipe h
      (p.payload.length - 32))

def execPset (half : Nat) (pkt : Packet) (s : State) : Host.Outcome State Fault Refusal :=
  s.run (okHalf half && okPacket pkt) (Chip.fabric (Chip.takePset half pkt))

/-- A DACK frees what it acknowledges (R405). -/
def Chip.takeDack (h : Nat) (p : Packet) (c : Chip) : Chip :=
  c.fromMember p 0xD 0 h (fun m c =>
    let t := c.table8 h
    let n := p.word 1 % 2 ^ 32
    let left := t.unacked.filter (fun x => x.member != m ||
      (decide (0 < (x.seq + 2 ^ 32 - n) % 2 ^ 32) && decide ((x.seq + 2 ^ 32 - n) % 2 ^ 32 < 2 ^ 31)))
    ((c.setTable8 h { t with unacked := left, progress := if left.length < t.unacked.length then c.tb.boundaries else t.progress }).drainDeltas
      h t.deltaWait.length).settleCoded h)

def execDack (half : Nat) (pkt : Packet) (s : State) : Host.Outcome State Fault Refusal :=
  s.run (okHalf half && okPacket pkt) (Chip.fabric (Chip.takeDack half pkt))

/-- DELTA_RTO Deals have passed: every unacknowledged packet again, oldest first (R405). -/
def Chip.resendCode (h : Nat) (c : Chip) : Chip :=
  let t := c.table8 h
  if c.twin.joined ∧ !t.unacked.isEmpty ∧ t.progress + c.twin.deltaRto ≤ c.tb.boundaries then
    let c := c.setTable8 h { t with progress := c.tb.boundaries }
    t.unacked.foldl (fun c p =>
      let c : Chip := if p.isPset then c else c.bump (deltaCount h 32) 1
      c.originateFrom h c.nest.self (c.twin.members.getD p.member 0) 6 0 p.seq true none p.payload) c
  else c

def execDeltaResend (half : Nat) (s : State) : Host.Outcome State Fault Refusal :=
  s.run (okHalf half) (Chip.fabric (Chip.resendCode half))

/-- The Deal's DACKs (R405). -/
def Chip.dackBoundary (h : Nat) (c : Chip) : Chip :=
  let t := c.table8 h
  t.dacks.foldl (fun c m =>
    let n := (Tab.get 0 m t.rxSeq + 2 ^ 32 - 1) % 2 ^ 32
    c.originate h (c.twin.members.getD m 0) 6 0 n (codeHeader (field 0xD 60 4 + field h 51 1) n 0)) (c.setTable8 h { t with dacks := [] })

/-! ### Rebuild (R410, R411) -/

/-- Every live member half has sent DRAINED = 1. -/
def Chip.allDrained (c : Chip) : Bool :=
  [0, 1].all (fun h => c.liveOthers.all (fun m => (Tab.get (0, false) m (c.table8 h).reports).2))

/-- Units a half has to rebuild: both generations of its space, and its parity units. -/
def Chip.rebuildTotal (c : Chip) (h : Nat) : Nat := 2 * c.spacePages h + 2 * c.codeH

/-- Both halves of a rebuild start. -/
def Chip.startRebuild (c : Chip) : Chip :=
  let go (c : Chip) (h : Nat) : Chip :=
    let t := c.table8 h
    let n := c.rebuildTotal h
    let c := c.setTable8 h { t with rebuild := if n = 0 then 0 else 2, done := 0, issued := 0, total := n, reads := [] }
    if n = 0 then c.raise 0x0F05 1 [(1, h), (26, 0)] else c
  [0, 1].foldl go c

/-- A pending rebuild starts once the members have drained. -/
def Chip.tryRebuild (c : Chip) : Chip :=
  if (c.table8 0).rebuild = 1 ∧ c.allDrained = true then c.startRebuild.endRebuildWait .ok (dealWords c.deal) else c

def tableRebuildCmd : Command where
  words := fun _ => 1
  act := fun r c =>
    let rate := bitsAt (r.w 0) 0 7
    let active (h : Nat) : Bool := (c.table8 h).rebuild == 1 || (c.table8 h).rebuild == 2
    if !c.twin.joined then refuse c .notFound
    else if active 0 || active 1 then refuse c .busy
    else if c.liveOthers.length < 6 then refuse c .noSource
    else if rate = 0 ∨ 64 < rate then refuse c .badValue
    else
      let go (c : Chip) (h : Nat) : Chip :=
        c.setTable8 h { c.table8 h with rebuild := 1, rate := rate, held := c.tableCoded h, done := 0, total := c.rebuildTotal h }
      let c := [0, 1].foldl go c
      if c.allDrained then answer c.startRebuild (dealWords c.deal) else waits r 0x0F14 false [] c

def execTableRebuild (k : Nat) (s : State) : Host.Outcome State Fault Refusal :=
  s.run (okMbx k) (Chip.live (Chip.accept 0x0F14 k tableRebuildCmd))

/-- What a rebuild takes at place `i` of its order: parity or data, generation, Q, and stripe. -/
structure RebuildUnit where
  parity : Bool
  gen : Nat
  q : Nat
  stripe : Nat
  unit : Nat

/-- The order of R410: the coded generation, the other, then the parity units, each in stripe order. -/
def Chip.rebuildUnit (c : Chip) (h i : Nat) : RebuildUnit :=
  let m := c.twin.member
  let n := c.spacePages h
  let g := (c.table8 h).held % 2
  if i < n then ⟨false, g, 0, stripeOf m i, i⟩
  else if i < 2 * n then ⟨false, 1 - g, 0, stripeOf m (i - n), i - n⟩
  else
    let p := i - 2 * n
    let k := p % max 1 c.codeH
    let far := (m + 4) % 8
    let r := if k % 2 = 0 then min m far else max m far
    ⟨true, if p < c.codeH then g else 1 - g, if r = m then 0 else 1, 8 * (k / 2) + r, 0⟩

/-- Six live members that serve a unit; of seven, which one is left out is a free choice. -/
def Chip.sources (c : Chip) : List Nat × Chip :=
  let live := c.liveOthers
  if live.length ≤ 6 then (live, c) else let (v, c) := c.draw; (live.eraseIdx (v % live.length), c)

/-- Ask a member for its unit of a stripe (R406). -/
def Chip.askUnit (h : Nat) (g t tag m : Nat) (c : Chip) : Chip :=
  let par := m == pHolder t || m == qHolder t
  let w0 := field 4 52 8 + field h 51 1 + field g 50 1 + field (b2n (m == qHolder t)) 49 1 + field (b2n par) 48 1
  c.originate h (c.twin.members.getD m 0) 6 0 tag (codeHeader w0 (field t 32 32 + field c.twin.job 24 8) tag)

def Chip.askMember (h i m : Nat) (c : Chip) : Chip :=
  let u := c.rebuildUnit h i
  let t := c.table8 h
  let read : UnitRead := { unit := i, member := m, tag := t.nextTag, asked := c.tb.boundaries }
  (c.setTable8 h { t with nextTag := (t.nextTag + 1) % 2 ^ 32, reads := t.reads ++ [read] }).askUnit h u.gen u.stripe t.nextTag m

/-- A Deal of a rebuild asks for its units (R410). -/
def Chip.rebuildBoundary (h : Nat) (c : Chip) : Chip :=
  let t := c.table8 h
  if t.rebuild ≠ 2 then c
  else
    let n := min t.rate (t.total - t.issued)
    let c := c.setTable8 h { t with issued := t.issued + n }
    (List.range n).foldl (fun c i =>
      let (ms, c) := c.sources
      ms.foldl (fun c m => c.askMember h (t.issued + i) m) c) c

/-- A serving member answers a UREAD with five UDATA packets (R406). -/
def Chip.takeUread (h : Nat) (p : Packet) (c : Chip) : Chip :=
  c.fromMember p 0 4 h (fun _ c =>
    let w := p.word 0
    let t := p.word 1 / 2 ^ 32
    let g := bitsAt w 50 1
    let unit := if bitAt w 48 then c.readParity h g (bitsAt w 49 1) t else c.readUnit h g (unitIn c.twin.member t)
    let keep := field 5 52 8 + field (bitsAt w 48 4) 48 4
    (List.range 5).foldl (fun c i =>
      let body := (unit.drop (16320 * i)).take 16320
      c.originate h p.src 6 0 p.seq (codeHeader (keep + field (16320 * i) 30 16) (p.word 1) (p.word 2) ++ body)) (c.chargeRecipe h 65536))

def execUread (half : Nat) (pkt : Packet) (s : State) : Host.Outcome State Fault Refusal :=
  s.run (okHalf half && okPacket pkt) (Chip.fabric (Chip.takeUread half pkt))

def Chip.takeUdata (h : Nat) (p : Packet) (c : Chip) : Chip :=
  c.fromMember p 0 5 h (fun m c =>
    let t := c.table8 h
    let tag := p.word 2 % 2 ^ 32
    let off := bitsAt (p.word 0) 30 16
    let put (r : UnitRead) : UnitRead := if r.member = m ∧ r.tag = tag then { r with parts := Tab.put off (p.payload.drop 32) r.parts } else r
    c.setTable8 h { t with reads := t.reads.map put })

def execUdata (half : Nat) (pkt : Packet) (s : State) : Host.Outcome State Fault Refusal :=
  s.run (okHalf half && okPacket pkt) (Chip.fabric (Chip.takeUdata half pkt))

/-- The whole unit of a read, once its five parts have come. -/
def UnitRead.whole (r : UnitRead) : Option (List Byte) :=
  let bs := r.parts.flatMap Prod.snd
  if r.parts.map Prod.fst = [0, 16320, 32640, 48960, 65280] ∧ bs.length = 65536 then some bs else none

/-- A unit any part of which has not come DELTA_RTO Deals after its UREAD is asked for again, with a new tag
(R406). -/
def Chip.retryReads (h : Nat) (c : Chip) : Chip :=
  (c.table8 h).reads.foldl (fun c r =>
    if r.whole.isNone && decide (r.asked + c.twin.deltaRto ≤ c.tb.boundaries) then
      let t := c.table8 h
      let u := c.rebuildUnit h r.unit
      let again : UnitRead := { unit := r.unit, member := r.member, tag := t.nextTag, asked := c.tb.boundaries }
      (c.setTable8 h { t with nextTag := (t.nextTag + 1) % 2 ^ 32, reads := t.reads.map (fun x => if x = r then again else x) }).askUnit
        h u.gen u.stripe t.nextTag r.member
    else c) c

def execUreadRetry (half : Nat) (s : State) : Host.Outcome State Fault Refusal :=
  s.run (okHalf half) (Chip.fabric (Chip.retryReads half))

/-- PSETs of one recomputed parity unit, in the five parts of a UDATA (R406, R410). -/
def Chip.sendPsets (h g q t m : Nat) (unit : List Byte) (c : Chip) : Chip :=
  (List.range 5).foldl (fun c i =>
    let w0 := field 6 52 8 + field h 51 1 + field g 50 1 + field q 49 1 + field (16320 * i) 30 16
    c.sendCode h m true (codeHeader w0 (field t 32 32 + field c.twin.job 24 8) 0 ++ (unit.drop (16320 * i)).take 16320)) c

/-- A rebuilt unit is written: the member's own parity, or its piece of a protected region (R410). -/
def Chip.storeRebuilt (h : Nat) (u : RebuildUnit) (d : List (List Byte)) (c : Chip) : Chip :=
  if u.parity then c.storeParity h u.gen u.q u.stripe 0 (if u.q = 1 then codeQ d else codeP d)
  else
    match c.unitPlace u.gen (c.table8 h).protectedList u.unit with
    | none => c
    | some (x, off) => c.writeRegion x off (d.getD (dataIndex u.stripe c.twin.member) [])

/-- The parity of a rebuilt stripe goes to its holder, if live (R410). -/
def Chip.psetRebuilt (h : Nat) (u : RebuildUnit) (d : List (List Byte)) (q m : Nat) (c : Chip) : Chip :=
  if c.liveOthers.contains m then c.sendPsets h u.gen q u.stripe m (if q = 1 then codeQ d else codeP d) else c

/-- The next stripe of a rebuild, once its units have come: solve, write the own unit, set the parity of its live
holders (R410). -/
def Chip.rebuildStripe (h : Nat) (c : Chip) : Chip :=
  let t := c.table8 h
  let mine := t.reads.filter (fun r => r.unit == t.done)
  if t.rebuild ≠ 2 ∨ mine.length < 6 ∨ mine.any (fun r => r.whole.isNone) then c
  else
    let u := c.rebuildUnit h t.done
    let of_ (m : Nat) : Option (List Byte) := (mine.find? (fun r => r.member == m)).bind UnitRead.whole
    let d := solveStripe ((dataMembers u.stripe).map of_) (of_ (pHolder u.stripe)) (of_ (qHolder u.stripe))
    let c := c.setTable8 h { t with reads := t.reads.filter (fun r => r.unit != t.done), done := t.done + 1 }
    let c := ((c.storeRebuilt h u d).psetRebuilt h u d 0 (pHolder u.stripe)).psetRebuilt h u d 1 (qHolder u.stripe)
    let t := c.table8 h
    if t.done < t.total then c else (c.setTable8 h { t with rebuild := 0 }).raise 0x0F05 1 [(1, h), (26, t.total)]

def execRebuildStripe (half : Nat) (s : State) : Host.Outcome State Fault Refusal :=
  s.run (okHalf half) (Chip.fabric (Chip.rebuildStripe half))

/-- A CODED packet: the member's coded step and whether it is drained (R407); a member named anew is counted again once
it reports the step held. -/
def Chip.takeCoded (h : Nat) (p : Packet) (c : Chip) : Chip :=
  c.fromMember p 0 3 h (fun m c =>
    let t := c.table8 h
    let step := p.word 1 % 2 ^ 48
    let back := if t.held ≤ step then maskDiff t.returning (2 ^ m) else t.returning
    (c.setTable8 h { t with reports := Tab.put m (step, bitAt (p.word 0) 50) t.reports, returning := back }).tryRebuild)

def execCoded (half : Nat) (pkt : Packet) (s : State) : Host.Outcome State Fault Refusal :=
  s.run (okHalf half && okPacket pkt) (Chip.fabric (Chip.takeCoded half pkt))

/-- CODED every 16 Deals (R407). -/
def Chip.codedReport (h : Nat) (c : Chip) : Chip :=
  if c.twin.joined ∧ (c.table8 h).lastCoded + 16 ≤ c.tb.boundaries then c.sendCoded h else c

def execCodedReport (half : Nat) (s : State) : Host.Outcome State Fault Refusal :=
  s.run (okHalf half) (Chip.fabric (Chip.codedReport half))

/-- PN_TABLE, PN_REBUILD of a half. -/
def Chip.pnTable (c : Chip) (h : Nat) : Nat :=
  let t := c.table8 h
  let lost := popcount 8 c.twin.lost
  let st := if !c.twin.joined then 0 else if c.twin.tableLost then 3 else if lost = 2 then 2 else 1
  field c.twin.member 0 3 + field (b2n c.twin.joined) 3 1 + field st 4 2 + field c.twin.lost 6 8 + field t.rebuild 14 2 +
    field (if c.twin.joined then c.tableCoded h else 0) 16 48

def Chip.pnRebuild (c : Chip) (h : Nat) : Nat :=
  let t := c.table8 h
  field t.done 0 26 + field t.total 26 26 + field t.rate 52 7

/-! ### Checkpoints (R412, R413) -/

def ckptTakeCmd : Command where
  words := fun _ => 4
  act := fun r c =>
    let j := bitsAt (r.w 0) 0 8
    let s := r.name 1
    match c.job 0 j, c.job 1 j, c.regionOf (r.w 3) with
    | some a, some b, some _ =>
      if s < a.step ∧ s < b.step then refuse c .late
      else
        let k : Ckpt := { job := j, step := s, learned := bitAt (r.w 0) 8, region := r.w 3, mbx := r.k, ticket := r.ticket }
        waits r 0x0F21 false [] (c.setTwin { c.twin with ckpts := c.twin.ckpts ++ [k] })
    | _, _, _ => refuse c .notFound

def execCkptTake (k : Nat) (s : State) : Host.Outcome State Fault Refusal :=
  s.run (okMbx k) (Chip.live (Chip.accept 0x0F21 k ckptTakeCmd))

/-- The image of R412 as it stands now. -/
def Chip.ckptImage (c : Chip) (step : Nat) (learned : Bool) : List Byte :=
  let half (h : Nat) : List (Nat × MirrorRecord) :=
    let routes := [0, 1].flatMap (fun e => if (c.table h e).state.forwards then c.routeRecords h e else [])
    let roll := ((c.rl h).entries.filter (fun e => e.2.kind == 2 || (learned && e.2.kind == 1))).map
      (fun e => ({ type := 1, body := e.2.words } : MirrorRecord))
    (routes ++ (c.mirrorItems h).map (fun x => x.rec_) ++ roll).map (fun r => (h, r))
  let rs := half 0 ++ half 1
  let body := rs.flatMap (fun x => x.2.bytes x.1)
  beBytes 8 (0x4C534350 * 2 ^ 32 + rs.length % 2 ^ 32) ++ beBytes 8 (step % 2 ^ 48) ++ beBytes 8 c.deal ++ beBytes 8 c.nest.self ++
    beBytes 8 (crc32c body) ++ List.replicate 24 0 ++ body

/-- Images whose step the job has now been advanced past in both halves are fixed; their result waits for the
write, which `mb.abort` no longer ends. -/
def Chip.fixImages (j s : Nat) (c : Chip) : Chip :=
  let go (k : Ckpt) : Ckpt := if k.job = j ∧ k.step = s ∧ k.image.isNone then { k with image := some (c.ckptImage s k.learned) } else k
  let mine (w : Waiting) : Bool := c.twin.ckpts.any (fun k => k.job == j && k.step == s && k.mbx == w.mbx && k.ticket == w.ticket)
  { c with
    twin := { c.twin with ckpts := c.twin.ckpts.map go }
    stew := { c.stew with waiting := c.stew.waiting.map (fun w => if w.opcode = 0x0F21 ∧ mine w then { w with started := true } else w) } }

/-- The oldest fixed image has been written (R412). -/
def Chip.ckptWritten (c : Chip) : Chip :=
  match c.twin.ckpts.find? (fun k => k.image.isSome) with
  | none => c
  | some k =>
    let c := c.setTwin { c.twin with ckpts := c.twin.ckpts.erase k }
    let bs := k.image.getD []
    let done (st : Status) (words : List Nat) (c : Chip) : Chip :=
      match c.waitingOf 0x0F21 (fun w => w.mbx == k.mbx && w.ticket == k.ticket) with
      | none => c
      | some w => c.finish w st words
    if !c.rangeOk k.region 0 bs.length then done .noSpace [] c
    else
      let c := (c.writeRegion k.region 0 bs).chargeRecipe (bitsAt k.region 31 1) bs.length
      (done .ok [bs.length] c).raise 0x0F06 1 [(8, k.job), (48, k.step)]

def execCkptWritten (s : State) : Host.Outcome State Fault Refusal :=
  s.run true (Chip.live (Chip.fabric Chip.ckptWritten))

/-- The chip may take an image (R413). -/
def Chip.mayRestore (c : Chip) : Bool :=
  c.twin.state == .unpaired && c.noKitty && c.noCalendar && [0, 1].all (fun h => (c.currentEpoch h).isNone)

def ckptRestoreCmd : Command where
  words := fun _ => 2
  act := fun r c => if c.mayRestore then waits r 0x0F22 true [r.w 0, r.w 1] c else refuse c .busy

def execCkptRestore (k : Nat) (s : State) : Host.Outcome State Fault Refusal :=
  s.run (okMbx k) (Chip.live (Chip.accept 0x0F22 k ckptRestoreCmd))

/-- The records of an image whose marks and CRC hold (R412). -/
def Chip.imageRecords (c : Chip) (x n : Nat) : Option (List (Nat × MirrorRecord)) :=
  if n < 64 ∨ !c.rangeOk x 0 n then none
  else
    let bs := c.readRegion (bitsAt x 31 1) (c.region (handleKey x)) 0 n
    let word (i : Nat) : Nat := beNat ((bs.drop (8 * i)).take 8)
    let body := bs.drop 64
    let count := word 0 % 2 ^ 32
    if word 0 / 2 ^ 32 = 0x4C534350 ∧ body.length = 64 * count ∧ word 4 % 2 ^ 32 = crc32c body then some (readRecords count body) else none

/-- The members of a Fan's records, in member order. -/
def fanMembersOf (rs : List (Nat × MirrorRecord)) (h f : Nat) : List (Nat × Nat) :=
  (rs.filter (fun x => x.1 == h && x.2.type == 8 && x.2.sub == f)).map (fun x => (bitsAt (x.2.body.getD 0 0) 0 12, bitsAt (x.2.body.getD 0 0) 12 8))

/-- The set of a multicast group's records. -/
def groupSetOf (rs : List (Nat × MirrorRecord)) (h g : Nat) : Nat :=
  (rs.filter (fun x => x.1 == h && x.2.type == 9 && x.2.index == g)).foldl
    (fun a x => a ||| (List.range 7).foldl (fun b i => b + (if 7 * x.2.sub + i < 17 then x.2.body.getD i 0 * 2 ^ (64 * (7 * x.2.sub + i)) else 0)) 0) 0

/-- Apply one record of an image (R413). -/
def Chip.restoreRecord (rs : List (Nat × MirrorRecord)) (x : Nat × MirrorRecord) (c : Chip) : Chip :=
  let h := x.1
  let r := x.2
  let b (i : Nat) : Nat := r.body.getD i 0
  let later (y : Change) (c : Chip) : Chip := c.schedule c.effectDeal y
  if r.type = 1 then
    let e := { RollEntry.ofWords r.body with port := 0xFFF, lanes := 0 }
    let c := c.rollAccess h e.kitty e.src
    match c.rollFind h e.kitty e.src with
    | some (s, _) => c.rollPut h s e
    | none => (c.rollInsert h e).1
  else if r.type = 6 then
    let t := c.table h r.sub
    c.setTable h r.sub { t with state := .loaded, entries := Tab.put r.index (b 0, b 1) t.entries }
  else if r.type = 8 then (if r.index = 0 then later (.fanSet (1024 * h + r.sub) (fanMembersOf rs h r.sub)) c else c)
  else if r.type = 9 then (if r.sub = 0 then later (.mcastSet (8192 * h + r.index) false (groupSetOf rs h r.index)) c else c)
  else if r.type = 0xA then
    let key := 32 * h + r.sub / 2
    let k := c.cal key
    let bank := k.bank (r.sub % 2)
    let deals := bitsAt (b 1) (22 + 7 * (r.sub % 2)) 7
    let bank := { bank with n := bitsAt (b 1) (4 + 9 * (r.sub % 2)) 9, deals := deals
                            entries := Tab.set (0xFF, 0) r.index (bitsAt (b 0) 0 8, bitsAt (b 0) 8 16) bank.entries }
    c.setCal key (k.setBank (r.sub % 2) bank)
  else if r.type = 0xB then
    later (.queueConfig [8216 * h + r.index] (bitsAt (b 0) 0 8) (bitsAt (b 0) 8 4) (bitsAt (b 0) 12 12) (bitAt (b 0) 24) (bitAt (b 0) 25) (bitsAt (b 0) 26 16)) c
  else if r.type = 0xC then
    let s := b 0
    later (.expectSet r.index (bitsAt (b 1) 48 2) (bitsAt (b 1) 0 48)) (later (.calBind r.index (bitsAt s 10 5) (bitAt s 15))
      (later (.schedConfig r.index (bitsAt s 0 10) (bitsAt s 16 3) ((List.range 4).map (fun i => bitsAt s (19 + 4 * i) 4))) c))
  else if r.type = 0xD then
    if r.sub = 0 then
      later (.meterSet (4096 * h + r.index) (bitsAt (b 0) 0 21) (bitsAt (b 0) 21 21) (bitsAt (b 1) 0 24) (bitsAt (b 1) 24 24)
        (bitsAt (b 1) 48 2) (bitsAt (b 1) 50 2) (bitsAt (b 1) 52 2)) c
    else
      (List.range 4).foldl (fun c i =>
        if bitsAt (b 2) (16 * i) 16 = 0 then c
        else later (.meterBind (r.index / 2) (4 * (r.index % 2) + i) (bitsAt (b 2) (16 * i) 12) (bitAt (b 2) (16 * i + 15))) c) c
  else c

/-- The waiting `ckpt.restore` finishes (R413). -/
def Chip.restoreDone (c : Chip) : Chip :=
  match c.waitingOf 0x0F22 (fun _ => true) with
  | none => c
  | some w =>
    match c.imageRecords (w.args.getD 0 0) (w.args.getD 1 0) with
    | none => c.finish w .badCheck []
    | some rs =>
      if !c.mayRestore then c.finish w .busy []
      else
        let reset (c : Chip) (x : Nat × MirrorRecord) : Chip := if x.2.type = 6 then c.setTable x.1 x.2.sub { state := .loaded } else c
        let applied := rs.filter (fun x => [1, 6, 8, 9, 0xA, 0xB, 0xC, 0xD].contains x.2.type)
        (applied.foldl (fun c x => c.restoreRecord rs x) (rs.foldl reset c)).finish w .ok [applied.length]

def execCkptRestoreDone (s : State) : Host.Outcome State Fault Refusal :=
  s.run true (Chip.live (Chip.fabric Chip.restoreDone))

/-! ### The job-start broadcast (R417 to R420) -/

def Chip.bc (c : Chip) : Bcast := c.twin.bcast

def Chip.setBc (v : Bcast) (c : Chip) : Chip := { c with twin := { c.twin with bcast := v } }

/-- The header of a JOB_START: KIND, MIRROR and BSEQ in word 0, the deadline and the launch Deal in words 1 and 2 (the
order of the fields and the places of MIRROR and BSEQ are the model's). -/
def jobHeader (bseq deadline launch : Nat) : List Byte := codeHeader (field 0xA 60 4 + bseq % 2 ^ 32) (deadline % 2 ^ 48) (launch % 2 ^ 48)

/-- The chip holds BSEQ as its own. -/
def Chip.holdsOwn (c : Chip) (bseq : Nat) : Bool := c.bc.holds.any (fun x => x.own && x.bseq == bseq)

/-- Place a broadcast in the hold of 8, dropping the oldest. -/
def Chip.hold (x : Held) (c : Chip) : Chip :=
  let l := c.bc.holds.filter (fun y => y.bseq != x.bseq) ++ [x]
  c.setBc { c.bc with holds := l.drop (l.length - 8) }

/-- Launch or accept a JOB_START as the chip's own (R418). -/
def Chip.acceptJob (bseq : Nat) (payload : List Byte) (c : Chip) : Chip :=
  let c := c.hold ⟨bseq, payload, true⟩
  let c := c.mirrorJob bseq payload
  let b := c.bc
  let met := match b.expected with | some e => e.1 == bseq | none => false
  (c.setBc { b with
    toChildren := b.toChildren ++ [payload], lastBseq := bseq
    expected := if met then none else b.expected, late := b.late && !met, asks := if met then 0 else b.asks
    missed := b.missed && !met }).raise 0x0F07 0 [(32, bseq)]

/-- A JOB_START arrives (R418). -/
def Chip.takeJob (p : Packet) (c : Chip) : Chip :=
  let w := p.word 0
  c.intact p (fun c =>
    if bitsAt w 60 4 ≠ 0xA then c
    else if bitAt w 59 then
      (if c.bc.holds.any (fun x => x.bseq == p.seq) ∨ c.twin.state = .unpaired then c else c.hold ⟨p.seq, markMirror false p.payload, false⟩)
    else if c.bc.lastBseq < p.seq then c.acceptJob p.seq p.payload
    else c)

def execJobStart (pkt : Packet) (s : State) : Host.Outcome State Fault Refusal :=
  s.run (okPacket pkt) (Chip.fabric (Chip.takeJob pkt))

/-- A held broadcast is sent to the asker (R420). -/
def Chip.takeAsk (p : Packet) (c : Chip) : Chip :=
  let w := p.word 0
  c.intact p (fun c =>
    if bitsAt w 60 4 ≠ 0xB then c
    else
      match c.bc.holds.find? (fun x => x.bseq == w % 2 ^ 32) with
      | none => c
      | some x => c.originateFrom 0 c.nest.self p.src 1 0 x.bseq true none x.payload)

def execBcastAsk (pkt : Packet) (s : State) : Host.Outcome State Fault Refusal :=
  s.run (okPacket pkt) (Chip.fabric (Chip.takeAsk pkt))

/-- Send an ask for BSEQ: the first and every other one to the parent, the others to its twin (R419). -/
def Chip.ask (bseq : Nat) (c : Chip) : Chip :=
  let b := c.bc
  let dest := if b.asks % 2 = 0 then b.parent else b.parentTwin
  (c.setBc { b with asks := b.asks + 1, lastAsk := c.tb.boundaries }).originate 0 dest 1 0 bseq (codeHeader (field 0xB 60 4 + bseq % 2 ^ 32) 0 0)

/-- The deadline boundary has come without the broadcast (R419). -/
def Chip.bcastDeadline (c : Chip) : Chip :=
  match c.bc.expected with
  | none => c
  | some (bseq, d) =>
    if c.bc.late ∨ !c.reached d ∨ c.holdsOwn bseq then c
    else ((c.setBc { c.bc with late := true, asks := 0, missed := false }).raise 0x0F08 2 [(32, bseq)]).ask bseq

def execBcastDeadline (s : State) : Host.Outcome State Fault Refusal :=
  s.run true (Chip.fabric Chip.bcastDeadline)

/-- 4 Deals have passed without it: the next ask, or BCAST_MISSED after three to each (R419). -/
def Chip.bcastRetry (c : Chip) : Chip :=
  let b := c.bc
  match b.expected with
  | none => c
  | some (bseq, _) =>
    if !b.late ∨ b.missed ∨ c.tb.boundaries < b.lastAsk + 4 then c
    else if b.asks < 6 then c.ask bseq
    else (c.setBc { b with missed := true }).raise 0x0F09 3 [(32, bseq)]

def execBcastAskRetry (s : State) : Host.Outcome State Fault Refusal :=
  s.run true (Chip.fabric Chip.bcastRetry)

/-- Copies of a broadcast into a group of a half (R174, R418). DEST of the copies is a free value. -/
def Chip.toGroup (h g bseq : Nat) (payload : List Byte) (c : Chip) : Chip :=
  match c.currentEpoch h with
  | none => c.bump (routeStat h 16) 1
  | some e =>
    let (v, c) := c.draw
    let p := mkPacket (v % 2 ^ 48) 1 e c.nest.self 0 bseq false payload
    let (tag, c) := c.newTag
    c.replicate h (bitsSet 1027 (c.group h g)) { tag := tag, pkt := p, cells := p.cells, arrived := p.cells, via := field 4 60 4 + field g 30 16 }

/-- From the boundary after its acceptance a broadcast goes to the children (R418). -/
def Chip.bcastBoundary (c : Chip) : Chip :=
  let b := c.bc
  let send (c : Chip) (bs : List Byte) : Chip :=
    let bseq := beNat (bs.take 8) % 2 ^ 32
    [0, 1].foldl (fun c h => match b.groups.get h with | none => c | some g => c.toGroup h g bseq bs) c
  b.toChildren.foldl send (c.setBc { b with toChildren := [] })

def bcastTreeCmd : Command where
  words := fun _ => 5
  act := fun r c =>
    let p := r.name 0
    let q := r.name 2
    let g (h : Nat) : Option Nat := if bitAt (r.w 4) (26 + h) then some (bitsAt (r.w 4) (13 * h) 13) else none
    if (p ≠ 0 ∧ !c.unitName p) ∨ (q ≠ 0 ∧ !c.unitName q) then refuse c .badAddr
    else if c.bc.expected.isSome then refuse c .busy
    else answer (c.setBc { c.bc with parent := p, parentTwin := q, groups := ⟨g 0, g 1⟩ })

def execBcastTree (k : Nat) (s : State) : Host.Outcome State Fault Refusal :=
  s.run (okMbx k) (Chip.live (Chip.accept 0x0F31 k bcastTreeCmd))

def dealExpectCmd : Command where
  words := fun _ => 3
  act := fun r c =>
    let d := r.name 1
    if c.tooLate d then refuse c .late
    else if c.holdsOwn (r.w 0) then answer (c.setBc { c.bc with expected := none, late := false, asks := 0, missed := false })
    else answer (c.setBc { c.bc with expected := some (r.w 0, d), late := false, asks := 0, missed := false })

def execDealExpect (k : Nat) (s : State) : Host.Outcome State Fault Refusal :=
  s.run (okMbx k) (Chip.live (Chip.accept 0x0F32 k dealExpectCmd))

def dealOpenCmd : Command where
  words := fun w => 4 + w 3
  act := fun r c =>
    if r.w 0 ≤ c.bc.lastBseq then refuse c .busy
    else if !c.tb.aligned then refuse c .notAligned
    else
      let body := (List.range (r.w 3)).flatMap (fun i => beBytes 4 (r.w (4 + i)))
      answer (c.acceptJob (r.w 0) (jobHeader (r.w 0) (r.name 1) c.deal ++ body)) (dealWords c.deal)

def execDealOpen (k : Nat) (s : State) : Host.Outcome State Fault Refusal :=
  s.run (okMbx k) (Chip.live (Chip.accept 0x0F33 k dealOpenCmd))

def Chip.pnBcast (c : Chip) : Nat :=
  field c.bc.lastBseq 0 32 + field (b2n c.bc.expected.isSome) 32 1 + field c.bc.asks 33 3

/-! ### Health (R421 to R424) -/

/-- LT in core cycles of a WINDOW of `m` minutes. -/
def windowCycles (m : Nat) : Nat := m * 60 * 2000000000

/-- Proposals of the last WINDOW. -/
def Chip.recentProposals (c : Chip) : List Nat :=
  c.twin.health.proposals.filter (fun t => decide ((c.tb.lt + 2 ^ 64 - t) % 2 ^ 64 < windowCycles c.twin.health.window))

def Chip.setHealth (v : Health) (c : Chip) : Chip := { c with twin := { c.twin with health := v } }

/-- A name becomes a suspect, and is proposed if the budget allows (R422 to R424). -/
def Chip.suspect (name s : Nat) (c : Chip) : Chip :=
  let c := c.raise 0x0F0A 2 [(48, name), (16, s)]
  let h := c.twin.health
  let recent := c.recentProposals
  if !h.spent && decide (recent.length < h.budget) then
    (c.setHealth { h with proposals := recent ++ [c.tb.lt] }).raise 0x0F0B 2 [(48, name), (16, s)]
  else if h.spent then c
  else (c.setHealth { h with spent := true }).raise 0x0F0C 2 [(16, h.threshold)]

/-- One name's score after a step in which it lagged in `lg` rounds (R421, R422). -/
def Chip.scoreName (name lg : Nat) (c : Chip) : Chip :=
  let h := c.twin.health
  let old : Score := Tab.get {} name h.scores
  let s := old.s - old.s / 16 + 16 * min lg 8
  if s = 0 then c.setHealth { h with scores := Tab.erase name h.scores }
  else if old.s = 0 ∧ 65536 ≤ h.scores.length then c
  else
    let put (sus : Bool) : Chip := c.setHealth { h with scores := Tab.put name { s := s, suspect := sus } h.scores }
    if !old.suspect && decide (h.threshold ≤ s) then (put true).suspect name s
    else put (old.suspect && decide (h.threshold ≤ s + 32))

/-- A step close of the health job: every score of a name kept or lagging (R421). -/
def Chip.scoreStep (j : Nat) (c : Chip) : Chip :=
  if c.twin.health.job ≠ some j ∨ c.stew.phase = .restarting then c
  else
    let lags := [0, 1].flatMap (fun h => match c.job h j with | none => [] | some x => x.closed)
    let names := (c.twin.health.scores.map Prod.fst ++ lags).eraseDups
    names.foldl (fun c n => c.scoreName n (lags.count n)) c

/-- The later half has advanced a job past step `s` (R412, R421). -/
def Chip.stepClosed (j s : Nat) (c : Chip) : Chip := (c.scoreStep j).fixImages j s

def Chip.windowEnd (c : Chip) : Chip :=
  let h := c.twin.health
  if windowCycles h.window ≤ (c.tb.lt + 2 ^ 64 - h.since) % 2 ^ 64 then
    c.setHealth { h with since := c.tb.lt, threshold := if h.spent then min 0xFFFF (h.threshold + h.rise) else h.threshold }
  else c

def execHealthWindowEnd (s : State) : Host.Outcome State Fault Refusal :=
  s.run true (Chip.live Chip.windowEnd)

def healthBudgetCmd : Command where
  words := fun _ => 2
  act := fun r c =>
    let w := bitsAt (r.w 0) 8 16
    if w = 0 then refuse c .badValue
    else
      answer (c.setHealth { c.twin.health with
        job := some (bitsAt (r.w 0) 24 8), budget := bitsAt (r.w 0) 0 8, window := w, threshold := bitsAt (r.w 1) 0 16
        rise := bitsAt (r.w 1) 16 12, spent := false, since := c.tb.lt })

def execHealthBudget (k : Nat) (s : State) : Host.Outcome State Fault Refusal :=
  s.run (okMbx k) (Chip.live (Chip.accept 0x0F41 k healthBudgetCmd))

def healthClearCmd : Command where
  words := fun _ => 2
  act := fun r c =>
    let h := c.twin.health
    if h.scores.any (fun e => e.1 == r.name 0) then answer (c.setHealth { h with scores := Tab.erase (r.name 0) h.scores })
    else refuse c .notFound

def execHealthClear (k : Nat) (s : State) : Host.Outcome State Fault Refusal :=
  s.run (okMbx k) (Chip.live (Chip.accept 0x0F42 k healthClearCmd))

def Chip.pnHealth (c : Chip) : Nat :=
  let h := c.twin.health
  field h.threshold 0 16 + field h.budget 16 8 + field c.recentProposals.length 24 8 + field (b2n h.spent) 32 1 + field h.rise 33 12 +
    field h.window 45 16

/-- Everything of this chapter at a Deal boundary but the changes it applies. -/
def Chip.twinBoundary (c : Chip) : Chip :=
  let c := c.pairBoundary
  let half (c : Chip) (h : Nat) : Chip :=
    let c := c.mirrorBoundary h
    if c.twin.joined then ((c.dackBoundary h).settleCoded h).rebuildBoundary h else c
  ([0, 1].foldl half c).bcastBoundary

end Sys2Proof.Machine
end

