-- ==== Sys2Proof/Machine/Firmware.lean ====
section
/-! DEFINITION. Firmware images, attestation, replacement requests and bring-up (R453 to R463, 18_bring_up.md). -/

namespace Sys2Proof.Machine

open Sys2Proof

/-! ### Retirements recorded (R4, R462, R463) -/

/-- PN_CAPS without a unit: kind 0 a lane, 3 a Loom, 4 the Sieve, 5 a stack. -/
def Caps.without (kind unit : Nat) (x : Caps) : Caps :=
  match kind with
  | 0 => if unit < 2048 then { x with lanes := x.lanes.set (unit / 1024) (x.lanes.get (unit / 1024) - 1) } else x
  | 3 => { x with loomMask := maskDiff x.loomMask (2 ^ unit) }
  | 4 => { x with sieve := false }
  | 5 => { x with sites := maskDiff x.sites (2 ^ unit) }
  | _ => x

/-- One retirement in PN_CAPS and the `sys.caps` result: a reason of 16 or more is a failed self-test of that kind. -/
def Chip.recordRetired (reason unit : Nat) (c : Chip) : Chip :=
  let bit := if 16 ≤ reason then 6 else reason
  let caps := { (c.caps.without (reason % 16) unit) with degraded := true, replace := true }
  let c := { c with caps := caps, stew := { c.stew with reasons := c.stew.reasons ||| 2 ^ bit, capsDeal := c.deal } }
  c.raise 0x1002 3 [(5, bit), (16, unit)]

/-- The retirements that are due are recorded at a boundary, unless Moelo is restarting (R4, R457). -/
def Chip.recordRetirements (c : Chip) : Chip :=
  if c.stew.phase = .restarting then c
  else
    let due := c.stew.unrecorded.filter (fun e => c.reached e.1)
    let c := { c with
      stew := { c.stew with unrecorded := c.stew.unrecorded.filter (fun e => !c.reached e.1) }
      caps := { c.caps with spares := ⟨c.spares 0, c.spares 1⟩ } }
    due.foldl (fun c e => c.recordRetired e.2.1 e.2.2) c

/-! ### Firmware commands (R453 to R457) -/

def Chip.setFlash (v : Flash) (c : Chip) : Chip := { c with flash := v }

/-- The inactive bank: with no firmware running, the one that is not committed. -/
def Chip.inactiveBank (c : Chip) : Nat := if c.stew.phase = .rom then 1 - c.flash.committed else 1 - c.stew.running

/-- The header fields and check outcomes of an image, over what a bank holds. -/
def Image.checked (x : ImageCheck) (i : Image) : Image :=
  { i with present := true, magicOk := x.magicOk, version := x.version, svn := x.svn, keySlot := x.keySlot, revokeLower := x.revokeLower
           liveOk := x.liveOk, keyOk := x.keyOk, sigOk := x.sigOk, digestOk := x.digestOk }

/-- The check of R455: its status. -/
def Chip.imageStatus (c : Chip) (x : ImageCheck) : Status :=
  if !x.magicOk || !x.keyOk || bitAt c.fuses.revoked (x.keySlot % 4) || !x.sigOk then .authFail
  else if x.svn < c.fuses.svn then .rollback
  else if !x.digestOk then .badCheck
  else .ok

def fwStageCmd : Command where
  words := fun w => 2 + w 1
  act := fun r c =>
    let off := r.w 0
    let n := r.w 1
    if off % 4 ≠ 0 ∨ n = 0 ∨ 1020 < n ∨ 31457280 < off + 4 * n then refuse c .badValue
    else if (c.waitingOf 0x1043 (fun _ => true)).isSome then refuse c .busy
    else
      waits r 0x1041 true (off :: (List.range n).map (fun i => r.w (2 + i)))
        (c.setFlash { c.flash with verified := false, nextBoot := if c.flash.nextBoot = c.inactiveBank then c.flash.committed else c.flash.nextBoot })

def execFwStage (k : Nat) (s : State) : Host.Outcome State Fault Refusal :=
  s.run (okMbx k) (Chip.live (Chip.accept 0x1041 k fwStageCmd))

def fwVerifyCmd : Command where
  words := fun _ => 0
  act := fun r c => waits r 0x1042 true [] c

def execFwVerify (k : Nat) (s : State) : Host.Outcome State Fault Refusal :=
  s.run (okMbx k) (Chip.live (Chip.accept 0x1042 k fwVerifyCmd))

def fwActivateCmd : Command where
  words := fun _ => 1
  act := fun r c =>
    let live := bitAt (r.w 0) 0
    let others := c.stew.mbx.any (fun e => e.1 != r.k && e.2.pending)
    let both := (c.flash.bank.get c.stew.running).liveOk && (c.flash.bank.get (1 - c.stew.running)).liveOk
    if !c.flash.verified || (live && !both) then refuse c .notReady
    else if live && others then refuse c .busy
    else if live then
      waits r 0x1043 true [1] { c with stew := { c.stew with phase := .restarting, restart := some (r.k, r.ticket) } }
    else waits r 0x1043 true [0] c

def execFwActivate (k : Nat) (s : State) : Host.Outcome State Fault Refusal :=
  s.run (okMbx k) (Chip.live (Chip.accept 0x1043 k fwActivateCmd))

def fwCommitCmd : Command where
  words := fun _ => 0
  act := fun r c => if c.stew.running = c.flash.committed then refuse c .notReady else waits r 0x1044 true [] c

def execFwCommit (k : Nat) (s : State) : Host.Outcome State Fault Refusal :=
  s.run (okMbx k) (Chip.live (Chip.accept 0x1044 k fwCommitCmd))

def fwStatusCmd : Command where
  words := fun _ => 0
  act := fun _ c =>
    answer c [field c.stew.running 0 1 + field (b2n (c.stew.running == c.flash.committed)) 1 1 + field (b2n c.flash.verified) 2 1 +
      field (b2n c.stew.fallback) 3 1, c.flash.bank.h0.version, c.flash.bank.h1.version]

def execFwStatus (k : Nat) (s : State) : Host.Outcome State Fault Refusal :=
  s.run (okMbx k) (Chip.live (Chip.accept 0x1045 k fwStatusCmd))

/-- Slots below a key slot, as a mask. -/
def slotsBelow (k : Nat) : Nat := 2 ^ (k % 4) - 1

/-- The flash write, check or fuse work of mailbox `k` ends; `x` is what the check of the inactive bank finds. -/
def Chip.fwWorkDone (k : Nat) (x : ImageCheck) (c : Chip) : Chip :=
  match c.stew.waiting.find? (fun w => w.mbx == k && [0x1041, 0x1042, 0x1043, 0x1044].contains w.opcode && w.args != [1]) with
  | none => c
  | some w =>
    let b := c.inactiveBank
    let f := c.flash
    match w.opcode with
    | 0x1041 =>
      let img := f.bank.get b
      let at_ := w.args.headD 0 / 4
      let words := ((w.args.drop 1).mapIdx (fun i v => (at_ + i, v))).foldl (fun t e => Tab.set 0 e.1 (BitVec.ofNat 32 e.2) t) img.words
      (c.setFlash { f with bank := f.bank.set b { img with present := true, words := words } }).finish w .ok []
    | 0x1042 =>
      let c := c.setFlash { f with bank := f.bank.set b ((f.bank.get b).checked x), verified := c.imageStatus x == .ok }
      if c.imageStatus x = .ok then c.finish w .ok [x.version, x.svn, x.keySlot] else c.finish w (c.imageStatus x) []
    | 0x1043 => (c.setFlash { f with nextBoot := b }).finish w .ok []
    | _ =>
      let img := f.bank.get c.stew.running
      let fuses := { c.fuses with
        svn := max c.fuses.svn img.svn, revoked := if img.revokeLower then c.fuses.revoked ||| slotsBelow img.keySlot else c.fuses.revoked }
      ({ (c.setFlash { f with committed := c.stew.running, nextBoot := if f.nextBoot = f.committed then c.stew.running else f.nextBoot }) with
        fuses := fuses }).finish w .ok [fuses.svn]

def execFwWorkDone (k : Nat) (image : ImageCheck) (s : State) : Host.Outcome State Fault Refusal :=
  s.run (okMbx k) (Chip.live (Chip.fwWorkDone k image))

/-! ### Boot (R453, R456, R457) -/

/-- `n` constant bytes of the part that the spec names without a value. -/
def constBytes (k n : Nat) : List Byte := (List.range n).map (fun i => ((Config.identity k i).toNat % 256 : Nat))

/-- Digest of the payload in a bank: constant for its version. -/
def payloadDigest (version : Nat) : List Byte := constBytes (2 ^ 32 + version) 64

/-- The measurements fixed at boot (R461). The order of the fields in 3 and 4 is the model's. -/
def Chip.measureBoot (c : Chip) : List (List Byte) :=
  let x := capsOf c.fuses.variant
  [constBytes 21 64, payloadDigest c.stew.runningVersion,
    beBytes 4 c.fuses.svn ++ beBytes 4 (c.flash.bank.get c.stew.running).svn ++ beBytes 4 c.fuses.revoked ++ beBytes 4 c.stew.running,
    beBytes 2 c.fuses.variant ++ beBytes 2 c.pkg.straps ++ beBytes 4 x.sites ++ beBytes 8 x.loomMask]

def Chip.setKeys (v : Keys) (c : Chip) : Chip := { c with stew := { c.stew with keys := v } }

/-- The ROM derives the device identity key pair from the secret in fuses (R458). -/
def Chip.deriveIdentity (c : Chip) : Chip :=
  let k := Config.identityKey c.fuses.secret
  c.setKeys { c.stew.keys with identityPrivate := some k, identityPublic := some (Config.publicKey k) }

/-- The ROM derives the running image's key pair from the secret and the image's digest, and issues its certificate with
the identity key (R458, R459). -/
def Chip.deriveImageKey (c : Chip) : Chip :=
  let digest := payloadDigest c.stew.runningVersion
  let k := Config.aliasKey c.fuses.secret digest
  let cert := match c.stew.keys.identityPrivate with
    | some i => Config.certificate i (Config.publicKey k) digest (c.flash.bank.get c.stew.running).svn (c.pkg.straps % 4)
    | none => []
  c.setKeys { c.stew.keys with imagePrivate := some k, imagePublic := some (Config.publicKey k), certificate := cert }

/-- The ROM erases its copy of the device identity private key (R458). -/
def Chip.eraseIdentity (c : Chip) : Chip := c.setKeys { c.stew.keys with identityPrivate := none }

/-- The keys of a boot, in the ROM's order (R458). -/
def Chip.romKeys (c : Chip) : Chip := (c.deriveIdentity.deriveImageKey).eraseIdentity

/-- The ROM starts Moelo from a bank. -/
def Chip.startMoelo (bank : Nat) (c : Chip) : Chip :=
  let c := { c with
    stew := { c.stew with phase := .running, running := bank, runningVersion := (c.flash.bank.get bank).version }, boot := { c.boot with stage := 2 } }
  ({ c with stew := { c.stew with measured := c.measureBoot } }).romKeys

/-- The ROM's check of the image it is to boot: from flash, or the one staged over PCIe; with STRAP_BOOT = 0b10 it
starts none (R453, R456). -/
def Chip.bootCheck (x : ImageCheck) (c : Chip) : Chip :=
  if c.stew.phase ≠ .rom ∨ 1 < c.pkg.straps % 4 ∨ 1 < c.boot.stage ∨ c.stew.triedNew then c
  else
    let bank := if c.pkg.straps % 4 = 0 then c.flash.nextBoot else 1 - c.flash.committed
    let trial := decide (bank ≠ c.flash.committed)
    let f := c.flash
    let c := c.setFlash { f with bank := f.bank.set bank ((f.bank.get bank).checked x), nextBoot := f.committed }
    let c := { c with boot := { c.boot with stage := 1 }, stew := { c.stew with triedNew := trial, failedVersion := x.version } }
    if c.imageStatus x = .ok then c.startMoelo bank else c

def execBootImageCheck (image : ImageCheck) (s : State) : Host.Outcome State Fault Refusal :=
  s.run true (Chip.fabric (Chip.bootCheck image))

/-- Moelo reports ready: BOOT_READY, and FW_FALLBACK where the committed bank had to boot (R456, R498). -/
def Chip.reportReady (c : Chip) : Chip :=
  let c := c.raise 0x1201 1 [(32, c.stew.runningVersion)]
  if c.stew.fallback then c.raise 0x1001 3 [(1, c.stew.running), (32, c.stew.failedVersion)] else c

def Chip.bootDone (c : Chip) : Chip :=
  if c.stew.phase = .running ∧ !c.stew.bootReady ∧ c.boot.stage = 2 then
    ({ c with stew := { c.stew with bootReady := true }, boot := { c.boot with stage := 3 } }).reportReady
  else c

def execBootReady (s : State) : Host.Outcome State Fault Refusal := s.run true (Chip.fabric Chip.bootDone)

/-- A live restart ends: the inactive bank runs, and what waited for firmware resumes (R457). -/
def Chip.liveDone (c : Chip) : Chip :=
  if c.stew.phase ≠ .restarting then c
  else
    let bank := 1 - c.stew.running
    let version := (c.flash.bank.get bank).version
    let measured := c.stew.measured.set 1 (payloadDigest version)
    let c := { c with
      flash := { c.flash with verified := false }
      stew := { c.stew with phase := .running, running := bank, runningVersion := version, measured := measured, restart := none } }
    let c := (c.romKeys.raise 0x1201 1 [(32, version)]).drainDie 1024
    match c.waitingOf 0x1043 (fun _ => true) with
    | none => c
    | some w => c.finish w .ok []

def execFwLiveRestartDone (s : State) : Host.Outcome State Fault Refusal := s.run true (Chip.live Chip.liveDone)

/-- An image has not reported ready within 10 s: the committed bank boots, or restarts (R456, R457). -/
def Chip.readyTimeout (c : Chip) : Chip :=
  if c.stew.phase = .restarting then
    let bank := c.flash.committed
    let failed := (c.flash.bank.get (1 - c.stew.running)).version
    let version := (c.flash.bank.get bank).version
    let c := { c with
      flash := { c.flash with verified := false }
      stew := { c.stew with phase := .running, running := bank, runningVersion := version, fallback := true, failedVersion := failed
                            measured := c.stew.measured.set 1 (payloadDigest version), restart := none } }
    let c := c.romKeys.reportReady.drainDie 1024
    match c.waitingOf 0x1043 (fun _ => true) with
    | none => c
    | some w => c.finish w .notReady []
  else if c.stew.triedNew ∧ !c.stew.bootReady ∧ !c.stew.fallback ∧ !c.regs.freeze.accepted then
    ({ c with stew := { c.stew with fallback := true }, flash := { c.flash with verified := false } }).startMoelo c.flash.committed
  else c

def execFwReadyTimeout (s : State) : Host.Outcome State Fault Refusal := s.run true (Chip.live Chip.readyTimeout)

/-! ### Bring-up (R498 to R503) -/

/-- What a retirement noted since `n` entries ago is: a failed self-test, recorded at the boundary R16 gives (R499). -/
def Chip.asSelfTest (n : Nat) (c : Chip) : Chip :=
  let mark (e : Nat × Nat × Nat) : Nat × Nat × Nat := (c.effectDeal, 16 + e.2.1 % 16, e.2.2)
  { c with stew := { c.stew with unrecorded := c.stew.unrecorded.take n ++ (c.stew.unrecorded.drop n).map mark } }

/-- One failed unit is retired at the end of its stage (R499). -/
def Chip.failUnit (cause unit : Nat) (c : Chip) : Chip :=
  let n := c.stew.unrecorded.length
  let stage := c.boot.stage
  let go (f : Chip → Chip) (c : Chip) : Chip := ((f c).asSelfTest n).raise 0x1202 3 [(4, stage), (16, unit), (8, cause)]
  match cause with
  | 1 => if stage = 3 ∧ c.loomServes unit then go (Chip.retireLoom unit 5) c else c
  | 2 => if stage = 4 ∧ c.ldStack unit = 1 then go (fun c => (c.retireStack unit).rollDeadSlots (unit / 10)) c else c
  | 3 => if stage = 5 ∧ okLane unit ∧ !c.laneRetired unit then go (Chip.retireNow unit 1) c else c
  | 4 => if stage = 5 ∧ okLane unit ∧ !c.laneRetired unit then go (Chip.retireNow unit 2) c else c
  | 5 =>
    if stage = 5 ∧ unit < 64 ∧ unit % 32 < 20 ∧ (c.laser unit).state ≠ .failed then
      go (fun c => (c.setLaser unit { c.laser unit with state := .failed }).noteRetired c.deal 1 unit) c
    else c
  | 6 => if stage = 6 ∧ (capsOf c.fuses.variant).sieve ∧ c.sv.state ≠ .retired then go Chip.retireSieve c else c
  | _ => c

/-- HBM_TRAIN ends: the striping is over the stacks that it left in service, and where SPILL is all that remains of a half, SPILL
is what remains (R372, R374, R386). -/
def Chip.endTrain (c : Chip) : Chip :=
  [0, 1].foldl (fun c h =>
    let x := c.ld h
    let sites := x.sites.filter (fun s => !bitAt c.lard.retired s)
    let size := if c.fuses.variant = 3 then 2097152 * sites.length - 5376 else x.spillSize
    c.setLd h { x with sites := sites, spillSize := size }) c

/-- The LAMP stage begins: in-service lasers warm, and the receive sides that a far end lights wait for it (R83). -/
def Chip.beginLamp (c : Chip) : Chip :=
  let wait (c : Chip) (l : Nat) : Chip :=
    if (c.lane l).rx.state = .off then c.setLane l { c.lane l with rx := { (c.lane l).rx with state := .nolight } } else c
  let c := (List.range 2048 ++ [0, 1].flatMap (fun h => (List.range 8).map (fun i => 0x800 + 0x200 * h + 320 + i))).foldl wait c
  let warm (c : Chip) (k : Nat) : Chip :=
    if (c.laser k).state = .off then c.setLaser k { c.laser k with state := .warming, started := c.tb.lt } else c
  (List.range 16 ++ (List.range 16).map (fun p => 32 + p)).foldl warm c

/-- Lanes that failed in the LAMP stage, with their cause: three identity failures, or eight lock losses (R84, R85, R499). -/
def Chip.parkedLanes (c : Chip) : List (Nat × Nat) :=
  (c.light.lanes.filter (fun e => !c.laneRetired e.1 && decide (0 < e.2.lampFail))).map (fun e => (e.2.lampFail, e.1))

/-- The LAMP stage ends: in-service lasers that reached READY serve, and missing nominal powers are recorded (R500). -/
def Chip.endLamp (c : Chip) : Chip :=
  let serve (c : Chip) (k : Nat) : Chip :=
    if (c.laser k).state = .warming ∨ (c.laser k).state = .aligning then c.lightLaser (k / 32) (k % 32) else c
  let c := (List.range 16 ++ (List.range 16).map (fun p => 32 + p)).foldl serve c
  let c := [0, 1].foldl (fun c h => if c.flash.nominalKnown.get h then c else c.recordNominal h) c
  { c with boot := { c.boot with nominal := true } }

/-- The SIEVE stage ends: the Sieve has warmed and is trimmed, and its comb has a nominal power. DESIGN CHOICE: the effective bits that
this trim measures, which the spec does not give, are free values (R361, R498). -/
def Chip.endSieve (c : Chip) : Chip :=
  if c.sv.state ≠ .warming then c
  else
    let c := c.setSv { c.sv with state := .ready, effs := (List.range 4).map (fun i => (Config.freeWord (c.free + i)).toNat % 128) }
    let c := { c with free := c.free + 4 }
    if c.flash.combKnown then c
    else { c.nominalOf 0x40 with flash := { (c.nominalOf 0x40).flash with combKnown := true } }

/-- A stage other than FUSES is over: its bit is recorded, with a failure, and the next begins (R498, R499, R500). -/
def Chip.passStage (stage : Nat) (failed : Bool) (c : Chip) : Chip :=
  let c : Chip := if stage = 5 then c.endLamp else c
  let c : Chip := if stage = 6 then c.endSieve else c
  let c : Chip := { c with boot := { c.boot with
    ended := c.boot.ended ||| 2 ^ stage, failed := if failed then c.boot.failed ||| 2 ^ (stage + 1) else c.boot.failed
    stage := min 6 (stage + 1) } }
  if stage = 4 then (c.endTrain.beginLamp).raise 0x1203 1 [(20, maskDiff (capsOf c.fuses.variant).sites c.lard.retired)]
  else if stage = 5 ∧ (capsOf c.fuses.variant).sieve = true ∧ c.sv.state = .off then c.setSv { c.sv with state := .warming }
  else c

/-- A bring-up stage ends with the units that failed in it (R499). -/
def Chip.stageEnd (failures : List StageFailure) (c : Chip) : Chip :=
  let stage := c.boot.stage
  if stage = 0 then { c with boot := { c.boot with stage := 1 } }
  else if stage < 3 ∨ 6 < stage ∨ !c.stew.bootReady ∨ bitAt c.boot.ended stage then c
  else
    let n := c.stew.unrecorded.length
    let found := failures ++ (if stage = 5 then c.parkedLanes else [])
    let c := found.foldl (fun c f => c.failUnit f.1 f.2) c
    c.passStage stage (decide (n < c.stew.unrecorded.length))

def execBringupStageEnd (failures : List StageFailure) (s : State) : Host.Outcome State Fault Refusal :=
  s.run true (Chip.fabric (Chip.stageEnd failures))

/-- DONE is declared at the first boundary at which every result is recorded (R501). -/
def Chip.declareDone (c : Chip) : Chip :=
  if c.boot.stage = 6 ∧ bitAt c.boot.ended 6 ∧ !c.boot.done ∧ c.stew.unrecorded.all (fun e => decide (e.2.1 < 16)) then
    let ms := c.tb.lt / 2000000
    ({ c with boot := { c.boot with stage := 7, done := true, doneMs := ms } }).raise 0x1205 1 [(32, ms)]
  else c

/-- PN_BRINGUP. -/
def Chip.pnBringup (c : Chip) : Nat :=
  field c.boot.stage 0 4 + field c.boot.failed 4 8 + field (b2n c.boot.nominal) 12 1 + field c.boot.doneMs 13 32

def bringStatusCmd : Command where
  words := fun _ => 0
  act := fun _ c => answer c (twoWords c.pnBringup ++ [c.stew.reasons])

def execBringStatus (k : Nat) (s : State) : Host.Outcome State Fault Refusal :=
  s.run (okMbx k) (Chip.live (Chip.accept 0x1201 k bringStatusCmd))

/-! ### Attestation (R458 to R461). Message layouts are those of SPDM 1.3 (PRESUMED); keys, signatures, nonces and
certificate bytes are free values. -/

/-- A DOE response of bytes. -/
def Chip.doe (bs : List Byte) (c : Chip) : Chip := c.log (.doe (bs.map BitVec.toNat))

/-- An SPDM response: version, code and two parameters before its body. -/
def spdmMsg (code p1 p2 : Nat) (body : List Byte) : List Byte :=
  [0x13, BitVec.ofNat 8 code, BitVec.ofNat 8 p1, BitVec.ofNat 8 p2] ++ body

def spdmError (code : Nat) : List Byte := spdmMsg 0x7F code 0 []

/-- Answer an SPDM request: not before Moelo runs, Busy while it restarts, and UnexpectedRequest before the requests
that come first. -/
def Chip.spdm (ready : Spdm → Bool) (act : Chip → Chip) (c : Chip) : Chip :=
  if !c.hostUp || !c.stew.bootReady then c
  else if c.stew.phase = .restarting then c.doe (spdmError 3)
  else if ready c.stew.spdm then act c
  else c.doe (spdmError 4)

def Chip.setSpdm (v : Spdm) (c : Chip) : Chip := { c with stew := { c.stew with spdm := v } }

/-- `n` free bytes: nonces and signatures. -/
def Chip.freeBytes (n : Nat) (c : Chip) : List Byte × Chip :=
  (List.range n).foldl (fun (a : List Byte × Chip) _ => let (v, c) := a.2.draw; (a.1 ++ [BitVec.ofNat 8 v], c)) ([], c)

def execSpdmGetVersion (s : State) : Host.Outcome State Fault Refusal :=
  s.run true (Chip.live (Chip.spdm (fun _ => true) (fun c =>
    (c.setSpdm { version := true }).doe ([0x10, 0x04, 0, 0, 0, 1] ++ leBytes 2 0x1300))))

/-- CERT_CAP, CHAL_CAP, MEAS_CAP with signatures, MEAS_FRESH_CAP, CSR_CAP and SET_CERT_CAP. -/
def spdmCaps : Nat := 2 ^ 1 + 2 ^ 2 + 2 * 2 ^ 3 + 2 ^ 5 + 2 ^ 18 + 2 ^ 19

def execSpdmGetCapabilities (s : State) : Host.Outcome State Fault Refusal :=
  s.run true (Chip.live (Chip.spdm (fun x => x.version) (fun c =>
    (c.setSpdm { c.stew.spdm with caps := true }).doe (spdmMsg 0x61 0 0 (leBytes 4 0 ++ leBytes 4 spdmCaps ++ leBytes 4 4096 ++ leBytes 4 4096)))))

/-- NEGOTIATE_ALGORITHMS: what the requester offers of the one set the part supports. -/
def execSpdmNegotiateAlgorithms (p521 sha512 dmtf : Bool) (s : State) : Host.Outcome State Fault Refusal :=
  s.run true (Chip.live (Chip.spdm (fun x => x.caps) (fun c =>
    (c.setSpdm { c.stew.spdm with algs := p521 && sha512 && dmtf }).doe (spdmMsg 0x63 0 0
      (leBytes 2 36 ++ leBytes 2 (b2n dmtf) ++ leBytes 4 (if dmtf then 8 else 0) ++ leBytes 4 (if p521 then 0x100 else 0) ++
        leBytes 4 (if sha512 then 4 else 0) ++ leBytes 12 0)))))

/-- The chain of a slot: slot 0 is the part's own, ending in the certificate of this boot, slot 1 what its owner wrote (R459,
R460). -/
def Chip.certChain (c : Chip) (slot : Nat) : List Byte :=
  if slot = 0 then constBytes 23 ((Config.identity 24 0).toNat % 16384) ++ c.stew.keys.certificate
  else if slot = 1 then c.flash.slot1 else []

def execSpdmGetDigests (s : State) : Host.Outcome State Fault Refusal :=
  s.run true (Chip.live (Chip.spdm (fun x => x.algs) (fun c =>
    let slots := (List.range 2).filter (fun i => i == 0 || !(c.certChain i).isEmpty)
    c.doe (spdmMsg 0x01 3 (slots.foldl (fun a i => a + 2 ^ i) 0)
      (slots.flatMap (fun i => constBytes (25 + i + 2 ^ 40 * beNat (c.certChain i)) 64))))))

def execSpdmGetCertificate (slot offset count : Nat) (s : State) : Host.Outcome State Fault Refusal :=
  s.run (decide (slot < 8)) (Chip.live (Chip.spdm (fun x => x.algs) (fun c =>
    let chain := c.certChain slot
    if (slot ≠ 0 ∧ chain.isEmpty) ∨ (0 < chain.length ∧ chain.length ≤ offset) then c.doe (spdmError 1)
    else
      let part := (chain.drop offset).take (min count 4080)
      c.doe (spdmMsg 0x02 slot 0 (leBytes 2 part.length ++ leBytes 2 (chain.length - offset - part.length) ++ part)))))

/-- A slot with a chain, or the error for one without. -/
def Chip.ofSlot (slot : Nat) (act : Chip → Chip) (c : Chip) : Chip :=
  if slot = 0 ∨ !(c.certChain slot).isEmpty then act c else c.doe (spdmError 1)

def execSpdmChallenge (slot _nonce : Nat) (s : State) : Host.Outcome State Fault Refusal :=
  s.run (decide (slot < 8)) (Chip.live (Chip.spdm (fun x => x.algs) (Chip.ofSlot slot (fun c =>
    let (bs, c) := c.freeBytes 298
    c.doe (spdmMsg 0x03 slot (2 ^ slot) bs)))))

/-- Content of measurement block `i` (R461). -/
def Chip.measurement (c : Chip) (i : Nat) : List Byte :=
  if i = 5 then beBytes 4 (c.pkg.straps % 4) ++ beBytes 4 (b2n c.stew.measurement5) else c.stew.measured.getD (i - 1) []

/-- A measurement block: 1 and 2 are digests, the others raw. -/
def Chip.measurementBlock (c : Chip) (i : Nat) : List Byte :=
  let v := c.measurement i
  [BitVec.ofNat 8 i, 1] ++ leBytes 2 (v.length + 3) ++ [if i ≤ 2 then BitVec.ofNat 8 (i - 1) else BitVec.ofNat 8 (0x80 + i)] ++ leBytes 2 v.length ++ v

def execSpdmGetMeasurements (index _nonce : Nat) (signed : Bool) (s : State) : Host.Outcome State Fault Refusal :=
  s.run (decide (index < 256)) (Chip.live (Chip.spdm (fun x => x.algs) (fun c =>
    if 5 < index ∧ index ≠ 255 then c.doe (spdmError 1)
    else
      let is_ := if index = 0 then [] else if index = 255 then [1, 2, 3, 4, 5] else [index]
      let blocks := is_.flatMap c.measurementBlock
      let (bs, c) := c.freeBytes (if signed then 164 else 32)
      c.doe (spdmMsg 0x60 (if index = 0 then 5 else 0) 0 ([BitVec.ofNat 8 is_.length] ++ leBytes 3 blocks.length ++ blocks ++
        bs.take 32 ++ leBytes 2 0 ++ bs.drop 32)))))

def execSpdmGetCsr (s : State) : Host.Outcome State Fault Refusal :=
  s.run true (Chip.live (Chip.spdm (fun x => x.algs) (fun c =>
    let (bs, c) := c.freeBytes 256
    c.doe (spdmMsg 0x6D 0 0 (leBytes 2 256 ++ leBytes 2 0 ++ bs)))))

def execSpdmSetCertificate (slot : Nat) (chain : List Byte) (s : State) : Host.Outcome State Fault Refusal :=
  s.run (decide (slot < 8)) (Chip.live (Chip.spdm (fun x => x.algs) (fun c =>
    if slot = 1 then (c.setFlash { c.flash with slot1 := chain }).doe (spdmMsg 0x6E slot 0 []) else c.doe (spdmError 1))))

/-- No response is ever deferred, so there is none to fetch: UnexpectedRequest (PRESUMED). -/
def execSpdmRespondIfReady (s : State) : Host.Outcome State Fault Refusal :=
  s.run true (Chip.live (Chip.spdm (fun _ => true) (fun c => c.doe (spdmError 4))))

/-- DOE Discovery: itself at index 0, CMA/SPDM at 1, no more (R460). -/
def execDoeDiscovery (index : Nat) (s : State) : Host.Outcome State Fault Refusal :=
  s.run (decide (index < 256)) (Chip.live (Chip.hosted (fun c =>
    if !c.stew.bootReady then c
    else c.doe (if index = 0 then leBytes 2 1 ++ [0, 1] else if index = 1 then leBytes 2 1 ++ [1, 0] else leBytes 2 0xFFFF ++ [0, 0]))))

end Sys2Proof.Machine
end

