-- ==== Sys2Proof/Machine/Package.lean ====
section
/-! DEFINITION. Reset, freeze, power, thermal and I3C (02_package_and_floor.md, R487, R510). -/

namespace Sys2Proof.Machine

open Sys2Proof

/-! ### Reset (R495, R497, R510) -/

/-- The part with every state but fuses, flash, the level of PERST_N and the model's own log and draw count at its reset value. -/
def Chip.clear (straps : Nat) (held : Bool) (c : Chip) : Chip :=
  let f := Chip.fresh c.fuses c.flash straps
  { f with sent := c.sent, free := c.free, pkg := { f.pkg with held := held }
           stew := { f.stew with pcie := { f.stew.pcie with perst := c.stew.pcie.perst } } }

/-- An accepted RESET_N holds the package in reset from its acceptance and ends any freeze (R490, R510). -/
def execResetAccept (s : State) : Host.Outcome State Fault Refusal :=
  s.run true (fun c => c.clear c.pkg.straps true)

/-- The release samples the straps and starts LT at zero (R20, R65, R510). -/
def Chip.release (straps : Nat) (c : Chip) : Chip := if c.pkg.held then c.clear straps false else c

def execResetRelease (straps : Nat) (s : State) : Host.Outcome State Fault Refusal :=
  s.run (decide (straps < 128)) (Chip.release straps)

/-- A rail out of tolerance is a loss of power; the part stays down until its sequence is repeated and
RESET_N released (R490, R497). -/
def Chip.losePower (c : Chip) : Chip :=
  let c := c.clear 0 true
  { c with pkg := { c.pkg with railsOk := false } }

def execRailOutOfTolerance (s : State) : Host.Outcome State Fault Refusal :=
  s.run true Chip.losePower

/-! ### Connectors (R57, R60) -/

/-- Connector 33 is AUX1; the ring lanes leave through it where STRAP_RING_SEL is 1. The connector and the fibre of a fabric
lane. -/
def Pkg.laneExit (p : Pkg) (l : Nat) : Nat × Nat :=
  if bitAt p.straps 5 && decide (1016 ≤ l % 1024) then (33, l / 1024) else (l / 64, l % 64 / 8)

/-- Connector 32 is AUX0: the connector and the fibre of twin lane `t`, 0 to 15 (R60). -/
def twinExit (t : Nat) : Nat × Nat := (32, t / 8)

/-- A fibre of a connector to which the Floor routes no lane. -/
def Pkg.fibreDark (p : Pkg) (connector fibre : Nat) : Bool :=
  (List.range 2048).all (fun l => p.laneExit l != (connector, fibre)) && (List.range 16).all (fun t => twinExit t != (connector, fibre))

/-! ### Freeze (R487, R508) -/

/-- The freeze is accepted: fabric time runs 8 to 31 core cycles more, a free number, and every command
waiting ends with FROZEN (R442, R487). -/
def Chip.freeze (cause : Nat) (c : Chip) : Chip :=
  if c.regs.freeze.accepted then c
  else
    let (v, c) := c.draw
    let c := c.advance (8 + v % 24)
    let c := { c with regs := { c.regs with freeze := { c.regs.freeze with
      accepted := true, cause := cause, commanded := false, ftStop := 8 + v % 24 } } }
    c.stew.waiting.foldl (fun c w => c.finish w .frozen []) c

def execFreezeAccept (s : State) : Host.Outcome State Fault Refusal :=
  s.run true (Chip.live (Chip.freeze 1))

/-- The last domain has stopped: ST_FREEZE, the coalesced records, DEVICE_FROZEN and vector 19 (R485,
R487). -/
def Chip.recordFreeze (cycle : Nat) (c : Chip) : Chip :=
  let f := c.regs.freeze
  if f.accepted && !f.frozen then
    let c := { c with regs := { c.regs with freeze := { f with
      frozen := true, deal := c.deal, stopCycle := cycle % 64
      ft := field (c.ftSubNs) 0 32 + field c.ftSec 32 32 } } }
    ((c.coalesce).raise 0x1103 4 [(2, f.cause)]).signal 19
  else c

def execFreezeComplete (cycle : Nat) (s : State) : Host.Outcome State Fault Refusal :=
  s.run (decide (cycle ≤ 63)) (Chip.live (Chip.recordFreeze cycle))

/-- ST_FREEZE. -/
def Chip.stFreeze (c : Chip) : Nat :=
  let f := c.regs.freeze
  field (b2n f.frozen) 0 1 + field (if f.frozen then f.cause else 0) 1 2 + field (b2n c.pkg.thermtrip) 3 1 +
    field f.deal 4 48 + field f.stopCycle 52 6

/-! ### I3C (R68, R69) -/

/-- Raise the I3C in-band interrupt with a byte, when enabled. -/
def Chip.ibi (byte : Nat) (c : Chip) : Chip :=
  let c' := { c with pkg := { c.pkg with i3cPending := some byte } }
  if c.pkg.i3cIbi then c'.log (.i3cInterrupt byte) else c'

/-- What the status register at index 0x40 takes at an update (R69). -/
def Pkg.status (p : Pkg) : Nat :=
  field (b2n p.capExceeded) 0 1 + field (b2n (p.warn.any Prod.snd)) 1 1 + field (b2n p.thermtrip) 2 1 +
    field (b2n p.coolantFault) 3 1

/-- A telemetry register by its even index; others read zero (R69). -/
def Chip.telemetryReg (c : Chip) (i : Nat) : Nat :=
  if i = 0x42 then c.fuses.variant
  else if i = 0x40 ∨ i ≤ 0x2E ∧ i % 2 = 0 then Tab.get 0 i c.pkg.telemetry else 0

/-- The telemetry byte at an index. -/
def Chip.telemetryByte (c : Chip) (i : Nat) : Nat := c.telemetryReg (i / 2 * 2) / 256 ^ (i % 2) % 256

/-- The address that the part answers at: the dynamic one once it is assigned, until then the static one, 0x30 plus
STRAP_I3C_SA, as an I2C target (R68). -/
def Pkg.i3cAddr (p : Pkg) : Nat := p.i3cDyn.getD (0x30 + bitsAt p.straps 2 3)

/-- A read of telemetry bytes at an address; at another address the part answers nothing (R68, R69). -/
def Chip.i3cRead (x : TelemetryIndex) (count : Nat) (c : Chip) : Chip :=
  if x.addr = c.pkg.i3cAddr then c.log (.i3c ((List.range count).map (fun j => c.telemetryByte (x.index + j)))) else c

def execI3cRead (start : TelemetryIndex) (count : Nat) (s : State) : Host.Outcome State Fault Refusal :=
  s.run (okTelemetry start && decide (count ≤ 256)) (Chip.live (Chip.i3cRead start count))

/-- A common command code (R68). The bytes that GETPID, GETBCR, GETDCR and GETMXDS answer are constants of
the part that the spec does not give. -/
def Chip.ccc (x : Ccc) (c : Chip) : Chip :=
  let const (n len : Nat) : Chip := c.log (.i3c ((List.range len).map (fun i => (Config.identity n i).toNat % 256)))
  match x with
  | .entdaa a => { c with pkg := { c.pkg with i3cDyn := some a } }
  | .setdasa a => { c with pkg := { c.pkg with i3cDyn := some a } }
  | .rstdaa => { c with pkg := { c.pkg with i3cDyn := none } }
  | .enec => { c with pkg := { c.pkg with i3cIbi := true } }
  | .disec => { c with pkg := { c.pkg with i3cIbi := false } }
  | .getpid => const 1 6
  | .getbcr => const 2 1
  | .getdcr => const 3 1
  | .getstatus =>
    let n := if c.pkg.i3cPending.isSome then 1 else 0
    ({ c with pkg := { c.pkg with i3cPending := none } }).log (.i3c [0, n])
  | .getmxds => const 4 2

def execI3cCcc (ccc : Ccc) (s : State) : Host.Outcome State Fault Refusal :=
  s.run (okCcc ccc) (Chip.live (Chip.ccc ccc))

/-! ### Thermal (R74, R75) -/

/-- Warn, clear and trip thresholds of a sensor in 1/16 °C (R74). -/
def thresholds (sensor : Nat) : Int × Int × Int :=
  if sensor = 0x12 then (90 * 16, 87 * 16, 100 * 16)
  else if sensor = 0x0E ∨ sensor = 0x10 then (70 * 16, 67 * 16, 85 * 16)
  else (100 * 16, 97 * 16, 115 * 16)

/-- A thermal trip (R75); while frozen it asserts THERMTRIP_N and changes nothing else. -/
def Chip.trip (sensor : Nat) (reading : Int) (c : Chip) : Chip :=
  if c.pkg.thermtrip then c
  else if c.regs.freeze.accepted then { c with pkg := { c.pkg with thermtrip := true } }
  else
    let c := c.freeze 2
    let c := { c with pkg := { c.pkg with lightPower := false, thermtrip := true } }
    (c.raise 0x0203 4 [(8, sensor), (16, ofSigned reading 16)]).ibi 3

/-- One sensor's comparison. -/
def Chip.compare (sensor : Nat) (reading : Int) (c : Chip) : Chip :=
  let (w, clear, t) := thresholds sensor
  let warned := Tab.get false sensor c.pkg.warn
  let hot := Tab.get false sensor c.pkg.overTrip
  let c := { c with pkg := { c.pkg with overTrip := Tab.set false sensor (decide (t ≤ reading)) c.pkg.overTrip } }
  let c :=
    if w ≤ reading ∧ !warned then
      (({ c with pkg := { c.pkg with warn := Tab.set false sensor true c.pkg.warn } }).raise 0x0202 4
        [(8, sensor), (16, ofSigned reading 16)]).ibi 2
    else if reading < clear then { c with pkg := { c.pkg with warn := Tab.set false sensor false c.pkg.warn } }
    else c
  if hot && decide (t ≤ reading) then c.trip sensor reading else c

def execThermalCompare (readings : List (Nat × Int)) (s : State) : Host.Outcome State Fault Refusal :=
  s.run (readings.all (fun r => okSensor r.1)) (Chip.live (fun c => readings.foldl (fun c r => c.compare r.1 r.2) c))

/-! ### Power (R69 to R73) -/

/-- R71 for PG25 at 4.0 L/min, in 1/480 W, by inlet temperature in 1/16 °C: linear between the rows. -/
def sustained480 (t : Int) : Int :=
  if t ≤ 480 then 4800 * 480
  else if t ≤ 512 then 4800 * 480 - (t - 480) * 1500
  else if t ≤ 560 then 4700 * 480 - (t - 512) * 2000
  else if t ≤ 608 then 4500 * 480 - (t - 560) * 2000
  else if t ≤ 640 then 4300 * 480 - (t - 608) * 3000
  else 4100 * 480

/-- The inlet thermistor reads outside −10 °C to 80 °C (R72). -/
def Pkg.inletBad (p : Pkg) : Bool :=
  let t := toSigned (Tab.get 0 0x14 p.telemetry) 16
  decide (t < -160) || decide (1280 < t)

/-- The power cap in force, W (R71, R72): a bad inlet reading uses the 40 °C row. -/
def Pkg.cap (p : Pkg) : Nat :=
  let t := if p.inletBad then 640 else toSigned (Tab.get 0 0x14 p.telemetry) 16
  let base := sustained480 t - (if p.flow < 400 then 4 * (400 - (p.flow : Int)) * 480 else 0) + (if p.fluidWater then 100 * 480 else 0)
  let derated := (min base (4800 * 480) / 480).toNat
  if p.fmCap = 0 then derated else min derated p.fmCap

/-- The telemetry registers take new values, and the coolant and cap conditions are checked (R69, R72,
R73). -/
def Chip.telemetry (values : List (Nat × Nat)) (c : Chip) : Chip :=
  let t := values.foldl (fun t v => Tab.set 0 v.1 v.2 t) c.pkg.telemetry
  let inlet := toSigned (Tab.get 0 0x14 t) 16
  let recent := c.pkg.inletLog.filter (fun e => decide (c.tb.lt ≤ e.1 + 120000000000) && e.2 != inlet)
  let p := { c.pkg with telemetry := t, inletLog := (c.tb.lt, inlet) :: recent }
  let p := { p with telemetry := Tab.set 0 2 p.cap p.telemetry }
  let power : Nat := Tab.get 0 0 p.telemetry
  let above := decide (p.cap < power)
  let p := { p with coolantFault := p.inletBad, capExceeded := above }
  let c' := { c with pkg := { p with telemetry := Tab.set 0 0x40 p.status p.telemetry } }
  let c' := if p.inletBad && !c.pkg.coolantFault then (c'.raise 0x0204 4 [(16, Tab.get 0 0x14 p.telemetry)]).ibi 4 else c'
  if above && !c.pkg.capExceeded then (c'.raise 0x0201 4 [(16, power), (16, p.cap)]).ibi 1 else c'

def execTelemetryUpdate (values : List (Nat × Nat)) (s : State) : Host.Outcome State Fault Refusal :=
  s.run (values.all (fun v => decide (v.1 ≤ 0x2E) && decide (v.2 < 65536) && v.1 % 2 == 0)) (Chip.live (Chip.telemetry values))

/-- `power.cap` (R73). DESIGN CHOICE: a cap below the average of the last 1 ms is compared with it at the next telemetry update, not
at the command. -/
def powerCapCmd : Command where
  words := fun _ => 2
  act := fun r c =>
    let cap := bitsAt (r.w 0) 0 16
    let flow := bitsAt (r.w 1) 0 16
    if (cap ≠ 0 ∧ (cap < 1000 ∨ 4800 < cap)) ∨ flow < 300 ∨ 1000 < flow then refuse c .badValue
    else
      let c := { c with pkg := { c.pkg with fmCap := cap, fluidWater := bitAt (r.w 0) 16, flow := flow } }
      answer c [c.pkg.cap]

def execPowerCap (k : Nat) (s : State) : Host.Outcome State Fault Refusal :=
  s.run (okMbx k) (Chip.live (Chip.accept 0x0201 k powerCapCmd))

def powerStatusCmd : Command where
  words := fun _ => 0
  act := fun _ c =>
    answer c ((List.range 12).map (fun i => c.telemetryReg (4 * i) + 65536 * c.telemetryReg (4 * i + 2)) ++
      [c.telemetryReg 0x40 + 65536 * c.telemetryReg 0x42])

def execPowerStatus (k : Nat) (s : State) : Host.Outcome State Fault Refusal :=
  s.run (okMbx k) (Chip.live (Chip.accept 0x0202 k powerStatusCmd))

end Sys2Proof.Machine
end

