-- ==== Sys2Proof/Machine/Routes.lean ====
section
/-! DEFINITION. Descriptor, route tables, Fans and Tallies: their commands and what a Deal boundary does to
them (05_addresses_and_routes.md). -/

namespace Sys2Proof.Machine

open Sys2Proof

/-! ### The descriptor (R136) -/

/-- A table that `nest.load` and `route.load` may clear. -/
def TableState.idle : TableState → Bool
  | .empty | .retired => true
  | _ => false

/-- A descriptor within R134. -/
def descOk (d : Nat) : Bool :=
  let n := bitsAt d 0 3
  let w (k : Nat) : Nat := bitsAt d (3 + 6 * k) 6
  decide (1 ≤ n) && decide (n ≤ 6) && (List.range 6).all (fun k => if k < n then decide (1 ≤ w k) && decide (w k ≤ 32) else w k == 0) &&
    decide ((List.range 6).foldl (fun a k => a + w k) 0 ≤ 48)

def nestLoadCmd : Command where
  words := fun _ => 6
  act := fun r c =>
    let d := r.long 0 % 2 ^ 55
    let idle := [0, 1].all (fun h => [0, 1].all (fun e => (c.table h e).state.idle))
    if !c.noKitty || !idle then refuse c .busy
    else if !descOk d then refuse c .badDesc
    else answer { c with nest := { c.nest with desc := d, self := r.name 2, pair := r.name 4, tables := [] } }

def execNestLoad (k : Nat) (s : State) : Host.Outcome State Fault Refusal :=
  s.run (okMbx k) (Chip.live (Chip.mirrored (Chip.accept 0x0501 k nestLoadCmd)))

/-! ### Route tables (R138 to R149) -/

def routeLoadCmd : Command where
  words := fun w => 1 + 4 * bitsAt (w 0) 16 6
  act := fun r c =>
    let h := bitsAt (r.w 0) 0 1
    let e := bitsAt (r.w 0) 1 1
    let first := bitsAt (r.w 0) 2 14
    let n := bitsAt (r.w 0) 16 6
    let t := c.table h e
    if !t.state.idle && t.state != .loading then refuse c .busy
    else if n = 0 ∨ 32 < n ∨ 16384 < first + n then refuse c .badIndex
    else
      let old := if t.state.idle then [] else t.entries
      let put (a : Tab (Nat × Nat)) (i : Nat) : Tab (Nat × Nat) :=
        Tab.set (0, 0) (first + i) (r.long (1 + 4 * i), r.long (3 + 4 * i)) a
      answer (c.setTable h e { state := .loading, entries := (List.range n).foldl put old })

def execRouteLoad (k : Nat) (s : State) : Host.Outcome State Fault Refusal :=
  s.run (okMbx k) (Chip.live (Chip.mirrored (Chip.accept 0x0511 k routeLoadCmd)))

/-- A valid entry that `route.seal` refuses (R145). -/
def Chip.badEntry (c : Chip) (a b : Nat) : Bool :=
  let action := bitsAt b 60 4
  let half := bitsAt b 59 1
  let target := bitsAt b 46 12
  decide (4 < action) || decide (c.levels < entryPlen a) ||
    bitsAt a 16 48 % 2 ^ (48 - c.topBits (entryPlen a)) != 0 || a % 16 != 0 || b % 2 ^ 30 != 0 ||
    (action == 1 && !((decide (target < 2048) && target / 1024 == half) || target / 2 == 0x400 + half)) ||
    (action == 2 && decide (1023 < target)) || (action == 4 && decide (8192 ≤ bitsAt b 30 16))

/-- Two valid entries that R140 does not allow together. -/
def Chip.entriesConflict (c : Chip) (a b : Nat) : Bool :=
  let keep := 48 - c.topBits (entryPlen a)
  entryPlen a == entryPlen b && bitsAt a 16 48 / 2 ^ keep == bitsAt b 16 48 / 2 ^ keep &&
    (entryClasses a &&& entryClasses b) != 0

/-- Lowest index that conflicts with a later entry. -/
def Chip.firstConflict (c : Chip) : List (Nat × Nat × Nat) → Option Nat
  | [] => none
  | e :: t => if t.any (fun x => c.entriesConflict e.2.1 x.2.1) then some e.1 else Chip.firstConflict c t

/-- CRC-32C of valid entries, each as four little-endian words (R145). -/
def entriesCrc (l : List (Nat × Nat × Nat)) : Nat := crc32c (l.flatMap (fun e => leBytes 8 e.2.1 ++ leBytes 8 e.2.2))

def routeSealCmd : Command where
  words := fun _ => 3
  act := fun r c =>
    let h := bitsAt (r.w 0) 0 1
    let e := bitsAt (r.w 0) 1 1
    let t := c.table h e
    let valid := t.entries.filter (fun x => entryValid x.2.1)
    let n := valid.length
    let crc := entriesCrc valid
    let none32 := 2 ^ 32 - 1
    if t.state ≠ .loading then refuse c .busy [n, crc, none32]
    else
      match valid.find? (fun x => c.badEntry x.2.1 x.2.2), c.firstConflict valid with
      | some x, _ => refuse c .badEntry [n, crc, x.1]
      | none, some i => refuse c .conflict [n, crc, i]
      | none, none =>
        if n ≠ r.w 1 ∨ crc ≠ r.w 2 then refuse c .badCheck [n, crc, none32]
        else answer (c.setTable h e { t with state := .loaded, skewDeal := none, skewLast := 0, skewRaised := false }) [n, crc, none32]

def execRouteSeal (k : Nat) (s : State) : Host.Outcome State Fault Refusal :=
  s.run (okMbx k) (Chip.live (Chip.mirrored (Chip.accept 0x0512 k routeSealCmd)))

/-- Some table of either half is in a state. -/
def Chip.anyTable (c : Chip) (p : TableState → Bool) : Bool := [0, 1].any (fun h => [0, 1].any (fun e => p (c.table h e).state))

def routeFlipCmd : Command where
  words := fun _ => 3
  act := fun r c =>
    let f := r.name 0
    let e := bitsAt (r.w 2) 0 1
    let both (e : Nat) (s : TableState) : Bool := (c.table 0 e).state == s && (c.table 1 e).state == s
    let first := !c.anyTable (fun s => s == .current || s == .draining)
    if !both e .loaded then refuse c .notReady
    else if !both (1 - e) .current && !first then refuse c .notReady
    else if c.nest.flip.isSome then refuse c .busy
    else if c.tooLate f then refuse c .late
    else if !c.tb.aligned then refuse c .notAligned
    else answer { c with nest := { c.nest with flip := some (e, f) } }

def execRouteFlip (k : Nat) (s : State) : Host.Outcome State Fault Refusal :=
  s.run (okMbx k) (Chip.live (Chip.mirrored (Chip.accept 0x0513 k routeFlipCmd)))

def routeHorizonCmd : Command where
  words := fun _ => 1
  act := fun r c =>
    let v := bitsAt (r.w 0) 0 13
    if c.anyTable (· == .draining) then refuse c .busy
    else if v < 16 ∨ 4096 < v then refuse c .badValue
    else answer { c with nest := { c.nest with horizon := v } }

def execRouteHorizon (k : Nat) (s : State) : Host.Outcome State Fault Refusal :=
  s.run (okMbx k) (Chip.live (Chip.accept 0x0514 k routeHorizonCmd))

def routeReadCmd : Command where
  words := fun _ => 1
  act := fun r c =>
    let t := c.table (bitsAt (r.w 0) 0 1) (bitsAt (r.w 0) 1 1)
    let x : Nat × Nat := Tab.get (0, 0) (bitsAt (r.w 0) 2 14) t.entries
    answer c (twoWords x.1 ++ twoWords x.2 ++ [t.state.code])

def execRouteRead (k : Nat) (s : State) : Host.Outcome State Fault Refusal :=
  s.run (okMbx k) (Chip.live (Chip.accept 0x0515 k routeReadCmd))

/-- One half's tables at a flip to epoch `e` (R146). -/
def Chip.flipHalf (e : Nat) (c : Chip) (h : Nat) : Chip :=
  let o := c.table h (1 - e)
  let c := if o.state = .current then c.setTable h (1 - e) { o with state := .draining } else c
  c.setTable h e { c.table h e with state := .current }

/-- The flip and the drain end of a boundary (R146, R147). -/
def Chip.epochBoundary (c : Chip) : Chip :=
  let c : Chip :=
    match c.nest.flip with
    | some (e, f) =>
      if c.reached f then
        let drains : Bool := (c.table 0 (1 - e)).state == TableState.current || (c.table 1 (1 - e)).state == TableState.current
        let c : Chip := [0, 1].foldl (Chip.flipHalf e) c
        ({ c with nest := { c.nest with flip := none, drainEnd := if drains then some ((f + c.nest.horizon) % 2 ^ 48) else none } }).raise 0x0502 1 [(1, e)]
      else c
    | none => c
  match c.nest.drainEnd with
  | some x =>
    if c.reached x then
      let t := c.nest.tables.map (fun y => if y.2.state = .draining then (y.1, { y.2 with state := .retired }) else y)
      { c with nest := { c.nest with tables := t, drainEnd := none } }
    else c
  | none => c

/-! ### Fans (R150 to R155, R158) -/

/-- A configured port of half `h`. -/
def Chip.portOf (c : Chip) (h p : Nat) : Bool := c.isPort p && halfOf p == h

def fanSetCmd : Command where
  words := fun w => 1 + bitsAt (w 0) 11 7
  act := fun r c =>
    let h := bitsAt (r.w 0) 0 1
    let n := bitsAt (r.w 0) 11 7
    let ms := (List.range n).map (fun i => (bitsAt (r.w (i + 1)) 0 12, bitsAt (r.w (i + 1)) 12 8))
    if ms.any (fun m => !c.portOf h m.1) then refuse c .badLane
    else if 64 < n ∨ ¬ (ms.map Prod.fst).Nodup then refuse c .badValue
    else atBoundary (.fanSet (1024 * h + bitsAt (r.w 0) 1 10) ms) c

def execFanSet (k : Nat) (s : State) : Host.Outcome State Fault Refusal :=
  s.run (okMbx k) (Chip.live (Chip.accept 0x0521 k fanSetCmd))

def fanWeightCmd : Command where
  words := fun w => 1 + bitsAt (w 0) 11 7
  act := fun r c =>
    let h := bitsAt (r.w 0) 0 1
    let f := bitsAt (r.w 0) 1 10
    let ws := (List.range (bitsAt (r.w 0) 11 7)).map (fun i => (bitsAt (r.w (i + 1)) 0 6, bitsAt (r.w (i + 1)) 6 8))
    if ws.any (fun x => decide ((c.fan h f).members.length ≤ x.1)) then refuse c .badValue
    else atBoundary (.fanWeight (1024 * h + f) ws) c

def execFanWeight (k : Nat) (s : State) : Host.Outcome State Fault Refusal :=
  s.run (okMbx k) (Chip.live (Chip.accept 0x0522 k fanWeightCmd))

def fanRejoinCmd : Command where
  words := fun _ => 1
  act := fun r c =>
    let p := bitsAt (r.w 0) 0 12
    if !c.isPort p then refuse c .badLane else atBoundary (.fanRejoin p false) c

def execFanRejoin (k : Nat) (s : State) : Host.Outcome State Fault Refusal :=
  s.run (okMbx k) (Chip.live (Chip.accept 0x0523 k fanRejoinCmd))

def fanRemoveCmd : Command where
  words := fun _ => 1
  act := fun r c =>
    let p := bitsAt (r.w 0) 0 12
    if !c.isPort p then refuse c .badLane else answer (c.setFanActive p false)

def execFanRemove (k : Nat) (s : State) : Host.Outcome State Fault Refusal :=
  s.run (okMbx k) (Chip.live (Chip.accept 0x0524 k fanRemoveCmd))

/-- `fan.set` takes effect: a port kept keeps its activity (R152, R155). DESIGN CHOICE: a new member is active where its port is
live and aligned at this boundary, else inactive, also where `fan.remove` made the port inactive in other Fans. -/
def Chip.applyFanSet (f : Nat) (ms : List (Nat × Nat)) (c : Chip) : Chip :=
  let old := (Tab.get {} f c.nest.fans : Fan).members
  let mk (m : Nat × Nat) : FanMember :=
    let act := match old.find? (fun o => o.port == m.1) with
      | some o => o.active
      | none => (c.port m.1).link.live && (c.port m.1).aligned
    { port := m.1, weight := m.2, active := act }
  { c with nest := { c.nest with fans := Tab.set {} f { (Tab.get {} f c.nest.fans : Fan) with members := ms.map mk } c.nest.fans } }

/-- `fan.weight` takes effect (R155). -/
def Chip.applyFanWeight (f : Nat) (ws : List (Nat × Nat)) (c : Chip) : Chip :=
  let x : Fan := Tab.get {} f c.nest.fans
  let ms := ws.foldl (fun ms w => ms.mapIdx (fun i (m : FanMember) => if i = w.1 then { m with weight := w.2 } else m)) x.members
  { c with nest := { c.nest with fans := Tab.set {} f { x with members := ms } c.nest.fans } }

/-- `fan.rejoin` takes effect (R154, R155). -/
def Chip.applyRejoin (p : Nat) (cancelled : Bool) (c : Chip) : Chip :=
  if (c.port p).link ≠ .up ∨ !(c.port p).aligned then c.raise 0x0504 2 [(12, p)]
  else if cancelled then c else c.setFanActive p true

def Chip.xgFanHdr (c : Chip) (h f : Nat) : Nat :=
  let x := c.fan h f
  field x.members.length 0 7 + field x.hot 7 4 + field (b2n x.proposed) 11 1

/-! ### Tallies (R156 to R158) -/

def tallyStreamCmd : Command where
  words := fun _ => 3
  act := fun r c =>
    let n := bitsAt (r.w 0) 0 9
    if 256 < n then refuse c .badValue
    else if !c.nameOk (r.name 1) then refuse c .badAddr
    else answer { c with nest := { c.nest with tallyN := n, collector := r.name 1 } }

def execTallyStream (k : Nat) (s : State) : Host.Outcome State Fault Refusal :=
  s.run (okMbx k) (Chip.live (Chip.accept 0x0531 k tallyStreamCmd))

/-- Configured ports of a half, with their egress points. -/
def Chip.portsOf (c : Chip) (h : Nat) : List (Nat × Nat) :=
  (c.ports.lotMode.filter (fun e => e.1 / 256 == h)).flatMap (fun e =>
      ((List.range 4).filter (fun j => decide (0 < modeWidth e.2 j))).map (fun j => (4 * e.1 + j, (4 * e.1 + j) % 1024))) ++
    (if c.ports.twinConfigured.get h then [(0x800 + 2 * h, 1024), (0x801 + 2 * h, 1025)] else [])

/-- The Tally of a port for the Deal that ends, without DEAL_LO (R156). -/
def Chip.tallyWord (c : Chip) (p : Nat) : Nat :=
  let t := c.runTally p
  let l := match (c.port p).link with
    | .disabled => 0 | .down => 1 | .train => 2 | .up => 3 | .resize => 4 | .disputed => 5
  field (min 0xFFFF t.cells) 0 16 + field (min 0xFFFF t.marked) 16 16 + field (min 0xFFF (t.peak / 64)) 32 12 +
    field (min 255 t.drops) 44 8 + field l 52 3 + field (b2n (c.inFan p)) 55 1

/-- A closed Tally with its DEAL_LO. -/
def Chip.xgTally (c : Chip) (h s i : Nat) : Nat :=
  Tab.get 0 ((16 * h + s) * 1026 + i) c.nest.tallies + field (Tab.get 0 (16 * h + s) c.nest.tallyDeals) 56 8

/-- Close the Tallies of a half for Deal `d` (R156). -/
def Chip.closeTallies (d : Nat) (c : Chip) (h : Nat) : Chip :=
  let s := 16 * h + d % 16
  let old := c.nest.tallies.filter (fun e => e.1 / 1026 != s)
  let t := (c.portsOf h).foldl (fun t p => Tab.set 0 (s * 1026 + p.2) (c.tallyWord p.1) t) old
  { c with nest := { c.nest with tallies := t, tallyDeals := Tab.set 0 s (d % 256) c.nest.tallyDeals } }

/-- The Tally packet of a half for Deal `d` (R157). DESIGN CHOICE: the fields of the preamble and the Tallies go most significant
byte first, and at a boundary where the period changes the preamble has the code of the new one. -/
def Chip.sendTally (d : Nat) (c : Chip) (h : Nat) : Chip :=
  let body := (List.range 1026).flatMap (fun i => beBytes 8 (c.xgTally h (d % 16) i))
  c.originate h c.nest.collector 1 0 (d % 2 ^ 32)
    (beBytes 8 d ++ beBytes 1 h ++ beBytes 1 c.tb.period ++ beBytes 2 c.nest.tallyN ++ List.replicate 20 0 ++ body)

/-- One Fan's hot check for the Deal that ends (R158). DESIGN CHOICE: of members with equally many marked cells OCS_PROPOSE names the
first by its index. -/
def Chip.checkHot (c : Chip) (key : Nat) : Chip :=
  let f : Fan := Tab.get {} key c.nest.fans
  let ms := f.members.filter (·.active)
  let cells := ms.foldl (fun a m => a + (c.runTally m.port).cells) 0
  let marked := ms.foldl (fun a m => a + (c.runTally m.port).marked) 0
  let put (x : Fan) : Chip := { c with nest := { c.nest with fans := Tab.set {} key x c.nest.fans } }
  if cells = 0 ∨ 8 * marked < cells then put { f with hot := 0, proposed := false, sinceProposal := 0 }
  else
    let n := min 8 (f.hot + 1)
    let since := f.sinceProposal + 1
    if 8 ≤ n ∧ (!f.proposed ∨ 64 ≤ since) then
      let most := ms.foldl (fun (b : Nat × Nat) m => if b.2 < (c.runTally m.port).marked then (m.port, (c.runTally m.port).marked) else b) (0, 0)
      (put { f with hot := n, proposed := true, sinceProposal := 0 }).raise 0x030D 0 [(1, key / 1024), (10, key % 1024), (12, most.1)]
    else put { f with hot := n, sinceProposal := since }

/-- The Tallies, hot Fans and Tally packets of the boundary that ends Deal `d`. -/
def Chip.tallyBoundary (d : Nat) (c : Chip) : Chip :=
  let c := [0, 1].foldl (Chip.closeTallies d) c
  let c := (c.nest.fans.map Prod.fst).foldl Chip.checkHot c
  let c := { c with nest := { c.nest with running := [], missRaised := ⟨false, false⟩ } }
  let c := [0, 1].foldl (fun c h => (c.portsOf h).foldl (fun c p => c.notePeak h p.2) c) c
  if c.nest.tallyN != 0 && d % c.nest.tallyN == 0 then [0, 1].foldl (Chip.sendTally d) c else c

end Sys2Proof.Machine
end

