-- ==== Sys2Proof/Machine/Registers.lean ====
section
/-! DEFINITION. The register map, bus errors, snapshots, counters, windows, freeze readout and JTAG
(17_registers_counters_freeze.md). -/

namespace Sys2Proof.Machine

open Sys2Proof

/-! ### The register map (R464) -/

/-- Which of `n` equal blocks of `stride` bytes from `base` holds an offset, and the offset within it. -/
def block (base stride n off : Nat) : Option (Nat × Nat) :=
  if base ≤ off ∧ off < base + stride * n then some ((off - base) / stride, (off - base) % stride) else none

/-- A block that recurs in both halves `step` bytes apart: half, index and offset within. -/
def halfBlock (base step stride n off : Nat) : Option (Nat × Nat × Nat) :=
  match block base stride n off with
  | some x => some (0, x.1, x.2)
  | none => (block (base + step) stride n off).map (fun x => (1, x.1, x.2))

def Chip.snap (c : Chip) (s : Nat) : SnapSet := Tab.get {} s c.regs.snap

def Chip.setSnap (s : Nat) (v : SnapSet) (c : Chip) : Chip := { c with regs := { c.regs with snap := Tab.put s v c.regs.snap } }

/-- Offset of CT_SNAP_STAT of a set. -/
def snapStat (s : Nat) : Nat := 0x3B10008 + 0x1000 * s

/-- CT_SNAP_CTRL and the fields of CT_SNAP_STAT but its sticky bits. -/
def SnapSet.ctrl (x : SnapSet) : Nat :=
  field x.count 0 9 + field (b2n x.clear) 9 1 + field x.mode 10 2 + field x.period 12 16 + field (b2n x.arm) 28 1

def SnapSet.stat (x : SnapSet) : Nat := field x.deal 0 48 + field (b2n x.valid) 48 1 + field x.gen 51 13

def Chip.prog (c : Chip) (b k : Nat) : ProgCtr := Tab.get {} (8 * b + k) c.regs.prog

def Chip.setProg (b k : Nat) (v : ProgCtr) (c : Chip) : Chip := { c with regs := { c.regs with prog := Tab.put (8 * b + k) v c.regs.prog } }

/-- CT_SELk and CT_THRk. -/
def ProgCtr.sel (x : ProgCtr) : Nat :=
  field x.src 0 8 + field x.filter 8 12 + field x.classes 20 8 + field (b2n x.en) 28 1 + field (b2n x.thrEn) 29 1

def ProgCtr.thr (x : ProgCtr) : Nat := field x.thresh 0 48 + field (b2n x.armed) 48 1

/-- Clock cycles of a block since reset, and since CT_CYC was last cleared (R476, R477). -/
def Chip.blockClock (c : Chip) (b : Nat) : Nat :=
  if b < 2 then c.tb.lt else if b < 4 then (if c.fuses.variant = 3 then 0 else loomClock c.tb.lt) else stewardClock c.tb.age

def Chip.cycles (c : Chip) (b : Nat) : Nat := c.blockClock b - Tab.get 0 b c.regs.cycBase

/-- CT_CYC. -/
def Chip.ctCyc (c : Chip) (b : Nat) : Nat := c.cycles b % 2 ^ 63 + 2 ^ 63 * b2n (decide (2 ^ 63 ≤ c.cycles b))

/-- A register of a counter block. -/
def Chip.ctrReg (c : Chip) (b o : Nat) : Option Nat :=
  if o = 0 then some (c.ctCyc b)
  else if 0x40 ≤ o ∧ o < 0x80 then some (c.prog b ((o - 0x40) / 8)).sel
  else if 0x80 ≤ o ∧ o < 0xC0 then some (c.prog b ((o - 0x80) / 8)).thr
  else if 0x100 ≤ o ∧ o < 0x140 then some (c.prog b ((o - 0x100) / 8)).count
  else none

/-- PN_ID, the PN_ registers beside it, and the window of twins and Tables. -/
def Chip.pnReg (c : Chip) (off : Nat) : Option Nat :=
  match off with
  | 0x0 => some (field (0x0900 + c.fuses.variant) 0 16 + field c.fuses.stepping 16 4)
  | 0x8 => some c.pnCaps
  | 0x10 => some c.pkg.straps
  | 0x18 => some c.pnBringup
  | 0x100 => some c.nest.desc
  | 0x108 => some c.nest.self
  | 0x110 => some c.nest.pair
  | _ => none

def Chip.twinReg (c : Chip) (o : Nat) : Option Nat :=
  match o with
  | 0x00 => some c.pnTwin
  | 0x08 => some (c.pnMirror 0) | 0x10 => some (c.pnMirror 1)
  | 0x20 => some (c.pnTable 0) | 0x28 => some (c.pnTable 1)
  | 0x30 => some 0 | 0x38 => some 0
  | 0x50 => some (c.pnRebuild 0) | 0x58 => some (c.pnRebuild 1)
  | 0x60 => some c.pnBcast
  | 0x68 => some c.pnHealth
  | _ => none

/-- TB_DEAL_OUT and TB_CAP_CTRL. -/
def Chip.tbDealOut (c : Chip) : Nat := field (b2n c.tb.dealOutEn) 0 1 + field c.tb.dealOutAdvance 1 6

def Chip.tbCapCtrl (c : Chip) : Nat := field c.tb.capEdge0 0 2 + field c.tb.capEdge1 2 2

/-- The seconds latched for a requester (R51). -/
def Chip.secLatch (c : Chip) (req : Requester) (pt : Bool) : Nat :=
  match req, pt with
  | .steward, false => c.tb.ftLatchSteward
  | .steward, true => c.tb.ptLatchSteward
  | _, false => c.tb.ftLatchHost
  | _, true => c.tb.ptLatchHost

/-- A TB_ register; a read of it that latches has its own operation. -/
def Chip.tbReg (c : Chip) (req : Requester) (o : Nat) : Option Nat :=
  let tsq (h k : Nat) : Option Nat :=
    let q := c.tb.tsq.get h
    match k with
    | 0 => some (match q.entries with | [] => 0 | x :: _ => x.hi)
    | 8 => some q.latchedLo
    | 16 => some (field q.entries.length 0 7)
    | _ => none
  match o with
  | 0x00 => some c.tbCtrl
  | 0x08 => some c.tbStatus
  | 0x10 => some (c.secLatch req false)
  | 0x18 => some c.ftSubNs
  | 0x20 => some c.tb.lt
  | 0x28 => some (field (c.tb.st / 2) 0 48 + field c.tb.stStep 48 16)
  | 0x30 => some (c.secLatch req true)
  | 0x38 => some (c.tb.pt / 2 % 1000000000)
  | 0x40 => some (field c.deal 0 48 + field c.cycle 48 14 + field (b2n c.inGuard) 62 1)
  | 0x58 => some c.tbDealOut
  | 0x60 => some c.tb.cap0.word | 0x68 => some c.tb.cap0.latchedNs
  | 0x70 => some c.tb.cap1.word | 0x78 => some c.tb.cap1.latchedNs
  | 0x80 => some c.tbCapCtrl
  | 0x88 => some (field c.tb.overrunDeal 0 48 + field c.tb.overrunUnit 48 8 + field c.tb.overrunOver 56 8)
  | _ => if 0x100 ≤ o ∧ o < 0x120 then tsq 0 (o - 0x100) else if 0x120 ≤ o ∧ o < 0x140 then tsq 1 (o - 0x120) else none

/-- A register of the Lamp Rooms, rings and matrices; `o` from BAR0 0x20000. -/
def Chip.lightReg (c : Chip) (o : Nat) : Option Nat :=
  let laser (h r : Nat) : Option Nat :=
    if 0x140 ≤ r then none
    else if r % 16 = 0 then some (c.lpLaser (32 * h + r / 16)) else some (c.lpFade (32 * h + r / 16))
  if o < 0x4000 then some (c.lpLane (o / 8))
  else if 0x5000 ≤ o ∧ o < 0x5400 then laser ((o - 0x5000) / 0x200) ((o - 0x5000) % 0x200)
  else if o = 0x5400 then some c.lpLampCtrl
  else match halfBlock 0x6000 0x1000 8 384 o with
    | some (h, j, _) => some (c.lpLane (0x800 + 0x200 * h + j))
    | none => (halfBlock 0x8000 0x1000 8 512 o).map (fun x => (Tab.get {} (512 * x.1 + x.2.1) c.light.circuits : Circuit).word)

/-- The four registers of a port. The counters of a port number with no port are never counted. -/
def Chip.portReg (c : Chip) (p o : Nat) : Nat := if o = 0 then c.xgPort p else 0

/-- The registers of 05 to 07 beside those of ports. -/
def Chip.crossReg (c : Chip) (off : Nat) : Option Nat :=
  let pick (l : List (Option Nat)) : Option Nat := (l.find? Option.isSome).getD none
  pick
    [(halfBlock 0x300000 0x1000 0x18 1 off).map (fun x => match x.2.2 with
        | 0 => c.xgEpoch x.1 | 16 => field c.nest.horizon 0 13 + field c.nest.tallyN 13 9 | _ => 0),
      (halfBlock 0x320000 0x40000 0x2400 16 off).bind (fun x => if x.2.2 / 8 < 1026 then some (c.xgTally x.1 x.2.1 (x.2.2 / 8)) else none),
      (halfBlock 0x400000 0x80000 0x200 1024 off).map (fun x => c.xgFan x.1 x.2.1 (x.2.2 / 8)),
      (halfBlock 0x500000 0x2000 8 1024 off).map (fun x => c.xgFanHdr x.1 x.2.1),
      (halfBlock 0x580000 0x1000 0x20 1 off).map (fun x => match x.2.2 with
        | 0 => c.xgBufCfg x.1 | 8 => c.xgBufStat x.1 | 16 => (c.xbar.buf.get x.1).pushout | _ => 0),
      (halfBlock 0x600000 0x40000 0x40 1027 off).map (fun x => (c.qcfg x.1 x.2.1 (x.2.2 / 8)).word),
      (halfBlock 0x680000 0x40000 0x40 1027 off).map (fun x => c.xgQstat x.1 x.2.1 (x.2.2 / 8)),
      (halfBlock 0x700000 0x200000 0x100 8192 off).bind (fun x => if x.2.2 / 8 ≤ 16 then some (c.xgMcast x.1 x.2.1 (x.2.2 / 8)) else none),
      (block 0xB00000 8 2052 off).map (fun x => (c.expect x.1).word),
      (block 0xB80000 8 2052 off).map (fun x => c.xgSched x.1),
      (halfBlock 0xC00000 0x40000 0x800 64 off).map (fun x => c.xgCalEnt (32 * x.1 + x.2.1 / 2) (x.2.1 % 2) (x.2.2 / 8)),
      (halfBlock 0xC80000 0x1000 8 32 off).map (fun x => c.xgCalCtrl (32 * x.1 + x.2.1)),
      (halfBlock 0xC80800 0x1000 8 32 off).map (fun x => (c.cal (32 * x.1 + x.2.1)).origin),
      (halfBlock 0xD00000 0x100000 0x20 4096 off).map (fun x => match x.2.2 with
        | 0 => (c.meter (4096 * x.1 + x.2.1)).rate | 8 => (c.meter (4096 * x.1 + x.2.1)).burst | _ => 0),
      (block 0xD80000 0x10 2052 off).map (fun x =>
        (List.range 4).foldl (fun a i => a + field (Tab.get 0 (8 * x.1 + 4 * (x.2 / 8) + i) c.sch.bindings) (16 * i) 16) 0)]

/-- A Roll register; `o` within the half's window. RL_CMD is write-only. -/
def Chip.rollRegWord (c : Chip) (h o : Nat) : Option Nat :=
  let set (s r : Nat) : Option Nat :=
    let x := c.rset h s
    match r with
    | 0x00 => some 0
    | 0x08 => some x.key0
    | 0x10 => some x.key1
    | 0x18 => some (x.data.getD 0 0) | 0x20 => some (x.data.getD 1 0) | 0x28 => some (x.data.getD 2 0) | 0x30 => some (x.data.getD 3 0)
    | 0x38 => some x.status
    | _ => none
  if o < 0x200 then set (o / 0x100) (o % 0x100)
  else match o with
    | 0x800 => some (c.rlCfg h)
    | 0x808 => some (c.rlStat h)
    | 0x810 => some 0 | 0x818 => some 0 | 0x820 => some 0
    | _ => if 0x880 ≤ o ∧ o < 0x900 then some (c.rlPurge h ((o - 0x880) / 8)) else none

/-- A Kitty or Ledger register; `o` from BAR0 0x2000000. -/
def Chip.kittyReg (c : Chip) (o : Nat) : Option Nat :=
  if o < 0x800000 then
    let h := o / 0x400000
    let i := o % 0x400000 / 0x80
    let r := o % 0x80
    if r < 0x30 then some (match c.kit.kitty.find? (fun e => e.1 == 32768 * h + i) with | some e => e.2.desc.getD (r / 8) 0 | none => 0)
    else if r = 0x30 then some (c.ktKstat h i)
    else if r = 0x38 ∨ r = 0x40 then some 0 else none
  else match halfBlock 0x800000 0x1000 0x18 1 o with
    | some (h, _, r) => some (if r = 0 then c.ktCfg h else if r = 8 then c.ktHstat h else 0)
    | none => (halfBlock 0x810000 0x4000 0x20 256 o).bind (fun x => match x.2.2 with
        | 0 => some (c.ktLedger x.1 x.2.1) | 8 => some (c.ktLedgerStat x.1 x.2.1) | 16 => some (c.ktLedgerLast x.1 x.2.1) | _ => none)

/-- A register of gate `g` of half `h`. -/
def Chip.gateReg (c : Chip) (key r : Nat) : Option Nat :=
  let of (f : Gate → Nat) : Option Nat := some (match c.gateOf key with | some g => f g | none => 0)
  if r < 0x20 then of (fun g => g.desc.getD (r / 8) 0)
  else if r = 0x20 then of Gate.stat
  else if r = 0x28 then of Gate.lastWord
  else if r < 0x50 then some 0
  else if 0x1000 ≤ r ∧ r < 0x3000 then of (fun g => g.mapWord ((r - 0x1000) / 8))
  else if 0x3000 ≤ r ∧ r < 0x3800 then of (fun g => g.capWord ((r - 0x3000) / 8))
  else if 0x3800 ≤ r ∧ r < 0x4000 then of (fun g => c.gateBind g ((r - 0x3800) / 8))
  else none

/-- A register of Loom `n`. -/
def Chip.loomReg (c : Chip) (n r : Nat) : Option Nat :=
  if r = 0 then some (c.lmState n)
  else if r < 0x30 then some 0
  else if r = 0x100 then some (c.lmRstat n)
  else if r = 0x108 then some (c.lmRdeal n)
  else if r = 0x110 ∨ r = 0x118 then some 0
  else if 0x140 ≤ r ∧ r < 0x1C0 then some (c.lmSlot n ((r - 0x140) / 8))
  else if 0x1C0 ≤ r ∧ r < 0x200 then some (c.loomSlot n ((r - 0x1C0) / 8)).gate
  else if 0x200 ≤ r ∧ r < 0x600 then some ((c.loomSlot n ((r - 0x200) / 0x40)).params.getD ((r - 0x200) % 0x40 / 8) 0)
  else if r = 0x600 then some (c.lmSampleCfg n)
  else if r = 0x608 then some (field (c.loomAt n).ring.length 0 7 + field (c.loomAt n).head 7 6)
  else if r = 0x618 then some 0
  else if 0x800 ≤ r ∧ r < 0xA00 then some (Tab.get 0 ((r - 0x800) / 8) (c.loomAt n).samples)
  else none

/-- A register of the Sieve's window and of a half's Larder. -/
def Chip.svReg (c : Chip) (r : Nat) : Option Nat :=
  match r with
  | 0x00 => some c.svStat
  | 0x08 => some c.sv.trimN
  | 0x10 => some (c.svBank 0).word | 0x18 => some (c.svBank 1).word | 0x20 => some (c.svBank 2).word | 0x28 => some (c.svBank 3).word
  | 0x30 => some 0 | 0x38 => some 0
  | _ => none

def Chip.ldReg (c : Chip) (h r : Nat) : Option Nat :=
  match r with
  | 0x00 => some (c.ldCfg h)
  | 0x08 => some (c.ldStat h)
  | 0x10 => some (c.ldBudget h)
  | 0x18 => some 0
  | _ => if 0x8000 ≤ r ∧ r < 0x10000 then some (c.ldRegion h ((r - 0x8000) / 8)) else none

/-- A bandwidth window register (R480). -/
def Chip.bwReg (c : Chip) (p r : Nat) : Nat :=
  let b : BwPort := Tab.get {} p c.regs.bw
  match r with
  | 0x00 => field b.txReg 0 40 + field b.txPeakReg 40 24
  | 0x08 => field b.rxReg 0 40 + field b.rxPeakReg 40 24
  | 0x10 => field c.regs.bwLast 0 48
  | _ => 0

/-- A register of the snapshot sets. -/
def Chip.snapReg (c : Chip) (off : Nat) : Option Nat :=
  match block 0x3B10000 0x1000 8 off with
  | some (s, 0) => some (c.snap s).ctrl
  | some (s, 8) => some (c.snap s).stat
  | some _ => none
  | none =>
    match block 0x3B20000 0x800 8 off with
    | some (s, r) => some (Tab.get 0 (r / 8) (c.snap s).hold)
    | none => (block 0x3B30000 0x800 8 off).map (fun x => Tab.get 0 (x.2 / 8) (c.snap x.1).src)

/-- ST_BUSERR but its counter. -/
def Chip.stBusErr (c : Chip) : Nat := c.regs.busErr + 2 ^ 34 * b2n c.regs.busErrValid

/-- ST_ALIAS of a requester. -/
def Chip.aliasBase (c : Chip) (req : Requester) : Nat := match req with | .steward => c.regs.aliasSteward | _ => c.regs.aliasHost

/-- A register of the ST_ window. -/
def Chip.stReg (c : Chip) (req : Requester) (o : Nat) : Option Nat :=
  match o with
  | 0x00 => some c.stBusErr
  | 0x08 => some c.stFreeze
  | 0x10 => some c.regs.freeze.ft
  | 0x18 => some (c.aliasBase req)
  | _ => if 0x100 ≤ o ∧ o < 0x900 then some (Tab.get 0 ((o - 0x100) / 8) c.regs.userMap) else none

/-- The word at an aligned BAR0 offset outside the alias window, without its counters and sticky bits; none for a
hole. -/
def Chip.baseReg (c : Chip) (req : Requester) (off : Nat) : Option Nat :=
  if off < 0x1000 then c.pnReg off
  else if 0x10000 ≤ off ∧ off < 0x11000 then c.tbReg req (off - 0x10000)
  else if 0x20000 ≤ off ∧ off < 0x2A000 then c.lightReg (off - 0x20000)
  else if 0x100000 ≤ off ∧ off < 0x110080 then some (c.portReg ((off - 0x100000) / 0x20) ((off - 0x100000) % 0x20))
  else if 0x300000 ≤ off ∧ off < 0xE20000 then c.crossReg off
  else if 0x1000000 ≤ off ∧ off < 0x1020000 then c.rollRegWord ((off - 0x1000000) / 0x10000) (off % 0x10000)
  else if 0x2000000 ≤ off ∧ off < 0x2818000 then c.kittyReg (off - 0x2000000)
  else if 0x2900000 ≤ off ∧ off < 0x2980000 then c.gateReg ((off - 0x2900000) / 0x4000) ((off - 0x2900000) % 0x4000)
  else if 0x3000000 ≤ off ∧ off < 0x3400000 then c.loomReg ((off - 0x3000000) / 0x10000) (off % 0x10000)
  else if 0x3400000 ≤ off ∧ off < 0x3402000 then
    let h := off / 0x1000 % 2
    match off % 0x1000 with | 0 => some (c.lmDieMap h) | 8 => some (c.lmDieReason h 0) | 16 => some (c.lmDieReason h 1) | _ => none
  else if 0x3500000 ≤ off ∧ off < 0x3501000 then c.svReg (off - 0x3500000)
  else if 0x3800000 ≤ off ∧ off < 0x3820000 then c.ldReg ((off - 0x3800000) / 0x10000) (off % 0x10000)
  else if 0x3880000 ≤ off ∧ off < 0x3881400 then
    if off % 0x100 = 0 then some (c.ldStack ((off - 0x3880000) / 0x100)) else none
  else if 0x3900000 ≤ off ∧ off < 0x3901000 then c.twinReg (off - 0x3900000)
  else if 0x3A00000 ≤ off ∧ off < 0x3A10080 then some (c.bwReg ((off - 0x3A00000) / 0x20) (off % 0x20))
  else if off = 0x3A20000 then some c.regs.bwDeals
  else if 0x3B00000 ≤ off ∧ off < 0x3B05000 then c.ctrReg ((off - 0x3B00000) / 0x1000) (off % 0x1000)
  else if 0x3B10000 ≤ off ∧ off < 0x3B34000 then c.snapReg off
  else if 0x3C00000 ≤ off ∧ off < 0x3C01000 then c.stReg req (off - 0x3C00000)
  else none

/-- The counters of a port that is not configured read zero, and XG_PORT_FEC on a Swift port does (R133). -/
def Chip.portSilent (c : Chip) (off : Nat) : Bool :=
  let p := (off - 0x100000) / 0x20
  decide (0x100000 ≤ off) && decide (off < 0x110080) && (!c.isPort p || (off % 0x20 == 0x10 && (c.port p).cls == 0))

/-- The 64-bit register at an aligned BAR0 offset outside the alias window, whole; none for a hole. -/
def Chip.regWord (c : Chip) (req : Requester) (off : Nat) : Option Nat :=
  (c.baseReg req off).map (fun w => if c.portSilent off then w else (w ||| c.ctrImage off) % 2 ^ 64)

/-- The window of an absent unit (R5, R6, R464). -/
def Chip.absentAt (c : Chip) (off : Nat) : Bool :=
  (decide (0x28000 ≤ off ∧ off < 0x2A000) && c.fuses.variant == 3) ||
    (decide (0x2900000 ≤ off ∧ off < 0x2980000) && c.fuses.variant == 3) ||
    (decide (0x3000000 ≤ off ∧ off < 0x3400000) && !bitAt c.caps.loomMask ((off - 0x3000000) / 0x10000)) ||
    (decide (0x3500000 ≤ off ∧ off < 0x3501000) && !c.caps.sieve)

/-- The register and bit that an alias word stands for (R482). -/
def Chip.aliasTarget (c : Chip) (req : Requester) (off : Nat) : Nat × Nat :=
  let x := off - 0x4000000
  (c.aliasBase req * 0x80000 + x / 512 * 8, x % 512 / 8)

/-- Windows that no alias reaches (R482). -/
def noAlias (off : Nat) : Bool := decide (0x3C00000 ≤ off ∧ off < 0x3C01000) || decide (0x4000000 ≤ off)

/-- Registers whose write starts an operation: RL_CMD and LM_SAMPLE_ACK, both write-only. -/
def startsWork (off : Nat) : Bool :=
  [0x1000000, 0x1000100, 0x1010000, 0x1010100].contains off || (decide (0x3000000 ≤ off ∧ off < 0x3400000) && off % 0x10000 == 0x618)

/-- What a read of an aligned BAR0 offset returns: zero for holes and absent windows. -/
def Chip.readWord (c : Chip) (req : Requester) (off : Nat) : Nat :=
  let plain (o : Nat) : Nat := if c.absentAt o then 0 else (c.regWord req o).getD 0
  if off < 0x4000000 then plain off
  else
    let t := c.aliasTarget req off
    if noAlias t.1 then 0 else b2n (bitAt (plain t.1) t.2)

/-! ### Bus errors (R466, R467) -/

/-- BAR0 windows that answer while frozen (R489). -/
def answersFrozen (off : Nat) : Bool :=
  decide (off < 0x1000) || decide (0x3B04000 ≤ off ∧ off < 0x3B05000) || decide (0x3C00000 ≤ off ∧ off < 0x3C01000)

/-- A hole of BAR2 (R429). -/
def bar2Hole (off : Nat) : Bool :=
  !((decide (off < 0x40000) && decide (off % 0x4000 < 0x2028)) || decide (0x40000 ≤ off ∧ off < 0x40018) ||
    decide (0x50000 ≤ off ∧ off < 0x50400) || decide (0x51000 ≤ off ∧ off < 0x51008) || decide (0x100000 ≤ off ∧ off < 0x200000) ||
    decide (0x300000 ≤ off ∧ off < 0x300008) || decide (0x400000 ≤ off ∧ off < 0x800000))

/-- The access breaks R466. -/
def badSize (wide : Bool) (off size : Nat) : Bool :=
  off % size != 0 || !(if wide then [1, 2, 4, 8, 16, 32, 64, 128, 256, 512].contains size else size == 4 || size == 8)

/-- The BAR0 offset that a user page shows, where it is mapped (R481). -/
def Chip.userTarget (c : Chip) (off : Nat) : Option Nat :=
  let m := Tab.get 0 ((off - 0x100000) / 4096) c.regs.userMap
  if bitAt m 15 then some (bitsAt m 0 15 * 4096 + off % 4096) else none

/-- KIND of a BAR0 access, 0 for none. -/
def Chip.bar0Error (c : Chip) (req : Requester) (write : Bool) (off size : Nat) : Nat :=
  let a := off / 8 * 8
  let isAlias := decide (0x4000000 ≤ off)
  let t := if isAlias then (c.aliasTarget req a).1 else a
  let barred := isAlias && noAlias t
  if c.regs.freeze.frozen && !answersFrozen off then 5
  else if (c.baseReg req t).isNone && !barred || decide (0x6000000 ≤ off) then 1
  else if c.absentAt t && !barred then 2
  else if barred || (isAlias && write && startsWork t) then 6
  else if badSize false off size then 3
  else 0

/-- KIND of a BAR2 access, 0 for none. -/
def Chip.bar2Error (c : Chip) (req : Requester) (write : Bool) (off size : Nat) : Nat :=
  if bar2Hole off then 1
  else if 0x100000 ≤ off ∧ off < 0x200000 then
    if c.regs.freeze.frozen then 5
    else if write then 4
    else match c.userTarget off with
      | none => 4
      | some t => c.bar0Error req false t size
  else if 0x400000 ≤ off then
    if !c.regs.freeze.frozen && !write then 5 else if badSize true off size then 3 else 0
  else if badSize (decide (off < 0x40000) && decide (off % 0x4000 < 0x2000)) off size then 3
  else 0

/-- KIND of an access, 0 where it is none of the bus errors of R467. -/
def Chip.accessError (c : Chip) (req : Requester) (isBar2 write : Bool) (off size : Nat) : Nat :=
  if isBar2 then c.bar2Error req write off size else c.bar0Error req write off size

/-- ST_BUSERR.COUNT. -/
def busErrCount : CtrField := ⟨0x3C00000, 35, 15, 50⟩

def reqCode : Requester → Nat | .host => 0 | .steward => 1 | .jtag => 2

/-- A bus error is latched, counted, raised once in a Deal and reported to its requester (R467). -/
def Chip.busError (req : Requester) (isBar2 write : Bool) (off kind : Nat) (c : Chip) : Chip :=
  let word := field off 0 27 + field (b2n isBar2) 27 1 + field kind 28 3 + field (b2n write) 31 1 + field (reqCode req) 32 2
  let c := (c.bump busErrCount 1).occur 4 0x07 none none 1
  let first := match c.regs.busErrAt with | some (t, w) => if t = c.tb.age then w else word | none => word
  let c : Chip := { c with regs := { c.regs with busErrAt := some (c.tb.age, first) } }
  let c : Chip := if c.regs.busErrValid then c else { c with regs := { c.regs with busErr := word, busErrValid := true } }
  let c := c.log (.busError req)
  if c.regs.busErrRaised then c
  else ({ c with regs := { c.regs with busErrRaised := true } }).raise 0x1102 2 [(34, c.regs.busErr)]

/-- VALID is written 1: it clears, unless a bus error of this very core cycle sets it, which is then the one that is latched
(R9, R467). -/
def Chip.clearBusErr (c : Chip) : Chip :=
  match c.regs.busErrAt with
  | some (t, w) => if t = c.tb.age then { c with regs := { c.regs with busErr := w } } else { c with regs := { c.regs with busErrValid := false } }
  | none => { c with regs := { c.regs with busErrValid := false } }

/-- What an access does, unless it is a bus error. Only the host needs PCIe, and JTAG reaches no BAR. -/
def Chip.accessed (req : Requester) (isBar2 write : Bool) (off size : Nat) (f : Chip → Chip) (c : Chip) : Chip :=
  let go (c : Chip) : Chip :=
    let k := c.accessError req isBar2 write off size
    if k = 0 then f c else c.busError req isBar2 write off k
  match req with
  | .host => c.hosted go
  | .steward => go c
  | .jtag => c

def execBadAccess (req : Requester) (bar2 write : Bool) (off size : Nat) (s : State) : Host.Outcome State Fault Refusal :=
  s.run (decide (off < 2 ^ 27) && decide (0 < size) && decide (size ≤ 512)) (Chip.live (Chip.accessed req bar2 write off size id))

/-! ### Snapshots (R470 to R475) -/

/-- A set that the requester may write (R470). -/
def ownsSet (req : Requester) (s : Nat) : Bool := match req with | .host => decide (s < 6) | .steward => decide (6 ≤ s) | .jtag => false

/-- The first Deal at whose boundary a set armed now may capture: the one that R16 gives, and in PERIODIC mode the next (R472). -/
def Chip.armedFrom (c : Chip) (mode : Nat) : Nat := if mode = 1 then (c.deal + 1) % 2 ^ 48 else c.effectDeal

/-- ARM is set. -/
def Chip.armSet (s : Nat) (c : Chip) : Chip :=
  let x := c.snap s
  if x.arm then c else c.setSnap s { x with arm := true, armDeal := c.armedFrom x.mode }

def execSnapArm (req : Requester) (set : Nat) (s : State) : Host.Outcome State Fault Refusal :=
  s.run (decide (set < 8)) (Chip.live (Chip.accessed req false true (0x3B10000 + 0x1000 * set) 8
    (fun c => if ownsSet req set then c.armSet set else c)))

/-- A field of a register written under a mask. -/
def merge (old v mask : Nat) : Nat := maskDiff old mask ||| (v &&& mask)

/-- A write of CT_SNAP_CTRL bits: COUNT, MODE or PERIOD stops a periodic set, and ARM = 1 arms it. -/
def Chip.writeSnapCtrl (s v mask : Nat) (c : Chip) : Chip :=
  let x := c.snap s
  let w := merge x.ctrl v mask
  let stops := x.mode = 1 ∧ mask &&& 0xFFFFDFF ≠ 0
  let y : SnapSet := { x with
    count := bitsAt w 0 9, clear := bitAt w 9, mode := bitsAt w 10 2, period := bitsAt w 12 16, arm := x.arm && !decide stops }
  let c := c.setSnap s y
  if bitAt (v &&& mask) 28 then c.armSet s else c

def execSnapCtrlWrite (req : Requester) (set value : Nat) (s : State) : Host.Outcome State Fault Refusal :=
  s.run (decide (set < 8) && decide (value < 2 ^ 64)) (Chip.live (Chip.accessed req false true (0x3B10000 + 0x1000 * set) 8
    (fun c => if ownsSet req set then c.writeSnapCtrl set value (2 ^ 64 - 1) else c)))

/-- A source that captures as zero (R475). -/
def Chip.badSource (c : Chip) (off : Nat) : Bool :=
  off % 8 != 0 || decide (0x3B10000 ≤ off ∧ off < 0x3B34000) || decide (0x3C00000 ≤ off ∧ off < 0x3C01000) || decide (0x4000000 ≤ off) ||
    (c.baseReg .host off).isNone || c.absentAt off

/-- The counters and W1C bits of a captured register are cleared (R473, R479). -/
def Chip.clearCaptured (off : Nat) (c : Chip) : Chip :=
  let c := c.clearCounters off
  match block 0x3B00000 0x1000 5 off with
  | some (b, r) =>
    if r = 0 then { c with regs := { c.regs with cycBase := Tab.set 0 b (c.blockClock b) c.regs.cycBase } }
    else if 0x100 ≤ r then
      let k := (r - 0x100) / 8
      let x := c.prog b k
      c.setProg b k { x with count := 0, armed := x.armed || decide (0 < x.thresh) }
    else c
  | none =>
    if off = 0x10060 then c.setCap 0 { c.cap 0 with missed := 0 }
    else if off = 0x10070 then c.setCap 1 { c.cap 1 with missed := 0 }
    else c

/-- The registers at a list of sources, all from one instant, cleared if asked (R473). DESIGN CHOICE: the seconds of FT and
PT are those of the host's latch for every set, those that firmware owns among them (R51 names no latch for a capture). -/
def Chip.capture (clear : Bool) (offs : List Nat) (c : Chip) : List Nat × Chip :=
  (offs.map (fun o => if c.badSource o then 0 else c.readWord .host o),
    if clear then (offs.filter (fun o => !c.badSource o)).foldl (fun c o => c.clearCaptured o) c else c)

/-- The capture instant of a set has come (R472): in IMMEDIATE mode at any time, else at core cycle 0 of a boundary. -/
def Chip.snapDue (c : Chip) (s : Nat) : Bool :=
  let x := c.snap s
  x.arm && (match x.mode with
    | 0 => c.cycle == 0 && decide ((c.deal + 2 ^ 48 - x.armDeal) % 2 ^ 48 < 2 ^ 47)
    | 1 => c.cycle == 0 && decide (x.period ≠ 0) && c.deal % x.period == 0 && decide ((c.deal + 2 ^ 48 - x.armDeal) % 2 ^ 48 < 2 ^ 47)
    | 2 => true
    | _ => false)

/-- A set captures into its hidden bank, or misses the instant while it still fills. -/
def Chip.snapCapture (s : Nat) (c : Chip) : Chip :=
  if !c.snapDue s then c
  else
    let x := c.snap s
    if x.filling then c.stick (snapStat s) 49
    else
      let offs := (List.range (min 256 x.count)).map (fun i => Tab.get 0 i x.src)
      let bad := offs.any (fun o => c.badSource o)
      let r := c.capture x.clear offs
      let hidden : Tab Nat := r.1.zipIdx.foldl (fun t e => Tab.set 0 e.2 e.1 t) x.hidden
      let c := r.2.setSnap s { x with arm := x.mode == 1, hidden := hidden, pendDeal := c.deal, filling := true
                                      armDeal := if x.mode = 1 then (c.deal + 1) % 2 ^ 48 else x.armDeal }
      if bad then c.stick (snapStat s) 50 else c

def execSnapCapture (set : Nat) (s : State) : Host.Outcome State Fault Refusal :=
  s.run (decide (set < 8)) (Chip.fabric (Chip.snapCapture set))

/-- The fill ends and the banks swap (R474). -/
def Chip.snapSwap (s : Nat) (c : Chip) : Chip :=
  let x := c.snap s
  if x.filling then
    c.setSnap s { x with filling := false, hold := x.hidden, hidden := x.hold, deal := x.pendDeal, valid := true, gen := (x.gen + 1) % 2 ^ 13 }
  else c

def execSnapBankSwap (set : Nat) (s : State) : Host.Outcome State Fault Refusal :=
  s.run (decide (set < 8)) (Chip.fabric (Chip.snapSwap set))

def ctSnapCmd : Command where
  words := fun w => 1 + bitsAt (w 0) 1 8
  act := fun r c =>
    let n := bitsAt (r.w 0) 1 8
    let offs := (List.range n).map (fun i => r.w (i + 1))
    if n = 0 ∨ offs.any (fun o => o % 8 != 0) = true then refuse c .badValue
    else waits r 0x1101 true [] (c.schedule c.effectDeal (.ctSnap r.k r.ticket (bitAt (r.w 0) 0) offs))

def execCtSnap (k : Nat) (s : State) : Host.Outcome State Fault Refusal :=
  s.run (okMbx k) (Chip.live (Chip.accept 0x1101 k ctSnapCmd))

/-- The capture of `ct.snap` at its boundary, and its result. -/
def Chip.applyCtSnap (k ticket : Nat) (clear : Bool) (offs : List Nat) (c : Chip) : Chip :=
  match c.waitingOf 0x1101 (fun w => w.mbx == k && w.ticket == ticket) with
  | none => c
  | some w =>
    let r := c.capture clear offs
    r.2.finish w .ok (dealWords c.deal ++ r.1.flatMap twoWords)

/-! ### Programmable counters (R476 to R479) -/

/-- The source codes of a block (R478). -/
def sourceOk (b src : Nat) : Bool :=
  decide (src = 0 ∨ src = 0x10) || decide (src ≤ if b < 2 then 0x0F else if b < 4 then 0x0A else 0x07)

def ctConfigCmd : Command where
  words := fun _ => 4
  act := fun r c =>
    let b := bitsAt (r.w 0) 0 3
    let src := bitsAt (r.w 1) 0 8
    if 4 < b ∨ sourceOk b src = false then refuse c .badValue
    else atBoundary (.ctConfig b (bitsAt (r.w 0) 3 3) (bitAt (r.w 0) 6) (bitAt (r.w 0) 7) src (bitsAt (r.w 1) 8 12) (bitsAt (r.w 1) 20 8) (r.name 2)) c

def execCtConfig (k : Nat) (s : State) : Host.Outcome State Fault Refusal :=
  s.run (okMbx k) (Chip.live (Chip.accept 0x1102 k ctConfigCmd))

/-- Offset of CT_CNTk of a block. -/
def ctCnt (b k : Nat) : Nat := 0x3B00100 + 0x1000 * b + 8 * k

/-- `ct.config` takes effect: the counter is zeroed, OVF cleared and the threshold armed. -/
def Chip.applyCtConfig (b k : Nat) (en thrEn : Bool) (src filter classes thresh : Nat) (c : Chip) : Chip :=
  (c.clearCounters (ctCnt b k)).setProg b k
    { src := src, filter := filter, classes := classes, en := en, thrEn := thrEn, thresh := thresh, armed := true, count := 0 }

/-- A counter has reached its threshold (R479). -/
def Chip.counterReached (b k : Nat) (c : Chip) : Chip :=
  let x := c.prog b k
  if x.armed && x.thrEn && decide (0 < x.thresh) && decide (x.thresh ≤ x.count) then
    (c.setProg b k { x with armed := false }).raise 0x1101 0 [(3, b), (3, k), (48, x.count)]
  else c

def execCounterThreshold (block k : Nat) (s : State) : Host.Outcome State Fault Refusal :=
  s.run (decide (block < 5) && decide (k < 8)) (Chip.live (Chip.counterReached block k))

/-! ### Bandwidth windows (R480) -/

/-- The window in progress ends: the registers take its values, and `d` was its last Deal. -/
def Chip.endBwWindow (d : Nat) (c : Chip) : Chip :=
  let f (e : Nat × BwPort) : Nat × BwPort :=
    (e.1, { txReg := e.2.txSum, txPeakReg := e.2.txPeak, rxReg := e.2.rxSum, rxPeakReg := e.2.rxPeak })
  { c with regs := { c.regs with bw := c.regs.bw.map f, bwLast := d } }

/-- The bytes of the Deal that ends enter the window's peaks. -/
def Chip.closeBwDeal (c : Chip) : Chip :=
  let f (e : Nat × BwPort) : Nat × BwPort :=
    (e.1, { e.2 with txPeak := max e.2.txPeak e.2.txDeal, rxPeak := max e.2.rxPeak e.2.rxDeal, txDeal := 0, rxDeal := 0 })
  { c with regs := { c.regs with bw := c.regs.bw.map f } }

def ctBwCmd : Command where
  words := fun _ => 1
  act := fun r c => if 65536 < bitsAt (r.w 0) 0 17 then refuse c .badValue else atBoundary (.ctBw (bitsAt (r.w 0) 0 17)) c

def execCtBw (k : Nat) (s : State) : Host.Outcome State Fault Refusal :=
  s.run (okMbx k) (Chip.live (Chip.accept 0x1103 k ctBwCmd))

/-! ### User pages (R481) -/

def userMapCmd : Command where
  words := fun _ => 2
  act := fun r c =>
    let page := bitsAt (r.w 1) 0 15
    if page = 0x3C00 ∨ (0x4000 ≤ page ∧ page < 0x6000) then refuse c .badValue
    else answer { c with regs := { c.regs with
      userMap := Tab.set 0 (bitsAt (r.w 0) 0 8) (page + 0x8000 * b2n (bitAt (r.w 0) 8)) c.regs.userMap } }

def execUserMap (k : Nat) (s : State) : Host.Outcome State Fault Refusal :=
  s.run (okMbx k) (Chip.live (Chip.accept 0x1104 k userMapCmd))

/-! ### Writes by field type (R8, R482) -/

/-- A write of the bits under `mask` of the BAR0 register at an aligned offset: RW fields take them, W1C and W1S bits
act on ones, other fields ignore them. -/
def Chip.writeReg (req : Requester) (off v mask : Nat) (c : Chip) : Chip :=
  let ones := v &&& mask
  let rl (h s r : Nat) : Chip :=
    if (s = 0) ≠ (req = .host) then c
    else
      let old := (c.rollRegWord h (0x100 * s + r)).getD 0
      match r with
      | 0x00 => c.rollStart h s { op := bitsAt v 0 4, mode := bitsAt v 4 2, keep := bitAt v 6, index := bitsAt v 8 23 }
      | 0x08 => c.rollSetWrite h s 0 (merge old v mask)
      | 0x10 => c.rollSetWrite h s 1 (merge old v mask)
      | 0x18 => c.rollSetWrite h s 2 (merge old v mask)
      | 0x20 => c.rollSetWrite h s 3 (merge old v mask)
      | 0x28 => c.rollSetWrite h s 4 (merge old v mask)
      | 0x30 => c.rollSetWrite h s 5 (merge old v mask)
      | _ => c.clearSticky off ones
  if off = 0x10058 then
    let w := merge c.tbDealOut v mask
    { c with tb := { c.tb with dealOutEn := bitAt w 0, dealOutAdvance := bitsAt w 1 6 } }
  else if off = 0x10080 then
    let w := merge c.tbCapCtrl v mask
    { c with tb := { c.tb with capEdge0 := bitsAt w 0 2, capEdge1 := bitsAt w 2 2 } }
  else if off = 0x3C00018 then
    let w := bitsAt (merge (c.aliasBase req) v mask) 0 8
    match req with
    | .steward => { c with regs := { c.regs with aliasSteward := w } }
    | _ => { c with regs := { c.regs with aliasHost := w } }
  else if off = 0x3C00000 then
    (if bitAt ones 34 then c.clearBusErr else c).clearSticky off ones
  else match block 0x3B10000 0x1000 8 off with
    | some (s, 0) => if ownsSet req s then c.writeSnapCtrl s v mask else c
    | some (s, _) => if ownsSet req s then c.clearSticky off ones else c
    | none =>
    match block 0x3B30000 0x800 8 off with
    | some (s, r) =>
      if ownsSet req s then
        let x := c.snap s
        c.setSnap s { x with src := Tab.set 0 (r / 8) (bitsAt (merge (Tab.get 0 (r / 8) x.src) v mask) 0 27) x.src }
      else c
    | none =>
    match block 0x1000000 0x100 2 off, block 0x1010000 0x100 2 off with
    | some (s, r), _ => rl 0 s r
    | none, some (s, r) => rl 1 s r
    | none, none =>
    match block 0x3B00000 0x1000 5 off with
    | some (b, 0) =>
      if bitAt ones 63 ∧ 2 ^ 63 ≤ c.cycles b then
        { c with regs := { c.regs with cycBase := Tab.set 0 b (Tab.get 0 b c.regs.cycBase + 2 ^ 63) c.regs.cycBase } }
      else c
    | _ =>
      if startsWork off then c.sampleAck ((off - 0x3000000) / 0x10000) (bitsAt v 0 7)
      else c.clearSticky off ones

/-- A write of the MSI-X table: the vector's words and its mask bit (R430). -/
def Chip.writeMsix (off v : Nat) (c : Chip) : Chip :=
  let i := (off - 0x50000) / 8
  let p := c.stew.pcie
  let t := Tab.set 0 (2 * i + 1) (BitVec.ofNat 32 (v / 2 ^ 32)) (Tab.set 0 (2 * i) (BitVec.ofNat 32 v) p.msixTable)
  let m := if i % 2 = 0 then p.vecMasked else if bitAt v 32 then p.vecMasked ||| 2 ^ (i / 2) else maskDiff p.vecMasked (2 ^ (i / 2))
  (c.setPcie { p with msixTable := t, vecMasked := m }).releaseVectors

def FrzSel.ofWord (v : Nat) : FrzSel := { space := bitsAt v 0 4, index := bitsAt v 4 6, base := bitsAt v 22 14 }

/-- A write of 8 bytes of BAR2 at an aligned offset. -/
def Chip.writeBar2 (req : Requester) (off v : Nat) (c : Chip) : Chip :=
  if off < 0x40000 then
    let k := off / 0x4000
    let r := off % 0x4000
    if r < 0x1000 then c.hostWriteBox k r (leBytes 8 v)
    else if r = 0x2000 then c.hostWriteBox k r (leBytes 8 v)
    else if r = 0x2008 then if bitAt v 0 then c.hostRing k else c
    else if r = 0x2020 then c.clearSticky (bar2 off) v
    else c
  else if off = 0x40008 then c.writeCons (v % 2 ^ 32)
  else if off = 0x40010 then c.clearSticky (bar2 off) (v &&& 2 ^ 49)
  else if 0x50000 ≤ off ∧ off < 0x50400 then c.writeMsix off v
  else if off = 0x300000 then
    match req with
    | .steward => { c with regs := { c.regs with frzSteward := FrzSel.ofWord v } }
    | _ => { c with regs := { c.regs with frzHost := FrzSel.ofWord v } }
  else c

def execRegisterWrite (req : Requester) (bar2 : Bool) (off value : Nat) (s : State) : Host.Outcome State Fault Refusal :=
  s.run (decide (off < 2 ^ 27) && off % 8 == 0 && decide (value < 2 ^ 64)) (Chip.live (Chip.accessed req bar2 true off 8 (fun c =>
    if bar2 then c.writeBar2 req off value
    else if 0x4000000 ≤ off then
      let t := c.aliasTarget req off
      c.writeReg req t.1 (2 ^ t.2 * (value % 2)) (2 ^ t.2)
    else c.writeReg req off value (2 ^ 64 - 1))))

def execAliasWrite (req : Requester) (off : Nat) (bit : Bool) (s : State) : Host.Outcome State Fault Refusal :=
  s.run (decide (off < 2 ^ 25) && off % 8 == 0) (Chip.live (Chip.accessed req false true (0x4000000 + off) 8 (fun c =>
    let t := c.aliasTarget req (0x4000000 + off)
    c.writeReg req t.1 (2 ^ t.2 * b2n bit) (2 ^ t.2))))

/-- A read of a BAR0 register by the host, with the latching that its chapter gives. No register of the map holds an RC
field, so no read clears one. -/
def Chip.hostReadReg (off : Nat) (c : Chip) : Chip :=
  match off with
  | 0x10018 => c.readNs .host false
  | 0x10038 => c.readNs .host true
  | 0x10060 => c.readCap 0
  | 0x10070 => c.readCap 1
  | 0x10100 => c.popStamp 0
  | 0x10120 => c.popStamp 1
  | _ => c.log (.readData (c.readWord .host off))

/-! ### Freeze readout (R491 to R493, R508) -/

/-- Bytes of a space (R491); none for an unlisted one. -/
def spaceSize (space : Nat) : Option Nat :=
  match space with
  | 0 => some (2 ^ 27) | 1 => some (2 ^ 23) | 2 => some (2 ^ 16) | 3 => some (2 ^ 16) | 4 => some (2 ^ 28) | 5 => some (2 ^ 22)
  | 6 => some 263168 | 7 => some (2 ^ 25 + 2 ^ 17) | 8 => some 2621440 | 9 => some 800
  | _ => none

/-- The unit that INDEX names is absent. -/
def Chip.indexAbsent (c : Chip) (space index : Nat) : Bool :=
  match space with
  | 1 => !bitAt c.caps.loomMask index | 2 => !bitAt c.caps.loomMask index | 3 => !bitAt c.caps.loomMask index
  | 0 => decide (index ≠ 0) | 9 => decide (index ≠ 0)
  | _ => decide (1 < index)

/-- The instruction memory of a Loom (R323). -/
def Chip.imemWord (c : Chip) (n i : Nat) : Nat :=
  match c.loom.recipes.find? (fun e => match e.2.bases.find? (fun b => b.1 == n) with
    | some b => decide (b.2 ≤ i) && decide (i < b.2 + e.2.length) | none => false) with
  | some e => Tab.get 0 (i - Tab.get 0 n e.2.bases) e.2.code
  | none => 0

/-- What a stopped domain is (R52): its place in the order of R52, and the core cycles between which it stops (R487). -/
def stopWindow (d : Nat) : Option (Nat × Nat) :=
  if d < 2 then some (8, 31) else if d < 4 then some (0, 7) else if d < 26 then some (32, 47) else if d < 90 then some (8, 31)
  else if d < 93 then some (48, 63) else if d = 93 then some (0, 7) else if d < 96 then none else if d = 96 then some (8, 31)
  else if d = 97 then none else some (8, 31)

/-- The clock domains of units that the variant lacks, which are held stopped (R52): Loom, HBM PHY and Sieve. -/
def Chip.domainHeld (c : Chip) (d : Nat) : Bool :=
  let x := capsOf c.fuses.variant
  (decide (2 ≤ d ∧ d < 4) && x.loomMask == 0) || (decide (4 ≤ d ∧ d < 24) && !bitAt x.sites (d - 4)) || (d == 93 && !x.sieve)

/-- A word of space 0x9. A domain held stopped stopped in no core cycle of the freeze: that field is a free value. -/
def Chip.domainWord (c : Chip) (d : Nat) : Nat :=
  match stopWindow d with
  | none => 0
  | some (lo, hi) =>
    if c.domainHeld d then field (Config.held c.tb.lt 9 0 d).toNat 0 6 + 2 ^ 6 else
    let f := c.regs.freeze
    let cyc := if d = 96 then f.ftStop else if d = 92 then f.stopCycle
      else lo + (Config.held c.tb.lt 9 0 d).toNat % (min hi (max lo f.stopCycle) + 1 - lo)
    field cyc 0 6 + 2 ^ 6

/-- A word of space 0x3 that the model holds. -/
def Chip.pipeWord (c : Chip) (n off : Nat) : Nat :=
  let x := c.loomAt n
  let i := off / 8
  let moves := (x.fills.filter (fun f => f.prefetch.isNone)).map (fun f =>
    match (x.run.toList ++ x.yielded.map Prod.snd).find? (fun r => r.id == f.run) with | some r => c.instrAt r.handle f.pc | none => 0)
  if off < 0x100 then match x.run with | some r => r.regs.getD i 0 | none => (Config.held c.tb.lt 3 n off).toNat
  else if off < 0x140 then ((x.flight[i - 0x20]?).map (·.word)).getD 0
  else if off < 0x180 then ((x.flight[i - 0x28]?).map (·.issued)).getD 0
  else if off < 0x200 then (moves ++ (c.sieveOps n).map (·.word)).getD (i - 0x30) 0
  else if off < 0x4000 ∨ 0xC800 ≤ off then 0
  else (Config.held c.tb.lt 3 n off).toNat

/-- The 8 bytes at an aligned offset of a space; none beyond its size or for an unlisted space (R491). DESIGN CHOICE: TB_FT_SEC and
TB_PT_SEC show in the BAR0 image of space 0x0 what the host's last reads latched, whoever reads it (R51). -/
def Chip.frzWord (c : Chip) (space index off : Nat) : Option Nat :=
  match spaceSize space with
  | none => none
  | some size =>
    if size ≤ off then none
    else if c.indexAbsent space index then some 0
    else some ((match space with
      | 0 => c.readWord .host off
      | 1 => leNat (c.readBench index off 8)
      | 2 => c.imemWord index (off / 8)
      | 3 => c.pipeWord index off
      | 6 =>
        let q := off / 0x20
        if 1027 * 8 ≤ q then 0
        else if off % 0x20 = 8 then c.xgQstat index (q / 8) (q % 8)
        else if off % 0x20 = 0 then bitsAt (Config.held c.tb.lt 6 index off).toNat 0 42 else 0
      | 8 => (List.range 64).foldl (fun a i =>
          let p := 8 * off + i
          let taken := decide (c.halfPages index ≤ p) || c.deadPage index p ||
            (c.takenRuns index).any (fun r => decide (r.1 ≤ p) && decide (p < r.1 + r.2))
          a + 2 ^ i * b2n taken) 0
      | 9 => c.domainWord (off / 8)
      | s => (Config.held c.tb.lt s index off).toNat) % 2 ^ 64)

/-- The 8 bytes at an aligned offset of a mailbox's window (R431, R435). -/
def Chip.boxWord (c : Chip) (k r : Nat) : Nat :=
  let m := c.mbx k
  let req (i : Nat) : Nat := (Tab.get 0 i m.req).toNat
  let res (i : Nat) : Nat := ((m.res[i]?).map BitVec.toNat).getD 0
  if r < 0x1000 then req (r / 4) + 2 ^ 32 * req (r / 4 + 1)
  else if r < 0x2000 then res ((r - 0x1000) / 4) + 2 ^ 32 * res ((r - 0x1000) / 4 + 1)
  else match r with
    | 0x2000 => m.ctrl
    | 0x2010 => m.header
    | 0x2018 => m.resultDeal
    | 0x2020 => c.ctrImage (mbStat k)
    | _ => 0

/-- FRZ_SEL as it is read (R492). -/
def FrzSel.word (f : FrzSel) : Nat := field f.space 0 4 + field f.index 4 6 + field f.base 22 14

/-- FRZ_SEL of a requester. -/
def Chip.frzSel (c : Chip) (req : Requester) : FrzSel :=
  match req with | .host => c.regs.frzHost | .steward => c.regs.frzSteward | .jtag => c.regs.frzJtag

/-- The 8 bytes at an aligned offset of BAR2: mailboxes, event ring registers, MSI-X, user pages, FRZ_SEL and the freeze
aperture. A write-only field reads zero (R8). -/
def Chip.bar2Word (c : Chip) (req : Requester) (off : Nat) : Nat :=
  let i := (off - 0x50000) / 8
  if off < 0x40000 then c.boxWord (off / 0x4000) (off % 0x4000)
  else if off = 0x40000 then c.stew.events.prod
  else if off = 0x40008 then c.stew.events.cons
  else if off = 0x40010 then (c.evStat ||| c.ctrImage (bar2 off)) % 2 ^ 64
  else if 0x50000 ≤ off ∧ off < 0x50400 then
    (Tab.get 0 (2 * i) c.stew.pcie.msixTable : W32).toNat + 2 ^ 32 * (Tab.get 0 (2 * i + 1) c.stew.pcie.msixTable : W32).toNat
  else if off = 0x51000 then c.stew.pcie.vecPending
  else if 0x100000 ≤ off ∧ off < 0x200000 then (match c.userTarget off with | some t => c.readWord req t | none => 0)
  else if off = 0x300000 then (c.frzSel req).word
  else if 0x400000 ≤ off ∧ off < 0x800000 then
    let f := c.frzSel req
    (c.frzWord f.space f.index (f.base * 2 ^ 22 + (off - 0x400000))).getD 0
  else 0

/-- A read of 8 bytes of BAR2 by the host, MB_RESULT_HDR with the count of its reads (R435). -/
def Chip.hostReadBar2 (off : Nat) (c : Chip) : Chip :=
  if off < 0x40000 ∧ off % 0x4000 = 0x2010 then c.hostReadHeader (off / 0x4000) 0 8
  else match c.userTarget off with
    | some t => if 0x100000 ≤ off ∧ off < 0x200000 then c.hostReadReg t else c.log (.readData (c.bar2Word .host off))
    | none => c.log (.readData (c.bar2Word .host off))

def execRcFieldRead (off : BarOffset) (s : State) : Host.Outcome State Fault Refusal :=
  s.run (okOffset off) (Chip.live (match off with
    | .bar0 x => Chip.accessed .host false false x 8 (Chip.hostReadReg x)
    | .bar2 x => Chip.accessed .host true false x 8 (Chip.hostReadBar2 x)))

/-- `frz.now` (R508): the freeze follows its result. -/
def frzNowCmd : Command where
  words := fun _ => 0
  act := fun _ c => answer { c with regs := { c.regs with freeze := { c.regs.freeze with commanded := true } } } (dealWords c.deal)

def execFrzNow (k : Nat) (s : State) : Host.Outcome State Fault Refusal :=
  s.run (okMbx k) (Chip.live (fun c =>
    let c := c.accept 0x1111 k frzNowCmd
    if c.regs.freeze.commanded then c.freeze 3 else c))

def frzStatusCmd : Command where
  words := fun _ => 0
  act := fun _ c => answer c (twoWords c.stFreeze ++ twoWords c.regs.freeze.ft)

def execFrzStatus (k : Nat) (s : State) : Host.Outcome State Fault Refusal :=
  s.run (okMbx k) (Chip.live (Chip.accept 0x1112 k frzStatusCmd))

def frzReadCmd : Command where
  words := fun _ => 3
  act := fun r c =>
    let space := bitsAt (r.w 0) 0 4
    let index := bitsAt (r.w 0) 4 6
    let off := r.w 1
    let n := r.w 2
    if !c.regs.freeze.frozen then refuse c .notReady
    else match spaceSize space with
      | none => refuse c .badValue
      | some size =>
        if c.indexAbsent space index then refuse c .absent
        else if n < 2 ∨ 1020 < n ∨ n % 2 ≠ 0 ∨ off % 8 ≠ 0 ∨ size < off + 4 * n then refuse c .badValue
        else answer c ((List.range (n / 2)).flatMap (fun i => twoWords ((c.frzWord space index (off + 8 * i)).getD 0)))

def execFrzRead (k : Nat) (s : State) : Host.Outcome State Fault Refusal :=
  s.run (okMbx k) (Chip.live (Chip.accept 0x1113 k frzReadCmd))

/-! ### The TAP (R493) -/

/-- TRST_N resets the TAP: the instruction is IDCODE (IEEE 1149.1). -/
def execTapReset (s : State) : Host.Outcome State Fault Refusal :=
  s.run true (Chip.live (fun c => { c with regs := { c.regs with tapIr := 1 } }))

/-- The IDCODE register. -/
def Chip.idcode (c : Chip) : Nat :=
  field c.fuses.stepping 28 4 + field (0x0900 + c.fuses.variant) 12 16 + field (Config.identity 7 0).toNat 1 11 + 1

/-- An instruction is updated: unlisted codes act as BYPASS, and the data registers of IDCODE and FRZ_STAT are captured. -/
def Chip.jtagInstruction (ir : Nat) (c : Chip) : Chip :=
  let code := if [0x00, 0x01, 0x02, 0x04, 0x05, 0x20, 0x21, 0x22].contains ir then ir else 0xFF
  let c := { c with regs := { c.regs with tapIr := code } }
  let c := if 0x20 ≤ code ∧ code ≤ 0x22 then { c with stew := { c.stew with measurement5 := true } } else c
  if code = 1 then c.log (.jtag c.idcode) else if code = 0x22 then c.log (.jtag c.stFreeze) else c

def execJtagInstruction (ir : Nat) (s : State) : Host.Outcome State Fault Refusal :=
  s.run (decide (ir < 256)) (Chip.live (Chip.jtagInstruction ir))

/-- Update-DR of FRZ_SEL. -/
def Chip.jtagSelect (v : Nat) (c : Chip) : Chip :=
  if c.regs.tapIr = 0x20 then { c with regs := { c.regs with frzJtag := FrzSel.ofWord v, frzJtagOffset := 0 } } else c

def execJtagFrzSelUpdate (value : Nat) (s : State) : Host.Outcome State Fault Refusal :=
  s.run (decide (value < 2 ^ 64)) (Chip.live (Chip.jtagSelect value))

/-- Capture-DR of FRZ_DATA: 8 bytes at the selected offset, or zero with ERR (R491). -/
def Chip.jtagCapture (c : Chip) : Chip :=
  if c.regs.tapIr ≠ 0x21 then c
  else
    let f := c.regs.frzJtag
    let w := if c.regs.freeze.frozen then c.frzWord f.space f.index (f.base * 2 ^ 22 + c.regs.frzJtagOffset) else none
    ({ c with regs := { c.regs with frzJtagOffset := c.regs.frzJtagOffset + 8 } }).log (.jtag (w.getD (2 ^ 64)))

def execFrzDataCapture (s : State) : Host.Outcome State Fault Refusal :=
  s.run true (Chip.live Chip.jtagCapture)

end Sys2Proof.Machine
end

