-- ==== Sys2Proof/Machine/Boundary.lean ====
section
/-! DEFINITION. The guard, the Deal boundary and the DEAL_IN edges: every change that waits for a boundary takes effect
here, one Deal closes and the next begins (R12 to R22, R34 to R41). -/

namespace Sys2Proof.Machine

open Sys2Proof

/-! ### The guard (R12, R18, R169, R341) -/

/-- Every port and both Span directions go on, on the lanes that they now have. -/
def Chip.refitAll (c : Chip) : Chip :=
  [0, 1].foldl (fun c h => c.refitSpan h) (((c.sch.sched.map Prod.fst).filter (fun p => decide (p < 0x1000))).foldl (fun c p => c.refit p) c)

/-- The guard of the Deal begins: late runs are marked, tokens short of a part are dropped, partial spill pages are
written. Lanes that leave at the boundary, or that a laser swap touches, carry only idle in it (Chip.idleNow). -/
def Chip.guardWork (c : Chip) : Chip :=
  let c := { c with tb := { c.tb with guarded := true } }
  (((c.loomGuard).gateGuard).spillGuard).refitAll

/-- Fabric time reaches the guard of this Deal, if it has not. -/
def Chip.guardStart (c : Chip) : Chip :=
  if c.tb.guarded then c else (c.advanceTo (c.dealCycles - 64)).guardWork

def execGuardStart (s : State) : Host.Outcome State Fault Refusal := s.run true (Chip.fabric Chip.guardStart)

/-! ### Changes applied at a boundary (R16) -/

/-- A length of the bandwidth windows (R480). -/
def Chip.applyCtBw (deals : Nat) (c : Chip) : Chip :=
  let f (e : Nat × BwPort) : Nat × BwPort := (e.1, { e.2 with txSum := 0, txPeak := 0, rxSum := 0, rxPeak := 0 })
  { c with regs := { c.regs with bwDeals := deals, bw := c.regs.bw.map f } }

/-- `cal.bind` and `sched.config` (R185, R189, R193). -/
def Chip.applyCalBind (p cal : Nat) (en : Bool) (c : Chip) : Chip := c.setSched p { c.sched p with cal := cal, calEn := en }

def Chip.applySched (p ovh rsvd : Nat) (weights : List Nat) (c : Chip) : Chip :=
  c.setSched p { c.sched p with ovh := ovh, rsvd := rsvd, weights := weights }

/-- A retirement that firmware carries out waits for the end of a live restart (R457). -/
def Chip.unlessRestarting (x : Change) (f : Chip → Chip) (c : Chip) : Chip :=
  if c.stew.phase = .restarting then c.schedule ((c.deal + 1) % 2 ^ 48) x else f c

/-- The effect of a change at its boundary. DESIGN CHOICE: a rate that `spill.rate` set before a change of period at this very
boundary is cut to the new period's maximum (R171). -/
def Chip.applyChange (x : Change) (c : Chip) : Chip :=
  match x with
  | .stepTime => { c with tb := { c.tb with st := 0 } }
  | .retireLane l r => c.retirePlanned l r
  | .lampSwap h p => c.swapLaser h p
  | .fadeDrop h s w => c.dropLine h s w
  | .circuitsDriven l => c.driveCircuits l
  | .circuitsInEffect l => c.settleCircuits l
  | .circuitsReleased l => c.releaseCircuits l
  | .circuitsCleared l => c.clearCircuits l
  | .nominal h => c.recordNominal h
  | .disablePort p => c.disableNow p
  | .fanSet f ms => c.applyFanSet f ms
  | .fanWeight f ws => c.applyFanWeight f ws
  | .fanRejoin p cancelled => c.applyRejoin p cancelled
  | .bufConfig h p m => c.applyBufConfig h p m
  | .queueConfig ks mn alpha markT ct spillEn spillMax =>
    c.applyQueueConfig ks { min := mn, alpha := alpha, markT := markT, ct := ct, spillEn := spillEn, spillMax := spillMax }
  | .spillRate h r => ((c.setBuf h { c.xbar.buf.get h with rate := min r (spillRateMax c.fuses.variant c.tb.period) }).lowerShares h).lowerXfer h
  | .mcastSet g append set => c.applyMcast g append set
  | .dispute p => c.enterDispute p
  | .resolve p mgmt => c.resolveDispute p mgmt
  | .calBind p cal en => c.applyCalBind p cal en
  | .schedConfig p ovh rsvd w => c.applySched p ovh rsvd w
  | .meterSet m cir pir cbs pbs g y r => c.applyMeter m cir pir cbs pbs g y r
  | .meterBind p k m en => c.applyBinding p k m en
  | .ctConfig b k en thrEn src filter classes thresh => c.applyCtConfig b k en thrEn src filter classes thresh
  | .ctBw n => c.applyCtBw n
  | .rollConfig h age rate margin => c.applyRollConfig h age rate margin
  | .kittyOpen key => c.applyKittyOpen key
  | .kittyClose key => c.applyKittyClose key
  | .kittyConfig h pool budget ingest => c.applyKittyConfig h pool budget ingest
  | .ledgerAbort j s => c.applyLedgerAbort j s
  | .retireLoom n r => c.unlessRestarting x (fun c => (c.retireLoom n r).loseLoomReplicas n)
  | .loomSeed n seed => c.applySeed n seed
  | .slotConfig key en mode offset length handle gate => c.applySlotConfig key en mode offset length handle gate
  | .recipeParam key first words => c.applyRecipeParam key first words
  | .gateLoad key => c.applyGateLoad key
  | .gateUnload key => c.applyGateUnload key
  | .gateMap key first experts => c.applyGateMap key first experts
  | .gateCap key first caps => c.applyGateCap key first caps
  | .sieveLoad b p sigma => c.applySieveLoad b p sigma
  | .sieveClear b => c.applySieveClear b
  | .sieveTrim n => c.setSv { c.sv with trimN := n }
  | .sieveRetire => c.retireSieve
  | .larderFree x => c.applyLarderFree x
  | .larderConfig h roll kitty wait => c.applyLarderConfig h roll kitty wait
  | .retireStack site => c.unlessRestarting x (fun c => (c.retireStack site).rollDeadSlots (site / 10))
  | .twinPair p r0 r1 => c.applyTwinPair p r0 r1
  | .twinMirror h on full rate => c.applyTwinMirror h on full rate
  | .twinTakeover => c.applyTakeover
  | .tableMember m lost name => c.applyTableMember m lost name
  | .expectSet p mode name => (c.setExpect p { c.expect p with mode := mode, name := name }).checkView p
  | .ctSnap k ticket clear offs => c.applyCtSnap k ticket clear offs

/-- A capture goes before the changes of its boundary. -/
def Change.captures : Change → Bool
  | .ctSnap .. => true
  | _ => false

/-- An entry into DISPUTED, and a takeover, which looks at the twin ports, come after the ports' own changes of the boundary (R179,
R398). -/
def Change.disputes : Change → Bool
  | .dispute _ => true
  | .twinTakeover => true
  | _ => false

/-- The changes of this boundary, captures first and then in the order accepted: the entries into DISPUTED, or the others. DESIGN
CHOICE: so a `port.resolve` of a boundary comes before an entry or a re-entry of the same port into DISPUTED at it, which leaves
the port DISPUTED and its dispute pending (R182). -/
def Chip.applyDue (disputes : Bool) (c : Chip) : Chip :=
  let mine (e : Nat × Change) : Bool := c.reached e.1 && e.2.disputes == disputes
  let now := c.due.filter mine
  let c := { c with due := c.due.filter (fun e => !mine e) }
  (now.filter (fun e => e.2.captures) ++ now.filter (fun e => !e.2.captures)).foldl (fun c e => c.applyChange e.2) c

/-! ### The change of period (R38 to R40) -/

/-- The instant of a change of period has come: the first instant at or after S at which every period has a boundary. -/
def Chip.periodDue (c : Chip) : Option Nat :=
  match c.tb.periodChange with
  | none => none
  | some (code, sec) => if sec * 2000000000 ≤ c.tb.ft ∧ c.tb.ft % 16384 = 0 then some code else none

/-- What a new period bounds is brought within its bounds: sweep, mirror copy, spill and transfer rates (R171, R213,
R264, R384, R396). -/
def Chip.fitHalf (c : Chip) (h : Nat) : Chip :=
  let c := c.setRl h { c.rl h with sweepRate := min (c.rl h).sweepRate c.sweepMax }
  let c := c.setMirror h { c.mirror h with copyRate := min (c.mirror h).copyRate (max 1 (c.sweepMax / 8)) }
  let b := c.xbar.buf.get h
  let c := c.setBuf h { b with rate := min b.rate (spillRateMax c.fuses.variant c.tb.period) }
  (c.lowerShares h).lowerXfer h

/-- The period changes, if it is due. -/
def Chip.periodBoundary (c : Chip) : Chip :=
  match c.periodDue with
  | none => c
  | some code =>
    let old := c.tb.period
    let c := ({ c with tb := { c.tb with periodChange := none } }).changePeriod code
    ([0, 1].foldl Chip.fitHalf c.disableSlots).raise 0x0107 1 [(3, old), (3, code)]

/-! ### Closing the Deal that ends (R156, R384, R430, R452, R480, R485) -/

/-- The bandwidth window ends here: its Deals are over, its length changes, or the period does (R480, R494). -/
def Chip.bwEnds (c : Chip) (old : Nat) (period : Bool) : Bool :=
  let n := c.regs.bwDeals
  let change := c.due.any (fun e => match e.2 with | .ctBw _ => c.reached e.1 | _ => false)
  n != 0 && (period || change || old / n != c.deal / n)

/-- Events, counters and Tallies of Deal `old` are closed. -/
def Chip.closeDeal (old : Nat) (period : Bool) (c : Chip) : Chip :=
  let c := c.coalesce
  let quiet (x : RollHalf) : RollHalf := { x with failRaised := false }
  let c := { c with regs := { c.regs with busErrRaised := false }, roll := ⟨quiet c.roll.h0, quiet c.roll.h1⟩ }
  let c := c.closeBwDeal
  let c := if c.bwEnds old period then c.endBwWindow old else c
  let c := (((c.tallyBoundary old).budgetBoundary 0).budgetBoundary 1).spillBoundary
  let e := c.stew.events
  if e.fwdEn then c.forwardRecords (e.fwdWaiting.length / 128 + 1) else c

/-! ### Ports at a boundary (R106, R110, R111, R113, R502, R505) -/

/-- Lanes that leave or join by NOTICE: an entry 16 of `joinAt` is this end's own announcement. -/
def Chip.portNotices (p : Nat) (c : Chip) : Chip :=
  let x := c.port p
  let gone := x.leaveAt.filter (fun e => c.reached e.1)
  let come := x.joinAt.filter (fun e => c.reached e.1)
  if gone.isEmpty && come.isEmpty then c
  else
    let far := ((gone ++ come.map (fun e => (e.1, e.2.1))).filter (fun e => e.2 != 16)).foldl (fun _ e => e.2) x.farLanes
    (c.setPort p { x with
      farLanes := far
      leaveAt := x.leaveAt.filter (fun e => !c.reached e.1), joinAt := x.joinAt.filter (fun e => !c.reached e.1) }).refreshWidth p false

/-- A trained port enters UP, or DOWN when no lane is usable at both ends. One whose dispute is pending re-enters DISPUTED at the
next boundary, whatever it faces (R182). -/
def Chip.portUp (p : Nat) (c : Chip) : Chip :=
  let m := c.bothMask p
  if m = 0 then c.takeDown p .down false
  else
    let x := c.port p
    let c := c.setPort p { x with link := .up, lanes := m, aligned := c.tb.aligned && x.train.farAligned, missRun := 0, goodRun := 0 }
    let c := c.raise 0x0401 1 [(12, p), (2, widthCode (c.runWidth p))]
    (if (c.expect p).pending then c.schedule ((c.deal + 1) % 2 ^ 48) (.dispute p) else c.checkView p).twinFaced

/-- One port at a boundary. -/
def Chip.portBoundary (p : Nat) (c : Chip) : Chip :=
  let c := c.portNotices p
  let here (t : Option Nat) : Bool := match t with | some d => c.reached d | none => false
  let c : Chip :=
    if here (c.port p).farDisableAt then c.takeDown p .down true
    else if here (c.port p).resizeAt then
      let c' := c.takeWidth p
      if (c.port p).link = .resize then c'.checkView p else c'
    else c
  if c.trained p then c.portUp p else c

/-- Every port. -/
def Chip.portsBoundary (c : Chip) : Chip := (c.ports.port.map Prod.fst).foldl (fun c p => c.portBoundary p) c

/-! ### The Ledger at a boundary (R22, R258, R412, R421) -/

/-- A half advances a job whose step is complete. The later half closes the step: ST, health scores and checkpoints
follow it. -/
def Chip.ledgerStep (key : Nat) (c : Chip) : Chip :=
  let h := key / 256
  let j := key % 256
  match c.job h j with
  | none => c
  | some x =>
    if !c.stepComplete h j x then c
    else
      let later := c.laterHalf h j x.step
      let c := (c.advanceJob h j).noteAdvance h j x.step
      if later then
        let c : Chip := if c.kit.stJob = some j then c.restartSt (x.step + 1) else c
        c.stepClosed j x.step
      else c

def Chip.ledgerBoundary (c : Chip) : Chip := (c.kit.jobs.map Prod.fst).foldl (fun c key => c.ledgerStep key) c

/-! ### Overruns of Kitty control and of the Larder (R18, R249, R384) -/

/-- Work of a half that began in an earlier Deal and still runs: pieces to return, and fills in flight. -/
def Chip.halfOverrun (c : Chip) (h : Nat) : Chip :=
  let ended := c.kit.kitty.flatMap (fun e => if e.1 / 32768 = h then (match e.2.last with | some x => x.ran.map Prod.snd | none => []) else [])
  let c : Chip := match ended.filter (fun b => decide (b < c.tb.boundaries)) with
    | [] => c
    | b :: _ => let n := min 2 (c.tb.boundaries - b); c.overrun (0x40 + h) (c.dealBefore n) n
  let c : Chip := match (c.table8 h).deltaWait.filter (fun e => decide (e.1 < c.tb.boundaries)) with
    | [] => c
    | e :: _ => let n := min 2 (c.tb.boundaries - e.1); c.overrun (0x42 + h) (c.dealBefore n) n
  let fills := c.loom.loom.flatMap (fun e => e.2.fills.filter (fun f => bitsAt f.region 31 1 == h))
  match fills.filter (fun f => decide (0 < (c.deal + 2 ^ 48 - f.deal) % 2 ^ 48) && c.reached f.deal) with
  | [] => c
  | f :: _ => c.overrun (0x42 + h) f.deal (min 2 ((c.deal + 2 ^ 48 - f.deal) % 2 ^ 48))

/-! ### The boundary (R21) -/

/-- The boundary begins: the log of its Deal's guard is closed, the part's own count rises, a change of period that is due
takes effect, and DEAL_OUT rises where it leads by nothing (R12, R37, R38). -/
def Chip.beginBoundary (c : Chip) : Chip :=
  let c := c.endSent
  let c := { c with tb := { c.tb with guarded := false, boundaries := c.tb.boundaries + 1 } }
  let c := c.periodBoundary
  if c.tb.dealOutEn ∧ c.tb.dealOutAdvance = 0 then c.log (.dealOut c.deal 0) else c

/-- The marker windows of the boundary open (R106). -/
def Chip.markerWindows (c : Chip) : Chip := (c.ports.port.map Prod.fst).foldl (fun c p => c.markerWindow p) c

/-- The samples of a finished conversion are acted on (R42, R91). -/
def Chip.combBoundary (c : Chip) : Chip := if c.light.freshSamples then c.combAction.fadeActions else c

/-- Every Calendar. -/
def Chip.calsBoundary (c : Chip) : Chip := (c.sch.cals.map Prod.fst).foldl (fun c k => c.calBoundary k) c

/-- Ledger, Kitties, gates, twins, Looms, overruns and the packets that the Looms emit. -/
def Chip.unitsBoundary (c : Chip) : Chip :=
  let c := ((c.ledgerBoundary.kittyNewDeal.kittyBoundary 0).kittyBoundary 1).gatesBoundary
  let c := [0, 1].foldl Chip.halfOverrun c.twinBoundary.loomBoundary
  (c.drainEmits 0).drainEmits 1

/-- A boundary of fabric time, which stands at it: the Deal before ends and the current Deal begins. -/
def Chip.boundaryWork (c : Chip) : Chip :=
  let c := ((c.beginBoundary.epochBoundary).closeDeal (c.dealBefore 1) c.periodDue.isSome).applyDue false
  let c := [0, 1].foldl (fun c h => (c.spanBoundary h).lowerXfer h) ((c.portsBoundary.combBoundary.applyDue true).markerWindows)
  let c := c.refitAll.calsBoundary.unitsBoundary
  (c.returnPages.recordRetirements).declareDone

/-- The next boundary of the part's own count. -/
def Chip.ownBoundary (c : Chip) : Chip :=
  let c := c.guardStart
  (c.advance c.toBoundary).boundaryWork

/-- FT follows the edges of DEAL_IN (R34). -/
def Chip.followsEdges (c : Chip) : Bool := c.tb.dealSrc && c.tb.dealIn.last.isSome

/-- Fabric time reaches a boundary. With DEAL_SRC = 1 and an accepted edge behind it, boundaries are those of DEAL_IN
(R34, R35). -/
def Chip.dealBoundary (c : Chip) : Chip := if c.followsEdges then c else c.ownBoundary

def execDealBoundary (s : State) : Host.Outcome State Fault Refusal :=
  s.run true (Chip.fabric (Chip.mirrored Chip.dealBoundary))

/-! ### DEAL_IN (R34 to R36) -/

/-- The boundary that an accepted edge makes, `n` core cycles from now, of Deal `d`: FT takes the Deal number × the
period and the other clocks run on. -/
def Chip.edgeBoundary (n d : Nat) (jump : Bool) (c : Chip) : Chip :=
  let c := if c.tb.guarded then c else c.guardWork
  let ft := d * c.dealCycles
  let c := c.pass n n
  let c := if jump then c.jumpFt ft else
    let c := c.shiftFt ft
    { c with tb := { c.tb with ft := ft, st := (Int.ofNat c.tb.st + Int.ofNat ft - Int.ofNat c.tb.ft).toNat } }
  let i := c.tb.dealIn
  let c := { c with tb := { c.tb with
    dealInOk := true, dealIn := { i with last := some c.tb.lt, goodRun := i.goodRun + 1, faultRun := 0 } } }
  let c := if 16 ≤ i.goodRun + 1 then c.setAligned true else c
  c.boundaryWork

/-- The window closes with no edge, 16 core cycles after the expected instant: the boundary stands at the expected instant,
and FT has run on since (R35). DESIGN CHOICE: DEAL_IN_OK clears here too, where no edge came at all. -/
def Chip.dealInMiss (c : Chip) : Chip :=
  match c.tb.dealIn.last with
  | none => c
  | some l =>
    if !c.tb.dealSrc then c
    else
      let due := l + c.dealCycles
      let c := c.guardStart
      let c := c.pass c.toBoundary (due - c.tb.lt)
      let i := c.tb.dealIn
      let n := min 0xFFFF (i.faultRun + 1)
      let c := { c with tb := { c.tb with dealInOk := false, dealIn := { i with last := some due, faultRun := n, goodRun := 0 } } }
      let c := c.raise 0x0106 2 [(16, n)]
      let c := (if 16 ≤ n then c.setAligned false else c).boundaryWork
      c.pass 16 (due + 16 - c.tb.lt)

def execDealInMiss (s : State) : Host.Outcome State Fault Refusal :=
  s.run true (Chip.fabric (Chip.mirrored Chip.dealInMiss))

/-- The boundaries that the part places of itself while `n` core cycles pass before an edge of DEAL_IN, and the core cycles
left before it (R35, R36). -/
def Chip.untilEdge : Nat → Nat → Chip → Nat × Chip
  | 0, n, c => (n, c)
  | fuel + 1, n, c =>
    let on (d : Chip) : Nat × Chip := Chip.untilEdge fuel (c.tb.lt + n - d.tb.lt) d
    match c.tb.dealIn.last with
    | some l => if l + c.dealCycles + 16 < c.tb.lt + n then on c.dealInMiss else (n, c)
    | none => if c.toBoundary ≤ n then on c.ownBoundary else (n, c)

/-- A rising edge on DEAL_IN, `wait` core cycles from now (R34, R36). One outside its window is not accepted. -/
def Chip.dealInEdge (wait : Nat) (c : Chip) : Chip :=
  if !c.tb.dealSrc then c
  else
    let (n, c) := c.untilEdge 128 wait
    let at_ := c.tb.lt + n
    match c.tb.dealIn.last with
    | none =>
      if c.tb.dealIn.edgesFrom ≤ at_ then c.edgeBoundary n (c.tb.dealIn.loadedDeal.getD (c.tb.ft / c.dealCycles + 1)) true
      else ({ c with tb := { c.tb with dealInOk := false } }).advance n
    | some l =>
      if l + c.dealCycles ≤ at_ + 16 then c.edgeBoundary n ((c.tb.ft + n + c.dealCycles / 2) / c.dealCycles) false
      else ({ c with tb := { c.tb with dealInOk := false } }).advance n

def execDealInEdge (wait : Nat) (s : State) : Host.Outcome State Fault Refusal :=
  s.run (decide (wait ≤ 65536)) (Chip.fabric (Chip.mirrored (Chip.dealInEdge wait)))

/-! ### A core cycle without a command -/

/-- The snapshot sets whose capture instant a boundary is (R472). -/
def Chip.dueCaptures (c : Chip) : Chip :=
  (List.range 8).foldl (fun c k => if (c.snap k).mode ≤ 1 then c.snapCapture k else c) c

/-- The window of the expected edge of DEAL_IN closes with this core cycle (R35). -/
def Chip.edgeWindowOver (c : Chip) : Bool :=
  match c.tb.dealIn.last with | none => true | some l => decide (l + c.dealCycles + 16 ≤ c.tb.lt + 1)

/-- The enabled recipe slots start whose OFFSET begins in the core cycles from `a` to the present one (R41). -/
def Chip.startSlots (a : Nat) (c : Chip) : Chip :=
  let slots := c.loom.slots.filter (fun e => e.2.en && decide (a ≤ c.slotCycle e.2.offset) && decide (c.slotCycle e.2.offset ≤ c.cycle))
  slots.foldl (fun c e => c.slotStart (e.1 / 16) (e.1 % 16)) c

/-- What time alone sets off within a Deal (R41): the monitor conversion at its middle, and the enabled recipe slots, each at
the core cycle in which the loom cycle of its OFFSET begins. Kitty control goes on with its ingest queues (R234). -/
def Chip.triggers (c : Chip) : Chip :=
  let c := (c.serveIngest 0).serveIngest 1
  let c := if c.cycle = c.dealCycles / 2 then c.startConversion else c
  c.startSlots c.cycle

/-- What time sets off at a boundary and in the core cycles since (R23, R41, R365, R472): the captures, the Sieve's trim window,
the time exchange and the recipe slots. -/
def Chip.dealTriggers (c : Chip) : Chip := ((c.dueCaptures.trimWindow.sendExchange.serveIngest 0).serveIngest 1).startSlots 0

/-- One core cycle passes with no command: the guard and the boundary come at their instants, the boundary of a missed edge
of DEAL_IN when its window closes, up to which FT stands at the end of its Deal; within a Deal the triggers of R41 act. While
frozen only the Steward's clocks run; in reset nothing does. -/
def Chip.tick (c : Chip) : Chip :=
  if c.pkg.held then c
  else if c.regs.freeze.accepted then c.advanceFrozen 1
  else if c.toBoundary = 1 then
    if c.followsEdges then
      if c.edgeWindowOver then (Chip.mirrored Chip.dealInMiss c).dealTriggers else c.pass 0 1
    else (Chip.mirrored Chip.ownBoundary c).dealTriggers
  else if c.toBoundary = 65 ∧ !c.tb.guarded then c.guardStart
  else (c.advance 1).triggers

end Sys2Proof.Machine
end

