-- ==== Sys2Proof/Machine/Dispatch.lean ====
section
/-! DEFINITION. One arm per command: a direct call of its meaning, or a refusal by name. -/

namespace Sys2Proof.Machine

open Sys2Proof

def exec (i : Instr) (s : State) : Host.Outcome State Fault Refusal :=
  match i with
  | .resetAccept => Sys2Proof.Machine.execResetAccept s
  | .resetRelease straps => Sys2Proof.Machine.execResetRelease straps s
  | .freezeAccept => Sys2Proof.Machine.execFreezeAccept s
  | .freezeComplete cycle => Sys2Proof.Machine.execFreezeComplete cycle s
  | .perstAssert => Sys2Proof.Machine.execPerstAssert s
  | .perstRelease => Sys2Proof.Machine.execPerstRelease s
  | .functionLevelReset => Sys2Proof.Machine.execFunctionLevelReset s
  | .railOutOfTolerance => Sys2Proof.Machine.execRailOutOfTolerance s
  | .tapReset => Sys2Proof.Machine.execTapReset s
  | .jtagInstruction ir => Sys2Proof.Machine.execJtagInstruction ir s
  | .frzDataCapture => Sys2Proof.Machine.execFrzDataCapture s
  | .dealInEdge wait => Sys2Proof.Machine.execDealInEdge wait s
  | .dealInMiss => Sys2Proof.Machine.execDealInMiss s
  | .timeCapEdge n rising => Sys2Proof.Machine.execTimeCapEdge n rising s
  | .timeCaptured n => Sys2Proof.Machine.execTimeCaptured n s
  | .dealBoundary => Sys2Proof.Machine.execDealBoundary s
  | .guardStart => Sys2Proof.Machine.execGuardStart s
  | .monitorConversionStart => Sys2Proof.Machine.execMonitorConversionStart s
  | .monitorResult samples => Sys2Proof.Machine.execMonitorResult samples s
  | .spareWarmed half laser => Sys2Proof.Machine.execSpareWarmed half laser s
  | .spareReady half laser => Sys2Proof.Machine.execSpareReady half laser s
  | .spareTimeout half laser => Sys2Proof.Machine.execSpareTimeout half laser s
  | .heaterSweepTick lane rx resonance => Sys2Proof.Machine.execHeaterSweepTick lane rx resonance s
  | .idCheckEnd lane rx tones => Sys2Proof.Machine.execIdCheckEnd lane rx tones s
  | .lockLoopUpdate lane rx code outside => Sys2Proof.Machine.execLockLoopUpdate lane rx code outside s
  | .lightLoss lane => Sys2Proof.Machine.execLightLoss lane s
  | .lightArrival lane => Sys2Proof.Machine.execLightArrival lane s
  | .ocsCircuitDark half out => Sys2Proof.Machine.execOcsCircuitDark half out s
  | .trainingBlock port block => Sys2Proof.Machine.execTrainingBlock port block s
  | .portTrainTimeout port => Sys2Proof.Machine.execPortTrainTimeout port s
  | .markerBlock port marker => Sys2Proof.Machine.execMarkerBlock port marker s
  | .markerWindowClose port => Sys2Proof.Machine.execMarkerWindowClose port s
  | .portSilence port => Sys2Proof.Machine.execPortSilence port s
  | .noticeResize port notice => Sys2Proof.Machine.execNoticeResize port notice s
  | .noticeLaneLeave port notice => Sys2Proof.Machine.execNoticeLaneLeave port notice s
  | .noticeLaneJoin port notice => Sys2Proof.Machine.execNoticeLaneJoin port notice s
  | .noticeDisable port notice => Sys2Proof.Machine.execNoticeDisable port notice s
  | .noticeEcho port kind notice => Sys2Proof.Machine.execNoticeEcho port kind notice s
  | .noticeRepeat port => Sys2Proof.Machine.execNoticeRepeat port s
  | .receiveDrainEnd port => Sys2Proof.Machine.execReceiveDrainEnd port s
  | .packetFirstBlock port pkt block => Sys2Proof.Machine.execPacketFirstBlock port pkt block s
  | .dataBlock port block => Sys2Proof.Machine.execDataBlock port block s
  | .egressSchedule port => Sys2Proof.Machine.execEgressSchedule port s
  | .spillReadback half point cls eccOk => Sys2Proof.Machine.execSpillReadback half point cls eccOk s
  | .calEntryOpen half cal => Sys2Proof.Machine.execCalEntryOpen half cal s
  | .timeExchangeSend => Sys2Proof.Machine.execTimeExchangeSend s
  | .timeReq port pkt t2 => Sys2Proof.Machine.execTimeReq port pkt t2 s
  | .timeRsp port pkt t4 => Sys2Proof.Machine.execTimeRsp port pkt t4 s
  | .holdoverExpiry => Sys2Proof.Machine.execHoldoverExpiry s
  | .ptpAnnounce msg => Sys2Proof.Machine.execPtpAnnounce msg s
  | .ptpSync msg seq twoStep t1 t2 => Sys2Proof.Machine.execPtpSync msg seq twoStep t1 t2 s
  | .ptpFollowUp msg seq t1 => Sys2Proof.Machine.execPtpFollowUp msg seq t1 s
  | .ptpDelayResp msg seq t4 => Sys2Proof.Machine.execPtpDelayResp msg seq t4 s
  | .ptpDelayReqTimer => Sys2Proof.Machine.execPtpDelayReqTimer s
  | .ptpAnnounceTimeout => Sys2Proof.Machine.execPtpAnnounceTimeout s
  | .thermalCompare readings => Sys2Proof.Machine.execThermalCompare readings s
  | .telemetryUpdate values => Sys2Proof.Machine.execTelemetryUpdate values s
  | .i3cCcc ccc => Sys2Proof.Machine.execI3cCcc ccc s
  | .i3cRead start count => Sys2Proof.Machine.execI3cRead start count s
  | .ante half port pkt => Sys2Proof.Machine.execAnte half port pkt s
  | .ack half pkt => Sys2Proof.Machine.execAck half pkt s
  | .rnack half pkt => Sys2Proof.Machine.execRnack half pkt s
  | .result half pkt => Sys2Proof.Machine.execResult half pkt s
  | .anack half pkt => Sys2Proof.Machine.execAnack half pkt s
  | .kittyDeadline half slot => Sys2Proof.Machine.execKittyDeadline half slot s
  | .showdownReturn half slot piece => Sys2Proof.Machine.execShowdownReturn half slot piece s
  | .kittyResultResend half slot => Sys2Proof.Machine.execKittyResultResend half slot s
  | .childAnteResend half slot => Sys2Proof.Machine.execChildAnteResend half slot s
  | .rollMissFill half way eccOk => Sys2Proof.Machine.execRollMissFill half way eccOk s
  | .rollSweep half bad => Sys2Proof.Machine.execRollSweep half bad s
  | .rollRead half set => Sys2Proof.Machine.execRollRead half set s
  | .rollWrite half set mode keep => Sys2Proof.Machine.execRollWrite half set mode keep s
  | .rollDelete half set => Sys2Proof.Machine.execRollDelete half set s
  | .rollReadIndex half set index => Sys2Proof.Machine.execRollReadIndex half set index s
  | .rollPurge half set => Sys2Proof.Machine.execRollPurge half set s
  | .rollTouch half set => Sys2Proof.Machine.execRollTouch half set s
  | .rollCmdReserved half set op mode => Sys2Proof.Machine.execRollCmdReserved half set op mode s
  | .rollOpDone half set bad => Sys2Proof.Machine.execRollOpDone half set bad s
  | .rollSetWrite half set reg value => Sys2Proof.Machine.execRollSetWrite half set reg value s
  | .recipeSlotStart loom slot => Sys2Proof.Machine.execRecipeSlotStart loom slot s
  | .nop loom imem => Sys2Proof.Machine.execNop loom imem s
  | .mm loom imem => Sys2Proof.Machine.execMm loom imem s
  | .vectorOp loom imem => Sys2Proof.Machine.execVectorOp loom imem s
  | .vcvt loom imem => Sys2Proof.Machine.execVcvt loom imem s
  | .vredSum loom imem => Sys2Proof.Machine.execVredSum loom imem s
  | .vredMax loom imem => Sys2Proof.Machine.execVredMax loom imem s
  | .vredTopk loom imem => Sys2Proof.Machine.execVredTopk loom imem s
  | .scalarReg loom imem => Sys2Proof.Machine.execScalarReg loom imem s
  | .scalarImm loom imem => Sys2Proof.Machine.execScalarImm loom imem s
  | .loadImmediate loom imem => Sys2Proof.Machine.execLoadImmediate loom imem s
  | .ld loom imem bad => Sys2Proof.Machine.execLd loom imem bad s
  | .st loom imem => Sys2Proof.Machine.execSt loom imem s
  | .scalarFp loom imem => Sys2Proof.Machine.execScalarFp loom imem s
  | .mfs loom imem => Sys2Proof.Machine.execMfs loom imem s
  | .branch loom imem => Sys2Proof.Machine.execBranch loom imem s
  | .jmp loom imem => Sys2Proof.Machine.execJmp loom imem s
  | .copy loom imem => Sys2Proof.Machine.execCopy loom imem s
  | .lfetch loom imem => Sys2Proof.Machine.execLfetch loom imem s
  | .lstore loom imem bad => Sys2Proof.Machine.execLstore loom imem bad s
  | .emit loom imem bad => Sys2Proof.Machine.execEmit loom imem bad s
  | .sieveOp loom imem => Sys2Proof.Machine.execSieveOp loom imem s
  | .syncCycle loom imem => Sys2Proof.Machine.execSyncCycle loom imem s
  | .syncFills loom imem => Sys2Proof.Machine.execSyncFills loom imem s
  | .syncDrain loom imem => Sys2Proof.Machine.execSyncDrain loom imem s
  | .syncYield loom imem => Sys2Proof.Machine.execSyncYield loom imem s
  | .endRun loom imem => Sys2Proof.Machine.execEndRun loom imem s
  | .instructionWaitEnd loom bad => Sys2Proof.Machine.execInstructionWaitEnd loom bad s
  | .instructionComplete loom index recompute bad corrected => Sys2Proof.Machine.execInstructionComplete loom index recompute bad corrected s
  | .loomCheckFail loom array index => Sys2Proof.Machine.execLoomCheckFail loom array index s
  | .fillLanded loom granule eccOk => Sys2Proof.Machine.execFillLanded loom granule eccOk s
  | .loomSample loom stall => Sys2Proof.Machine.execLoomSample loom stall s
  | .sieveInstructionStart => Sys2Proof.Machine.execSieveInstructionStart s
  | .sieveInstructionDone => Sys2Proof.Machine.execSieveInstructionDone s
  | .sieveTrimWindow => Sys2Proof.Machine.execSieveTrimWindow s
  | .sieveTrimEnd effs => Sys2Proof.Machine.execSieveTrimEnd effs s
  | .sieveLoadReady bank check => Sys2Proof.Machine.execSieveLoadReady bank check s
  | .sieveCalibrationDone bank bits => Sys2Proof.Machine.execSieveCalibrationDone bank bits s
  | .token half pkt => Sys2Proof.Machine.execToken half pkt s
  | .gateCapacityCheck half gate => Sys2Proof.Machine.execGateCapacityCheck half gate s
  | .reply half pkt => Sys2Proof.Machine.execReply half pkt s
  | .gateCombineDeadline half gate => Sys2Proof.Machine.execGateCombineDeadline half gate s
  | .larderGrant half => Sys2Proof.Machine.execLarderGrant half s
  | .larderWaitTimeout half => Sys2Proof.Machine.execLarderWaitTimeout half s
  | .mirrorPacket pkt => Sys2Proof.Machine.execMirrorPacket pkt s
  | .mack pkt => Sys2Proof.Machine.execMack pkt s
  | .mirrorResend half => Sys2Proof.Machine.execMirrorResend half s
  | .mirrorStale half => Sys2Proof.Machine.execMirrorStale half s
  | .mirrorCopyPass pass => Sys2Proof.Machine.execMirrorCopyPass pass s
  | .twinLostMack half => Sys2Proof.Machine.execTwinLostMack half s
  | .delta half pkt => Sys2Proof.Machine.execDelta half pkt s
  | .dack half pkt => Sys2Proof.Machine.execDack half pkt s
  | .deltaResend half => Sys2Proof.Machine.execDeltaResend half s
  | .coded half pkt => Sys2Proof.Machine.execCoded half pkt s
  | .codedReport half => Sys2Proof.Machine.execCodedReport half s
  | .uread half pkt => Sys2Proof.Machine.execUread half pkt s
  | .udata half pkt => Sys2Proof.Machine.execUdata half pkt s
  | .ureadRetry half => Sys2Proof.Machine.execUreadRetry half s
  | .pset half pkt => Sys2Proof.Machine.execPset half pkt s
  | .rebuildStripe half => Sys2Proof.Machine.execRebuildStripe half s
  | .ckptWritten => Sys2Proof.Machine.execCkptWritten s
  | .jobStart pkt => Sys2Proof.Machine.execJobStart pkt s
  | .bcastAsk pkt => Sys2Proof.Machine.execBcastAsk pkt s
  | .bcastDeadline => Sys2Proof.Machine.execBcastDeadline s
  | .bcastAskRetry => Sys2Proof.Machine.execBcastAskRetry s
  | .healthWindowEnd => Sys2Proof.Machine.execHealthWindowEnd s
  | .mgmtReq pkt => Sys2Proof.Machine.execMgmtReq pkt s
  | .stewardLocalPacket pkt => Sys2Proof.Machine.execStewardLocalPacket pkt s
  | .mbRing box => Sys2Proof.Machine.execMbRing box s
  | .mbRequestWrite box off bytes => Sys2Proof.Machine.execMbRequestWrite box off bytes s
  | .mbResultRead box off size => Sys2Proof.Machine.execMbResultRead box off size s
  | .evConsWrite value => Sys2Proof.Machine.execEvConsWrite value s
  | .eventModerationTimer => Sys2Proof.Machine.execEventModerationTimer s
  | .timeCapRead n => Sys2Proof.Machine.execTimeCapRead n s
  | .tsqPop half => Sys2Proof.Machine.execTsqPop half s
  | .ftNsRead req pt => Sys2Proof.Machine.execFtNsRead req pt s
  | .rcFieldRead off => Sys2Proof.Machine.execRcFieldRead off s
  | .snapArm req set => Sys2Proof.Machine.execSnapArm req set s
  | .snapCtrlWrite req set value => Sys2Proof.Machine.execSnapCtrlWrite req set value s
  | .snapCapture set => Sys2Proof.Machine.execSnapCapture set s
  | .snapBankSwap set => Sys2Proof.Machine.execSnapBankSwap set s
  | .counterThreshold block k => Sys2Proof.Machine.execCounterThreshold block k s
  | .sampleAck loom n => Sys2Proof.Machine.execSampleAck loom n s
  | .aliasWrite req off bit => Sys2Proof.Machine.execAliasWrite req off bit s
  | .badAccess req bar2 write off size => Sys2Proof.Machine.execBadAccess req bar2 write off size s
  | .registerWrite req bar2 off value => Sys2Proof.Machine.execRegisterWrite req bar2 off value s
  | .spdmGetVersion => Sys2Proof.Machine.execSpdmGetVersion s
  | .spdmGetCapabilities => Sys2Proof.Machine.execSpdmGetCapabilities s
  | .spdmNegotiateAlgorithms p521 sha512 dmtf => Sys2Proof.Machine.execSpdmNegotiateAlgorithms p521 sha512 dmtf s
  | .spdmGetDigests => Sys2Proof.Machine.execSpdmGetDigests s
  | .spdmGetCertificate slot offset count => Sys2Proof.Machine.execSpdmGetCertificate slot offset count s
  | .spdmChallenge slot nonce => Sys2Proof.Machine.execSpdmChallenge slot nonce s
  | .spdmGetMeasurements index nonce signed => Sys2Proof.Machine.execSpdmGetMeasurements index nonce signed s
  | .spdmGetCsr => Sys2Proof.Machine.execSpdmGetCsr s
  | .spdmSetCertificate slot chain => Sys2Proof.Machine.execSpdmSetCertificate slot chain s
  | .spdmRespondIfReady => Sys2Proof.Machine.execSpdmRespondIfReady s
  | .bootImageCheck image => Sys2Proof.Machine.execBootImageCheck image s
  | .bootReady => Sys2Proof.Machine.execBootReady s
  | .fwReadyTimeout => Sys2Proof.Machine.execFwReadyTimeout s
  | .bringupStageEnd failures => Sys2Proof.Machine.execBringupStageEnd failures s
  | .xferDone k bytes eccOk => Sys2Proof.Machine.execXferDone k bytes eccOk s
  | .timeSet k => Sys2Proof.Machine.execTimeSet k s
  | .timeStep k => Sys2Proof.Machine.execTimeStep k s
  | .timeAsym k => Sys2Proof.Machine.execTimeAsym k s
  | .timeRole k => Sys2Proof.Machine.execTimeRole k s
  | .timeStatus k => Sys2Proof.Machine.execTimeStatus k s
  | .ptpConfig k => Sys2Proof.Machine.execPtpConfig k s
  | .dealPeriod k => Sys2Proof.Machine.execDealPeriod k s
  | .powerCap k => Sys2Proof.Machine.execPowerCap k s
  | .powerStatus k => Sys2Proof.Machine.execPowerStatus k s
  | .laneRetire k => Sys2Proof.Machine.execLaneRetire k s
  | .lampSwap k => Sys2Proof.Machine.execLampSwap k s
  | .lampAuto k => Sys2Proof.Machine.execLampAuto k s
  | .ocsSet k => Sys2Proof.Machine.execOcsSet k s
  | .ocsClear k => Sys2Proof.Machine.execOcsClear k s
  | .portConfig k => Sys2Proof.Machine.execPortConfig k s
  | .portEnable k => Sys2Proof.Machine.execPortEnable k s
  | .portDisable k => Sys2Proof.Machine.execPortDisable k s
  | .portStatus k => Sys2Proof.Machine.execPortStatus k s
  | .nestLoad k => Sys2Proof.Machine.execNestLoad k s
  | .routeLoad k => Sys2Proof.Machine.execRouteLoad k s
  | .routeSeal k => Sys2Proof.Machine.execRouteSeal k s
  | .routeFlip k => Sys2Proof.Machine.execRouteFlip k s
  | .routeHorizon k => Sys2Proof.Machine.execRouteHorizon k s
  | .routeRead k => Sys2Proof.Machine.execRouteRead k s
  | .fanSet k => Sys2Proof.Machine.execFanSet k s
  | .fanWeight k => Sys2Proof.Machine.execFanWeight k s
  | .fanRejoin k => Sys2Proof.Machine.execFanRejoin k s
  | .fanRemove k => Sys2Proof.Machine.execFanRemove k s
  | .tallyStream k => Sys2Proof.Machine.execTallyStream k s
  | .bufConfig k => Sys2Proof.Machine.execBufConfig k s
  | .queueConfig k => Sys2Proof.Machine.execQueueConfig k s
  | .spillRate k => Sys2Proof.Machine.execSpillRate k s
  | .mcastSet k => Sys2Proof.Machine.execMcastSet k s
  | .portExpect k => Sys2Proof.Machine.execPortExpect k s
  | .portResolve k => Sys2Proof.Machine.execPortResolve k s
  | .calLoad k => Sys2Proof.Machine.execCalLoad k s
  | .calStart k => Sys2Proof.Machine.execCalStart k s
  | .calStop k => Sys2Proof.Machine.execCalStop k s
  | .calBind k => Sys2Proof.Machine.execCalBind k s
  | .schedConfig k => Sys2Proof.Machine.execSchedConfig k s
  | .meterSet k => Sys2Proof.Machine.execMeterSet k s
  | .meterBind k => Sys2Proof.Machine.execMeterBind k s
  | .rollConfig k => Sys2Proof.Machine.execRollConfig k s
  | .kittyOpen k => Sys2Proof.Machine.execKittyOpen k s
  | .kittyClose k => Sys2Proof.Machine.execKittyClose k s
  | .kittyStatus k => Sys2Proof.Machine.execKittyStatus k s
  | .kittyConfig k => Sys2Proof.Machine.execKittyConfig k s
  | .ledgerOpen k => Sys2Proof.Machine.execLedgerOpen k s
  | .ledgerAbort k => Sys2Proof.Machine.execLedgerAbort k s
  | .ledgerClose k => Sys2Proof.Machine.execLedgerClose k s
  | .ledgerStatus k => Sys2Proof.Machine.execLedgerStatus k s
  | .loomStatus k => Sys2Proof.Machine.execLoomStatus k s
  | .loomRetire k => Sys2Proof.Machine.execLoomRetire k s
  | .loomSeed k => Sys2Proof.Machine.execLoomSeed k s
  | .benchWrite k => Sys2Proof.Machine.execBenchWrite k s
  | .benchRead k bad => Sys2Proof.Machine.execBenchRead k bad s
  | .recipeCreate k => Sys2Proof.Machine.execRecipeCreate k s
  | .recipeLoad k => Sys2Proof.Machine.execRecipeLoad k s
  | .recipeSeal k => Sys2Proof.Machine.execRecipeSeal k s
  | .recipeFree k => Sys2Proof.Machine.execRecipeFree k s
  | .slotConfig k => Sys2Proof.Machine.execSlotConfig k s
  | .recipeParam k => Sys2Proof.Machine.execRecipeParam k s
  | .recipeRun k => Sys2Proof.Machine.execRecipeRun k s
  | .sampleConfig k => Sys2Proof.Machine.execSampleConfig k s
  | .gateLoad k => Sys2Proof.Machine.execGateLoad k s
  | .gateUnload k => Sys2Proof.Machine.execGateUnload k s
  | .gateMap k => Sys2Proof.Machine.execGateMap k s
  | .gateCap k => Sys2Proof.Machine.execGateCap k s
  | .gateWeights k => Sys2Proof.Machine.execGateWeights k s
  | .gateStatus k => Sys2Proof.Machine.execGateStatus k s
  | .sieveLoad k => Sys2Proof.Machine.execSieveLoad k s
  | .sieveClear k => Sys2Proof.Machine.execSieveClear k s
  | .sieveTrim k => Sys2Proof.Machine.execSieveTrim k s
  | .sieveStatus k => Sys2Proof.Machine.execSieveStatus k s
  | .larderAlloc k => Sys2Proof.Machine.execLarderAlloc k s
  | .larderFree k => Sys2Proof.Machine.execLarderFree k s
  | .larderStatus k => Sys2Proof.Machine.execLarderStatus k s
  | .larderWrite k eccOk => Sys2Proof.Machine.execLarderWrite k eccOk s
  | .larderRead k eccOk => Sys2Proof.Machine.execLarderRead k eccOk s
  | .larderConfig k => Sys2Proof.Machine.execLarderConfig k s
  | .larderReserve k => Sys2Proof.Machine.execLarderReserve k s
  | .hbmRetire k => Sys2Proof.Machine.execHbmRetire k s
  | .twinPair k => Sys2Proof.Machine.execTwinPair k s
  | .twinLink k => Sys2Proof.Machine.execTwinLink k s
  | .twinMirror k => Sys2Proof.Machine.execTwinMirror k s
  | .twinTakeover k => Sys2Proof.Machine.execTwinTakeover k s
  | .twinExport k => Sys2Proof.Machine.execTwinExport k s
  | .tableJoin k => Sys2Proof.Machine.execTableJoin k s
  | .tableProtect k => Sys2Proof.Machine.execTableProtect k s
  | .tableMember k => Sys2Proof.Machine.execTableMember k s
  | .tableRebuild k => Sys2Proof.Machine.execTableRebuild k s
  | .ckptTake k => Sys2Proof.Machine.execCkptTake k s
  | .ckptRestore k => Sys2Proof.Machine.execCkptRestore k s
  | .bcastTree k => Sys2Proof.Machine.execBcastTree k s
  | .dealExpect k => Sys2Proof.Machine.execDealExpect k s
  | .dealOpen k => Sys2Proof.Machine.execDealOpen k s
  | .healthBudget k => Sys2Proof.Machine.execHealthBudget k s
  | .healthClear k => Sys2Proof.Machine.execHealthClear k s
  | .sysCaps k => Sys2Proof.Machine.execSysCaps k s
  | .sysInfo k => Sys2Proof.Machine.execSysInfo k s
  | .mbAbort k => Sys2Proof.Machine.execMbAbort k s
  | .evtRing k => Sys2Proof.Machine.execEvtRing k s
  | .evtForward k => Sys2Proof.Machine.execEvtForward k s
  | .mgmtAllow k => Sys2Proof.Machine.execMgmtAllow k s
  | .pktSend k => Sys2Proof.Machine.execPktSend k s
  | .pktRecv k => Sys2Proof.Machine.execPktRecv k s
  | .xferToHost k => Sys2Proof.Machine.execXferToHost k s
  | .xferFromHost k => Sys2Proof.Machine.execXferFromHost k s
  | .fwStage k => Sys2Proof.Machine.execFwStage k s
  | .fwVerify k => Sys2Proof.Machine.execFwVerify k s
  | .fwActivate k => Sys2Proof.Machine.execFwActivate k s
  | .fwCommit k => Sys2Proof.Machine.execFwCommit k s
  | .fwStatus k => Sys2Proof.Machine.execFwStatus k s
  | .fwLiveRestartDone => Sys2Proof.Machine.execFwLiveRestartDone s
  | .ctSnap k => Sys2Proof.Machine.execCtSnap k s
  | .ctConfig k => Sys2Proof.Machine.execCtConfig k s
  | .ctBw k => Sys2Proof.Machine.execCtBw k s
  | .userMap k => Sys2Proof.Machine.execUserMap k s
  | .frzNow k => Sys2Proof.Machine.execFrzNow k s
  | .frzStatus k => Sys2Proof.Machine.execFrzStatus k s
  | .frzRead k => Sys2Proof.Machine.execFrzRead k s
  | .bringStatus k => Sys2Proof.Machine.execBringStatus k s
  | .lampNominal k => Sys2Proof.Machine.execLampNominal k s
  | .timeSetLoad => Sys2Proof.Machine.execTimeSetLoad s
  | .larderZeroDone k => Sys2Proof.Machine.execLarderZeroDone k s
  | .ckptRestoreDone => Sys2Proof.Machine.execCkptRestoreDone s
  | .fwWorkDone k image => Sys2Proof.Machine.execFwWorkDone k image s
  | .hbmChannelLost site => Sys2Proof.Machine.execHbmChannelLost site s
  | .d3hotTransition enter => Sys2Proof.Machine.execD3hotTransition enter s
  | .doeDiscovery index => Sys2Proof.Machine.execDoeDiscovery index s
  | .jtagFrzSelUpdate value => Sys2Proof.Machine.execJtagFrzSelUpdate value s

end Sys2Proof.Machine
end

