-- ==== Sys2Proof/Safety.lean ====
section
/-! DEFINITION. What a safe run is, and the situations in which the statements speak: a part that runs, a command that
firmware is about to take, what an answer is, and what a command leaves as it was. -/

namespace Sys2Proof.Machine

open Sys2Proof

/-- Every command that waits has operands that such a command can have. -/
def State.wellFed (s : State) : Bool := s.pending.all Instr.wf

/-- The part runs: RESET_N is released and no freeze has been accepted (R487, R510). -/
structure Chip.Up (c : Chip) : Prop where
  awake : c.pkg.held = false
  thawed : c.regs.freeze.accepted = false

/-- The command answers a next state in which only the part has changed, and the part has a property. -/
def Does (i : Instr) (s : State) (p : Chip → Prop) : Prop := ∃ c, exec i s = .next { s with chip := c } ∧ p c

/-- The kinds of state of the part, for saying what a command leaves as it was. Three are what an answer keeps within the Steward
and the register unit: the commands that wait, firmware's own state, and the freeze. `stamps` is the transmit timestamp queues of
the time base, and `tb` the rest of it. -/
inductive Part where
  | fuses | flash | caps | tb | pkg | light | ports | nest | xbar | sch | roll | kit | loom | gate | sv | lard | twin
  | stew | regs | boot | due | sent | free | waiting | firmware | freeze | stamps
  deriving DecidableEq, Repr

def Part.Same (a b : Chip) : Part → Prop
  | .fuses => b.fuses = a.fuses
  | .flash => b.flash = a.flash
  | .caps => b.caps = a.caps
  | .tb => { b.tb with tsq := a.tb.tsq } = a.tb
  | .pkg => b.pkg = a.pkg
  | .light => b.light = a.light
  | .ports => b.ports = a.ports
  | .nest => b.nest = a.nest
  | .xbar => b.xbar = a.xbar
  | .sch => b.sch = a.sch
  | .roll => b.roll = a.roll
  | .kit => b.kit = a.kit
  | .loom => b.loom = a.loom
  | .gate => b.gate = a.gate
  | .sv => b.sv = a.sv
  | .lard => b.lard = a.lard
  | .twin => b.twin = a.twin
  | .stew => b.stew = a.stew
  | .regs => b.regs = a.regs
  | .boot => b.boot = a.boot
  | .due => b.due = a.due
  | .sent => b.sent = a.sent
  | .free => b.free = a.free
  | .waiting => b.stew.waiting = a.stew.waiting
  | .firmware => b.stew.phase = a.stew.phase ∧ b.stew.bootReady = a.stew.bootReady
  | .freeze => b.regs.freeze = a.regs.freeze
  | .stamps => b.tb.tsq = a.tb.tsq

/-- Everything but the named kinds of state is as it was. -/
def SameBut (l : List Part) (a b : Chip) : Prop := ∀ p, p ∉ l → p.Same a b

/-- One port changes, to a given value; every other port, the Lot modes, and every kind of state but `own` stay. -/
structure PortBecomes (p : Nat) (v : Port) (own : List Part) (c t : Chip) : Prop where
  port : ∀ x, t.port x = if x = p then v else c.port x
  lotMode : t.ports.lotMode = c.ports.lotMode
  twinConfigured : t.ports.twinConfigured = c.ports.twinConfigured
  frame : SameBut (.ports :: own) c t

/-- What the sending of a port touches when it is brought up to the present: its BSEQ, tallies, counters and timestamps, and the
record (R115, R156, R480). -/
def Part.sending : List Part := [.stamps, .ports, .nest, .sch, .stew, .regs, .sent]

/-- A port but for the BSEQ of its next data block, which its sending alone sets (R115). -/
def Port.unsent (x : Port) : Port := { x with nextBseqTx := 0 }

/-- One port takes a given value, but for its sending; every other port and the Lot modes stay, and what changes beside is that
sending. -/
structure PortTakes (p : Nat) (v : Port) (c t : Chip) : Prop where
  port : (t.port p).unsent = v.unsent
  others : ∀ x, x ≠ p → t.port x = c.port x
  lotMode : t.ports.lotMode = c.ports.lotMode
  twinConfigured : t.ports.twinConfigured = c.ports.twinConfigured
  frame : SameBut Part.sending c t

/-- A block reaches one port, which takes a given value; every port is brought up to the present, and so are the queues whose heads
have been sent, before the block is taken (R115, R144, R163). -/
structure BlockTaken (p : Nat) (v : Port) (own : List Part) (c t : Chip) : Prop where
  port : (t.port p).unsent = v.unsent
  others : ∀ x, x ≠ p → (t.port x).unsent = (c.port x).unsent
  lotMode : t.ports.lotMode = c.ports.lotMode
  twinConfigured : t.ports.twinConfigured = c.ports.twinConfigured
  frame : SameBut (.xbar :: own ++ Part.sending) c t

/-- A packet has taken its place behind those that leave on a port, the transmit path to write its departure as the word `writes`
says: what that changes is the port's own sending and its record (R24, R184). -/
structure SendsOn (p : Nat) (pkt : Packet) (writes : Option Nat) (c t : Chip) : Prop where
  last : ∃ x, (t.sched p).leaving.getLast? = some x ∧ x.pkt = pkt ∧ x.writes = writes
  frame : SameBut Part.sending c t

/-- Request word `i` of mailbox or slot `k` (R431). -/
def Chip.reqWord (c : Chip) (k i : Nat) : Nat := (Tab.get 0 i (c.mbx k).req).toNat

/-- The 48-bit and the 64-bit value in two request words from word `i` (R443). -/
def nameAt (w : Nat → Nat) (i : Nat) : Nat := w i + 2 ^ 32 * (w (i + 1) % 2 ^ 16)

def longAt (w : Nat → Nat) (i : Nat) : Nat := w i + 2 ^ 32 * w (i + 1)

/-- Mailbox or slot `k` holds the oldest rung command, with opcode `op` and `n` request words `w`; firmware runs, and the
bring-up stage of the command's unit has ended (R433, R437, R457, R498). -/
structure Served (op k n : Nat) (w : Nat → Nat) (c : Chip) : Prop where
  box : k < 32
  inBand : 16 ≤ k → op ∉ deniedInBand
  awake : c.pkg.held = false
  ready : c.stew.bootReady = true
  phase : c.stew.phase ≠ .restarting
  thawed : c.regs.freeze.accepted = false
  oldest : ∃ rest, c.stew.rung = k :: rest ∧ k ∉ rest
  rung : (c.mbx k).pending = true
  opcode : (c.mbx k).opcode = op
  words : (c.mbx k).words = n
  request : c.reqWord k = w
  staged : stageOf op ≠ 0 → bitAt c.boot.ended (stageOf op) = true

/-- Mailbox or slot `k` of a frozen part holds the oldest rung command, one that acts while frozen (R441). -/
structure FrozenServed (op k n : Nat) (w : Nat → Nat) (c : Chip) : Prop where
  box : k < 32
  awake : c.pkg.held = false
  ready : c.stew.bootReady = true
  phase : c.stew.phase ≠ .restarting
  frozen : c.regs.freeze.frozen = true
  acts : op ∈ actsFrozen
  oldest : ∃ rest, c.stew.rung = k :: rest ∧ k ∉ rest
  rung : (c.mbx k).pending = true
  opcode : (c.mbx k).opcode = op
  words : (c.mbx k).words = n
  request : c.reqWord k = w

/-- A requester that reaches the registers: firmware, or the host while PCIe carries its accesses (R464, R467). -/
def Chip.reachedBy (c : Chip) (req : Requester) : Prop := req = .steward ∨ (req = .host ∧ c.hostUp = true)

/-- Mailbox or slot `k` holds a result: its status, its words and the Deal of the acceptance (R434, R435). -/
structure Answered (k : Nat) (st : Status) (ws : List Nat) (deal : Nat) (c : Chip) : Prop where
  ready : (c.mbx k).ready = true
  done : (c.mbx k).pending = false
  status : (c.mbx k).status = st.code
  words : (c.mbx k).hdrWords = ws.length
  result : (c.mbx k).res = ws.map (BitVec.ofNat 32)
  deal : (c.mbx k).resultDeal = deal
  accepted : (c.mbx k).accepted = true

/-- What a packet of the part's own touches on its way into a queue: counters, the queues that it meets, and the sending that has
ended before it comes (R144, R163). -/
def Part.packet : List Part := [.ports, .nest, .xbar, .sch, .stew, .regs, .sent, .free]

/-- What an answer to mailbox or slot `k` can touch: mailboxes and counters; for an in-band slot, what the packet touches that
carries it (R434, R439). -/
def Part.answer (k : Nat) : List Part :=
  [.stew, .regs, .nest, .xbar, .sent, .free] ++ if k < 16 then [] else [.ports, .sch]

/-- The command in mailbox `k` is answered in the current Deal, and changes no kind of state but `own`. -/
structure Answers (k : Nat) (st : Status) (ws : List Nat) (own : List Part) (c t : Chip) : Prop where
  answered : Answered k st ws c.deal t
  frame : SameBut (Part.answer k ++ own) c t

/-- What raising an event can touch: the ring, counters, and what leaves toward the host (R485, R486). -/
def Part.event : List Part := [.stew, .regs, .sent]

/-- What a lane or a port that gains or leaves use can reach (R86, R109 to R113, R191). -/
def Part.reach : List Part := [.ports, .nest, .xbar, .sch, .stew, .regs, .due, .sent, .stamps]

/-- The command fixes one change for the boundary R16 gives, whose Deal it answers, and changes nothing else. -/
structure Fixes (k : Nat) (x : Change) (c t : Chip) : Prop where
  answers : Answers k .ok (dealWords c.effectDeal) [.due] c t
  due : t.due = c.due ++ [(c.effectDeal, x)]

/-- The command waits for its work to end: it is accepted, its mailbox holds no result, and it joins the commands that
wait (R434). -/
structure Waits (k op : Nat) (started : Bool) (args : List Nat) (own : List Part) (c t : Chip) : Prop where
  accepted : (t.mbx k).accepted = true
  pending : (t.mbx k).pending = true
  waiting : t.stew.waiting = c.stew.waiting ++ [⟨k, (c.mbx k).ticket, op, started, args⟩]
  frame : SameBut (Part.answer k ++ .waiting :: own) c t

/-- A command that waits is the one its mailbox still holds (R434). -/
structure Outstanding (x : Waiting) (c : Chip) : Prop where
  pending : (c.mbx x.mbx).pending = true
  ticket : (c.mbx x.mbx).ticket = x.ticket

/-- A command that waited ends: it leaves those that wait and its mailbox holds its result (R434). -/
structure Finishes (x : Waiting) (st : Status) (ws : List Nat) (own : List Part) (c t : Chip) : Prop where
  ready : (t.mbx x.mbx).ready = true
  done : (t.mbx x.mbx).pending = false
  status : (t.mbx x.mbx).status = st.code
  result : (t.mbx x.mbx).res = ws.map (BitVec.ofNat 32)
  waiting : t.stew.waiting = c.stew.waiting.erase x
  frame : SameBut (Part.answer x.mbx ++ .waiting :: own) c t

/-- HBM after `bs` are stored from byte `off` of a region of half `h`: the bytes of its pages that are named once hold them,
and every other byte is as it was (R375). -/
structure Stored (h : Nat) (r : Region) (off : Nat) (bs : List Byte) (c t : Chip) : Prop where
  inside : (∀ i j, i < bs.length → j < bs.length → r.addr h (off + i) = r.addr h (off + j) → i = j) →
    ∀ i, i < bs.length → Memory.read (r.addr h (off + i)) t.lard.hbm = bs.getD i 0
  outside : ∀ a, (∀ i, i < bs.length → a ≠ r.addr h (off + i)) → Memory.read a t.lard.hbm = Memory.read a c.lard.hbm
  regions : t.lard.regions = c.lard.regions

/-- A write of RL_CMD starts an operation in a command set that has none (R221). -/
structure RollStarts (h r : Nat) (op : RollOp) (c t : Chip) : Prop where
  started : t.rset h r = { c.rset h r with op := some op }
  queued : (t.rl h).ops = (c.rl h).ops ++ [r]
  otherSet : t.rset h (1 - r) = c.rset h (1 - r)
  entries : (t.rl h).entries = (c.rl h).entries
  otherHalf : t.rl (1 - h) = c.rl (1 - h)
  frame : SameBut [.roll] c t

/-- A packet with a good CRC64 for an open Kitty of half `h`, within the ingest limit, with none ahead of it, in a core cycle in
which Kitty control has room for it (R234, R264). -/
structure AtKitty (h key : Nat) (k : Kitty) (p : Packet) (c : Chip) : Prop where
  half : bitsAt p.id 31 1 = h
  inHalf : key / 32768 = h
  ok : okPacket p = true
  good : p.crcGood = true
  first : (c.kit.half.get h).ingest = []
  room : c.serves h p = true
  fits : p.cells ≤ (c.kit.half.get h).ingestLimit
  found : c.findKitty p.id = some (key, k)
  kitty : c.kitty key = k

/-- Kitty control of half `h` has taken up packets in this core cycle, as `v` says. -/
def Chip.servedAs (c : Chip) (h : Nat) (v : Option (Nat × Nat × Bool)) : Chip :=
  c.setKittyHalf h { c.kit.half.get h with served := v }

/-- Every Kitty but one, the Ledger, and the halves' settings stay. -/
structure OneKitty (key : Nat) (c t : Chip) : Prop where
  others : ∀ x, x ≠ key → t.kitty x = c.kitty x
  jobs : t.kit.jobs = c.kit.jobs
  half : ∀ h, { t.kit.half.get h with served := none } = { c.kit.half.get h with served := none }
  stJob : t.kit.stJob = c.kit.stJob

/-- A packet of the partner's half `h`, of one kind of its exchanges, that a part takes, PAIRED with it or LOST (R391, R393). -/
structure FromPartner (h xkind : Nat) (p : Packet) (c : Chip) : Prop where
  ok : okPacket p = true
  good : p.crcGood = true
  paired : c.twin.state = .paired ∨ c.twin.state = .lost
  src : p.src = c.twin.partner
  kind : bitsAt (p.word 0) 60 4 = 0
  xkind : bitsAt (p.word 0) 52 8 = xkind
  half : bitsAt (p.word 0) 51 1 = h

/-- A packet of the Table for half `h`, from its live member `m` (R401, R406). -/
structure FromMember (h m kind xkind : Nat) (p : Packet) (c : Chip) : Prop where
  ok : okPacket p = true
  good : p.crcGood = true
  joined : c.twin.joined = true
  member : c.twin.members.idxOf p.src = m
  other : m < 8 ∧ m ≠ c.twin.member ∧ bitAt c.twin.lost m = false
  xkind : kind = 0 → bitsAt (p.word 0) 52 8 = xkind
  kind : bitsAt (p.word 0) 60 4 = kind
  half : bitsAt (p.word 0) 51 1 = h

/-- The run of Loom `n` stands at an instruction of row `row`, word `w`, which neither faults nor has anything to wait for
(R303, R309, R311, R318). -/
structure AtPc (n : Nat) (row : Nat × Nat) (r : Run) (w : Nat) (c : Chip) : Prop where
  up : c.Up
  loom : okLoom n = true
  serves : c.loomServes n = true
  run : (c.loomAt n).run = some r
  word : c.instrAt r.handle r.pc = w
  row : rowOf w = row
  fresh : r.held = none
  lawful : c.faultOf n r w = 0
  clear : c.blockOf n r w = 0

/-- One Loom changes, to a given value; the other Looms, slots and recipes stay, and every kind of state but `own`. -/
structure LoomBecomes (n : Nat) (x : Loom) (own : List Part) (c t : Chip) : Prop where
  loom : ∀ m, t.loomAt m = if m = n then x else c.loomAt m
  rest : t.loom = { c.loom with loom := t.loom.loom, bench := t.loom.bench }
  frame : SameBut (.loom :: own) c t

/-- The run of Loom `n` goes on as `r`, and nothing else of the Looms changes. -/
structure RunGoes (n : Nat) (r : Run) (own : List Part) (c t : Chip) : Prop where
  loom : LoomBecomes n { c.loomAt n with run := some r } own c t
  bench : t.loom.bench = c.loom.bench

/-- What the integer functions of a recipe compute from two 64-bit values (R308). -/
structure ScalarResult (fn a b v : Nat) : Prop where
  add : fn = 0x00 → v = (a + b) % 2 ^ 64
  sub : fn = 0x01 → (v + b) % 2 ^ 64 = a % 2 ^ 64
  and : fn = 0x02 → v = (a &&& b) % 2 ^ 64
  or : fn = 0x03 → v = (a ||| b) % 2 ^ 64
  xor : fn = 0x04 → v = (a ^^^ b) % 2 ^ 64
  shl : fn = 0x05 → b < 64 → v = a * 2 ^ b % 2 ^ 64
  shr : fn = 0x06 → b < 64 → v = a / 2 ^ b % 2 ^ 64
  sra : fn = 0x07 → b < 64 → toSigned v 64 = toSigned a 64 / (2 ^ b : Int)
  mul : fn = 0x08 → v = a * b % 2 ^ 64
  min : fn = 0x09 → toSigned v 64 = if toSigned b 64 < toSigned a 64 then toSigned b 64 else toSigned a 64
  max : fn = 0x0A → toSigned v 64 = if toSigned a 64 < toSigned b 64 then toSigned b 64 else toSigned a 64
  slt : fn = 0x0B → v = if toSigned a 64 < toSigned b 64 then 1 else 0
  sltu : fn = 0x0C → v = if a < b then 1 else 0
  width : v < 2 ^ 64

/-- The opcode and the mailbox of a command by which firmware accepts a mailbox command (R443). -/
def commandOf : Instr → Option (Nat × Nat)
  | .timeSet k => some (0x0101, k) | .timeStep k => some (0x0102, k) | .timeAsym k => some (0x0103, k)
  | .timeRole k => some (0x0104, k) | .timeStatus k => some (0x0105, k) | .ptpConfig k => some (0x0106, k)
  | .dealPeriod k => some (0x0107, k) | .powerCap k => some (0x0201, k) | .powerStatus k => some (0x0202, k)
  | .laneRetire k => some (0x0302, k) | .lampSwap k => some (0x0312, k) | .lampAuto k => some (0x0313, k)
  | .ocsSet k => some (0x0321, k) | .ocsClear k => some (0x0322, k) | .portConfig k => some (0x0401, k)
  | .portEnable k => some (0x0402, k) | .portDisable k => some (0x0403, k) | .portStatus k => some (0x0404, k)
  | .nestLoad k => some (0x0501, k) | .routeLoad k => some (0x0511, k) | .routeSeal k => some (0x0512, k)
  | .routeFlip k => some (0x0513, k) | .routeHorizon k => some (0x0514, k) | .routeRead k => some (0x0515, k)
  | .fanSet k => some (0x0521, k) | .fanWeight k => some (0x0522, k) | .fanRejoin k => some (0x0523, k)
  | .fanRemove k => some (0x0524, k) | .tallyStream k => some (0x0531, k) | .bufConfig k => some (0x0601, k)
  | .queueConfig k => some (0x0602, k) | .spillRate k => some (0x0603, k) | .mcastSet k => some (0x0611, k)
  | .portExpect k => some (0x0621, k) | .portResolve k => some (0x0622, k) | .calLoad k => some (0x0701, k)
  | .calStart k => some (0x0702, k) | .calStop k => some (0x0703, k) | .calBind k => some (0x0704, k)
  | .schedConfig k => some (0x0705, k) | .meterSet k => some (0x0711, k) | .meterBind k => some (0x0712, k)
  | .rollConfig k => some (0x0801, k) | .kittyOpen k => some (0x0901, k) | .kittyClose k => some (0x0902, k)
  | .kittyStatus k => some (0x0903, k) | .kittyConfig k => some (0x0904, k) | .ledgerOpen k => some (0x0911, k)
  | .ledgerAbort k => some (0x0912, k) | .ledgerClose k => some (0x0913, k) | .ledgerStatus k => some (0x0914, k)
  | .loomStatus k => some (0x0A01, k) | .loomRetire k => some (0x0A02, k) | .loomSeed k => some (0x0A03, k)
  | .benchWrite k => some (0x0A11, k) | .benchRead k _ => some (0x0A12, k) | .recipeCreate k => some (0x0B01, k)
  | .recipeLoad k => some (0x0B02, k) | .recipeSeal k => some (0x0B03, k) | .recipeFree k => some (0x0B04, k)
  | .slotConfig k => some (0x0B11, k) | .recipeParam k => some (0x0B12, k) | .recipeRun k => some (0x0B13, k)
  | .sampleConfig k => some (0x0B21, k) | .gateLoad k => some (0x0C01, k) | .gateUnload k => some (0x0C02, k)
  | .gateMap k => some (0x0C03, k) | .gateCap k => some (0x0C04, k) | .gateWeights k => some (0x0C05, k)
  | .gateStatus k => some (0x0C06, k) | .sieveLoad k => some (0x0D01, k) | .sieveClear k => some (0x0D02, k)
  | .sieveTrim k => some (0x0D03, k) | .sieveStatus k => some (0x0D04, k) | .larderAlloc k => some (0x0E01, k)
  | .larderFree k => some (0x0E02, k) | .larderStatus k => some (0x0E03, k) | .larderWrite k _ => some (0x0E04, k)
  | .larderRead k _ => some (0x0E05, k) | .larderConfig k => some (0x0E06, k) | .larderReserve k => some (0x0E07, k)
  | .hbmRetire k => some (0x0E08, k) | .twinPair k => some (0x0F01, k) | .twinLink k => some (0x0F02, k)
  | .twinMirror k => some (0x0F03, k) | .twinTakeover k => some (0x0F04, k) | .twinExport k => some (0x0F05, k)
  | .tableJoin k => some (0x0F11, k) | .tableProtect k => some (0x0F12, k) | .tableMember k => some (0x0F13, k)
  | .tableRebuild k => some (0x0F14, k) | .ckptTake k => some (0x0F21, k) | .ckptRestore k => some (0x0F22, k)
  | .bcastTree k => some (0x0F31, k) | .dealExpect k => some (0x0F32, k) | .dealOpen k => some (0x0F33, k)
  | .healthBudget k => some (0x0F41, k) | .healthClear k => some (0x0F42, k) | .sysCaps k => some (0x1001, k)
  | .sysInfo k => some (0x1002, k) | .mbAbort k => some (0x1003, k) | .evtRing k => some (0x1011, k)
  | .evtForward k => some (0x1012, k) | .mgmtAllow k => some (0x1013, k) | .pktSend k => some (0x1021, k)
  | .pktRecv k => some (0x1022, k) | .xferToHost k => some (0x1031, k) | .xferFromHost k => some (0x1032, k)
  | .fwStage k => some (0x1041, k) | .fwVerify k => some (0x1042, k) | .fwActivate k => some (0x1043, k)
  | .fwCommit k => some (0x1044, k) | .fwStatus k => some (0x1045, k) | .ctSnap k => some (0x1101, k)
  | .ctConfig k => some (0x1102, k) | .ctBw k => some (0x1103, k) | .userMap k => some (0x1104, k)
  | .frzNow k => some (0x1111, k) | .frzStatus k => some (0x1112, k) | .frzRead k => some (0x1113, k)
  | .bringStatus k => some (0x1201, k) | .lampNominal k => some (0x1202, k)
  | _ => none

/-- The events of the 97 clock domains that a freeze stops (R487): those that the Steward, PCIe, I3C and JTAG do not make. -/
def stoppedByFreeze : Instr → Bool
  | .guardStart | .monitorResult _ | .instructionComplete _ _ _ _ _ | .sieveInstructionStart | .sieveInstructionDone
  | .sieveTrimWindow | .bootReady | .dealInEdge _ | .dealInMiss | .timeCapEdge _ _ | .timeCaptured _ | .dealBoundary | .monitorConversionStart
  | .spareWarmed _ _ | .spareReady _ _ | .spareTimeout _ _ | .heaterSweepTick _ _ _ | .idCheckEnd _ _ _
  | .lockLoopUpdate _ _ _ _ | .lightLoss _ | .lightArrival _ | .ocsCircuitDark _ _ | .trainingBlock _ _
  | .portTrainTimeout _ | .markerBlock _ _ | .markerWindowClose _ | .portSilence _ | .noticeResize _ _
  | .noticeLaneLeave _ _ | .noticeLaneJoin _ _ | .noticeDisable _ _ | .noticeEcho _ _ _ | .noticeRepeat _
  | .receiveDrainEnd _ | .packetFirstBlock _ _ _ | .dataBlock _ _ | .egressSchedule _ | .spillReadback _ _ _ _
  | .calEntryOpen _ _ | .timeExchangeSend | .timeReq _ _ _ | .timeRsp _ _ _ | .holdoverExpiry | .ante _ _ _
  | .ack _ _ | .rnack _ _ | .result _ _ | .anack _ _ | .kittyDeadline _ _ | .showdownReturn _ _ _
  | .kittyResultResend _ _ | .childAnteResend _ _ | .rollMissFill _ _ _ | .rollSweep _ _ | .rollRead _ _
  | .rollWrite _ _ _ _ | .rollDelete _ _ | .rollReadIndex _ _ _ | .rollPurge _ _ | .rollTouch _ _
  | .rollCmdReserved _ _ _ _ | .rollOpDone _ _ _ | .rollSetWrite _ _ _ _ | .recipeSlotStart _ _ | .nop _ _
  | .mm _ _ | .vectorOp _ _ | .vcvt _ _ | .vredSum _ _ | .vredMax _ _ | .vredTopk _ _ | .scalarReg _ _
  | .scalarImm _ _ | .loadImmediate _ _ | .ld _ _ _ | .st _ _ | .scalarFp _ _ | .mfs _ _ | .branch _ _ | .jmp _ _
  | .copy _ _ | .lfetch _ _ | .lstore _ _ _ | .emit _ _ _ | .sieveOp _ _ | .syncCycle _ _ | .syncFills _ _
  | .syncDrain _ _ | .syncYield _ _ | .endRun _ _ | .instructionWaitEnd _ _ | .loomCheckFail _ _ _
  | .fillLanded _ _ _ | .loomSample _ _ | .sieveTrimEnd _ | .sieveCalibrationDone _ _ | .token _ _
  | .gateCapacityCheck _ _ | .reply _ _ | .gateCombineDeadline _ _ | .larderGrant _ | .larderWaitTimeout _
  | .mirrorPacket _ | .mack _ | .mirrorResend _ | .mirrorStale _ | .mirrorCopyPass _ | .twinLostMack _
  | .delta _ _ | .dack _ _ | .deltaResend _ | .coded _ _ | .codedReport _ | .uread _ _ | .udata _ _
  | .ureadRetry _ | .pset _ _ | .rebuildStripe _ | .ckptWritten | .jobStart _ | .bcastAsk _ | .bcastDeadline
  | .bcastAskRetry | .mgmtReq _ | .stewardLocalPacket _ | .timeCapRead _ | .tsqPop _ | .ftNsRead _ _
  | .snapCapture _ | .snapBankSwap _ | .sampleAck _ _ | .bootImageCheck _ | .bringupStageEnd _ | .xferDone _ _ _
  | .timeSetLoad | .larderZeroDone _ | .ckptRestoreDone | .hbmChannelLost _ => true
  | _ => false

end Sys2Proof.Machine
end

