-- ==== Sys2Proof/Certificates/Slice0/Obligations.lean ====
section
/-! DEFINITION. The statements for the provers. -/

open Sys2Proof Sys2Proof.Machine

/-- A step runs the command at the front of the queue on the part, with the queue's rest. -/
def Obligations.StepRunsFrontCommand : Prop := ∀ (c : Chip) (i : Instr) (q : List Instr),
  step ⟨c, i :: q⟩ = exec i ⟨c, q⟩

/-- A step with no command waiting is one core cycle of the part (assumption 1): with no guard and no boundary ahead of
it, no trigger of R41 in it and no packet in a Kitty ingest queue (R234), fabric time moves on by one, local time and the Steward's clock by the core cycles this
takes at FT's frequency, and no command comes to wait. -/
def Obligations.IdleStepIsOneCycle : Prop := ∀ (c : Chip), c.Up → 65 < c.toBoundary →
  c.cycle + 1 ≠ c.dealCycles / 2 → (∀ e ∈ c.loom.slots, e.2.en = false) → (c.kit.half.get 0).ingest = [] → (c.kit.half.get 1).ingest = [] →
  ∃ t, step ⟨c, []⟩ = .next ⟨t, []⟩ ∧ t.tb.ft = c.tb.ft + 1 ∧ t.tb.lt = (c.tb.lt + c.ltFor 1) % 2 ^ 64 ∧
    t.tb.age = c.tb.age + c.ltFor 1 ∧ (c.tb.ftRate = 0 → c.tb.ftFrac = 0 → c.ltFor 1 = 1) ∧
    t.deal = c.deal ∧ t.cycle = c.cycle + 1 ∧ SameBut [.tb, .regs, .sent] c t

/-- Every command with operands that such a command can have runs to a next state that leaves the queue; any other is
refused as ill-formed, which is the one way the model stops. -/
def Obligations.EveryWellFormedCommandRuns : Prop := ∀ (i : Instr) (s : State),
  (i.wf = true → ∃ c, exec i s = .next { s with chip := c }) ∧ (i.wf = false → exec i s = .refused .illFormed)

/-- From every state, a queue of commands with operands they can have is served to its end: as many steps as commands
wait end in a next state with none waiting, and no step before stops. -/
def Obligations.WellFedQueueIsServed : Prop := ∀ (s : State), s.wellFed = true →
  ∃ c, Sys2Proof.core.run s.pending.length s = .next (show Sys2Proof.core.State from (⟨c, []⟩ : State))

/-- HBM and the Benches keep their one canonical form over every step from every state (addresses rising, no entry equal
to what an unlisted byte reads as). -/
def Obligations.MemoriesStayCanonical : Prop := ∀ (s t : State), step s = .next t →
  Memory.wf s.chip.loom.bench = true ∧ Memory.wf s.chip.lard.hbm = true →
  Memory.wf t.chip.loom.bench = true ∧ Memory.wf t.chip.lard.hbm = true

def Obligations.ResetMemoriesCanonical : Prop :=
  Memory.wf State.reset.chip.loom.bench = true ∧ Memory.wf State.reset.chip.lard.hbm = true ∧ State.reset.pending = []

/-- No command and no cycle changes what the part is: its variant, stepping, serial, Roll seed and device secret (R3, R205, R458); its security
version never falls (R455). -/
def Obligations.IdentityOutlivesEveryStep : Prop := ∀ (s t : State), step s = .next t →
  t.chip.fuses.variant = s.chip.fuses.variant ∧ t.chip.fuses.stepping = s.chip.fuses.stepping ∧
  t.chip.fuses.serial = s.chip.fuses.serial ∧ t.chip.fuses.seedId = s.chip.fuses.seedId ∧
  t.chip.fuses.secret = s.chip.fuses.secret ∧
  s.chip.fuses.svn ≤ t.chip.fuses.svn

/-- While RESET_N holds the part, nothing but the reset pin and the rails changes it (R510). -/
def Obligations.HeldPartIgnoresCommands : Prop := ∀ (i : Instr) (s : State), s.chip.pkg.held = true → i.wf = true →
  i ≠ .resetAccept → (∀ straps, i ≠ .resetRelease straps) → i ≠ .railOutOfTolerance → exec i s = .next s

/-- Once a freeze is accepted, no event of the stopped clock domains changes the part (R487). -/
def Obligations.FrozenFabricStands : Prop := ∀ (i : Instr) (s : State), s.chip.regs.freeze.accepted = true →
  stoppedByFreeze i = true → i.wf = true → exec i s = .next s

/-- The commands of fabric time (R444, R38): what each sets in the time base at once, and the Deal at whose boundary
`time.step` acts (R16). -/
def Obligations.TimeCommandsComplete : Prop := ∀ (k : Nat) (w : Nat → Nat) (c : Chip) (q : List Instr),
  (Served 0x0101 k 3 w c → c.tb.ftRole = true → c.quiescent = true → w 2 % 8192 = 0 → w 2 < 1000000000 →
    Does (.timeSet k) ⟨c, q⟩ fun t => Answers k .ok (twoWords (nameAt w 0)) [.tb] c t ∧
      t.tb = { c.tb with timeSet := some ((nameAt w 0 * 1000000000 + w 2) * 2) }) ∧
  (Served 0x0102 k 0 w c → Does (.timeStep k) ⟨c, q⟩ (Fixes k .stepTime c)) ∧
  (Served 0x0103 k 2 w c → c.isPort (bitsAt (w 0) 0 12) = true → (toSigned (w 1) 32).natAbs ≤ 1000000 →
    Does (.timeAsym k) ⟨c, q⟩ fun t => Answers k .ok [] [.ports] c t ∧
      ∀ p, t.port p = if p = bitsAt (w 0) 0 12 then { c.port p with asymPs := toSigned (w 1) 32 } else c.port p) ∧
  (Served 0x0104 k 1 w c → c.quiescent = true →
    (bitAt (w 0) 0 = true ∨ (c.isPort (bitsAt (w 0) 3 11) = true ∧
      (bitAt (w 0) 2 = true → c.isPort (bitsAt (w 0) 14 11) = true))) →
    Does (.timeRole k) ⟨c, q⟩ fun t => Answers k .ok [] [.tb] c t ∧
      t.tb.ftRole = bitAt (w 0) 0 ∧ t.tb.dealSrc = bitAt (w 0) 1 ∧ t.tb.parentBValid = bitAt (w 0) 2 ∧
      t.tb.parentA = bitsAt (w 0) 3 11 ∧ t.tb.parentB = bitsAt (w 0) 14 11 ∧ t.tb.ft = c.tb.ft ∧ t.tb.period = c.tb.period ∧
      (if bitAt (w 0) 0 ≠ c.tb.ftRole ∨ bitAt (w 0) 1 ≠ c.tb.dealSrc then t.tb.ftState = .free ∧ t.tb.aligned = false
       else t.tb.ftState = c.tb.ftState ∧ t.tb.aligned = c.tb.aligned ∧ t.tb.servo = c.tb.servo)) ∧
  (Served 0x0105 k 0 w c → Does (.timeStatus k) ⟨c, q⟩ fun t => Answers k .ok
    (twoWords (c.taken k).tbStatus ++ [ofSigned c.tb.servo.offsetNs 32, ofSigned c.tb.servo.delayNs 32, ofSigned c.tb.ptp.offsetNs 32,
      ofSigned c.tb.ptp.utcOffset 32] ++ dealWords c.deal) [] c t) ∧
  (Served 0x0106 k 4 w c → (bitAt (w 0) 9 = true → c.ftMaster = true) → bitsAt (w 2) 0 6 ≤ 32 →
    Does (.ptpConfig k) ⟨c, q⟩ fun t => Answers k .ok [] [.tb] c t ∧
      t.tb = { c.tb with
        ptEn := bitAt (w 0) 0, ftFromPt := bitAt (w 0) 9
        ftRate := if c.ftMaster && !bitAt (w 0) 9 then 0 else c.tb.ftRate, ptState := if bitAt (w 0) 0 then .listening else .disabled
        ptp := { domain := bitsAt (w 0) 2 7, transport := bitsAt (w 0) 1 1, ip := w 1, prefixLen := bitsAt (w 2) 0 6, gateway := w 3 } }) ∧
  (Served 0x0107 k 3 w c → c.tb.aligned = true → c.quiescent = true → c.ftSec < nameAt w 1 → bitsAt (w 0) 0 3 ≤ 4 →
    Does (.dealPeriod k) ⟨c, q⟩ fun t =>
      Answers k .ok (dealWords (periodInstant (nameAt w 1) / (1024 * 2 ^ bitsAt (w 0) 0 3))) [.tb] c t ∧
      t.tb = { c.tb with periodChange := some (bitsAt (w 0) 0 3, nameAt w 1) })

/-- The exchange with the parent and its answers (R23 to R26): the request, which a follower sends in the reserved window of its
parent port, with the departure to be written as T1; the answer to a child's request, with T1 as it came, the arrival as T2 and the
departure to be written as T3, and nothing for a request that fails a check; the measured offset and delay with FT's new frequency,
which R25 bounds, the end of 400 ms in HOLDOVER, and the load of FT (R444). Timestamps of packets that wait behind the one sent are
all that its departure may add to the time base. -/
def Obligations.TimeExchangesComplete : Prop := ∀ (c : Chip) (q : List Instr), c.Up →
  (c.ftMaster = false → c.deal % 16 = 0 → c.tb.servo.outstanding = none → (c.port c.parentPort).link.live = true →
    c.inWindow c.parentPort = true → Does .timeExchangeSend ⟨c, q⟩ fun t =>
      t.tb = { c.tb with servo := { c.tb.servo with outstanding := some c.deal }, tsq := t.tb.tsq } ∧
      ((c.sched c.parentPort).leaving = [] → t.tb.tsq = c.tb.tsq) ∧
      SendsOn c.parentPort (mkPacket (c.port c.parentPort).farName 0 ((c.currentEpoch (halfOf c.parentPort)).getD 0) c.nest.self 0 c.deal
        false (c.timePayload 1 c.deal 0 0 0)) (some 1) (c.setServo { c.tb.servo with outstanding := some c.deal }) t) ∧
  (∀ p pkt t2, okPort p = true → okPacket pkt = true → t2 < 2 ^ 64 → pkt.crcGood = true → bitsAt (pkt.word 0) 60 4 = 1 →
    c.recentDeal (bitsAt (pkt.word 0) 0 48) = true → (c.port p).link.live = true →
    Does (.timeReq p pkt t2) ⟨c, q⟩ fun t => t.tb = { c.tb with tsq := t.tb.tsq } ∧
      ((c.sched p).leaving = [] → t.tb.tsq = c.tb.tsq) ∧
      SendsOn p (mkPacket (c.port p).farName 0 ((c.currentEpoch (halfOf p)).getD 0) c.nest.self 0 (bitsAt (pkt.word 0) 0 48) false
        (c.timePayload 2 (bitsAt (pkt.word 0) 0 48) (pkt.word 1) t2 0)) (some 3) c t) ∧
  (∀ p pkt t2, okPort p = true → okPacket pkt = true → t2 < 2 ^ 64 →
    (pkt.crcGood = false ∨ bitsAt (pkt.word 0) 60 4 ≠ 1 ∨ c.recentDeal (bitsAt (pkt.word 0) 0 48) = false ∨
      (c.port p).link.live = false) → Does (.timeReq p pkt t2) ⟨c, q⟩ fun t => t = c) ∧
  (∀ p pkt t4, okPort p = true → okPacket pkt = true → t4 < 2 ^ 64 → c.ftMaster = false → p = c.parentPort →
    pkt.crcGood = true → bitsAt (pkt.word 0) 60 4 = 2 → c.recentDeal (bitsAt (pkt.word 0) 0 48) = true →
    c.tb.servo.outstanding = some (bitsAt (pkt.word 0) 0 48) → c.tb.ftState = .track →
    Does (.timeRsp p pkt t4) ⟨c, q⟩ fun t => ∃ rate : Int, rate.natAbs ≤ 10000 ∧
      t.tb = { c.tb with ftRate := rate, servo := { c.tb.servo with
        goodRun := if ((timeDiff (pkt.word 2) (pkt.word 1) - timeDiff t4 (pkt.word 3)) * 500 - (c.port p).asymPs / 2).natAbs ≤ 4000
          then c.tb.servo.goodRun + 1 else 0
        missRun := 0, outstanding := none, exchanged := true
        offsetNs := ((timeDiff (pkt.word 2) (pkt.word 1) - timeDiff t4 (pkt.word 3)) * 500 - (c.port p).asymPs / 2) / 1000
        delayNs := ((timeDiff t4 (pkt.word 1) - timeDiff (pkt.word 3) (pkt.word 2)) * 500 - (c.port p).asymPs / 2) / 1000 } } ∧
      SameBut [.tb, .free] c t) ∧
  (c.tb.ftState = .holdover → Does .holdoverExpiry ⟨c, q⟩ fun t => t.tb = { c.tb with aligned := false } ∧
    SameBut [.tb, .stew, .regs, .sent] c t) ∧
  (∀ v, c.tb.timeSet = some v → c.tb.dealSrc = false → Does .timeSetLoad ⟨c, q⟩ fun t =>
    t.tb.ft = v ∧ t.tb.ftState = .track ∧ t.tb.aligned = true ∧ t.tb.timeSet = none ∧ t.tb.lt = c.tb.lt)

/-- The IEEE 1588 follower (R31, R32): what each message and each timer sets in the port's own state. -/
def Obligations.PtpFollowerComplete : Prop := ∀ (c : Chip) (q : List Instr), c.pkg.held = false → c.tb.ptEn = true →
  c.stew.phase ≠ .restarting →
  (∀ a, okAnnounce a = true → a.domain = c.tb.ptp.domain → a.transport = c.tb.ptp.transport → c.tb.ptp.master = none → c.tb.ptState ≠ .slave →
    Does (.ptpAnnounce a) ⟨c, q⟩ fun t => SameBut [.tb] c t ∧ t.tb = { c.tb with
      ptState := .uncalibrated, ptp := { c.tb.ptp with master := some a, utcOffset := a.utcOffset, t1 := none } }) ∧
  (∀ m s two t1 t2, okPtp m = true → s < 65536 → c.fromMaster (-4) 1 m = true →
    Does (.ptpSync m s two t1 t2) ⟨c, q⟩ fun t => SameBut [.tb] c t ∧ t.tb = { c.tb with ptp := { c.tb.ptp with
      syncSeq := s, awaitFollowUp := two, t1 := if two then none else some (Int.ofNat t1), t2 := Int.ofNat (t2 / 8 * 8) } }) ∧
  (∀ m s t1, okPtp m = true → s < 65536 → c.fromMaster (-4) 1 m = true → c.tb.ptp.syncSeq = s → c.tb.ptp.awaitFollowUp = true →
    Does (.ptpFollowUp m s t1) ⟨c, q⟩ fun t => SameBut [.tb] c t ∧
      t.tb = { c.tb with ptp := { c.tb.ptp with awaitFollowUp := false, t1 := some (Int.ofNat t1) } }) ∧
  (∀ t1, c.tb.ptp.t1 = some t1 → Does .ptpDelayReqTimer ⟨c, q⟩ fun t => SameBut [.tb, .sent] c t ∧
      t.tb = { c.tb with ptp := { c.tb.ptp with
        delaySeq := (c.tb.ptp.delaySeq + 1) % 65536, t3 := some (Int.ofNat (c.tb.pt / 2 / 8 * 8)) } } ∧
      t.sent = .ptpDelayReq ((c.tb.ptp.delaySeq + 1) % 65536) :: c.sent) ∧
  (∀ m s t1 t3 t4, okPtp m = true → s < 65536 → c.fromMaster (-4) 2 m = true → c.tb.ptp.delaySeq = s → c.tb.ptp.t1 = some t1 →
    c.tb.ptp.t3 = some t3 → Does (.ptpDelayResp m s t4) ⟨c, q⟩ fun t =>
      SameBut [.tb, .free] c t ∧ t.tb.ptState = .slave ∧ t.tb.ptRunning = true ∧ t.tb.ptp.t3 = none ∧
      t.tb.ptp.offsetNs = ((c.tb.ptp.t2 - t1) - (Int.ofNat t4 - t3)) / 2 ∧
      (1000 < t.tb.ptp.offsetNs.natAbs → t.tb.pt = Int.toNat (Int.ofNat c.tb.pt - 2 * t.tb.ptp.offsetNs))) ∧
  (Does .ptpAnnounceTimeout ⟨c, q⟩ fun t => SameBut [.tb, .stew, .regs, .sent] c t ∧ t.tb = { c.tb with
    ptState := .listening, ptp := { c.tb.ptp with master := none, t1 := none, t3 := none, awaitFollowUp := false } })

/-- Captures of TIME_CAPn, the timestamp queues and the latched reads (R43 to R51). -/
def Obligations.CapturesAndStampsComplete : Prop := ∀ (c : Chip) (q : List Instr), c.Up →
  (∀ n rising, n < 2 → c.capSelects n rising = true → Does (.timeCapEdge n rising) ⟨c, q⟩ fun t => SameBut [.tb, .regs] c t ∧
    ∀ m, m < 2 → t.cap m = if m ≠ n then c.cap m
      else if (c.cap n).valid || (c.cap n).waiting then { c.cap n with missed := ((c.cap n).missed + 1) % 2 ^ 14 }
      else { c.cap n with sec := c.ftSec, ns := c.ftSubNs, aligned := c.tb.aligned, waiting := true }) ∧
  (∀ n, n < 2 → (c.cap n).waiting = true → Does (.timeCaptured n) ⟨c, q⟩ fun t => SameBut [.tb, .stew, .regs, .sent] c t ∧
    t.cap n = { c.cap n with waiting := false, valid := true }) ∧
  (∀ n, n < 2 → Does (.timeCapRead n) ⟨c, q⟩ fun t => SameBut [.tb, .sent] c t ∧ t.sent = .readData (c.cap n).word :: c.sent ∧
    t.cap n = if (c.cap n).valid then { c.cap n with valid := false, missed := 0, latchedNs := (c.cap n).ns }
      else { c.cap n with latchedNs := 0 }) ∧
  (Does (.ftNsRead .host false) ⟨c, q⟩ fun t => t.tb = { c.tb with ftLatchHost := c.ftSec } ∧
    t.sent = .readData c.ftSubNs :: c.sent ∧ SameBut [.tb, .sent] c t)

/-- The Deal number of an FT instant, and which instants are boundaries (R21). FT counts core cycles of half a ns. -/
def Obligations.DealNumberOfFabricTime : Prop := ∀ (c : Chip),
  c.deal = c.ftNs / c.dealNs % 2 ^ 48 ∧ (c.cycle = 0 ↔ c.tb.ft % 2 = 0 ∧ c.ftNs % c.dealNs = 0)

/-- A read of TB_TSQh_HI removes and latches the head entry, which TB_TSQh_LO then shows; with nothing queued it removes
nothing, and TB_TSQh_LO then reads zero (R49). -/
def Obligations.StampReadPopsQueue : Prop := ∀ (c : Chip) (q : List Instr) (h : Nat) (r : Requester), c.Up → h < 2 →
  (∀ x l, (c.tb.tsq.get h).entries = x :: l → Does (.tsqPop h) ⟨c, q⟩ fun t =>
    (t.tb.tsq.get h).entries = l ∧ t.sent = .readData x.hi :: c.sent ∧ t.tbReg r (0x108 + 0x20 * h) = some x.lo ∧
    t.tb.tsq.get (1 - h) = c.tb.tsq.get (1 - h) ∧ SameBut [.stamps, .sent] c t) ∧
  ((c.tb.tsq.get h).entries = [] → Does (.tsqPop h) ⟨c, q⟩ fun t =>
    (t.tb.tsq.get h).entries = [] ∧ t.sent = .readData 0 :: c.sent ∧ t.tbReg r (0x108 + 0x20 * h) = some 0 ∧
    t.tb.tsq.get (1 - h) = c.tb.tsq.get (1 - h) ∧ SameBut [.stamps, .sent] c t)

/-- Reset, release, loss of power and freeze (R487, R495, R497, R510): what outlives each, and where each leaves the part. -/
def Obligations.ResetAndFreezeComplete : Prop := ∀ (c : Chip) (q : List Instr),
  (Does .resetAccept ⟨c, q⟩ fun t => t.pkg.held = true ∧ t.fuses = c.fuses ∧ t.flash = c.flash ∧ t.tb = {} ∧ t.lard.hbm = [] ∧
    t.loom.bench = [] ∧ t.regs = {} ∧ t.stew.rung = [] ∧ t.stew.bootReady = false ∧ t.due = [] ∧ t.caps = capsOf c.fuses.variant) ∧
  (∀ straps, straps < 128 → c.pkg.held = true → Does (.resetRelease straps) ⟨c, q⟩ fun t =>
    t.pkg = { straps := straps } ∧ t.tb.lt = 0 ∧ t.fuses = c.fuses ∧ t.flash = c.flash ∧ t.regs = {} ∧ t.boot = {}) ∧
  (∀ straps, straps < 128 → c.pkg.held = false → Does (.resetRelease straps) ⟨c, q⟩ fun t => t = c) ∧
  (Does .railOutOfTolerance ⟨c, q⟩ fun t => t.pkg.held = true ∧ t.pkg.railsOk = false ∧ t.fuses = c.fuses ∧ t.flash = c.flash ∧
    t.tb = {} ∧ t.lard.hbm = []) ∧
  (c.Up → Does .freezeAccept ⟨c, q⟩ fun t => t.regs.freeze.accepted = true ∧ t.regs.freeze.cause = 1 ∧
    8 ≤ t.regs.freeze.ftStop ∧ t.regs.freeze.ftStop ≤ 31 ∧ t.tb.ft = c.tb.ft + t.regs.freeze.ftStop ∧
    t.tb.lt = (c.tb.lt + c.ltFor t.regs.freeze.ftStop) % 2 ^ 64 ∧
    SameBut (.tb :: .waiting :: .freeze :: Part.packet) c t) ∧
  (∀ n, n ≤ 63 → c.pkg.held = false → c.regs.freeze.accepted = true → c.regs.freeze.frozen = false →
    Does (.freezeComplete n) ⟨c, q⟩ fun t => t.regs.freeze = { c.regs.freeze with
      frozen := true, deal := c.deal, stopCycle := n, ft := field c.ftSubNs 0 32 + field c.ftSec 32 32 } ∧
      SameBut [.stew, .regs, .sent, .freeze] c t)

/-- Sensors, telemetry and I3C (R68 to R75), and the power commands (R72). -/
def Obligations.PowerAndThermalComplete : Prop := ∀ (c : Chip) (q : List Instr),
  (∀ i v, okSensor i = true → c.pkg.held = false → (thresholds i).1 ≤ v → v < (thresholds i).2.2 →
    Does (.thermalCompare [(i, v)]) ⟨c, q⟩ fun t => Tab.get false i t.pkg.warn = true ∧ Tab.get false i t.pkg.overTrip = false ∧
      t.pkg.thermtrip = c.pkg.thermtrip ∧ SameBut [.pkg, .stew, .regs, .sent] c t) ∧
  (∀ i v, okSensor i = true → c.Up → (thresholds i).2.2 ≤ v → Tab.get false i c.pkg.overTrip = true →
    Tab.get false i c.pkg.warn = true → c.pkg.thermtrip = false →
    Does (.thermalCompare [(i, v)]) ⟨c, q⟩ fun t => t.pkg.thermtrip = true ∧ t.pkg.lightPower = false ∧
      t.regs.freeze.accepted = true ∧ t.regs.freeze.cause = 2 ∧
      SameBut (.pkg :: .tb :: .waiting :: .freeze :: Part.packet) c t) ∧
  (∀ i v, i ≤ 0x2E → i % 2 = 0 → i ≠ 2 → v < 65536 → c.pkg.held = false →
    Does (.telemetryUpdate [(i, v)]) ⟨c, q⟩ fun t =>
      (∀ j, j ≠ 2 → j ≠ 0x40 → Tab.get 0 j t.pkg.telemetry = if j = i then v else Tab.get 0 j c.pkg.telemetry) ∧
      Tab.get 0 0x40 t.pkg.telemetry = t.pkg.status ∧
      Tab.get 0 2 t.pkg.telemetry = t.pkg.cap ∧ t.pkg.coolantFault = t.pkg.inletBad ∧
      (t.pkg.capExceeded = true ↔ t.pkg.cap < Tab.get 0 0 t.pkg.telemetry) ∧ SameBut [.pkg, .stew, .regs, .sent] c t) ∧
  (∀ a i n, a < 128 → i < 256 → n ≤ 256 → c.pkg.held = false → Does (.i3cRead ⟨a, i⟩ n) ⟨c, q⟩ fun t => SameBut [.sent] c t ∧
    t.sent = if a = c.pkg.i3cDyn.getD (0x30 + bitsAt c.pkg.straps 2 3)
      then .i3c ((List.range n).map (fun j => c.telemetryByte (i + j))) :: c.sent else c.sent) ∧
  (c.pkg.held = false →
    (∀ a, a < 128 → Does (.i3cCcc (.entdaa a)) ⟨c, q⟩ fun t => t.pkg = { c.pkg with i3cDyn := some a } ∧ SameBut [.pkg] c t) ∧
    (∀ a, a < 128 → Does (.i3cCcc (.setdasa a)) ⟨c, q⟩ fun t => t.pkg = { c.pkg with i3cDyn := some a } ∧ SameBut [.pkg] c t) ∧
    (Does (.i3cCcc .rstdaa) ⟨c, q⟩ fun t => t.pkg = { c.pkg with i3cDyn := none } ∧ SameBut [.pkg] c t) ∧
    (Does (.i3cCcc .enec) ⟨c, q⟩ fun t => t.pkg = { c.pkg with i3cIbi := true } ∧ SameBut [.pkg] c t) ∧
    (Does (.i3cCcc .disec) ⟨c, q⟩ fun t => t.pkg = { c.pkg with i3cIbi := false } ∧ SameBut [.pkg] c t) ∧
    (Does (.i3cCcc .getstatus) ⟨c, q⟩ fun t => t.pkg = { c.pkg with i3cPending := none } ∧ SameBut [.pkg, .sent] c t)) ∧
  (∀ k w, Served 0x0201 k 2 w c → (bitsAt (w 0) 0 16 = 0 ∨ (1000 ≤ bitsAt (w 0) 0 16 ∧ bitsAt (w 0) 0 16 ≤ 4800)) →
    300 ≤ bitsAt (w 1) 0 16 → bitsAt (w 1) 0 16 ≤ 1000 → Does (.powerCap k) ⟨c, q⟩ fun t =>
      t.pkg = { c.pkg with fmCap := bitsAt (w 0) 0 16, fluidWater := bitAt (w 0) 16, flow := bitsAt (w 1) 0 16 } ∧
      Answers k .ok [t.pkg.cap] [.pkg] c t) ∧
  (∀ k w, Served 0x0202 k 0 w c → Does (.powerStatus k) ⟨c, q⟩ (Answers k .ok
    ((List.range 12).map (fun i => c.telemetryReg (4 * i) + 65536 * c.telemetryReg (4 * i + 2)) ++
      [c.telemetryReg 0x40 + 65536 * c.telemetryReg 0x42]) [] c))

/-- NOTICEs of the far end, their echoes and repeats (R110 to R113, R119, R505): each is echoed, acts once, and changes its
own port alone, whose data blocks go on as it then allows. The end of a receive drain retires the receive sides of lanes that have
left, and cuts short what a port that is no longer live was receiving (R111, R123). -/
def Obligations.NoticesComplete : Prop := ∀ (c : Chip) (q : List Instr) (p : Nat) (n : Notice), c.Up → okPort p = true →
  okNotice n = true →
  ((c.port p).link.live = true → n.nseq ∉ (c.port p).echoed →
    (Does (.noticeResize p n) ⟨c, q⟩ fun t => (∃ l, t.sent = l ++ .notice p .resize true n :: c.sent) ∧
      PortTakes p { c.port p with
        echoed := n.nseq :: (c.port p).echoed, link := if (c.port p).link = .up then .resize else (c.port p).link
        dataStop := true, farLanes := n.lanes, resizeAt := laterOf (c.port p).resizeAt (c.receivedTarget n) } c t) ∧
    (Does (.noticeLaneLeave p n) ⟨c, q⟩ fun t => (∃ l, t.sent = l ++ .notice p .laneLeave true n :: c.sent) ∧
      PortTakes p { c.port p with
        echoed := n.nseq :: (c.port p).echoed, stopLanes := (c.port p).stopLanes ||| maskDiff (c.port p).lanes n.lanes
        leaveAt := (c.port p).leaveAt ++ [(c.receivedTarget n, n.lanes)] } c t) ∧
    (Does (.noticeLaneJoin p n) ⟨c, q⟩ fun t => t.sent = .notice p .laneJoin true n :: c.sent ∧
      PortBecomes p { c.port p with
        echoed := n.nseq :: (c.port p).echoed
        joinAt := (c.port p).joinAt ++ [(c.receivedTarget n, n.lanes, maskDiff n.lanes (maskDiff (c.port p).farLanes (c.port p).newFar))]
        newFar := maskDiff (c.port p).newFar n.lanes } [.sent] c t) ∧
    (Does (.noticeDisable p n) ⟨c, q⟩ fun t => (∃ l, t.sent = l ++ .notice p .disable true n :: c.sent) ∧
      PortTakes p { c.port p with
        echoed := n.nseq :: (c.port p).echoed, dataStop := true, farDisableAt := some (c.receivedTarget n) } c t)) ∧
  (∀ kind, Does (.noticeEcho p kind n) ⟨c, q⟩ fun t => PortBecomes p { c.port p with
      notices := (c.port p).notices.filter (fun o => !(o.kind == kind && o.nseq == n.nseq)) } [] c t) ∧
  (Does (.noticeRepeat p) ⟨c, q⟩ fun t => PortBecomes p { c.port p with
      notices := (c.port p).notices.filter (fun o => !c.reached o.target) } [.sent] c t) ∧
  ((c.port p).draining = true → Does (.receiveDrainEnd p) ⟨c, q⟩ fun t =>
    (∀ l, t.lane l = if (c.portLanes p).any (fun e => e.1 == l) ∧ (c.lane l).tx.state = .retired ∧ (c.lane l).rx.state ≠ .retired
      then (c.lane l).retire (c.lane l).reason else c.lane l) ∧
    ((c.port p).link.live = true → PortBecomes p { c.port p with draining := false } [.light] c t) ∧
    (t.port p).draining = false ∧ ((c.port p).link.live = false → (t.port p).ingress = none) ∧
    (∀ x, (t.port x).link = (c.port x).link ∧ (t.port x).lanes = (c.port x).lanes) ∧ SameBut (.light :: Part.reach) c t)

/-- Training, markers and silence of a port (R29, R30, R106 to R109): a marker is what every good block is, news of the far end's
usable lanes, and one that leaves a port none takes it DOWN. -/
def Obligations.LinkEventsComplete : Prop := ∀ (c : Chip) (q : List Instr) (p : Nat), c.Up → okPort p = true →
  (∀ b, okTraining b = true → b.check = .good → (c.port p).link = .down → bitAt (c.hereMask p) b.lane = true →
    Does (.trainingBlock p b) ⟨c, q⟩ fun t => (t.port p).link = .train ∧
      (t.port p).train.locked = (if b.pattern then 2 ^ b.lane else 0) ∧
      (t.port p).train.farDone = b.done ∧ (t.port p).farName = b.nest ∧ (t.port p).farPort = b.port ∧
      (t.port p).farLanes = b.lanes ∧ (∀ x, x ≠ p → t.port x = c.port x) ∧ SameBut [.ports, .stew, .regs, .sent] c t) ∧
  ((c.port p).link = .train → (c.port p).train.entered + 2000000 ≤ c.tb.lt → (c.port p).train.timeoutRaised = false →
    Does (.portTrainTimeout p) ⟨c, q⟩ fun t => PortBecomes p { c.port p with
      train := { (c.port p).train with timeoutRaised := true } } [.stew, .regs, .sent] c t) ∧
  (∀ m, okMarker m = true → (c.port p).link.marks = true → Marker.good m = true →
    ((c.port p).farLanes = m.lanes ∨ runMask (c.cfgWidth p) (c.hereMask p &&& m.lanes) ≠ 0) →
    Does (.markerBlock p m) ⟨c, q⟩ fun t => PortBecomes p { c.port p with
      goodRun := (c.port p).goodRun + 1, missRun := 0, farLanes := m.lanes
      newFar := if (c.port p).farLanes = m.lanes then (c.port p).newFar
        else if (c.port p).link.live = true then ((c.port p).newFar &&& m.lanes) |||
          maskDiff m.lanes ((c.port p).joinAt.foldl (fun a e => a ||| e.2.2) (c.port p).farLanes) else 0
      train := { (c.port p).train with
        farAligned := m.aligned
        goodMarkers := if (c.port p).train.hereDone then (c.port p).train.goodMarkers + 1 else 0 }
      aligned := (c.port p).aligned || ((c.port p).link.live && decide (16 ≤ (c.port p).goodRun + 1)) } [.regs] c t) ∧
  (∀ m, okMarker m = true → (c.port p).link.marks = true → Marker.good m = true → (c.port p).farLanes ≠ m.lanes →
    runMask (c.cfgWidth p) (c.hereMask p &&& m.lanes) = 0 →
    Does (.markerBlock p m) ⟨c, q⟩ fun t => (t.port p).link = .down ∧ SameBut Part.reach c t) ∧
  ((c.port p).link.marks = true → Does (.markerWindowClose p) ⟨c, q⟩ fun t =>
    PortBecomes p { c.port p with
      missRun := (c.port p).missRun + 1, goodRun := 0, train := { (c.port p).train with goodMarkers := 0 }
      aligned := (c.port p).aligned && !((c.port p).link.live && (c.port p).missRun == 1) } [.nest, .stew, .regs, .due, .sent] c t) ∧
  ((c.port p).link.live = true → Does (.portSilence p) ⟨c, q⟩ fun t => (t.port p).link = .down ∧ (t.port p).lanes = 0 ∧
    (∀ x, x ≠ p → (t.port x).link = (c.port x).link ∧ (t.port x).lanes = (c.port x).lanes) ∧ SameBut Part.reach c t)

/-- The port commands (R104, R111, R133, R506). -/
def Obligations.PortCommandsComplete : Prop := ∀ (k : Nat) (w : Nat → Nat) (c : Chip) (q : List Instr),
  (Served 0x0401 k 2 w c → bitsAt (w 0) 0 11 % 4 = 0 →
    (∀ i, i < 4 → (c.port (bitsAt (w 0) 0 11 + i)).link = .disabled) →
    (∀ i, i < 4 → bitsAt (w 1) (2 * i) 2 ≠ 3) → bitsAt (w 0) 11 3 ≠ 5 → bitsAt (w 0) 11 3 ≠ 6 →
    Does (.portConfig k) ⟨c, q⟩ fun t => Answers k .ok [] [.ports] c t ∧
      (∀ l, Tab.get 7 l t.ports.lotMode = if l = bitsAt (w 0) 0 11 / 4 then bitsAt (w 0) 11 3 else Tab.get 7 l c.ports.lotMode) ∧
      ∀ i, i < 4 → t.port (bitsAt (w 0) 0 11 + i) =
        if 0 < modeWidth (bitsAt (w 0) 11 3) i then
          { cls := bitsAt (w 0) 14 1, role := bitsAt (w 1) (2 * i) 2, asymPs := (c.port (bitsAt (w 0) 0 11 + i)).asymPs }
        else {}) ∧
  (Served 0x0402 k 1 w c → c.isPort (bitsAt (w 0) 0 12) = true → bitsAt (w 0) 0 12 < 2048 →
    (c.portLanes (bitsAt (w 0) 0 12)).all (fun x => c.laneAbsent x.1) = false →
    (c.port (bitsAt (w 0) 0 12)).link = .disabled → Does (.portEnable k) ⟨c, q⟩ fun t => Answers k .ok [] [.ports] c t ∧
      ∀ p, t.port p = if p = bitsAt (w 0) 0 12 then { c.port p with link := .down } else c.port p) ∧
  (Served 0x0403 k 1 w c → c.isPort (bitsAt (w 0) 0 12) = true → bitsAt (w 0) 0 12 < 2048 → Does (.portDisable k) ⟨c, q⟩ fun t =>
    Answers k .ok (dealWords c.effectDeal) [.ports, .due] c t ∧ t.due = c.due ++ [(c.effectDeal, .disablePort (bitsAt (w 0) 0 12))] ∧
    ∀ p, (t.port p).link = (c.port p).link) ∧
  (Served 0x0404 k 1 w c → c.isPort (bitsAt (w 0) 0 12) = true → Does (.portStatus k) ⟨c, q⟩ (Answers k .ok
    (twoWords (c.xgPort (bitsAt (w 0) 0 12)) ++ dealWords (c.port (bitsAt (w 0) 0 12)).farName) [] c))

/-- Lasers (R41, R42, R90, R92, R93): the conversion, its sixteen samples kept per laser, a spare that warms, aligns and is
READY with its swap at the boundary R16 gives, one of the LAMP stage that serves at once, and a spare that fails. -/
def Obligations.LaserEventsComplete : Prop := ∀ (c : Chip) (q : List Instr), c.Up →
  (Does .monitorConversionStart ⟨c, q⟩ fun t => t.light = { c.light with converting := true } ∧
    (c.dealCycles / 2 ≤ c.cycle → t.tb = c.tb) ∧ SameBut [.light, .tb, .regs, .sent] c t) ∧
  (∀ k l, okLaser k = true → l.length = 8 → c.light.converting = true → Does (.monitorResult [(k, l)]) ⟨c, q⟩ fun t =>
    t.light.converting = false ∧ t.light.freshSamples = true ∧
    (∀ j, (t.laser j).hist = if j = k then (l :: (c.laser k).hist).take 16 else (c.laser j).hist) ∧
    (∀ j, t.lane j = c.lane j) ∧ SameBut [.light, .tb, .ports, .regs, .due, .sent] c t) ∧
  (∀ h p, h < 2 → p < 20 → (c.laser (32 * h + p)).state = .warming → Does (.spareWarmed h p) ⟨c, q⟩ fun t =>
    (∀ j, t.laser j = if j = 32 * h + p then { c.laser j with state := .aligning } else c.laser j) ∧ SameBut [.light] c t) ∧
  (∀ h p, h < 2 → 16 ≤ p → p < 20 → (c.laser (32 * h + p)).state = .aligning → Does (.spareReady h p) ⟨c, q⟩ fun t =>
    (∀ j, t.laser j = if j = 32 * h + p then { c.laser j with state := .ready, readyAt := c.tb.lt } else c.laser j) ∧
    t.due = c.due ++ [(c.effectDeal, .lampSwap h p)] ∧ SameBut [.light, .due] c t) ∧
  (∀ h p, h < 2 → p < 16 → (c.laser (32 * h + p)).state = .aligning → Does (.spareReady h p) ⟨c, q⟩ fun t =>
    (∀ j, t.laser j = if j = 32 * h + p then { c.laser j with state := .serving, readyAt := c.tb.lt } else c.laser j) ∧
    SameBut [.light] c t) ∧
  (∀ h p, h < 2 → 16 ≤ p → p < 20 → ((c.laser (32 * h + p)).state = .warming ∨ (c.laser (32 * h + p)).state = .aligning) →
    Does (.spareTimeout h p) ⟨c, q⟩ fun t => (t.laser (32 * h + p)).state = .failed ∧
      (c.effectDeal, 1, 32 * h + p) ∈ t.stew.unrecorded ∧ SameBut (.light :: Part.reach) c t)

/-- Rings (R82 to R85) and the matrices' light (R101): a sweep steps by one code and stops at a resonance, the identity
check locks the right line and skips another, a lock is held or lost, light goes and comes. -/
def Obligations.RingEventsComplete : Prop := ∀ (c : Chip) (q : List Instr) (l : Nat), c.Up → okLane l = true →
  (∀ rx resonance, ((c.lane l).side rx).state = .sweep → ((c.lane l).side rx).keptCode = false →
    ((c.lane l).side rx).heater < 4094 → Does (.heaterSweepTick l rx resonance) ⟨c, q⟩ fun t => SameBut [.light] c t ∧
      ∀ j, t.lane j = if j = l then (c.lane l).setSide rx { (c.lane l).side rx with
        heater := ((c.lane l).side rx).heater + 1
        state := if resonance = true ∧ ((c.lane l).side rx).heater + 1 ∉ ((c.lane l).side rx).skip then .check else .sweep }
        else c.lane j) ∧
  (∀ rx tones, tones.length = 8 → ((c.lane l).side rx).state = .check → argMax tones = laneWave l →
    (tones.eraseIdx (argMax tones)).foldl max 0 + 100 ≤ tones.getD (argMax tones) 0 → Does (.idCheckEnd l rx tones) ⟨c, q⟩ fun t =>
      (∀ j, t.lane j = if j = l then Lane.setSide rx { (c.lane l).side rx with
        state := .locked, skip := [], outRun := 0, keptCode := false } { c.lane l with idFails := 0 } else c.lane j) ∧
      SameBut (.light :: Part.reach) c t) ∧
  (∀ rx tones, tones.length = 8 → ((c.lane l).side rx).state = .check → argMax tones ≠ laneWave l → (c.lane l).idFails < 2 →
    Does (.idCheckEnd l rx tones) ⟨c, q⟩ fun t =>
      (∀ j, t.lane j = if j = l then Lane.setSide rx { (c.lane l).side rx with
        state := .held, keptCode := false, skip := ((c.lane l).side rx).skip ++ [((c.lane l).side rx).heater], parked := false }
        { c.lane l with idFails := (c.lane l).idFails + 1 } else c.lane j) ∧ SameBut (.light :: Part.reach) c t) ∧
  (∀ rx code outside, code < 4096 → ((c.lane l).side rx).state = .locked → code ≠ 0 → code ≠ 4095 →
    (outside = true → ((c.lane l).side rx).outRun < 15) → Does (.lockLoopUpdate l rx code outside) ⟨c, q⟩ fun t =>
      (∀ j, t.lane j = if j = l then (c.lane l).setSide rx { (c.lane l).side rx with
        heater := code, outRun := if outside then ((c.lane l).side rx).outRun + 1 else 0 } else c.lane j) ∧ SameBut [.light] c t) ∧
  (∀ rx code outside, code = 0 ∨ code = 4095 → ((c.lane l).side rx).state = .locked → (c.lane l).losses.length < 7 →
    Does (.lockLoopUpdate l rx code outside) ⟨c, q⟩ fun t =>
      ((t.lane l).side rx).state = .held ∧ ((t.lane l).side rx).heater = code ∧ ((t.lane l).side rx).skip = [] ∧
      (t.lane l).side (!rx) = (c.lane l).side (!rx) ∧ (∀ j, j ≠ l → t.lane j = c.lane j) ∧
      SameBut (.light :: Part.reach) c t) ∧
  ((c.lane l).rx.state = .locked → Does (.lightLoss l) ⟨c, q⟩ fun t =>
    (∀ j, t.lane j = if j = l then { c.lane l with rx := { (c.lane l).rx with
      state := .nolight, keptCode := true, outRun := 0 } } else c.lane j) ∧ SameBut (.light :: Part.reach) c t) ∧
  ((c.lane l).rx.state = .nolight → Does (.lightArrival l) ⟨c, q⟩ fun t =>
    (∀ j, t.lane j = if j = l then { c.lane l with rx := { (c.lane l).rx with
      state := if (c.lane l).rx.parked then .held else .sweep
      heater := if (c.lane l).rx.keptCode then (c.lane l).rx.heater else 0
      keptCode := true } } else c.lane j) ∧
    SameBut [.light] c t) ∧
  (∀ h b, h < 2 → b < 512 → (c.circuit (512 * h + b)).state ≠ 0 → Does (.ocsCircuitDark h b) ⟨c, q⟩ fun t =>
    (∀ k, t.circuit k = if k = 512 * h + b then { c.circuit k with dark := true } else c.circuit k) ∧
    (∀ j, t.lane j = c.lane j) ∧ SameBut (.light :: Part.event) c t)

/-- The light commands (R92, R96 to R100, R500, R507): a retirement, a swap, its automatic mode, circuits set and cleared
four Deals after their matrices are driven, and the nominal power. -/
def Obligations.LightCommandsComplete : Prop := ∀ (k : Nat) (w : Nat → Nat) (c : Chip) (q : List Instr),
  (Served 0x0302 k 1 w c → bitsAt (w 0) 0 12 < 2048 → c.laneRetired (bitsAt (w 0) 0 12) = false →
    (c.lane (bitsAt (w 0) 0 12)).tx.state ≠ .bypass → (c.lane (bitsAt (w 0) 0 12)).rx.state ≠ .bypass →
    c.retirementOf (bitsAt (w 0) 0 12) = none → Does (.laneRetire k) ⟨c, q⟩ fun t =>
      Answers k .ok (dealWords c.effectDeal) [.ports, .due] c t ∧
      t.due = c.due ++ [(c.effectDeal, .retireLane (bitsAt (w 0) 0 12) 4)]) ∧
  (∀ p, Served 0x0312 k 1 w c → c.freeSpare (bitsAt (w 0) 0 1) = some p → c.swapping (bitsAt (w 0) 0 1) (bitsAt (w 0) 1 4) = false →
    (c.preparing (bitsAt (w 0) 0 1)).length < 2 → Does (.lampSwap k) ⟨c, q⟩ fun t => Answers k .ok [p] [.light] c t ∧
      ∀ j, t.laser j = if j = 32 * bitsAt (w 0) 0 1 + p then { c.laser j with state := .warming, slot := bitsAt (w 0) 1 4, started := c.tb.lt, warn := false }
        else c.laser j) ∧
  (Served 0x0313 k 1 w c → Does (.lampAuto k) ⟨c, q⟩ fun t => Answers k .ok [] [.light] c t ∧
    t.light = { c.light with autoSwap := c.light.autoSwap.set (bitsAt (w 0) 0 1) (bitAt (w 0) 1) }) ∧
  (∀ a b, Served 0x0321 k 2 w c → c.caps.ocs = true → w 0 = 1 → a = bitsAt (w 1) 0 11 → b = bitsAt (w 1) 11 11 →
    circuitOk a b = true → c.inCircuit a b = false → (c.circuit (circuitKey b)).state ≠ 3 → c.laneGone c.effectDeal a = false →
    c.laneGone c.effectDeal b = false → c.tb.aligned = true → Does (.ocsSet k) ⟨c, q⟩ fun t =>
      Answers k .ok (dealWords ((c.effectDeal + 4) % 2 ^ 48)) [.ports, .due] c t ∧
      t.due = c.due ++ [(c.effectDeal, .circuitsDriven [(a, b)]), ((c.effectDeal + 4) % 2 ^ 48, .circuitsInEffect [(a, b)])]) ∧
  (∀ b, Served 0x0322 k 2 w c → c.caps.ocs = true → w 0 = 1 → b = bitsAt (w 1) 0 11 → b % 1024 < 512 →
    (c.circuit (circuitKey b)).state = 2 → b ∉ c.pendingClears → Does (.ocsClear k) ⟨c, q⟩ fun t =>
      Answers k .ok (dealWords ((c.effectDeal + 4) % 2 ^ 48)) [.due] c t ∧
      t.due = c.due ++ [(c.effectDeal, .circuitsReleased [b]), ((c.effectDeal + 4) % 2 ^ 48, .circuitsCleared [b])]) ∧
  (Served 0x1202 k 1 w c → c.boot.stage = 7 → c.preparing (bitsAt (w 0) 0 1) = [] →
    (∀ p, p < 20 → (c.laser (32 * bitsAt (w 0) 0 1 + p)).state ≠ .serving) → Does (.lampNominal k) ⟨c, q⟩
      (Fixes k (.nominal (bitsAt (w 0) 0 1)) c))

/-- The descriptor and the route tables (R136, R143, R145 to R147, R444): a load clears, a table is filled entry by entry,
sealed against its count and CRC, flipped at a Deal, and read. -/
def Obligations.RouteTablesComplete : Prop := ∀ (k : Nat) (w : Nat → Nat) (c : Chip) (q : List Instr),
  (Served 0x0501 k 6 w c → c.noKitty = true → (∀ h e, h < 2 → e < 2 → (c.table h e).state.idle = true) →
    descOk (longAt w 0 % 2 ^ 55) = true → Does (.nestLoad k) ⟨c, q⟩ fun t => Answers k .ok [] [.nest, .twin] c t ∧
      t.nest.desc = longAt w 0 % 2 ^ 55 ∧ t.nest.self = nameAt w 2 ∧ t.nest.pair = nameAt w 4 ∧ t.nest.tables = []) ∧
  (∀ h e first n, h = bitsAt (w 0) 0 1 → e = bitsAt (w 0) 1 1 → first = bitsAt (w 0) 2 14 → n = bitsAt (w 0) 16 6 →
    Served 0x0511 k (1 + 4 * n) w c → 1 ≤ n → n ≤ 32 → first + n ≤ 16384 →
    ((c.table h e).state.idle = true ∨ (c.table h e).state = .loading) → Does (.routeLoad k) ⟨c, q⟩ fun t =>
      Answers k .ok [] [.nest, .twin] c t ∧ (t.table h e).state = .loading ∧
      (∀ i, Tab.get (0, 0) i (t.table h e).entries =
        if first ≤ i ∧ i < first + n then (longAt w (1 + 4 * (i - first)), longAt w (3 + 4 * (i - first)))
        else if (c.table h e).state.idle = true then (0, 0) else Tab.get (0, 0) i (c.table h e).entries) ∧
      ∀ x y, y < 2 → ¬(x = h ∧ y = e) →
        (t.table x y).state = (c.table x y).state ∧ (t.table x y).entries = (c.table x y).entries) ∧
  (∀ h e v, h = bitsAt (w 0) 0 1 → e = bitsAt (w 0) 1 1 → v = (c.table h e).entries.filter (fun x => entryValid x.2.1) →
    Served 0x0512 k 3 w c → (c.table h e).state = .loading → (∀ x, x ∈ v → c.badEntry x.2.1 x.2.2 = false) →
    c.firstConflict v = none → v.length = w 1 → entriesCrc v = w 2 → Does (.routeSeal k) ⟨c, q⟩ fun t =>
      Answers k .ok [w 1, w 2, 2 ^ 32 - 1] [.nest, .twin] c t ∧
      (t.table h e).state = .loaded ∧ (t.table h e).entries = (c.table h e).entries ∧
      ∀ x y, y < 2 → ¬(x = h ∧ y = e) →
        (t.table x y).state = (c.table x y).state ∧ (t.table x y).entries = (c.table x y).entries) ∧
  (Served 0x0513 k 3 w c → (∀ h, h < 2 → (c.table h (bitsAt (w 2) 0 1)).state = .loaded) →
    (∀ h, h < 2 → (c.table h (1 - bitsAt (w 2) 0 1)).state = .current) → c.nest.flip = none → c.tooLate (nameAt w 0) = false →
    c.tb.aligned = true → Does (.routeFlip k) ⟨c, q⟩ fun t => Answers k .ok [] [.nest, .twin] c t ∧
      t.nest.flip = some (bitsAt (w 2) 0 1, nameAt w 0) ∧ t.nest.drainEnd = c.nest.drainEnd) ∧
  (Served 0x0514 k 1 w c → (∀ h e, h < 2 → e < 2 → (c.table h e).state ≠ .draining) → 16 ≤ bitsAt (w 0) 0 13 →
    bitsAt (w 0) 0 13 ≤ 4096 → Does (.routeHorizon k) ⟨c, q⟩ fun t => Answers k .ok [] [.nest] c t ∧
      t.nest.horizon = bitsAt (w 0) 0 13) ∧
  (∀ x, Served 0x0515 k 1 w c → x = Tab.get (0, 0) (bitsAt (w 0) 2 14) (c.table (bitsAt (w 0) 0 1) (bitsAt (w 0) 1 1)).entries →
    Does (.routeRead k) ⟨c, q⟩ (Answers k .ok (twoWords x.1 ++ twoWords x.2 ++
      [(c.table (bitsAt (w 0) 0 1) (bitsAt (w 0) 1 1)).state.code]) [] c))

/-- Fans and Tallies (R150, R154, R155, R157): members, weights and a rejoin fixed for the Deal boundary, a removal at once,
and where Tallies go. -/
def Obligations.FansComplete : Prop := ∀ (k : Nat) (w : Nat → Nat) (c : Chip) (q : List Instr),
  (∀ ms, Served 0x0521 k (1 + bitsAt (w 0) 11 7) w c → bitsAt (w 0) 11 7 ≤ 64 →
    ms = (List.range (bitsAt (w 0) 11 7)).map (fun i => (bitsAt (w (i + 1)) 0 12, bitsAt (w (i + 1)) 12 8)) →
    (∀ m, m ∈ ms → c.portOf (bitsAt (w 0) 0 1) m.1 = true) → (ms.map Prod.fst).Nodup →
    Does (.fanSet k) ⟨c, q⟩ (Fixes k (.fanSet (1024 * bitsAt (w 0) 0 1 + bitsAt (w 0) 1 10) ms) c)) ∧
  (∀ ws, Served 0x0522 k (1 + bitsAt (w 0) 11 7) w c →
    ws = (List.range (bitsAt (w 0) 11 7)).map (fun i => (bitsAt (w (i + 1)) 0 6, bitsAt (w (i + 1)) 6 8)) →
    (∀ x, x ∈ ws → x.1 < (c.fan (bitsAt (w 0) 0 1) (bitsAt (w 0) 1 10)).members.length) →
    Does (.fanWeight k) ⟨c, q⟩ (Fixes k (.fanWeight (1024 * bitsAt (w 0) 0 1 + bitsAt (w 0) 1 10) ws) c)) ∧
  (Served 0x0523 k 1 w c → c.isPort (bitsAt (w 0) 0 12) = true →
    Does (.fanRejoin k) ⟨c, q⟩ (Fixes k (.fanRejoin (bitsAt (w 0) 0 12) false) c)) ∧
  (Served 0x0524 k 1 w c → c.isPort (bitsAt (w 0) 0 12) = true → Does (.fanRemove k) ⟨c, q⟩ fun t =>
    Answers k .ok [] [.nest, .due] c t ∧ t.inFan (bitsAt (w 0) 0 12) = false ∧
    (∀ h f, (t.fan h f).members.map (fun m => (m.port, m.weight)) = (c.fan h f).members.map (fun m => (m.port, m.weight))) ∧
    t.due.length = c.due.length ∧ ∀ d, (d, Change.fanRejoin (bitsAt (w 0) 0 12) false) ∉ t.due) ∧
  (Served 0x0531 k 3 w c → bitsAt (w 0) 0 9 ≤ 256 → c.nameOk (nameAt w 1) = true → Does (.tallyStream k) ⟨c, q⟩ fun t =>
    Answers k .ok [] [.nest] c t ∧ t.nest.tallyN = bitsAt (w 0) 0 9 ∧ t.nest.collector = nameAt w 1)

/-- Blocks that arrive in their turn (R115, R122, R139, R141, R142) and spill read-back (R170): a good first block begins its
packet on its own port, a packet for the part is delivered to its unit, later blocks count in turn, a block that comes ahead of
its turn is held, and a page comes back for the next Deal. -/
def Obligations.BlocksComplete : Prop := ∀ (c : Chip) (q : List Instr) (p : Nat), c.Up → okPort p = true →
  (∀ pkt b, okPacket pkt = true → okBlock b = true → (c.port p).link.live = true → (c.port p).farLanes = b.lanes →
    (c.port p).ingress = none → (c.port p).ahead = [] →
    ((c.port p).nextBseqRx = none ∨ (c.port p).nextBseqRx = some b.bseq) → c.firstFault p pkt b = none → b.kind = .first →
    Does (.packetFirstBlock p pkt b) ⟨c, q⟩ fun t =>
      ∃ x, x.seen = 1 ∧ x.pkt.dest = pkt.dest ∧ x.pkt.payload = pkt.payload ∧ BlockTaken p { c.port p with
        nextBseqRx := some ((b.bseq + 1) % 4096), stray := false, ingress := some x } Part.packet c t) ∧
  (∀ pkt b a v, okPacket pkt = true → okBlock b = true → (c.port p).link = .up → (c.port p).farLanes = b.lanes →
    (c.port p).ingress = none → (c.port p).ahead = [] →
    ((c.port p).nextBseqRx = none ∨ (c.port p).nextBseqRx = some b.bseq) →
    c.firstFault p pkt b = none → b.kind = .only → bitAt (Tab.get 0 (8 * p + pkt.cls) c.sch.bindings) 15 = false →
    c.nameOk pkt.dest = true → (c.table (halfOf p) pkt.epoch).state = .current →
    c.winner (c.table (halfOf p) pkt.epoch) pkt.dest pkt.cls = some (a, v) → bitsAt v 60 4 = 3 →
    namesOther (halfOf p) pkt = false →
    Does (.packetFirstBlock p pkt b) ⟨c, q⟩ fun t =>
      (∃ l, t.sent = .deliver (halfOf p) (LocalUnit.of pkt.cls) pkt :: (l ++ c.sent)) ∧ BlockTaken p { c.port p with
        nextBseqRx := some ((b.bseq + 1) % 4096), stray := false } [] c t) ∧
  (∀ b x, okBlock b = true → (c.port p).link.live = true → (c.port p).farLanes = b.lanes → (c.port p).ingress = some x →
    (c.port p).nextBseqRx = some b.bseq → (c.port p).ahead = [] → x.dropped = false → b.check = .good → b.abort = false →
    b.kind = .middle → x.seen + 1 < x.pkt.cells → Does (.dataBlock p b) ⟨c, q⟩ (BlockTaken p { c.port p with
      nextBseqRx := some ((b.bseq + 1) % 4096), ingress := some { x with seen := x.seen + 1 } } [] c)) ∧
  (∀ b x, okBlock b = true → (c.port p).link.live = true → (c.port p).farLanes = b.lanes → (c.port p).ingress = some x →
    (c.port p).nextBseqRx = some b.bseq → (c.port p).ahead = [] → x.dropped = false → b.check = .good → b.abort = false →
    b.kind = .last → x.seen + 1 = x.pkt.cells → x.toUnit = true → Does (.dataBlock p b) ⟨c, q⟩ fun t =>
      (∃ l, t.sent = .deliver (halfOf p) (LocalUnit.of x.pkt.cls) x.pkt :: (l ++ c.sent)) ∧ BlockTaken p { c.port p with
        nextBseqRx := some ((b.bseq + 1) % 4096), ingress := none } [] c t) ∧
  (∀ b e, okBlock b = true → (c.port p).link.live = true → (b.check = .good → (c.port p).farLanes = b.lanes) →
    (c.port p).ahead = [] → (c.port p).nextBseqRx = some e → 0 < (b.bseq + 4096 - e) % 4096 →
    (b.bseq + 4096 - e) % 4096 ≤ 9 → b.kind ≠ .idle → b.kind ≠ .control → Does (.dataBlock p b) ⟨c, q⟩
      (BlockTaken p { c.port p with ahead := [⟨c.tb.lt, none, b⟩] } [] c)) ∧
  (∀ h o s x g gs n, h < 2 → o < 1026 → s < 8 → x = (c.endSent).queue h o s → x.pages = g :: gs → 256 ≤ g.filled →
    x.depth < 256 → x.depth + 256 ≤ (c.endSent).queueLimit h o s →
    n = sharedNeed (g.live - overlap (fun y => (c.endSent).holds h y) x.pending (x.pending + g.live) 0 x.spilled)
      ((c.endSent).qcfg h o s).min x.depth → n ≤ (c.endSent).sharedFree h →
    ((c.endSent).xbar.buf.get h).spillReads < ((c.endSent).xbar.buf.get h).rate →
    Does (.spillReadback h o s .good) ⟨c, q⟩ fun t =>
      t.queue h o s = { x with
        pages := gs, landing := x.landing ++ [g.number], pending := x.pending + g.live, pendingShared := x.pendingShared + n } ∧
      (t.xbar.buf.get h).spillReads = ((c.endSent).xbar.buf.get h).spillReads + 1 ∧ SameBut [.xbar] c.endSent t)

/-- The commands of the Crossing (R160 to R166, R170, R174, R180 to R182): pools, queues and groups fixed for the Deal
boundary, the spill rate for the next Deal, a port's expected view, and the end of a dispute. -/
def Obligations.CrossingCommandsComplete : Prop := ∀ (k : Nat) (w : Nat → Nat) (c : Chip) (q : List Instr),
  (Served 0x0601 k 3 w c → c.privUsed (bitsAt (w 0) 0 1) ≤ bitsAt (w 0) 1 17 →
    bitsAt (w 0) 1 17 + c.sumMin (bitsAt (w 0) 0 1) ≤ bufferCells →
    Does (.bufConfig k) ⟨c, q⟩ (Fixes k (.bufConfig (bitsAt (w 0) 0 1) (bitsAt (w 0) 1 17) (longAt w 1)) c)) ∧
  (∀ p ks, Served 0x0602 k 3 w c → p = bitsAt (w 0) 0 12 → p ≠ 0xFFF → c.isPort p = true → ks = bitsSet 8 (bitsAt (w 0) 12 8) →
    bitsAt (w 1) 8 4 ≤ 9 → bitAt (w 1) 25 = false →
    c.sumMin (halfOf p) + (c.xbar.buf.get (halfOf p)).priv + 8 * bitsAt (w 1) 0 8 ≤ bufferCells →
    Does (.queueConfig k) ⟨c, q⟩ (Fixes k (.queueConfig (ks.map (fun s => qKey (halfOf p) (pointOf p) s)) (bitsAt (w 1) 0 8)
      (bitsAt (w 1) 8 4) (bitsAt (w 1) 12 12) (bitAt (w 1) 24) false (bitsAt (w 2) 0 16)) c)) ∧
  (Served 0x0603 k 1 w c → bitsAt (w 0) 1 10 ≤ spillRateMax c.fuses.variant c.tb.period → Does (.spillRate k) ⟨c, q⟩ fun t =>
    Answers k .ok [] [.due] c t ∧
    t.due = c.due ++ [((c.deal + 1) % 2 ^ 48, .spillRate (bitsAt (w 0) 0 1) (bitsAt (w 0) 1 10))]) ∧
  (∀ p, Served 0x0611 k 2 w c → bitsAt (w 0) 16 8 = 1 → p = bitsAt (w 1) 0 12 → p < 0x804 → halfOf p = bitsAt (w 0) 0 1 →
    Does (.mcastSet k) ⟨c, q⟩ (Fixes k (.mcastSet (8192 * bitsAt (w 0) 0 1 + bitsAt (w 0) 1 13) (bitAt (w 0) 15)
      (2 ^ pointOf p + 2 ^ 1027 * bitsAt (w 0) 14 1)) c)) ∧
  (∀ p m x, Served 0x0621 k 3 w c → p = bitsAt (w 0) 0 12 → m = bitsAt (w 0) 12 2 → c.isPort p = true → m ≠ 3 →
    (m = 2 → c.nameOk (nameAt w 1) = true) → x = { c.expect p with mode := m, name := if m = 2 then nameAt w 1 else 0 } →
    Does (.portExpect k) ⟨c, q⟩ fun t => Answers k .ok [] [.xbar, .due, .twin] c t ∧
      (∀ y, t.expect y = if y = p then x else c.expect y) ∧
      t.due = c.due ++ if (c.port p).link = .up ∧ (m = 1 ∨ (m = 2 ∧ nameAt w 1 ≠ (c.port p).farName))
        then [(c.effectDeal, .dispute p)] else []) ∧
  (Served 0x0622 k 1 w c → c.isPort (bitsAt (w 0) 0 12) = true → (c.expect (bitsAt (w 0) 0 12)).pending = true →
    bitAt (w 0) 12 = false → Does (.portResolve k) ⟨c, q⟩ fun t =>
      Answers k .ok (dealWords c.effectDeal) [.due, .twin] c t ∧ t.due = c.due ++ [(c.effectDeal, .resolve (bitsAt (w 0) 0 12) false)]) ∧
  (Served 0x0622 k 1 w c → c.isPort (bitsAt (w 0) 0 12) = true → (c.expect (bitsAt (w 0) 0 12)).pending = true →
    bitAt (w 0) 12 = true → Does (.portResolve k) ⟨c, q⟩ fun t =>
      Answers k .ok (dealWords c.effectDeal) [.xbar, .ports, .due, .twin] c t ∧
      (∀ y, t.expect y = c.expect y) ∧
      t.due = c.due ++ [(c.effectDeal, .disablePort (bitsAt (w 0) 0 12)), (c.effectDeal, .resolve (bitsAt (w 0) 0 12) true)])

/-- Calendars (R190 to R194): a load fills the inactive bank entry by entry and commits it at once on a Calendar that stands
or at a cycle start on one that runs, a start names its first Deal, a stop waits for a cycle start, and an entry opens when
the one before it has run its DURATION. -/
def Obligations.CalendarsComplete : Prop := ∀ (k : Nat) (w : Nat → Nat) (c : Chip) (q : List Instr) (g : Nat),
  g = 32 * bitsAt (w 0) 0 1 + bitsAt (w 0) 1 5 →
  (∀ first n b, first = bitsAt (w 0) 6 9 → n = bitsAt (w 0) 15 6 → Served 0x0701 k (1 + n) w c → n ≤ 32 → first + n ≤ 256 →
    bitAt (w 0) 21 = false → (c.cal g).commitPending = none → (c.cal g).stopPending = none →
    b = (if (c.cal g).running then 1 - (c.cal g).active else (c.cal g).active) → Does (.calLoad k) ⟨c, q⟩ fun t =>
      Answers k .ok [0, 0] [.sch, .twin] c t ∧
      (∀ e, ((t.cal g).bank b).entry e = if first ≤ e ∧ e < first + n
        then (bitsAt (w (e - first + 1)) 0 8, bitsAt (w (e - first + 1)) 8 16) else ((c.cal g).bank b).entry e) ∧
      (t.cal g).bank (1 - b) = (c.cal g).bank (1 - b) ∧ (t.cal g).active = (c.cal g).active ∧
      (∀ y, y ≠ g → t.cal y = c.cal y) ∧ t.sch.sched = c.sch.sched) ∧
  (∀ x, Served 0x0701 k 1 w c → bitsAt (w 0) 15 6 = 0 → bitsAt (w 0) 6 9 ≤ 256 → bitAt (w 0) 21 = true →
    (c.cal g).commitPending = none → (c.cal g).stopPending = none → (c.cal g).running = true →
    x = { (c.cal g).bank (1 - (c.cal g).active) with n := bitsAt (w 0) 6 9, deals := bitsAt (w 0) 22 7 } →
    x.valid c.dealCycles = true → Does (.calLoad k) ⟨c, q⟩ fun t =>
      Answers k .ok (dealWords ((c.cal g).nextStart ((c.effectDeal + 2 ^ 48 - 1) % 2 ^ 48))) [.sch, .twin] c t ∧
      (t.cal g).commitPending = some ((c.cal g).nextStart ((c.effectDeal + 2 ^ 48 - 1) % 2 ^ 48)) ∧ (t.cal g).active = (c.cal g).active ∧
      (t.cal g).bank (1 - (c.cal g).active) = x ∧ ∀ y, y ≠ g → t.cal y = c.cal y) ∧
  (Served 0x0702 k 3 w c → (c.cal g).running = false → c.tooLate (nameAt w 1) = false →
    ((c.cal g).bank (c.cal g).active).valid c.dealCycles = true → c.tb.aligned = true → Does (.calStart k) ⟨c, q⟩ fun t =>
      Answers k .ok [] [.sch] c t ∧ ∀ y, t.cal y = if y = g then { c.cal g with
        running := true, origin := nameAt w 1, base := nameAt w 1, begun := false, entry := 0, opened := 0 } else c.cal y) ∧
  (∀ d, Served 0x0703 k 1 w c → (c.cal g).running = true →
    d = (c.cal g).stopPending.getD ((c.cal g).nextStart ((c.effectDeal + 2 ^ 48 - 1) % 2 ^ 48)) → Does (.calStop k) ⟨c, q⟩ fun t =>
      Answers k .ok (dealWords d) [.sch] c t ∧
      ∀ y, t.cal y = if y = g then { c.cal g with stopPending := some d, commitPending := none } else c.cal y) ∧
  (∀ p d, Served 0x0704 k 1 w c → p = bitsAt (w 0) 0 12 → c.isPort p = true →
    d = (if bitAt (w 0) 17 = true ∧ (c.cal (32 * halfOf p + bitsAt (w 0) 12 5)).running = true
      then (c.cal (32 * halfOf p + bitsAt (w 0) 12 5)).nextStart ((c.effectDeal + 2 ^ 48 - 1) % 2 ^ 48) else c.effectDeal) →
    Does (.calBind k) ⟨c, q⟩ fun t => Answers k .ok (dealWords d) [.due] c t ∧
      t.due = c.due ++ [(d, .calBind p (bitsAt (w 0) 12 5) (bitAt (w 0) 17))]) ∧
  (∀ h n x s, c.Up → h < 2 → n < 32 → x = c.cal (32 * h + n) → x.running = true → x.begun = true →
    x.entry + 1 < (x.bank x.active).n → s = x.opened + ((x.bank x.active).entry x.entry).2 → c.tb.ft < s →
    s < c.tb.ft + c.toBoundary → Does (.calEntryOpen h n) ⟨c, q⟩ fun t => t.tb.ft = s ∧
      (∀ y, t.cal y = if y = 32 * h + n then { x with entry := x.entry + 1, opened := s } else c.cal y) ∧
      SameBut [.tb, .sch, .regs, .sent] c t)

/-- Schedulers and meters (R172, R173, R183 to R189, R197 to R199): a port whose C0 queue holds a whole packet sends it at
once and is busy for its block times, the Span serves its queues likewise, and the settings are fixed for the Deal boundary. -/
def Obligations.SchedulingComplete : Prop := ∀ (c : Chip) (q : List Instr),
  (∀ p d x r w, c.Up → p < 0x804 → d = c.endSent → (c.port p).link.live = true → (c.port p).dataStop = false →
    w = (if 2048 ≤ p then 4 - popcount 4 (c.guardIdle p)
      else popcount 4 (maskDiff (maskDiff (c.port p).lanes (c.port p).stopLanes) (c.guardIdle p))) → w ≠ 0 →
    c.exchangeDue p = false → (d.sched p).sending = none → (d.sched p).leaving = [] →
    (d.sched p).busyUntil < 100 * c.tb.ft + 100 → (d.queue (halfOf p) (pointOf p) 0).pkts = x :: r → x.started = false →
    x.after ≤ c.tb.lt → x.cells ≤ x.arrived → x.stamp = none → Does (.egressSchedule p) ⟨c, q⟩ fun t =>
      t.sent = .packet p { x.pkt with hops := min 31 (x.pkt.hops + 1) } :: d.sent ∧ (t.sched p).sending = some 0 ∧
      (t.sched p).busyUntil = max (d.sched p).busyUntil (100 * c.tb.ft) +
        blockTimes x.cells w * (if (c.port p).cls = 1 then 1118 else 1056) ∧
      (t.queue (halfOf p) (pointOf p) 0).pkts = { x with started := true } :: r ∧
      SameBut [.xbar, .sch, .regs, .sent] d t ∧ SameBut (.xbar :: Part.sending) c t) ∧
  (∀ h d x r, c.Up → h < 2 → d = c.endSent → c.spanLanes h ≠ 0 → c.spanNow h ≠ 0 → (d.sched (0x1000 + h)).sending = none →
    (d.sched (0x1000 + h)).busyUntil < 100 * c.tb.ft + 100 → (d.queue h 1026 0).pkts = x :: r → x.started = false →
    x.after ≤ c.tb.lt → x.cells ≤ x.arrived → Does (.egressSchedule (0x1000 + h)) ⟨c, q⟩ fun t => (t.sched (0x1000 + h)).sending = some 0 ∧
      max (d.sched (0x1000 + h)).busyUntil (100 * c.tb.ft) ≤ (t.sched (0x1000 + h)).busyUntil ∧
      SameBut (.stamps :: Part.packet) c t) ∧
  (∀ k w, Served 0x0705 k 2 w c → c.isPort (bitsAt (w 0) 0 12) = true → bitsAt (w 0) 22 3 ≠ 0 →
    Does (.schedConfig k) ⟨c, q⟩ (Fixes k (.schedConfig (bitsAt (w 0) 0 12) (bitsAt (w 0) 12 10) (bitsAt (w 0) 22 3)
      [bitsAt (w 1) 0 4, bitsAt (w 1) 4 4, bitsAt (w 1) 8 4, bitsAt (w 1) 12 4]) c)) ∧
  (∀ k w, Served 0x0711 k 6 w c → w 1 ≤ w 2 → w 2 ≤ 1600000 → 17439 ≤ w 3 → w 3 ≤ 16777215 → 17439 ≤ w 4 → w 4 ≤ 16777215 →
    bitsAt (w 5) 0 2 ≠ 2 → bitsAt (w 5) 2 2 ≠ 2 → bitsAt (w 5) 4 2 ≠ 2 → Does (.meterSet k) ⟨c, q⟩ (Fixes k
      (.meterSet (4096 * bitsAt (w 0) 0 1 + bitsAt (w 0) 1 12) (w 1) (w 2) (w 3) (w 4) (bitsAt (w 5) 0 2) (bitsAt (w 5) 2 2)
        (bitsAt (w 5) 4 2)) c)) ∧
  (∀ k w m, Served 0x0712 k 1 w c → c.isPort (bitsAt (w 0) 0 12) = true →
    m = c.latestMeter (4096 * halfOf (bitsAt (w 0) 0 12) + bitsAt (w 0) 16 12) → m.cbs ≠ 0 → m.demotes = false →
    Does (.meterBind k) ⟨c, q⟩ (Fixes k (.meterBind (bitsAt (w 0) 0 12) (bitsAt (w 0) 12 3) (bitsAt (w 0) 16 12)
      (bitAt (w 0) 15)) c))

/-- RL_CMD and the registers of a command set (R221, R222): a write starts an operation in a set with none, which waits its
turn at the engine; a busy set takes neither a command nor a register write. -/
def Obligations.RollCommandsStart : Prop := ∀ (c : Chip) (q : List Instr) (h r : Nat), c.Up → h < 2 → r < 2 →
  (r = 0 → c.hostUp = true) →
  ((c.rset h r).op = none →
    Does (.rollRead h r) ⟨c, q⟩ (RollStarts h r { op := 1 } c) ∧
    (∀ m keep, m < 3 → Does (.rollWrite h r m keep) ⟨c, q⟩ (RollStarts h r { op := 2, mode := m, keep := keep } c)) ∧
    Does (.rollDelete h r) ⟨c, q⟩ (RollStarts h r { op := 3 } c) ∧
    (∀ i, i < 2 ^ 23 → Does (.rollReadIndex h r i) ⟨c, q⟩ (RollStarts h r { op := 4, index := i } c)) ∧
    Does (.rollPurge h r) ⟨c, q⟩ (RollStarts h r { op := 5 } c) ∧
    Does (.rollTouch h r) ⟨c, q⟩ (RollStarts h r { op := 6 } c) ∧
    (∀ op m, op < 16 → m < 4 → (op = 0 ∨ 6 < op ∨ (op = 2 ∧ m = 3)) →
      Does (.rollCmdReserved h r op m) ⟨c, q⟩ (RollStarts h r { op := op, mode := m } c)) ∧
    (∀ g v, g < 6 → v < 2 ^ 64 → Does (.rollSetWrite h r g v) ⟨c, q⟩ fun t =>
      t.rset h r = (if g = 0 then { c.rset h r with key0 := v % 2 ^ 48 }
        else if g = 1 then { c.rset h r with key1 := v % 2 ^ 32 }
        else { c.rset h r with data := (c.rset h r).data.set (g - 2) v }) ∧
      t.rset h (1 - r) = c.rset h (1 - r) ∧ t.rl (1 - h) = c.rl (1 - h) ∧ SameBut [.roll] c t)) ∧
  ((c.rset h r).op ≠ none →
    (Does (.rollDelete h r) ⟨c, q⟩ fun t => t.roll = c.roll ∧ SameBut [.regs] c t) ∧
    (∀ v, v < 2 ^ 64 → Does (.rollSetWrite h r 0 v) ⟨c, q⟩ fun t => t.roll = c.roll ∧ SameBut [.regs] c t))

/-- What an operation of the Roll leaves (R203, R208, R216, R222): a present entry read or removed, an absent key, a purge, and
an operation that RL_CMD reserves. -/
def Obligations.RollOperationsComplete : Prop := ∀ (c : Chip) (q : List Instr) (h r : Nat) (x : RollSet), c.Up → h < 2 → r < 2 →
  x = c.rset h r → (c.rl h).ops.head? = some r →
  (∀ a e, x.op = some { op := 1 } → c.purging h x.key1 = false → c.rollFind h x.key1 x.key0 = some (a, e) →
    Does (.rollOpDone h r []) ⟨c, q⟩ fun t =>
      t.rset h r = { x with data := e.words, op := none, err := 0, hit := c.rollHit h x.key1 x.key0,
                            way := a / 2 ^ 21, slot := a % 2 ^ 21 } ∧
      (t.rl h).entries = (c.rl h).entries ∧ t.rl (1 - h) = c.rl (1 - h) ∧ SameBut [.roll, .lard, .regs] c t) ∧
  (x.op = some { op := 1 } → c.purging h x.key1 = false → c.rollFind h x.key1 x.key0 = none →
    Does (.rollOpDone h r []) ⟨c, q⟩ fun t => t.rset h r = { x with op := none, err := 1, hit := false } ∧
      (t.rl h).entries = (c.rl h).entries ∧ t.rl (1 - h) = c.rl (1 - h) ∧ SameBut [.roll, .lard, .regs] c t) ∧
  (∀ a e, x.op = some { op := 3 } → c.purging h x.key1 = false → c.rollFind h x.key1 x.key0 = some (a, e) →
    Does (.rollOpDone h r []) ⟨c, q⟩ fun t => (t.rset h r).op = none ∧ (t.rset h r).err = 0 ∧
      (t.rl h).entries = Tab.erase a (c.rl h).entries ∧ t.rl (1 - h) = c.rl (1 - h) ∧
      SameBut [.roll, .lard, .twin, .stew, .regs, .sent] c t) ∧
  (x.op = some { op := 5 } → c.kittyIsOpen x.key1 = false → c.purging h x.key1 = false → (c.rl h).purges = [] →
    Does (.rollOpDone h r []) ⟨c, q⟩ fun t => t.rset h r = { x with op := none, err := 0, hit := false } ∧
      (t.rl h).purges = [(0, x.key1, 2 ^ 23)] ∧ (t.rl h).entries = (c.rl h).entries ∧ SameBut [.roll] c t) ∧
  (∀ o, x.op = some { op := o } → (o = 0 ∨ 6 < o) → Does (.rollOpDone h r []) ⟨c, q⟩ fun t =>
    t.rset h r = { x with op := none, err := 7, hit := false } ∧ (t.rl h).entries = (c.rl h).entries ∧ SameBut [.roll] c t)

/-- The sweep, a miss that ends, and the settings (R208, R210, R214 to R216, R444): the sweep passes its slots and takes what has
aged out or is purged, and no other; Antes that waited for a miss go on, and after them what waits in the ingest queue. -/
def Obligations.RollSweepComplete : Prop := ∀ (c : Chip) (q : List Instr),
  (∀ h, c.Up → h < 2 → Does (.rollSweep h []) ⟨c, q⟩ fun t =>
    (t.rl h).sweepPos = ((c.rl h).sweepPos + 256 * (c.rl h).sweepRate) % 2 ^ 23 ∧
    (∀ e, e ∈ (t.rl h).entries → e ∈ (c.rl h).entries) ∧
    (∀ e, e ∈ (c.rl h).entries → (e.1 + 2 ^ 23 - (c.rl h).sweepPos) % 2 ^ 23 < 256 * (c.rl h).sweepRate →
      c.sweepTakes h e.2 = true → e ∉ (t.rl h).entries) ∧
    ((∀ e, e ∈ (c.rl h).entries → c.sweepTakes h e.2 = false) → (t.rl h).entries = (c.rl h).entries) ∧
    t.rl (1 - h) = c.rl (1 - h) ∧ SameBut [.roll, .lard, .twin, .stew, .regs, .sent] c t) ∧
  (∀ h p i, c.Up → h < 2 → (c.rl h).misses = [(p, i)] → Does (.rollMissFill h 0 .good) ⟨c, q⟩ fun t =>
    ∃ d, d = (c.setRl h { c.rl h with misses := [] }).takeAnte h i true p ∧
      t = d.serveIngest h) ∧
  (∀ k w, Served 0x0801 k 2 w c → bitsAt (w 0) 1 16 ≠ 0 → bitsAt (w 0) 17 11 ≠ 0 → bitsAt (w 0) 17 11 ≤ c.sweepMax →
    Does (.rollConfig k) ⟨c, q⟩ (Fixes k (.rollConfig (bitsAt (w 0) 0 1) (bitsAt (w 0) 1 16) (bitsAt (w 0) 17 11)
      (bitsAt (w 1) 0 8)) c))

/-- Antes and what confirms them (R234 to R242, R250 to R252): an Ante of the open round from a static sender adds to its
chunk's sums once, one of a wrong shape only counts, an ACK confirms and an RNACK resends. -/
def Obligations.AntesComplete : Prop := ∀ (c : Chip) (q : List Instr) (h key : Nat) (k : Kitty) (p : Packet),
  c.Up → h < 2 → AtKitty h key k p c → p.cls = 2 →
  (∀ i s e m n, okPort i = true → isAck p = false → isNack p = false → k.state = .active → badHeader k p = false →
    anteAttempt p = k.attempt → anteStep p = k.step → m = anteCidx p → n = p.seq % 65536 →
    (k.ownerOf m = none ∨ k.ownerOf m = some p.src) → Tab.get false (65536 * m + n) k.bank.arrived = false →
    c.rollHit h k.id p.src = true → c.rollFind h k.id p.src = some (s, e) → e.kind = 2 → e.port = i →
    k.bank.complete k < k.expect → Tab.get 0 m k.bank.got + 1 ≠ k.nch → Does (.ante h i p) ⟨c, q⟩ fun t =>
      Tab.get [] n (t.kitty key).bank.sums =
        addChunk k.sr c.free (k.bank.sumsOf k n) (bodyValues k.inFmt (anteElems p) (p.payload.drop 32)) ∧
      (∀ x, x ≠ n → Tab.get [] x (t.kitty key).bank.sums = Tab.get [] x k.bank.sums) ∧
      (∀ x, Tab.get false x (t.kitty key).bank.arrived = if x = 65536 * m + n then true else Tab.get false x k.bank.arrived) ∧
      (∀ x, Tab.get 0 x (t.kitty key).bank.got = if x = m then Tab.get 0 m k.bank.got + 1 else Tab.get 0 x k.bank.got) ∧
      (t.kitty key).ownerOf m = some p.src ∧ (t.kitty key).step = k.step ∧ OneKitty key c t ∧
      SameBut [.roll, .kit, .lard, .stew, .regs, .sent, .free] c t) ∧
  (∀ i, okPort i = true → isAck p = false → isNack p = false → k.state = .active → badHeader k p = true →
    Does (.ante h i p) ⟨c, q⟩ fun t => ∃ v, t = (c.servedAs h v).bump (ktCnt key 0 48) 1) ∧
  (∀ x l, isAck p = true → k.state = .active → plainHeader 2 p = true → k.last = some x → x.done = true → x.step = anteStep p →
    x.attempt = anteAttempt p → l = p.src :: x.confirmed.filter (fun y => y != p.src) →
    (∃ y, y ∈ x.bank.contributors k ∧ y ∉ l) → Does (.ack h p) ⟨c, q⟩ fun t =>
      t.kitty key = { k with last := some { x with confirmed := l } } ∧ OneKitty key c t ∧ SameBut [.kit] c t) ∧
  (∀ x, isNack p = true → k.state = .active → plainHeader 5 p = true → k.last = some x → x.step = anteStep p →
    x.attempt = anteAttempt p → p.src ∈ x.bank.contributors k → Does (.rnack h p) ⟨c, q⟩ fun t =>
      ∃ v, t = (c.servedAs h v).resendChunks key p.src
        ((nackChunks k.nch (p.payload.drop 32)).filter (fun i => x.relayed.contains i)) ∧ t.kitty key = k ∧ OneKitty key c t)

/-- A child's parent and the waits of Kitty control (R243 to R245, R251, R255): a RESULT is kept for its relay, an ANACK
resends upward, and a deadline, a result and a child's Antes come due. -/
def Obligations.KittyWaitsComplete : Prop := ∀ (c : Chip) (q : List Instr) (h : Nat), c.Up → h < 2 →
  (∀ key k p x n, AtKitty h key k p c → p.cls = 3 → isNack p = false → k.state = .active → k.parent ≠ 0 → plainHeader 3 p = true →
    n = p.seq % 65536 → n < k.nch → k.last = some x → x.step = anteStep p → x.attempt = anteAttempt p → k.attempt = x.attempt →
    x.results.any (fun e => e.1 == n) = false → (Tab.put n p.payload x.results).length ≠ k.nch →
    Does (.result h p) ⟨c, q⟩ fun t => t.kitty key = { k with last := some { x with
      results := Tab.put n p.payload x.results, toRelay := x.toRelay ++ [n] } } ∧ OneKitty key c t ∧ SameBut [.kit] c t) ∧
  (∀ key k p x, AtKitty h key k p c → p.cls = 3 → isNack p = true → k.state = .active → k.parent ≠ 0 → plainHeader 4 p = true →
    k.last = some x → x.step = anteStep p → x.attempt = anteAttempt p → Does (.anack h p) ⟨c, q⟩ fun t =>
      ∃ v, t = (c.servedAs h v).sendUpward key true (nackChunks k.nch (p.payload.drop 32)) ∧ OneKitty key c t) ∧
  (∀ n k d, n < 32768 → k = c.kitty (32768 * h + n) → k.state = .active → k.bank.deadline = some d → d ≤ c.tb.boundaries →
    Does (.kittyDeadline h n) ⟨c, q⟩ fun t => (∀ y, y ≠ 32768 * h + n → t.kitty y = c.kitty y) ∧
      (¬(k.policy = 1 ∧ ∀ i, i < k.nch → k.quorum ≤ Tab.get 0 i k.bank.counts) → OneKitty (32768 * h + n) c t) ∧
      (k.policy = 0 → t.kitty (32768 * h + n) = { k with bank := { k.bank with deadline := some (c.tb.boundaries + k.wait) } }) ∧
      (k.policy = 2 → (t.kitty (32768 * h + n)).state = .failed ∧ (t.kitty (32768 * h + n)).failReason = 3) ∧
      (k.policy = 1 → (∃ i, i < k.nch ∧ Tab.get 0 i k.bank.counts < k.quorum) →
        (t.kitty (32768 * h + n)).state = .failed ∧ (t.kitty (32768 * h + n)).failReason = 4) ∧
      SameBut (.kit :: .roll :: .lard :: Part.packet) c t) ∧
  (∀ n k x, n < 32768 → k = c.kitty (32768 * h + n) → k.last = some x → x.done = true → x.resendAt ≤ c.tb.boundaries →
    Does (.kittyResultResend h n) ⟨c, q⟩ fun t =>
      t.kitty (32768 * h + n) = { k with last := some { x with resendAt := c.tb.boundaries + k.rto } } ∧
      OneKitty (32768 * h + n) c t ∧ SameBut (.kit :: .roll :: .lard :: Part.packet) c t) ∧
  (∀ n k x d, n < 32768 → k = c.kitty (32768 * h + n) → k.last = some x → x.upAt = some d → d ≤ c.tb.boundaries → x.done = false →
    x.results.length ≠ k.nch → Does (.childAnteResend h n) ⟨c, q⟩ fun t =>
      t.kitty (32768 * h + n) = { k with last := some { x with upAt := some (c.tb.boundaries + k.rto) } } ∧
      OneKitty (32768 * h + n) c t ∧ SameBut (.kit :: Part.packet) c t)

/-- The commands of Kitties (R228 to R231, R263, R264): an open takes the lowest free slot and acts at the Deal boundary, a close
is named there too, and the status is that of KT_KSTAT. -/
def Obligations.KittyCommandsComplete : Prop := ∀ (k : Nat) (w : Nat → Nat) (c : Chip) (q : List Instr),
  (∀ y h n, Served 0x0901 k 12 w c → y = ({ desc := (List.range 6).map (fun i => longAt w (2 * i)) } : Kitty) → h = y.half →
    n = (c.freeSlots h 1).headD 0 → c.tb.aligned = true →
    (y.recipe ≠ 0 → (capsOf c.fuses.variant).recipes = true ∧ c.loomAbsent y.home = false) → c.kittyIsOpen y.id = false →
    c.purging h y.id = false → c.job h y.job ≠ none → c.noKittySpace h 1 (kittyCells y.desc) = false →
    c.badDescriptor y = false → Does (.kittyOpen k) ⟨c, q⟩ fun t =>
      Answers k .ok (n :: dealWords c.effectDeal) [.kit, .due] c t ∧
      (∀ x, t.kitty x = if x = 32768 * h + n then y else c.kitty x) ∧
      t.due = c.due ++ [(c.effectDeal, .kittyOpen (32768 * h + n))]) ∧
  (∀ key y, Served 0x0902 k 1 w c → c.findKitty (w 0) = some (key, y) → y.closing = none → Does (.kittyClose k) ⟨c, q⟩ fun t =>
    Answers k .ok (dealWords c.effectDeal) [.kit, .due] c t ∧
    (∀ x, t.kitty x = if x = key then { y with closing := some c.effectDeal } else c.kitty x) ∧
    t.due = c.due ++ [(c.effectDeal, .kittyClose key)]) ∧
  (∀ key y, Served 0x0903 k 1 w c → c.findKitty (w 0) = some (key, y) →
    Does (.kittyStatus k) ⟨c, q⟩ (Answers k .ok (key % 32768 :: twoWords y.status) [] c)) ∧
  (Served 0x0904 k 3 w c → c.poolUsed (bitsAt (w 0) 0 1) ≤ bitsAt (w 0) 1 20 → bitsAt (w 0) 1 20 ≤ 524288 →
    bitsAt (w 1) 0 17 ≤ c.xferMax (bitsAt (w 0) 0 1) → Does (.kittyConfig k) ⟨c, q⟩ (Fixes k
      (.kittyConfig (bitsAt (w 0) 0 1) (bitsAt (w 0) 1 20) (bitsAt (w 1) 0 17) (bitsAt (w 2) 0 17)) c))

/-- The commands of the Ledger (R257, R258, R261): a job opens in both halves, an abort is named for the Deal boundary, a close
removes the job, and the status is that of KT_LEDGER, KT_LEDGER_STAT and KT_LEDGER_LAST. -/
def Obligations.LedgerCommandsComplete : Prop := ∀ (k : Nat) (w : Nat → Nat) (c : Chip) (q : List Instr) (j : Nat),
  j = bitsAt (w 0) 0 8 →
  (Served 0x0911 k 5 w c → c.job 0 j = none → c.job 1 j = none → (bitAt (w 0) 8 = true → c.kit.stJob = none) →
    c.nameOk (nameAt w 3) = true → Does (.ledgerOpen k) ⟨c, q⟩ fun t => Answers k .ok [] [.kit, .tb, .twin] c t ∧
      (∀ h, h < 2 → t.job h j = some { step := nameAt w 1, collector := nameAt w 3, began := c.deal }) ∧
      (∀ h i, h < 2 → i < 256 → i ≠ j → t.job h i = c.job h i) ∧ t.kit.kitty = c.kit.kitty ∧
      t.kit.stJob = (if bitAt (w 0) 8 then some j else c.kit.stJob) ∧
      t.tb = (if bitAt (w 0) 8 then { c.tb with stStep := nameAt w 1 % 65536 } else c.tb)) ∧
  (∀ a b, Served 0x0912 k 3 w c → c.job 0 j = some a → c.job 1 j = some b → nameAt w 1 = a.step → nameAt w 1 = b.step →
    a.abortPending = false → Does (.ledgerAbort k) ⟨c, q⟩ fun t =>
      Answers k .ok (dealWords c.effectDeal ++ [(a.attempt + 1) % 16]) [.kit, .due, .twin] c t ∧
      t.job 0 j = some { a with abortPending := true } ∧ t.job 1 j = some { b with abortPending := true } ∧
      t.kit.kitty = c.kit.kitty ∧ t.due = c.due ++ [(c.effectDeal, .ledgerAbort j (nameAt w 1))]) ∧
  (Served 0x0913 k 1 w c → c.job 0 j ≠ none → (∀ e, e ∈ c.kit.kitty → e.2.job ≠ j) → Does (.ledgerClose k) ⟨c, q⟩ fun t =>
    Answers k .ok [] [.kit, .twin] c t ∧ (∀ h, h < 2 → t.job h j = none) ∧
    (∀ h i, h < 2 → i < 256 → i ≠ j → t.job h i = c.job h i) ∧ t.kit.kitty = c.kit.kitty ∧
    t.kit.stJob = if c.kit.stJob = some j then none else c.kit.stJob) ∧
  (∀ h, Served 0x0914 k 1 w c → h = bitsAt (w 0) 8 1 → c.job h j ≠ none → Does (.ledgerStatus k) ⟨c, q⟩ (Answers k .ok
    (twoWords (c.ktLedger h j) ++ twoWords (c.ktLedgerStat h j) ++ twoWords (c.ktLedgerLast h j)) [] c))

/-- Grants and frees (R374 to R379): a request that the free pages meet is granted at the lowest free index, one they do not
meet waits or is served when it is the head, and a grant that clears ends when its pages read zero. -/
def Obligations.GrantsComplete : Prop := ∀ (c : Chip) (q : List Instr),
  (∀ k w h i es x, Served 0x0E01 k 3 w c → h = bitsAt (w 0) 0 1 → bitsAt (w 0) 1 3 ≤ 4 → bitAt (w 0) 4 = false → 1 ≤ w 1 →
    w 1 ≤ 20971520 → c.waiters h = [] →
    (List.range 4096).find? (fun i => decide (4 ≤ i) && (c.region (4096 * h + i)).state == 0) = some i → w 1 ≤ c.freePages h →
    c.findPages h (c.takenRuns h) 256 (w 1) 0 = some es →
    x = ({ seq := ((c.region (4096 * h + i)).seq + 1) % 2 ^ 19, kind := bitsAt (w 0) 1 3, state := 1, owner := w 2, extents := es } : Region) →
    Does (.larderAlloc k) ⟨c, q⟩ fun t => Answers k .ok [handleOf (4096 * h + i) x, es.length] [.lard] c t ∧
      (∀ y, t.region y = if y = 4096 * h + i then x else c.region y) ∧ t.lard.hbm = c.lard.hbm) ∧
  (∀ k w h, Served 0x0E01 k 3 w c → h = bitsAt (w 0) 0 1 → bitsAt (w 0) 1 3 ≤ 4 → 1 ≤ w 1 → w 1 ≤ 20971520 →
    c.freePages h < w 1 → Does (.larderAlloc k) ⟨c, q⟩
      (Waits k 0x0E01 false [h, bitsAt (w 0) 1 3, b2n (bitAt (w 0) 4), w 1, w 2, c.tb.boundaries] [] c)) ∧
  (∀ h v rest i es x kind n owner d, c.Up → h < 2 → c.waiters h = v :: rest → v.args = [h, kind, 0, n, owner, d] → Outstanding v c →
    (List.range 4096).find? (fun i => decide (4 ≤ i) && (c.region (4096 * h + i)).state == 0) = some i → n ≤ c.freePages h →
    c.findPages h (c.takenRuns h) 256 n 0 = some es →
    x = ({ seq := ((c.region (4096 * h + i)).seq + 1) % 2 ^ 19, kind := kind, state := 1, owner := owner, extents := es } : Region) →
    Does (.larderGrant h) ⟨c, q⟩ fun t => Finishes v .ok [handleOf (4096 * h + i) x, es.length] [.lard] c t ∧
      (∀ y, t.region y = if y = 4096 * h + i then x else c.region y) ∧ t.lard.hbm = c.lard.hbm) ∧
  (∀ h v, c.Up → h < 2 → c.waiters h = [v] → Outstanding v c → (c.ld h).waitDeals ≠ 0 →
    v.args.getD 5 0 + (c.ld h).waitDeals ≤ c.tb.boundaries → Does (.larderWaitTimeout h) ⟨c, q⟩ (Finishes v .noSpace [] [] c)) ∧
  (∀ k v x e r, c.Up → k < 32 → c.waitingOf 0x0E01 (fun y => y.started && y.mbx == k) = some v → v.args = [x, e] → Outstanding v c →
    r = c.region (handleKey x) → Does (.larderZeroDone k) ⟨c, q⟩ fun t => Finishes v .ok [x, e] [.lard] c t ∧
      (∀ a, Memory.read a t.lard.hbm = if r.extents.any (fun y => decide (pageAddr (bitsAt x 31 1) y.1 0 ≤ a) &&
        decide (a < pageAddr (bitsAt x 31 1) (y.1 + y.2) 0)) then 0 else Memory.read a c.lard.hbm)) ∧
  (∀ k w, Served 0x0E02 k 1 w c → c.regionOf (w 0) ≠ none → c.regionNamed (w 0) = false →
    Does (.larderFree k) ⟨c, q⟩ (Fixes k (.larderFree (w 0)) c))

/-- Access to regions by command and by transfer with the host (R374, R382, R447): bytes written are the region's and no
other's, bytes read are those it holds. -/
def Obligations.RegionAccessComplete : Prop := ∀ (c : Chip) (q : List Instr),
  (∀ k w r, Served 0x0E03 k 1 w c → c.regionOf (w 0) = some r → Does (.larderStatus k) ⟨c, q⟩
    (Answers k .ok (twoWords (c.ldRegion (bitsAt (w 0) 31 1) (bitsAt (w 0) 0 12)) ++ [r.owner]) [] c)) ∧
  (∀ k w r h bs, Served 0x0E04 k (3 + w 2) w c → c.regionOf (w 0) = some r → h = bitsAt (w 0) 31 1 → w 1 % 4 = 0 → 1 ≤ w 2 →
    w 2 ≤ 120 → w 1 + 4 * w 2 ≤ r.pages * 65536 → c.rangeOk (w 0) (w 1) (4 * w 2) = true →
    (w 0) ∉ (c.table8 h).protectedList → bs = Request.bytes ⟨k, 0, 0, w⟩ 3 (4 * w 2) → Does (.larderWrite k .good) ⟨c, q⟩ fun t =>
      Answers k .ok [] [.lard] c t ∧ Stored h r (w 1) bs c t) ∧
  (∀ k w r h, Served 0x0E05 k 3 w c → c.regionOf (w 0) = some r → h = bitsAt (w 0) 31 1 → w 1 % 4 = 0 → 1 ≤ w 2 → w 2 ≤ 120 →
    w 1 + 4 * w 2 ≤ r.pages * 65536 → c.rangeOk (w 0) (w 1) (4 * w 2) = true → Does (.larderRead k .good) ⟨c, q⟩ fun t =>
      Answers k .ok (packWords ((List.range (4 * w 2)).map (fun i => Memory.read (r.addr h (w 1 + i)) c.lard.hbm))) [.lard] c t ∧
      t.lard.hbm = c.lard.hbm ∧ t.lard.regions = c.lard.regions) ∧
  (∀ k w r, c.regionOf (w 0) = some r → w 1 % 64 = 0 → longAt w 2 % 64 = 0 → w 4 % 64 = 0 → w 4 ≤ 2 ^ 26 →
    w 1 + w 4 ≤ r.pages * 65536 → c.rangeOk (w 0) (w 1) (w 4) = true →
    (Served 0x1031 k 5 w c → Does (.xferToHost k) ⟨c, q⟩ fun t =>
      Waits k 0x1031 true [w 0, w 1, longAt w 2, w 4] [.lard] c t ∧ t.lard.hbm = c.lard.hbm) ∧
    (Served 0x1032 k 5 w c → Does (.xferFromHost k) ⟨c, q⟩ fun t =>
      Waits k 0x1032 true [w 0, w 1, longAt w 2, w 4] [.lard] c t ∧ t.lard.hbm = c.lard.hbm)) ∧
  (∀ k v x a off n r h, c.Up → k < 32 →
    c.stew.waiting.find? (fun y => (y.opcode == 0x1031 || y.opcode == 0x1032) && y.mbx == k) = some v → v.args = [x, off, a, n] →
    Outstanding v c → h = bitsAt x 31 1 → r = c.region (handleKey x) → (∀ g, g ∈ r.touched off n → c.deadPage h g = false) →
    (v.opcode = 0x1031 → Does (.xferDone k [] .good) ⟨c, q⟩ fun t => Finishes v .ok [] [] c t ∧
      .hostWrite a (packWords (c.readRegion h r off n)) ∈ t.sent) ∧
    (∀ bs, v.opcode = 0x1032 → bs.length = n → x ∉ (c.table8 h).protectedList → Does (.xferDone k bs .good) ⟨c, q⟩ fun t =>
      Finishes v .ok [] [.lard] c t ∧ Stored h r off bs c t))

/-- Shares and stacks (R374, R383, R384, R386): budgets fixed for the Deal boundary, the spill region's size at once, and a stack
that retires at the Deal boundary by command or when a channel is lost. -/
def Obligations.SharesAndStacksComplete : Prop := ∀ (c : Chip) (q : List Instr),
  (∀ k w h, Served 0x0E06 k 2 w c → h = bitsAt (w 0) 0 1 →
    bitsAt (w 0) 1 10 + 2 * (c.xbar.buf.get h).rate + bitsAt (w 0) 11 12 ≤ c.budget h → c.sweepUnits h ≤ bitsAt (w 0) 1 10 →
    Does (.larderConfig k) ⟨c, q⟩ (Fixes k (.larderConfig h (bitsAt (w 0) 1 10) (bitsAt (w 0) 11 12) (bitsAt (w 1) 0 16)) c)) ∧
  (∀ k w h, Served 0x0E07 k 2 w c → h = bitsAt (w 0) 0 1 → 5376 + w 1 ≤ c.halfPages h → w 1 < 2 ^ 25 →
    c.spillHeld h = [] → (∀ e, e ∈ (c.takenRuns h).drop 1 → 5376 + w 1 ≤ e.1) → Does (.larderReserve k) ⟨c, q⟩ fun t =>
      Answers k .ok [] [.lard] c t ∧ t.ld h = { c.ld h with spillSize := w 1 } ∧ t.ld (1 - h) = c.ld (1 - h) ∧
      t.lard.regions = c.lard.regions ∧ t.lard.hbm = c.lard.hbm) ∧
  (∀ k w s, Served 0x0E08 k 1 w c → s = bitsAt (w 0) 0 5 → bitAt c.caps.sites s = true → bitAt (capsOf c.fuses.variant).sites s = true →
    bitAt c.lard.retired s = false → c.stackRetiring s = false → Does (.hbmRetire k) ⟨c, q⟩ (Fixes k (.retireStack s) c)) ∧
  (∀ s, c.Up → s < 20 → bitAt (capsOf c.fuses.variant).sites s = true → bitAt c.lard.retired s = false → c.stackRetiring s = false →
    Does (.hbmChannelLost s) ⟨c, q⟩ fun t => t.due = c.due ++ [(c.effectDeal, .retireStack s)] ∧ SameBut [.due] c t)

/-- The Loom commands and LM_SAMPLE_ACK (R278, R284, R292, R327, R328): status, a retirement and a seed fixed for the Deal
boundary, words written into one Bench and read from it, the sampling settings, and samples freed. -/
def Obligations.LoomCommandsComplete : Prop := ∀ (k : Nat) (w : Nat → Nat) (c : Chip) (q : List Instr) (n a : Nat),
  n = bitsAt (w 0) 0 6 → a = bitsAt (w 1) 0 23 →
  (Served 0x0A01 k 1 w c → c.loomAbsent n = false → Does (.loomStatus k) ⟨c, q⟩
    (Answers k .ok (twoWords (c.lmState n) ++ twoWords ((c.taken k).ctrImage (loomWindow n + 8))) [] c)) ∧
  (Served 0x0A02 k 1 w c → c.loomAbsent n = false → c.loomRetiring n = false → Does (.loomRetire k) ⟨c, q⟩
    (Fixes k (.retireLoom n 4) c)) ∧
  (Served 0x0A03 k 3 w c → (bitAt (w 0) 6 = false → c.loomAbsent n = false) → Does (.loomSeed k) ⟨c, q⟩
    (Fixes k (.loomSeed (if bitAt (w 0) 6 then none else some n) (longAt w 1)) c)) ∧
  (Served 0x0A11 k (3 + w 2) w c → c.loomAbsent n = false → benchBad a (w 2) = false → Does (.benchWrite k) ⟨c, q⟩ fun t =>
    Answers k .ok [] [.loom] c t ∧ t.loom = { c.loom with bench := t.loom.bench } ∧
    ∀ x, Memory.read x t.loom.bench = if 2 ^ 23 * n + a ≤ x ∧ x < 2 ^ 23 * n + a + 4 * w 2
      then BitVec.ofNat 8 (w (3 + (x - (2 ^ 23 * n + a)) / 4) / 256 ^ ((x - (2 ^ 23 * n + a)) % 4)) else Memory.read x c.loom.bench) ∧
  (Served 0x0A12 k 3 w c → c.loomAbsent n = false → benchBad a (w 2) = false →
    (∀ r, r.bad = none → Does (.benchRead k r) ⟨c, q⟩
      (Answers k .ok ((List.range (w 2)).map (fun i => Memory.readLe (2 ^ 23 * n + a + 4 * i) 4 c.loom.bench)) [] c)) ∧
    ∀ r e, r.bad = some e → a / 8 * 8 ≤ e → e < a + 4 * w 2 → Does (.benchRead k r) ⟨c, q⟩ fun t =>
      Answers k .ecc [] [.loom, .due] c t ∧ t.loom.bench = c.loom.bench) ∧
  (Served 0x0B21 k 2 w c → (capsOf c.fuses.variant).recipes = true → (bitAt (w 0) 6 = false → c.loomAbsent n = false) →
    64 ≤ bitsAt (w 1) 0 20 → Does (.sampleConfig k) ⟨c, q⟩ fun t => Answers k .ok [] [.loom] c t ∧
      t.loom = { c.loom with loom := t.loom.loom } ∧
      ∀ m, t.loomAt m = if (bitAt (w 0) 6 = false ∧ m = n) ∨ (bitAt (w 0) 6 = true ∧ m < 64 ∧ c.loomServes m = true)
        then { c.loomAt m with sampleEn := bitAt (w 0) 7, samplePeriod := bitsAt (w 1) 0 20 } else c.loomAt m) ∧
  (∀ l s, c.Up → okLoom l = true → s < 128 → c.loomServes l = true → Does (.sampleAck l s) ⟨c, q⟩ fun t =>
    SameBut [.loom] c t ∧ t.loom = { c.loom with loom := t.loom.loom } ∧ ∀ m, t.loomAt m = if m = l then { c.loomAt m with
      ring := (c.loomAt m).ring.drop s, head := ((c.loomAt m).head + min s (c.loomAt m).ring.length) % 64 } else c.loomAt m)

/-- A slot start (R41, R296 to R298, R302): at the loom cycle of its OFFSET a slot with nothing to do stays as it was, a run
that yielded in an earlier Deal goes on, a slot of its own mode starts a fresh run, and one whose Loom runs another waits in order of OFFSET. -/
def Obligations.SlotStartsComplete : Prop := ∀ (c d : Chip) (q : List Instr) (n k : Nat) (s : LoomSlot) (x : Loom),
  c.Up → okLoom n = true → k < 16 → c.loomServes n = true → s = c.loomSlot n k → x = c.loomAt n →
  d = c.advanceTo (c.slotCycle s.offset) →
  (((c.hasWork n k = false ∧ c.duePiece n k = none) ∨ c.slotCycle s.offset < c.cycle ∨ s.started = some c.tb.boundaries) →
    Does (.recipeSlotStart n k) ⟨c, q⟩ fun t => t = c) ∧
  (c.cycle ≤ c.slotCycle s.offset → s.started ≠ some c.tb.boundaries → (s.mode = 1 ∨ d.duePiece n k = none) →
    (∀ r, c.yieldedRun n k = some r → x.run = none → Does (.recipeSlotStart n k) ⟨c, q⟩ fun t =>
      t.loomAt n = { x with
        run := some { r with began := d.tb.lt, workAt := d.tb.boundaries }, yielded := Tab.erase k x.yielded } ∧
      (∀ m, m ≠ n → t.loomAt m = c.loomAt m) ∧ t.loomSlot n k = { s with started := some d.tb.boundaries } ∧
      t.tb = d.tb ∧ SameBut [.tb, .loom, .regs, .sent] c t) ∧
    ((∀ e, e ∈ x.yielded → e.1 ≠ k) → s.en = true → s.mode = 3 → s.faulted = false →
      c.sealedOn s.handle n = true → x.run = none → Does (.recipeSlotStart n k) ⟨c, q⟩ fun t =>
        t.loomAt n = { x with run := some {
          id := c.loom.nextRun, slot := k, handle := s.handle, regs := runRegs [d.deal, s.runs] s.params, s2 := s.runs
          forWhom := .self, deal := d.deal, began := d.tb.lt, workAt := d.tb.boundaries } } ∧
        (∀ m, m ≠ n → t.loomAt m = c.loomAt m) ∧
        t.loomSlot n k = { s with started := some d.tb.boundaries, runs := s.runs + 1, runAt := none } ∧
        t.loom.nextRun = c.loom.nextRun + 1 ∧ t.tb = d.tb ∧ SameBut [.tb, .loom, .regs, .sent] c t) ∧
    (∀ r, c.hasWork n k = true → x.run = some r → k ∉ x.waiting → Does (.recipeSlotStart n k) ⟨c, q⟩ fun t =>
      (∃ l m, x.waiting = l ++ m ∧ t.loomAt n = { x with waiting := l ++ k :: m } ∧
        (∀ j, j ∈ l → (c.loomSlot n j).offset ≤ s.offset) ∧ ∀ j, m.head? = some j → s.offset < (c.loomSlot n j).offset) ∧
      t.loomSlot n k = { s with started := some d.tb.boundaries } ∧ t.tb = d.tb ∧ SameBut [.tb, .loom, .regs, .sent] c t))

/-- The commands of recipes and slots (R295, R319, R323, R325, R326): a handle is created with its bases, loaded, sealed against
its CRC and its instructions, and freed; a slot's settings and parameters are fixed for the Deal boundary, and a run is named. -/
def Obligations.RecipeCommandsComplete : Prop := ∀ (k : Nat) (w : Nat → Nat) (c : Chip) (q : List Instr) (x : Nat),
  (capsOf c.fuses.variant).recipes = true → x = bitsAt (w 0) 0 16 →
  (∀ ns len, Served 0x0B01 k 4 w c → ns = bitsSet 64 (longAt w 1) → len = bitsAt (w 3) 0 13 → c.recipe x = none →
    c.loom.recipes.length < 1024 → (∀ n, n ∈ ns → c.firstFit n len ≠ none ∧ c.loomAbsent n = false) → x ≠ 0 → len ≠ 0 →
    bitsAt (w 3) 13 6 ≤ 32 → Does (.recipeCreate k) ⟨c, q⟩ fun t => Answers k .ok [] [.loom] c t ∧
      t.loom = { c.loom with recipes := t.loom.recipes } ∧ ∀ y, t.recipe y = if y = x then some {
        length := len, stateBytes := bitsAt (w 3) 13 6, bases := ns.map (fun n => (n, (c.firstFit n len).getD 0)) } else c.recipe y) ∧
  (∀ v first n, Served 0x0B02 k (2 + 2 * n) w c → n = bitsAt (w 1) 0 6 → first = bitsAt (w 0) 16 13 → c.recipe x = some v → 1 ≤ n →
    n ≤ 60 → first + n ≤ v.length → v.isSealed = false → Does (.recipeLoad k) ⟨c, q⟩ fun t => Answers k .ok [] [.loom] c t ∧
      t.loom = { c.loom with recipes := t.loom.recipes } ∧ (∀ y, y ≠ x → t.recipe y = c.recipe y) ∧
      ∃ code, t.recipe x = some { v with code := code } ∧ ∀ i, Tab.get 0 i code =
        if first ≤ i ∧ i < first + n then longAt w (2 + 2 * (i - first)) else Tab.get 0 i v.code) ∧
  (∀ v, Served 0x0B03 k 2 w c → c.recipe x = some v →
    crc32c ((List.range v.length).flatMap (fun i => leBytes 8 (Tab.get 0 i v.code))) = w 1 →
    (∀ i, i < v.length → instrOk v.length i (Tab.get 0 i v.code) = true) → Does (.recipeSeal k) ⟨c, q⟩ fun t =>
      Answers k .ok [w 1, 2 ^ 32 - 1] [.loom] c t ∧ t.loom = { c.loom with recipes := t.loom.recipes } ∧
      ∀ y, t.recipe y = if y = x then some { v with isSealed := true } else c.recipe y) ∧
  (∀ v, Served 0x0B04 k 1 w c → c.recipe x = some v → c.recipeNamed x v = false → Does (.recipeFree k) ⟨c, q⟩ fun t =>
    Answers k .ok [] [.loom] c t ∧ t.loom = { c.loom with recipes := t.loom.recipes } ∧
    ∀ y, t.recipe y = if y = x then none else c.recipe y) ∧
  (∀ n s en m o l, Served 0x0B11 k 4 w c → n = bitsAt (w 0) 0 6 → s = bitsAt (w 0) 6 4 → en = bitAt (w 0) 10 →
    m = bitsAt (w 0) 11 3 → o = bitsAt (w 1) 0 15 → l = bitsAt (w 1) 15 15 → c.loomAbsent n = false → m ≤ 4 →
    (en = true → c.slotClash n s o l = false) → (2 ≤ m → c.sealedOn (bitsAt (w 2) 0 16) n = true) →
    (∀ b, c.slotBound n s = some b → (c.slotAfter n s).mode = b → m = b ∧ ((c.slotAfter n s).en = true → en = true)) →
    Does (.slotConfig k) ⟨c, q⟩ (Fixes k (.slotConfig (16 * n + s) en m o l (bitsAt (w 2) 0 16) (w 3)) c)) ∧
  (∀ n first m, Served 0x0B12 k (1 + 2 * m) w c → n = bitsAt (w 0) 0 6 → first = bitsAt (w 0) 10 3 → m = bitsAt (w 0) 13 4 →
    c.loomAbsent n = false → 1 ≤ m → first + m ≤ 8 → Does (.recipeParam k) ⟨c, q⟩
      (Fixes k (.recipeParam (16 * n + bitsAt (w 0) 6 4) first ((List.range m).map (fun i => longAt w (1 + 2 * i)))) c)) ∧
  (∀ n s, Served 0x0B13 k 3 w c → n = bitsAt (w 0) 0 6 → s = bitsAt (w 0) 6 4 → c.loomAbsent n = false →
    (c.loomSlot n s).en = true → (c.loomSlot n s).mode = 4 → (c.loomSlot n s).runAt = none →
    (∀ e, e ∈ (c.loomAt n).yielded → e.1 ≠ s) → (∀ r, (c.loomAt n).run = some r → r.slot ≠ s) → c.tooLate (nameAt w 1) = false →
    Does (.recipeRun k) ⟨c, q⟩ fun t => Answers k .ok [] [.loom] c t ∧ t.loom = { c.loom with slots := t.loom.slots } ∧
      ∀ y z, z < 16 → t.loomSlot y z = if y = n ∧ z = s then { c.loomSlot y z with runAt := some (nameAt w 1) } else c.loomSlot y z)

/-- The scalar, control and sync instructions of a recipe (R302, R308, R318): an instruction that neither faults nor waits
writes its register or its Bench bytes and the run goes on to the next instruction, or where a branch takes it. The value of
a register shift by 64 or more is left open by the spec and is a free function of its operands (assumption 53). -/
def Obligations.ScalarInstructionsComplete : Prop := ∀ (c : Chip) (q : List Instr) (n : Nat) (r : Run) (w d a b fn : Nat),
  d = bitsAt w 47 5 → a = regAt w r.regs 42 → b = regAt w r.regs 37 → fn = bitsAt w 52 6 →
  (AtPc n (0x00, 0) r w c → Does (.nop n true) ⟨c, q⟩ (RunGoes n { r with pc := r.pc + 1 } [] c)) ∧
  (AtPc n (0x10, 0) r w c → Does (.scalarReg n true) ⟨c, q⟩ fun t => ∃ v, ScalarResult fn a b v ∧
    RunGoes n { r with pc := r.pc + 1, regs := setReg d v r.regs } [] c t) ∧
  (∀ i : Nat, AtPc n (0x11, 0) r w c → (i : Int) = (if 5 ≤ fn ∧ fn ≤ 7 then (bitsAt w 0 6 : Int) else toSigned (bitsAt w 0 32) 32 % (2 ^ 64 : Int)) →
    Does (.scalarImm n true) ⟨c, q⟩ fun t => ∃ v, ScalarResult fn a i v ∧
      RunGoes n { r with pc := r.pc + 1, regs := setReg d v r.regs } [] c t) ∧
  (AtPc n (0x12, 0) r w c → Does (.loadImmediate n true) ⟨c, q⟩ (RunGoes n { r with
    pc := r.pc + 1
    regs := setReg d (if bitAt w 40 then bitsAt w 0 32 * 2 ^ 32 + reg r.regs d % 2 ^ 32 else bitsAt w 0 32) r.regs } [] c)) ∧
  (∀ read : BenchRead, AtPc n (0x13, 0) r w c → (∀ e, read.bad = some e → Ranges.meet [(e / 8 * 8, 8)] [(scalarAddr w r.regs, scalarBytes w)] = false) →
    Does (.ld n true read) ⟨c, q⟩ (RunGoes n { r with
      pc := r.pc + 1
      regs := setReg d (Memory.readLe (2 ^ 23 * n + scalarAddr w r.regs) (scalarBytes w) c.loom.bench) r.regs } [.regs] c)) ∧
  (AtPc n (0x14, 0) r w c → Does (.st n true) ⟨c, q⟩ fun t =>
    LoomBecomes n { c.loomAt n with run := some { r with pc := r.pc + 1 } } [] c t ∧
    ∀ x, Memory.read x t.loom.bench = if 2 ^ 23 * n + scalarAddr w r.regs ≤ x ∧ x < 2 ^ 23 * n + scalarAddr w r.regs + scalarBytes w
      then BitVec.ofNat 8 (b / 256 ^ (x - (2 ^ 23 * n + scalarAddr w r.regs))) else Memory.read x c.loom.bench) ∧
  (∀ v, AtPc n (0x15, 0) r w c → v = scalarFp fn a b → Does (.scalarFp n true) ⟨c, q⟩ (RunGoes n { r with
    pc := r.pc + 1, regs := setReg d v r.regs, flags := r.flags ||| flagsOf v } [.regs] c)) ∧
  (AtPc n (0x16, 0) r w c → Does (.mfs n true) ⟨c, q⟩ fun t => ∃ v,
    RunGoes n { r with pc := r.pc + 1, regs := setReg d v r.regs } [] c t ∧
    (bitsAt w 0 8 = 0 → v = c.deal) ∧ (bitsAt w 0 8 = 1 → v = c.loomCycle) ∧ (bitsAt w 0 8 = 2 → v = r.slot) ∧
    (bitsAt w 0 8 = 3 → v = n) ∧ (bitsAt w 0 8 = 4 → v = r.s2) ∧ (bitsAt w 0 8 = 5 → v = c.ctrImage (loomWindow n + 8)) ∧
    (bitsAt w 0 8 = 6 → v = (c.loomAt n).flight.length)) ∧
  (AtPc n (0x18, 0) r w c → Does (.branch n true) ⟨c, q⟩ (RunGoes n { r with
    pc := if (bitsAt w 55 3 = 0 ∧ a = b) ∨ (bitsAt w 55 3 = 1 ∧ a ≠ b) ∨ (bitsAt w 55 3 = 2 ∧ toSigned a 64 < toSigned b 64) ∨
        (bitsAt w 55 3 = 3 ∧ toSigned b 64 ≤ toSigned a 64) ∨ (bitsAt w 55 3 = 4 ∧ a < b) ∨ (5 ≤ bitsAt w 55 3 ∧ b ≤ a)
      then Int.toNat ((r.pc : Int) + toSigned (bitsAt w 0 16) 16) else r.pc + 1 } [] c)) ∧
  (AtPc n (0x19, 0) r w c → Does (.jmp n true) ⟨c, q⟩ (RunGoes n { r with
    pc := Int.toNat ((r.pc : Int) + toSigned (bitsAt w 0 16) 16) } [] c)) ∧
  (AtPc n (0x30, 0) r w c → Does (.syncCycle n true) ⟨c, q⟩ (RunGoes n { r with pc := r.pc + 1 } [] c)) ∧
  (AtPc n (0x30, 1) r w c → Does (.syncFills n true) ⟨c, q⟩ (RunGoes n { r with pc := r.pc + 1 } [] c)) ∧
  (AtPc n (0x30, 2) r w c → Does (.syncDrain n true) ⟨c, q⟩ (RunGoes n { r with pc := r.pc + 1 } [] c)) ∧
  (∀ x, AtPc n (0x30, 3) r w c → r.stale = false → x = c.loomAt n → x.waiting = [] → Does (.syncYield n true) ⟨c, q⟩ fun t =>
    LoomBecomes n { x with
      run := none, rstate := .yielded, fault := 0, pc := r.pc + 1, slot := r.slot, handle := r.handle, flags := r.flags
      cycles := c.runCycles r, rdeal := r.deal, lastRun := r.id
      yielded := Tab.put r.slot { r with pc := r.pc + 1, yieldAt := c.tb.boundaries } x.yielded } [] c t ∧ t.loom.bench = c.loom.bench) ∧
  (∀ x, AtPc n (0x3F, 0) r w c → r.forWhom = .self → x = c.loomAt n → x.waiting = [] → Does (.endRun n true) ⟨c, q⟩ fun t =>
    LoomBecomes n { x with
      run := none, rstate := .done, fault := 0, pc := r.pc, slot := r.slot, handle := r.handle, flags := r.flags
      cycles := c.runCycles r, rdeal := r.deal, lastRun := r.id } [] c t ∧ t.loom.bench = c.loom.bench)

/-- The array, vector, conversion, reduction and copy instructions, transfers, emits and sieve instructions (R273, R309,
R311 to R316): at issue the instruction joins what is in flight with the registers it took, the addresses that it names
advance, and the run goes on; a store writes its region, or where HBM fails it faults with LARDER and writes nothing (that nothing is
written is the model's choice, assumption 146), and an emitted packet takes the header template and its payload. -/
def Obligations.FlightsIssueComplete : Prop := ∀ (c : Chip) (q : List Instr) (n : Nat) (r r' : Run) (w : Nat) (x : Loom) (m : Move),
  x = c.loomAt n → m = moveOf w r.regs → r' = { r with pc := r.pc + 1, regs := advanced w r.regs } →
  let joins : Chip → Prop := LoomBecomes n { x with
    run := some r', flight := x.flight ++ [⟨r.id, r.pc, w, r.regs, loomClock c.tb.lt, x.nextFlight⟩], nextFlight := x.nextFlight + 1 } [.regs] c
  (AtPc n (0x01, 0) r w c → (mmOf w r.regs).empty = false → Does (.mm n true) ⟨c, q⟩ fun t =>
    (t.loomAt n).run = some r' ∧ (t.loomAt n).flight = x.flight ++ [⟨r.id, r.pc, w, r.regs, loomClock c.tb.lt, x.nextFlight⟩] ∧
    (t.loomAt n).nextFlight = x.nextFlight + 1 ∧
    (∀ k, k ≠ n → t.loomAt k = c.loomAt k) ∧ t.loom.bench = c.loom.bench ∧ SameBut [.loom, .regs] c t) ∧
  (AtPc n (0x01, 0) r w c → (mmOf w r.regs).empty = true → Does (.mm n true) ⟨c, q⟩ (RunGoes n r' [] c)) ∧
  (AtPc n (0x08, 0) r w c → Does (.vectorOp n true) ⟨c, q⟩ fun t => joins t ∧ t.loom.bench = c.loom.bench) ∧
  (AtPc n (0x09, 0) r w c → Does (.vcvt n true) ⟨c, q⟩ fun t => joins t ∧ t.loom.bench = c.loom.bench) ∧
  (AtPc n (0x0A, 0) r w c → Does (.vredSum n true) ⟨c, q⟩ fun t => joins t ∧ t.loom.bench = c.loom.bench) ∧
  (AtPc n (0x0A, 1) r w c → Does (.vredMax n true) ⟨c, q⟩ fun t => joins t ∧ t.loom.bench = c.loom.bench) ∧
  (AtPc n (0x0A, 2) r w c → Does (.vredTopk n true) ⟨c, q⟩ fun t => joins t ∧ t.loom.bench = c.loom.bench) ∧
  (AtPc n (0x20, 0) r w c → Does (.copy n true) ⟨c, q⟩ fun t => joins t ∧ t.loom.bench = c.loom.bench) ∧
  (AtPc n (0x21, 0) r w c → m.length ≠ 0 → Does (.lfetch n true) ⟨c, q⟩ fun t => LoomBecomes n { x with
    run := some r'
    fills := x.fills ++ [{
      run := r.id, pc := r.pc, bench := m.bench, length := m.length, region := m.region, offset := m.offset
      granules := benchGranules m.bench m.length, deal := c.deal, seq := x.nextXfer }]
    nextXfer := x.nextXfer + 1 } [.lard] c t ∧ t.loom.bench = c.loom.bench ∧
    t.lard.hbm = c.lard.hbm ∧ t.lard.regions = c.lard.regions) ∧
  (∀ (read : BenchRead) v h, AtPc n (0x22, 0) r w c → h = bitsAt m.region 31 1 → (∀ e, read.bad = some e → Ranges.meet [(e / 8 * 8, 8)] [(m.bench, m.length)] = false) →
    hbmOk read.hbm = true → c.regionOf m.region = some v → m.length ≠ 0 → m.region ∉ (c.table8 h).protectedList → Does (.lstore n true read) ⟨c, q⟩ fun t =>
      LoomBecomes n { x with run := some r', nextXfer := x.nextXfer + 1 } [.lard, .regs] c t ∧ t.loom.bench = c.loom.bench ∧ Stored h v m.offset (c.readBench n m.bench m.length) c t) ∧
  (∀ read : BenchRead, AtPc n (0x22, 0) r w c → (∀ e, read.bad = some e → Ranges.meet [(e / 8 * 8, 8)] [(m.bench, m.length)] = false) →
    hbmOk read.hbm = false → (c.region (handleKey m.region)).touched m.offset m.length ≠ [] → r.forWhom = .self → x.waiting = [] →
    Does (.lstore n true read) ⟨c, q⟩ fun t => (t.loomAt n).run = none ∧ (t.loomAt n).rstate = .faulted ∧ (t.loomAt n).fault = 0xC ∧
      (t.loomAt n).pc = r.pc ∧ t.loom.bench = c.loom.bench ∧ t.lard.hbm = c.lard.hbm ∧
      SameBut [.loom, .lard, .due, .stew, .regs, .sent] c t) ∧
  (∀ (read : BenchRead) p g, AtPc n (0x28, 0) r w c →
    (∀ e, read.bad = some e → Ranges.meet [(e / 8 * 8, 8)] (accessOf w r.regs).reads = false) → c.returnWaiting (n / 32) = true →
    g = (fun i => beNat (Memory.readBytes (2 ^ 23 * n + regAt w r.regs 47 + 8 * i) 8 c.loom.bench)) →
    p = mkPacket (bitsAt (g 0) 16 48) (bitsAt (g 0) 13 3) 0 (if bitAt w 19 then c.nest.pair else c.nest.self) (bitsAt (g 2) 32 32)
      (bitsAt (g 2) 0 32) false (c.readBench n (regAt w r.regs 42) (regAt w r.regs 37)) →
    Does (.emit n true read) ⟨c, q⟩ fun t => LoomBecomes n { x with
      run := some { r with pc := r.pc + 1 }, nextXfer := x.nextXfer + 1
      emits := x.emits ++ [(p, if bitAt w 20 then some (regAt w r.regs 32 % 65536) else none)] } [.regs] c t ∧
      t.loom.bench = c.loom.bench) ∧
  (∀ read : BenchRead, AtPc n (0x28, 0) r w c →
    (∀ e, read.bad = some e → Ranges.meet [(e / 8 * 8, 8)] (accessOf w r.regs).reads = false) → c.returnWaiting (n / 32) = false →
    Does (.emit n true read) ⟨c, q⟩ fun t => (t.loomAt n).run = some { r with pc := r.pc + 1 } ∧ (t.loomAt n).emits = [] ∧
      (t.loomAt n).flight = x.flight ∧ t.loom.bench = c.loom.bench ∧ SameBut (.loom :: Part.packet) c t) ∧
  (AtPc n (0x29, 0) r w c → Does (.sieveOp n true) ⟨c, q⟩ fun t =>
    LoomBecomes n { x with run := some r', nextXfer := x.nextXfer + 1 } [.sv, .regs] c t ∧ t.loom.bench = c.loom.bench ∧
    t.sv = { c.sv with queue := sieveJoin { loom := n, arrived := loomCycles c.tb.lt, op := { run := r.id, pc := r.pc, word := w, regs := r.regs, seq := x.nextXfer } } c.sv.queue })

/-- What follows an issue (R273, R277, R291, R300, R309, R327): an instruction completes and its results are written; a held
instruction's wait ends and it issues; a granule lands in the Bench; a second mismatch of an array instruction
leaves its outputs free and faults its run; a sample joins the ring; an instruction memory error faults the run. -/
def Obligations.FlightsEndComplete : Prop := ∀ (c : Chip) (q : List Instr) (n : Nat) (x : Loom),
  c.Up → okLoom n = true → c.loomServes n = true → x = c.loomAt n →
  (∀ i f again corrected bad, i < 8 → x.flight[i]? = some f → x.blockedBy i f = false →
    (∀ e, bad = some e → Ranges.meet [(e / 8 * 8, 8)] (accessOf f.word f.regs).reads = false) →
    Does (.instructionComplete n i again bad corrected) ⟨c, q⟩ fun t =>
      (t.loomAt n).flight = x.flight.eraseIdx i ∧ (t.loomAt n).fills = x.fills ∧ (∀ m, m ≠ n → t.loomAt m = c.loomAt m) ∧
      t.loom.bench = (c.evaluate n f).bytes.foldl (fun m e => Memory.writeBytes (2 ^ 23 * n + e.1) e.2 m) c.loom.bench ∧
      t.free = c.free + lanesDrawn f.word f.regs ∧ SameBut [.loom, .regs, .free] c t) ∧
  (∀ r hold w (read : BenchRead), x.run = some r → r.held = some hold → w = c.instrAt r.handle r.pc → c.blockOf n r w = 0 →
    c.faultOf n r w = 0 → Does (.instructionWaitEnd n read) ⟨c, q⟩ fun t =>
      t = (if hold.fill then c.loomTime n (lmCount n 1 32) 0x04 (loomCycles (c.tb.lt - hold.lt)) else c).issueRead n r w read) ∧
  (∀ g f h v first off len, g < 2048 → x.moving.find? (fun y => y.granules.contains g) = some f →
    h = bitsAt f.region 31 1 → v = c.region (handleKey f.region) → first = max f.bench (4096 * g) →
    off = f.offset + (first - f.bench) → len = min (f.bench + f.length) (4096 * g + 4096) - first →
    (v.touched off len).any (fun y => c.deadPage h y) = false → Does (.fillLanded n g .good) ⟨c, q⟩ fun t =>
      t.loom.bench = Memory.writeBytes (2 ^ 23 * n + first) (c.readRegion h v off len) c.loom.bench ∧
      (∀ y, y ∈ (t.loomAt n).fills → y ∈ x.fills ∨ y = { f with granules := f.granules.filter (fun z => z != g) }) ∧
      ((∀ r, x.run = some r → r.held = none) → (t.loomAt n).run = x.run) ∧ (t.loomAt n).flight = x.flight ∧ (∀ m, m ≠ n → t.loomAt m = c.loomAt m) ∧
      SameBut [.loom, .regs, .free] c t) ∧
  (∀ i f r array, i < 8 → array < 4 → x.flight[i]? = some f → opcodeOf f.word = 1 → (mmOf f.word f.regs).k ≠ 0 →
    x.blockedBy i f = false → x.run = some r → r.id = f.run → r.forWhom = .self → x.waiting = [] →
    Does (.loomCheckFail n array i) ⟨c, q⟩ fun t => (t.loomAt n).run = none ∧ (t.loomAt n).rstate = .faulted ∧
      (t.loomAt n).fault = 6 ∧ (t.loomAt n).pc = f.pc ∧ (t.loomAt n).flight = x.flight.eraseIdx i ∧
      (t.loomSlot n r.slot).faulted = true ∧
      (∀ a, (∀ z, z ∈ (accessOf f.word f.regs).writes → a < 2 ^ 23 * n + z.1 ∨ 2 ^ 23 * n + z.1 + z.2 ≤ a) →
        Memory.read a t.loom.bench = Memory.read a c.loom.bench) ∧ SameBut [.loom, .due, .stew, .regs, .sent, .free] c t) ∧
  (∀ s, s ≤ 2 ∨ s = 4 → x.sampleEn = true → x.ring.length < 64 → Does (.loomSample n s) ⟨c, q⟩ fun t =>
    ∃ v, LoomBecomes n { x with
      ring := x.ring ++ [v], samples := Tab.set 0 ((x.head + x.ring.length) % 64) v x.samples } [] c t ∧
      t.loom.bench = c.loom.bench ∧ bitsAt v 13 3 = c.sampleCause n s % 8 ∧ bitsAt v 36 15 = c.loomCycle % 2 ^ 15 ∧
      bitsAt v 51 13 = c.deal % 2 ^ 13) ∧
  (∀ r, x.run = some r → r.held = none → rowOf (c.instrAt r.handle r.pc) = (0x00, 0) → r.forWhom = .self → x.waiting = [] →
    Does (.nop n false) ⟨c, q⟩ fun t => (t.loomAt n).run = none ∧ (t.loomAt n).rstate = .faulted ∧ (t.loomAt n).fault = 1 ∧
      (t.loomAt n).pc = r.pc ∧ (t.loomSlot n r.slot).faulted = true ∧ t.loom.bench = c.loom.bench ∧
      SameBut [.loom, .stew, .regs, .sent] c t) ∧
  (∀ h k j b y (kt : Kitty) (p : PieceReturn), h < 2 → k < 32768 → kt = c.kitty (32768 * h + k) → kt.last = some y → p.piece = j →
    y.ran.find? (fun e => e.1 == j) = some (j, b) →
    let reads : Ranges := [(kt.resultAt j, elementBytes kt.outFmt (kt.pieceLen j)), (kt.scalesAt j, scaleBytes kt.outFmt (kt.pieceLen j))]
    ((∀ a, p.read.bad = some a → Ranges.meet [(a / 8 * 8, 8)] reads = false) → Does (.showdownReturn h k p) ⟨c, q⟩ fun t =>
      SameBut (.roll :: .kit :: .loom :: .lard :: Part.packet) c t ∧ (c.tb.boundaries ≤ b →
        t.kit.jobs = c.kit.jobs ∧ (∀ m, m ≠ 32768 * h + k → t.kitty m = c.kitty m) ∧
        ∃ z, (t.kitty (32768 * h + k)).last = some z ∧ z.ran = y.ran.filter (fun e => e.1 != j) ∧ z.returned = y.returned ++ [j])) ∧
    (∀ a, p.read.bad = some a → Ranges.meet [(a / 8 * 8, 8)] reads = true → Does (.showdownReturn h k p) ⟨c, q⟩ fun t =>
      (t.kitty (32768 * h + k)).state = .failed ∧ (t.kitty (32768 * h + k)).failReason = 1 ∧
        SameBut (.roll :: .kit :: .loom :: .lard :: .due :: .stew :: Part.packet) c t))

/-- TOKEN, REPLY, the capacity check and the end of reply collection (R341 to R347, R352, R353) at gate `key`: a token's first
part joins the Deal's batch (the next one's in the guard) at the replica with room, with the parts that came before it, a part that
comes before the first is kept, one that does not fit is refused, a full gate refuses and raises GATE_FULL once, a reply part is kept once, a batch whose dispatch runs have ended is checked, and at the
deadline what is missing is suppressed. Other gates stay. -/
def Obligations.GateEventsComplete : Prop := ∀ (c : Chip) (q : List Instr) (key : Nat) (g : Gate) (p : Packet),
  c.Up → key < 32 → c.gateOf key = some g →
  (okPacket p = true → c.findGate p.id = some (key, g) →
    (p.cls = 4 → g.state ≠ .active ∨ g.tokenOk p = false → Does (.token (key / 16) p) ⟨c, q⟩ (SameBut [.regs] c)) ∧
    (p.cls = 4 → g.state = .active → g.tokenOk p = true → g.held p.src (p.seq / 4 * 4) c.deal = none → gatePart p ≠ 0 →
      g.early.any (fun e => e.src == p.src && e.tseq == p.seq / 4 * 4 && e.part == gatePart p) = false →
      Does (.token (key / 16) p) ⟨c, q⟩ fun t => SameBut [.gate] c t ∧
        ∀ k, t.gateOf k = if k = key then some { g with early := g.early ++ [⟨p.src, p.seq / 4 * 4, gatePart p, p.payload⟩] } else c.gateOf k) ∧
    (p.cls = 4 → g.state = .active → g.tokenOk p = true → g.held p.src (p.seq / 4 * 4) c.deal = none → gatePart p = 0 →
      ∀ x, x = g.joining ((c.deal + if c.inGuard then 1 else 0) % 2 ^ 48) →
      (∀ r, g.nextReplica x = some r → Does (.token (key / 16) p) ⟨c, q⟩ fun t => SameBut [.gate, .loom, .regs] c t ∧
        t.loom = { c.loom with bench := t.loom.bench } ∧ (∀ k, k ≠ key → t.gateOf k = c.gateOf k) ∧
        ∃ (g' : Gate) (y : Batch), t.gateOf key = some g' ∧ g'.batchOf x.deal = some y ∧ y.replicas = x.replicas ∧ y.tokens = x.tokens ++ [{
          row := x.tokens.length, replica := r, src := p.src, tseq := p.seq / 4 * 4
          parts := (g.early.filter (fun e => e.src == p.src && e.tseq == p.seq / 4 * 4)).foldl (fun l e => Tab.put e.part e.body l) [(0, p.payload)] }] ∧
          g'.early = g.early.filter (fun e => !(e.src == p.src && e.tseq == p.seq / 4 * 4))) ∧
      (g.nextReplica x = none → Does (.token (key / 16) p) ⟨c, q⟩ fun t => SameBut [.gate, .stew, .regs, .sent] c t ∧
        ∀ k, t.gateOf k = if k = key then some { g with fullRaised := true } else c.gateOf k)) ∧
    (p.cls = 5 → g.replyOk p = false → Does (.reply (key / 16) p) ⟨c, q⟩ (SameBut [.regs] c)) ∧
    (∀ (x : Batch) (y : Token) (r : ReplicaBatch), p.cls = 5 → g.replyOk p = true →
      g.batches.find? (fun x => x.deal % 4096 == bitsAt p.seq 20 12 && x.replicas.any (fun r => r.phase == .replies)) = some x →
      x.tokens.find? (fun t => t.row == bitsAt p.seq 5 15) = some y → x.replicaAt y.replica = some r → r.phase = .replies → c.deal < r.dispatched + g.wait →
      4 * bitsAt p.seq 2 3 + p.seq % 4 ∈ g.awaited y → (∀ e, e ∈ y.replies → e.1 ≠ 4 * bitsAt p.seq 2 3 + p.seq % 4) →
      Does (.reply (key / 16) p) ⟨c, q⟩ fun t => SameBut [.gate, .regs] c t ∧ (∀ k, k ≠ key → t.gateOf k = c.gateOf k) ∧
        ∃ (g' : Gate) (x' : Batch), t.gateOf key = some g' ∧ g'.batchOf x.deal = some x' ∧ x'.tokens = x.tokens.map (fun z =>
          if z.row = y.row then { y with replies := Tab.put (4 * bitsAt p.seq 2 3 + p.seq % 4) (p.payload.drop 32) y.replies } else z))) ∧
  (∀ x : Batch, g.batches.find? (fun x => !x.isChecked && x.ran) = some x →
    Does (.gateCapacityCheck (key / 16) (key % 16)) ⟨c, q⟩ fun t => SameBut [.gate, .regs] c t ∧
      (∀ k, k ≠ key → t.gateOf k = c.gateOf k) ∧ ∃ (g' : Gate) (x' : Batch), t.gateOf key = some g' ∧ g'.batchOf x.deal = some x' ∧
      x'.isChecked = true ∧ x'.replicas = x.replicas.map (fun r => if r.phase = .running then { r with phase := .checked } else r) ∧
      x'.tokens.length = x.tokens.length ∧ ∀ (i : Nat) (y z : Token), x.tokens[i]? = some y → x'.tokens[i]? = some z →
        z.row = y.row ∧ z.replica = y.replica ∧ z.parts = y.parts ∧ (y.dropped = true → z = y) ∧
        (y.dropped = false → z.nan = false → z.choices.length = g.k)) ∧
  (Does (.gateCombineDeadline (key / 16) (key % 16)) ⟨c, q⟩ fun t => SameBut [.gate, .stew, .regs, .sent] c t ∧
    (∀ k, k ≠ key → t.gateOf k = c.gateOf k) ∧ ∃ g' : Gate, t.gateOf key = some g' ∧ g'.batches.length = g.batches.length ∧
    ∀ (i : Nat) (x y : Batch), g.batches[i]? = some x → g'.batches[i]? = some y → y.deal = x.deal ∧
      y.replicas = x.replicas.map (fun r => if r.phase = .replies ∧ r.dispatched + g.wait ≤ c.deal
        then { r with phase := .collected, ended := c.deal } else r))

/-- gate.load, unload, map, cap, weights and status (R337, R338, R340, R356): accepted operands load the lowest free gate for
the boundary R16 gives, ACTIVE four Deals later; a map, capacities and an unload are fixed for the boundary; a swap of weights
is noted for its Deal. -/
def Obligations.GateCommandsComplete : Prop := ∀ (k : Nat) (w : Nat → Nat) (c : Chip) (q : List Instr) (key : Nat) (g : Gate),
  (capsOf c.fuses.variant).gating = true →
  (∀ n h i, n = bitsAt (longAt w 2) 47 6 * (2 ^ bitsAt (longAt w 2) 53 3 + bitsAt (longAt w 2) 44 3) → Served 0x0C01 k (8 + n) w c →
    g = { desc := [longAt w 0, longAt w 2, longAt w 4, longAt w 6]
          bindings := (List.range n).map (fun i => (bitsAt (w (8 + i)) 0 6, bitsAt (w (8 + i)) 6 4, bitsAt (w (8 + i)) 10 17)) } →
    h = bitsAt g.id 31 1 → c.tb.aligned = true → (∀ b, b ∈ g.bindings → c.loomAbsent b.1 = false ∧ c.bindingConflict h g.id b = false) →
    c.findGate g.id = none → sameBinding g.bindings = false → c.gateBad g = false → c.gateNoSpace h g = false →
    (List.range 16).find? (fun i => (c.gateOf (16 * h + i)).isNone) = some i → Does (.gateLoad k) ⟨c, q⟩ fun t =>
      Answers k .ok (i :: (dealWords c.effectDeal ++ dealWords (c.effectDeal + 4))) [.gate, .due] c t ∧
      t.due = c.due ++ [(c.effectDeal, .gateLoad (16 * h + i))] ∧
      ∀ j, t.gateOf j = if j = 16 * h + i then some { g with kslots := c.freeSlots h (gateSlots g.desc), activeAt := (c.effectDeal + 4) % 2 ^ 48 } else c.gateOf j) ∧
  (Served 0x0C02 k 1 w c → c.gateNamed (w 0) = some (key, g) → Does (.gateUnload k) ⟨c, q⟩ (Fixes k (.gateUnload key) c)) ∧
  (∀ first n, first = bitsAt (w 1) 0 10 → n = bitsAt (w 1) 10 6 → Served 0x0C03 k (2 + 2 * n) w c →
    c.gateNamed (w 0) = some (key, g) → 1 ≤ n → n ≤ 60 → first + n ≤ g.experts → (∀ i, i < n → c.nameOk (nameAt w (2 + 2 * i)) = true) →
    Does (.gateMap k) ⟨c, q⟩ (Fixes k (.gateMap key first ((List.range n).map (fun i => (nameAt w (2 + 2 * i), bitAt (w (3 + 2 * i)) 16)))) c)) ∧
  (∀ first n, first = bitsAt (w 1) 0 10 → n = bitsAt (w 1) 10 7 → Served 0x0C04 k (2 + (n + 1) / 2) w c →
    c.gateNamed (w 0) = some (key, g) → 1 ≤ n → n ≤ 120 → first + n ≤ g.experts →
    Does (.gateCap k) ⟨c, q⟩ (Fixes k (.gateCap key first ((List.range n).map (fun i => bitsAt (w (2 + i / 2)) (16 * (i % 2)) 16))) c)) ∧
  (∀ r, Served 0x0C05 k 4 w c → c.gateNamed (w 0) = some (key, g) → g.swap = none → c.tooLate ((nameAt w 2 + 2 ^ 48 - 4) % 2 ^ 48) = false →
    c.regionOf (w 1) = some r → bitsAt (w 1) 31 1 = bitsAt g.id 31 1 →
    g.shards * g.wbytes ≤ r.pages * 65536 → Does (.gateWeights k) ⟨c, q⟩ fun t => Answers k .ok [] [.gate] c t ∧
      ∀ j, t.gateOf j = if j = key then some { g with swap := some (w 1, nameAt w 2) } else c.gateOf j) ∧
  (Served 0x0C06 k 1 w c → c.findGate (w 0) = some (key, g) → Does (.gateStatus k) ⟨c, q⟩
    (Answers k .ok ([key % 16] ++ twoWords g.stat ++ twoWords g.lastWord) [] c))

/-- The Sieve (R316, R357 to R371): its free projector takes the oldest instruction; at its end the vectors are written, zeros
for zeros and NaN for a NaN or an infinity; a trim window begins in rotation in core cycles 0 to 255 of its Deal, or waits for the
instruction that runs, and what it measures decides the state of the bank probed, if that is still READY or DEGRADED; a full
calibration makes a loaded bank READY; a load reads its matrix, fails with ECC or fixes it with its σ; the commands load, clear and set trims
for the Deal boundary, and answer the state. -/
def Obligations.SieveComplete : Prop := ∀ (c : Chip) (q : List Instr) (k : Nat) (w : Nat → Nat),
  (∀ o rest, c.Up → c.sv.queue = o :: rest → c.sv.busy = none → c.trimOpen = false → c.bankServes (bitsAt o.op.word 33 2) = true →
    Does .sieveInstructionStart ⟨c, q⟩ fun t => SameBut [.sv] c t ∧ t.sv = { c.sv with queue := rest, busy := some o }) ∧
  (∀ o x b, c.Up → c.sv.busy = some o → c.loomServes o.loom = true → c.sv.trimLate = false → x = sieveShape o.op.word o.op.regs →
    b = c.svBank (bitsAt o.op.word 33 2) → b.pendingClear = false → b.pendingLoad = none →
    Does .sieveInstructionDone ⟨c, q⟩ fun t => SameBut [.sv, .loom, .regs, .free] c t ∧ t.sv = { c.sv with busy := none } ∧
      t.free = c.free + x.vectors * x.outElems ∧
      ∃ ys, ys.length = x.vectors * (4 * x.outElems) ∧ t.loom.bench = Memory.writeBytes (2 ^ 23 * o.loom + regAt o.op.word o.op.regs 47) ys c.loom.bench ∧
        ∀ v j, v < x.vectors → j < 4 * x.outElems →
          let ins := sieveInput o.op.word o.op.regs (c.benchOf o.loom) v
          (ins.any (fun e => (ofF32 e).isNan || (ofF32 e).isInf) = true →
            ys[v * (4 * x.outElems) + j]? = some (BitVec.ofNat 8 (0x7FC00000 / 256 ^ (j % 4)))) ∧
          (ins.all sieveZero = true → ins.any (fun e => (ofF32 e).isNan || (ofF32 e).isInf) = false →
            ys[v * (4 * x.outElems) + j]? = some 0)) ∧
  (c.Up → c.sieveHere = true → c.deal % c.sv.trimN = 0 → c.sv.lastWindow ≠ some c.tb.boundaries → c.cycle < 256 →
    c.trimOpen = false →
    (∀ o, c.sv.busy = some o → Does .sieveTrimWindow ⟨c, q⟩ fun t => SameBut [.sv, .regs] c t ∧
      t.sv = { c.sv with lastWindow := some c.tb.boundaries, trimLate := true }) ∧
    (∀ b, c.sv.busy = none → ((c.svBank b).state = .ready ∨ (c.svBank b).state = .degraded) → b = c.sv.nextTrim % 4 →
      Does .sieveTrimWindow ⟨c, q⟩ fun t => SameBut [.sv] c t ∧ t.sv = { c.sv with
        lastWindow := some c.tb.boundaries, trimming := some b, trimFrom := c.tb.lt - c.cycle, nextTrim := (b + 1) % 4, trimLate := false })) ∧
  (∀ b es, c.Up → c.sv.trimming = some b → c.trimOpen = false → es.length = 4 → (∀ e, e ∈ es → e < 128) →
    Does (.sieveTrimEnd es) ⟨c, q⟩ fun t => SameBut (.sv :: Part.event) c t ∧ t.sv.trimming = none ∧ t.sv.effs = es ∧
      ∀ m, t.svBank m = if m ≠ b then c.svBank m
        else if (c.svBank b).state = .ready ∨ (c.svBank b).state = .degraded then { c.svBank b with
          trimmed := some c.tb.boundaries, eff3 := es.getD 3 0, state := if 55 ≤ es.getD 3 0 then .ready else .degraded
          recal := decide (es.getD 3 0 < 55) }
        else { c.svBank b with trimmed := some c.tb.boundaries }) ∧
  (∀ b e, b < 4 → e < 128 → c.Up → c.sieveHere = true → c.sv.busy = none → c.trimOpen = false →
    ((c.svBank b).state = .loading ∨ ((c.svBank b).state = .degraded ∧ (c.svBank b).recal = true)) →
    Does (.sieveCalibrationDone b e) ⟨c, q⟩ fun t => SameBut (.sv :: Part.event) c t ∧ ∀ m, t.svBank m = if m ≠ b then c.svBank m
      else if (c.svBank b).state = .loading then { c.svBank b with state := .ready, eff3 := e }
      else { c.svBank b with
        state := if 55 ≤ e then .ready else if 40 ≤ e then .degraded else .failed, eff3 := e, recal := false }) ∧
  (∀ b, Served 0x0D01 k 3 w c → c.caps.sieve = true → b = bitsAt (w 0) 0 2 → (c.svBank b).state ≠ .loading → w 2 % 64 = 0 →
    c.rangeOk (w 1) (w 2) 262144 = true → Does (.sieveLoad k) ⟨c, q⟩ (Waits k 0x0D01 true [b, w 1, w 2] [.lard] c)) ∧
  (∀ b x o v, c.Up → b < 4 → c.stew.phase ≠ .restarting → c.waitingOf 0x0D01 (fun w => w.args.getD 0 0 == b) = some v →
    v.args = [b, x, o] → Outstanding v c → c.rangeOk x o 262144 = true →
    (∀ i, Does (.sieveLoadReady b (.bad i)) ⟨c, q⟩ (Finishes v .ecc [] [.lard, .due] c)) ∧
    (∀ (check : HbmCheck) bs, hbmOk check = true → bs = (chunksOf 4 65536 (c.readRegion (bitsAt x 31 1) (c.region (handleKey x)) o 262144)).map leNat →
      (∀ e, e ∈ bs → (ofF32 e).isNan = false ∧ (ofF32 e).isInf = false) → (∃ e, e ∈ bs ∧ (ofF32 e).isZero = false) →
      Does (.sieveLoadReady b check) ⟨c, q⟩ fun t => ∃ s, (∀ z, sieveSigma bs = some z → s = z) ∧
        Finishes v .ok (dealWords c.effectDeal ++ [s]) [.due] c t ∧ t.due = c.due ++ [(c.effectDeal, .sieveLoad b bs s)])) ∧
  (Served 0x0D02 k 1 w c → c.caps.sieve = true → Does (.sieveClear k) ⟨c, q⟩ (Fixes k (.sieveClear (bitsAt (w 0) 0 2)) c)) ∧
  (∀ n, Served 0x0D03 k 1 w c → c.caps.sieve = true → n = bitsAt (w 0) 0 13 → 64 ≤ n → n ≤ 4096 →
    Does (.sieveTrim k) ⟨c, q⟩ (Fixes k (.sieveTrim n) c)) ∧
  (Served 0x0D04 k 0 w c → c.caps.sieve = true → Does (.sieveStatus k) ⟨c, q⟩ (Answers k .ok
    (twoWords c.svStat ++ [(List.range 4).foldl (fun a b => a + field (c.svBank b).state.code (3 * b) 3) 0]) [] c))

/-- The mirror of a half (R391 to R395): a MACK confirms; a mirror packet of the next SEQ is applied and any other is not; what
is unconfirmed is sent again after 8 Deals; a backlog of 16 MiB makes it STALE once; a pass moves on by COPY_RATE × 256 slots, or in a
resync waits for room in the backlog;
in LOST a MACK leaves every 8 Deals. -/
def Obligations.MirrorsComplete : Prop := ∀ (c : Chip) (q : List Instr) (h : Nat) (m : MirrorHalf) (p : Packet) (b : Nat),
  c.Up → h < 2 → m = c.mirror h → b = c.tb.boundaries →
  (FromPartner h 2 p c → Does (.mack p) ⟨c, q⟩ fun t => SameBut [.twin] c t ∧ (∀ x, x < 2 → x ≠ h → t.mirror x = c.mirror x) ∧
    t.twin = { c.twin with mirror := t.twin.mirror, restore := c.twin.restore || decide (c.twin.state = .lost) } ∧
    t.mirror h = { m with
      unconfirmed := (t.mirror h).unconfirmed
      progress := if (t.mirror h).unconfirmed.length < m.unconfirmed.length then b else m.progress } ∧
    (t.mirror h).unconfirmed = m.unconfirmed.filter (fun x => decide (0 < (x.1 + 2 ^ 32 - p.word 1 % 2 ^ 32) % 2 ^ 32) &&
      decide ((x.1 + 2 ^ 32 - p.word 1 % 2 ^ 32) % 2 ^ 32 < 2 ^ 31))) ∧
  (FromPartner h 1 p c → p.word 1 % 2 ^ 32 ≠ m.rxNext → Does (.mirrorPacket p) ⟨c, q⟩ fun t => SameBut [.twin] c t ∧
    t.twin = { c.twin with restore := c.twin.restore || decide (c.twin.state = .lost) }) ∧
  (FromPartner h 1 p c → p.word 1 % 2 ^ 32 = m.rxNext → Does (.mirrorPacket p) ⟨c, q⟩ fun t =>
    SameBut [.roll, .lard, .twin, .stew, .regs, .sent, .free] c t ∧ (t.mirror h).rxNext = (m.rxNext + 1) % 2 ^ 32 ∧
    (t.mirror h).rxApplied = true ∧ (t.mirror h).unconfirmed = m.unconfirmed ∧ t.free = c.free + 1) ∧
  (m.on = true → c.twin.state = .paired → m.unconfirmed ≠ [] → m.progress + 8 ≤ b → Does (.mirrorResend h) ⟨c, q⟩ fun t =>
    SameBut (.twin :: Part.sending) c t ∧ t.twin = { c.twin with mirror := c.twin.mirror.set h { m with progress := b } }) ∧
  (m.unconfirmed = [] ∨ b < m.progress + 8 → Does (.mirrorResend h) ⟨c, q⟩ fun t => t = c) ∧
  (m.on = true → m.stale = false → 65536 ≤ m.backlog → Does (.mirrorStale h) ⟨c, q⟩ fun t =>
    SameBut (.twin :: Part.event) c t ∧ t.twin = { c.twin with mirror := c.twin.mirror.set h { m with stale := true } }) ∧
  (m.backlog < 65536 → Does (.mirrorStale h) ⟨c, q⟩ fun t => t = c) ∧
  (∀ bad, m.copying = true → (m.resync = true → m.backlog + 64 * m.copyRate < 65536) → Does (.mirrorCopyPass ⟨h, bad⟩) ⟨c, q⟩ fun t =>
    SameBut [.roll, .lard, .twin, .stew, .regs, .due, .sent] c t ∧ (bad = [] → SameBut [.lard, .twin, .stew, .regs, .sent] c t) ∧
    (t.mirror h).copyPos = (if m.copyPos + 256 * m.copyRate < 2 ^ 23 then m.copyPos + 256 * m.copyRate else 0) ∧
    (t.mirror h).copying = decide (m.copyPos + 256 * m.copyRate < 2 ^ 23) ∧
    (t.ld h).rollUsed = (c.ld h).rollUsed + granules (32 * (256 * m.copyRate))) ∧
  (∀ bad, m.copying = true → m.resync = true → 65536 < m.backlog + 64 * m.copyRate → Does (.mirrorCopyPass ⟨h, bad⟩) ⟨c, q⟩ fun t => t = c) ∧
  (∀ (d : Chip) (n : Nat), c.twin.state = .lost → m.lastMack + 8 ≤ b → n = (m.rxNext + 2 ^ 32 - 1) % 2 ^ 32 →
    d = { c with twin := { c.twin with mirror := c.twin.mirror.set h { m with lastMack := b } } } → Does (.twinLostMack h) ⟨c, q⟩ fun t =>
      t.twin = d.twin ∧ (c.twinUp h = none → t = d) ∧
      ∀ l, c.twinUp h = some l → SendsOn l (mkPacket c.twin.partner 1 ((c.currentEpoch (halfOf l)).getD 0) c.nest.self 0 n false
        (codeHeader (field 2 52 8 + field h 51 1) n 0)) none d t)

/-- The twin and Table commands (R388 to R411): a pairing, a mirror setting, a takeover and a member are fixed for the Deal
boundary, and the ports that a takeover disables are announced; a twin link is configured at once; held records are read out; a Table is joined, a region protected, and a rebuild
starts once the members have drained. -/
def Obligations.TwinCommandsComplete : Prop := ∀ (k : Nat) (w : Nat → Nat) (c : Chip) (q : List Instr) (h : Nat),
  (Served 0x0F01 k 4 w c → c.nest.pair ≠ 0 → c.unitName (nameAt w 0) = true → nameAt w 0 ≠ c.nest.self →
    c.regionAtLeast 0 (w 2) 512 = true → c.regionAtLeast 1 (w 3) 512 = true → c.twin.state ≠ .paired → Does (.twinPair k) ⟨c, q⟩
      (Fixes k (.twinPair (nameAt w 0) (w 2) (w 3)) c)) ∧
  (Served 0x0F02 k 1 w c → h = bitsAt (w 0) 0 1 → c.noTwinLane h = false →
    (bitAt (w 0) 2 = true → Does (.twinLink k) ⟨c, q⟩ fun t => Answers k .ok [] [.ports] c t ∧
      t.ports.twinConfigured = c.ports.twinConfigured.set h true ∧
      ∀ p, t.port p = if p = 0x800 + 2 * h ∨ p = 0x801 + 2 * h then { c.port p with
        cls := if (c.port p).link = .disabled then bitsAt (w 0) 1 1 else (c.port p).cls
        role := 3, link := if (c.port p).link = .disabled then .down else (c.port p).link } else c.port p) ∧
    (bitAt (w 0) 2 = false → Does (.twinLink k) ⟨c, q⟩ fun t => Answers k .ok [] Part.reach c t ∧
      ∀ p, p = 0x800 + 2 * h ∨ p = 0x801 + 2 * h → (t.port p).link = .disabled ∧ (t.port p).role = 3 ∧
        (t.port p).cls = bitsAt (w 0) 1 1)) ∧
  (Served 0x0F03 k 1 w c → (c.twin.state ≠ .unpaired ∨ c.twin.pairPending = true) → 1 ≤ bitsAt (w 0) 3 8 →
    bitsAt (w 0) 3 8 ≤ c.sweepMax / 8 → Does (.twinMirror k) ⟨c, q⟩
      (Fixes k (.twinMirror (bitsAt (w 0) 0 1) (bitAt (w 0) 1) (bitAt (w 0) 2) (bitsAt (w 0) 3 8)) c)) ∧
  (Served 0x0F04 k 0 w c → (c.twin.state = .paired ∨ c.twin.state = .lost) → Does (.twinTakeover k) ⟨c, q⟩ fun t =>
    Answers k .ok (dealWords c.effectDeal) [.ports, .due] c t ∧ t.due = c.due ++ [(c.effectDeal, .twinTakeover)] ∧
    ∀ p, p ∈ twinPorts 0 ++ twinPorts 1 → (t.port p).notices = (c.port p).notices ++
      if (c.port p).link.live = true ∧ ¬((c.port p).link = .up ∧ (c.port p).farName = c.twin.partner)
      then [⟨.disable, 0, c.effectDeal, (c.port p).nextNseq⟩] else []) ∧
  (∀ rs, Served 0x0F05 k 2 w c → (c.twin.state ≠ .unpaired ∨ c.twin.pairPending = true) →
    rs = ((c.mirror (bitsAt (w 0) 0 1)).held.drop (w 1)).take 7 → Does (.twinExport k) ⟨c, q⟩
      (Answers k .ok (rs.length :: rs.flatMap (fun x => packWords (x.bytes (bitsAt (w 0) 0 1)))) [] c)) ∧
  (∀ m need, Served 0x0F11 k 23 w c → c.twin.joined = false → m = bitsAt (w 0) 0 3 → nameAt w (3 + 2 * m) = c.nest.self →
    (c.twin.state = .paired → nameAt w (3 + 2 * (m ^^^ 1)) = c.twin.partner) → 2 * c.nest.horizon ≤ bitsAt (w 22) 0 16 →
    need = 2 * (2 * ((w 21 + 5) / 6)) + 1024 → c.regionAtLeast 0 (w 19) need = true → c.regionAtLeast 1 (w 20) need = true →
    Does (.tableJoin k) ⟨c, q⟩ fun t => Answers k .ok [] [.twin] c t ∧ t.twin = { c.twin with
      joined := true, member := m, tableName := nameAt w 1, members := (List.range 8).map (fun i => nameAt w (3 + 2 * i)), lost := 0
      tableLost := false, umax := w 21, job := bitsAt (w 0) 3 8, deltaRto := bitsAt (w 22) 0 16
      table := ⟨{ shard := w 19 }, { shard := w 20 }⟩ }) ∧
  (∀ g, Served 0x0F12 k 1 w c → h = bitsAt (w 0) 31 1 → c.regionOf (w 0) = some g → w 0 ∉ (c.table8 h).protectedList →
    c.twin.joined = true → (∀ e, e ∈ c.kit.kitty → e.1 / 32768 = h → e.2.job ≠ c.twin.job) →
    c.spacePages h + g.generation ≤ c.twin.umax → Does (.tableProtect k) ⟨c, q⟩ fun t =>
      Answers k .ok [c.spacePages h + g.generation] [.twin] c t ∧ t.twin = { c.twin with
        table := c.twin.table.set h { c.table8 h with protectedList := (c.table8 h).protectedList ++ [w 0] } }) ∧
  (Served 0x0F13 k 3 w c → c.twin.joined = true → bitsAt (w 0) 0 3 ≠ c.twin.member → Does (.tableMember k) ⟨c, q⟩
    (Fixes k (.tableMember (bitsAt (w 0) 0 3) (bitAt (w 0) 3) (nameAt w 1)) c)) ∧
  (∀ rate, Served 0x0F14 k 1 w c → c.twin.joined = true → rate = bitsAt (w 0) 0 7 → 1 ≤ rate → rate ≤ 64 → 6 ≤ c.liveOthers.length →
    (∀ x, x < 2 → (c.table8 x).rebuild = 0 ∨ (c.table8 x).rebuild = 3) →
    (c.allDrained = true → Does (.tableRebuild k) ⟨c, q⟩ fun t => Answers k .ok (dealWords c.deal) [.twin] c t ∧
      ∀ x, x < 2 → (t.table8 x).rebuild = (if c.rebuildTotal x = 0 then 0 else 2) ∧ (t.table8 x).rate = rate ∧
        (t.table8 x).total = c.rebuildTotal x ∧ (t.table8 x).done = 0) ∧
    (c.allDrained = false → Does (.tableRebuild k) ⟨c, q⟩ fun t => Waits k 0x0F14 false [] [.twin] c t ∧
      ∀ x, x < 2 → t.table8 x = { c.table8 x with
        rebuild := 1, rate := rate, held := c.tableCoded x, done := 0, total := c.rebuildTotal x }))

/-- The packets of the Table (R404 to R411): a DELTA or PSET of the next SEQ changes a parity page and is to be acknowledged; a
DACK frees, and DELTAs that waited for room follow; what is unacknowledged is sent again; a CODED packet is noted; a UREAD is answered; a UDATA part is kept; an unanswered
unit is asked for again; a stripe whose six units have come is solved, and the last one ends the rebuild. -/
def Obligations.TableExchangesComplete : Prop := ∀ (c : Chip) (q : List Instr) (h m : Nat) (x : TableHalf) (p : Packet) (n b : Nat),
  c.Up → h < 2 → x = c.table8 h → n = p.word 1 % 2 ^ 32 → b = c.tb.boundaries →
  (∀ e, FromMember h m 0xC e p c → p.seq = Tab.get 0 m x.rxSeq → Does (.delta h p) ⟨c, q⟩ fun t =>
    SameBut [.twin, .lard] c t ∧ t.twin = { c.twin with table := c.twin.table.set h { x with
      rxSeq := Tab.set 0 m ((Tab.get 0 m x.rxSeq + 1) % 2 ^ 32) x.rxSeq, dacks := if m ∈ x.dacks then x.dacks else x.dacks ++ [m] } } ∧
    t.lard.regions = c.lard.regions ∧ ∀ g k off, g = bitsAt (p.word 0) 50 1 → off = bitsAt (p.word 0) 30 16 →
      c.parityPage g (bitsAt (p.word 0) 49 1) (p.word 1 / 2 ^ 32) = some k → off + (p.payload.length - 32) ≤ 65536 →
      32 ≤ p.payload.length → Stored h (c.region (handleKey x.shard)) (k * 65536 + off)
        (xorBytes (((c.readParity h g (bitsAt (p.word 0) 49 1) (p.word 1 / 2 ^ 32)).drop off).take (p.payload.length - 32))
          (if bitsAt (p.word 0) 49 1 = 1 then gfScale (gfPow 2 (bitsAt (p.word 0) 46 3)) (p.payload.drop 32) else p.payload.drop 32)) c t) ∧
  (FromMember h m 0 6 p c → p.seq = Tab.get 0 m x.rxSeq → Does (.pset h p) ⟨c, q⟩ fun t =>
    SameBut [.twin, .lard] c t ∧ t.twin = { c.twin with table := c.twin.table.set h { x with
      rxSeq := Tab.set 0 m ((Tab.get 0 m x.rxSeq + 1) % 2 ^ 32) x.rxSeq, dacks := if m ∈ x.dacks then x.dacks else x.dacks ++ [m] } } ∧
    ∀ k, c.parityPage (bitsAt (p.word 0) 50 1) (bitsAt (p.word 0) 49 1) (p.word 1 / 2 ^ 32) = some k →
      bitsAt (p.word 0) 30 16 + (p.payload.length - 32) ≤ 65536 →
      Stored h (c.region (handleKey x.shard)) (k * 65536 + bitsAt (p.word 0) 30 16) (p.payload.drop 32) c t) ∧
  (∀ e, FromMember h m 0xD e p c → Does (.dack h p) ⟨c, q⟩ fun t => SameBut (.twin :: Part.packet) c t ∧
    (∃ i, (t.table8 h).deltaWait = x.deltaWait.drop i ∧ (t.table8 h).unacked = x.unacked.filter (fun y => y.member != m ||
      (decide (0 < (y.seq + 2 ^ 32 - n) % 2 ^ 32) && decide ((y.seq + 2 ^ 32 - n) % 2 ^ 32 < 2 ^ 31))) ++ (x.deltaWait.map Prod.snd).take i) ∧
    ∀ y, y < 2 → y ≠ h → t.table8 y = c.table8 y) ∧
  (c.twin.joined = true → x.unacked ≠ [] → x.progress + c.twin.deltaRto ≤ b → Does (.deltaResend h) ⟨c, q⟩ fun t =>
    SameBut (.twin :: Part.packet) c t ∧
    t.twin = { c.twin with table := c.twin.table.set h { x with progress := b } }) ∧
  (FromMember h m 0 3 p c → (c.table8 0).rebuild ≠ 1 → Does (.coded h p) ⟨c, q⟩ fun t => SameBut [.twin] c t ∧
    t.twin = { c.twin with table := c.twin.table.set h { x with
      reports := Tab.put m (p.word 1 % 2 ^ 48, bitAt (p.word 0) 50) x.reports
      returning := if x.held ≤ p.word 1 % 2 ^ 48 then maskDiff x.returning (2 ^ m) else x.returning } }) ∧
  (FromMember h m 0 3 p c → (c.table8 0).rebuild = 1 → Does (.coded h p) ⟨c, q⟩ fun t =>
    SameBut (.twin :: .waiting :: Part.packet) c t ∧
    (t.table8 h).reports = Tab.put m (p.word 1 % 2 ^ 48, bitAt (p.word 0) 50) x.reports) ∧
  (c.twin.joined = true → x.lastCoded + 16 ≤ b → Does (.codedReport h) ⟨c, q⟩ fun t =>
    SameBut (.twin :: Part.packet) c t ∧
    t.twin = { c.twin with table := c.twin.table.set h { x with lastCoded := b } }) ∧
  (FromMember h m 0 4 p c → Does (.uread h p) ⟨c, q⟩ fun t => SameBut (.lard :: Part.packet) c t ∧
    t.lard.hbm = c.lard.hbm ∧ t.lard.regions = c.lard.regions ∧ (t.ld h).recipeUsed = (c.ld h).recipeUsed + granules 65536) ∧
  (FromMember h m 0 5 p c → Does (.udata h p) ⟨c, q⟩ fun t => SameBut [.twin] c t ∧
    t.twin = { c.twin with table := c.twin.table.set h { x with reads := x.reads.map (fun r =>
      if r.member = m ∧ r.tag = p.word 2 % 2 ^ 32 then { r with
        parts := Tab.put (bitsAt (p.word 0) 30 16) (p.payload.drop 32) r.parts } else r) } }) ∧
  (Does (.ureadRetry h) ⟨c, q⟩ fun t => SameBut (.twin :: Part.packet) c t ∧
    (t.table8 h).reads.length = x.reads.length ∧ (∀ y, y < 2 → y ≠ h → t.table8 y = c.table8 y) ∧
    ∀ (i : Nat) (r : UnitRead), (t.table8 h).reads[i]? = some r → r ∈ x.reads ∨ (r.parts = [] ∧ r.asked = b)) ∧
  (x.rebuild = 2 → 6 ≤ (x.reads.filter (fun r => r.unit == x.done)).length →
    (∀ r, r ∈ x.reads → r.unit = x.done → r.whole.isSome = true) → Does (.rebuildStripe h) ⟨c, q⟩ fun t =>
      SameBut (.lard :: .twin :: Part.packet) c t ∧ (t.table8 h).done = x.done + 1 ∧
      (t.table8 h).rebuild = (if x.done + 1 < x.total then 2 else 0) ∧ (t.table8 h).reads = x.reads.filter (fun r => r.unit != x.done))

/-- Checkpoints, the job-start broadcast and health (R412 to R424): a checkpoint waits for its step and ends when its image has
been written; a restore ends with its count; a JOB_START newer than the last is accepted once; a held one is sent to who asks; one
not there at its deadline is asked for, and missed after six asks; a window of health that ends starts the next. -/
def Obligations.ReplayComplete : Prop := ∀ (k : Nat) (w : Nat → Nat) (c : Chip) (q : List Instr) (b : Bcast) (p : Packet),
  b = c.twin.bcast →
  (∀ j s x y z, Served 0x0F21 k 4 w c → j = bitsAt (w 0) 0 8 → s = nameAt w 1 → c.job 0 j = some x → c.job 1 j = some y →
    c.regionOf (w 3) = some z → (x.step ≤ s ∨ y.step ≤ s) → Does (.ckptTake k) ⟨c, q⟩ fun t =>
      Waits k 0x0F21 false [] [.twin] c t ∧ t.twin = { c.twin with
        ckpts := c.twin.ckpts ++ [{ job := j, step := s, learned := bitAt (w 0) 8, region := w 3, mbx := k, ticket := (c.mbx k).ticket }] }) ∧
  (∀ v x bs, c.Up → c.twin.ckpts.find? (fun y => y.image.isSome) = some v → v.image = some bs → c.rangeOk v.region 0 bs.length = true →
    v.region ∉ (c.table8 (bitsAt v.region 31 1)).protectedList →
    c.waitingOf 0x0F21 (fun y => y.mbx == v.mbx && y.ticket == v.ticket) = some x → Outstanding x c → Does .ckptWritten ⟨c, q⟩ fun t =>
      Finishes x .ok [bs.length] [.lard, .twin] c t ∧ t.twin = { c.twin with ckpts := c.twin.ckpts.erase v } ∧
      Stored (bitsAt v.region 31 1) (c.region (handleKey v.region)) 0 bs c t) ∧
  (Served 0x0F22 k 2 w c → c.mayRestore = true → Does (.ckptRestore k) ⟨c, q⟩ (Waits k 0x0F22 true [w 0, w 1] [] c)) ∧
  (∀ x a n, c.Up → c.waitingOf 0x0F22 (fun _ => true) = some x → x.args = [a, n] → Outstanding x c →
    (c.imageRecords a n = none → Does .ckptRestoreDone ⟨c, q⟩ (Finishes x .badCheck [] [] c)) ∧
    (∀ rs, c.imageRecords a n = some rs → c.mayRestore = true → Does .ckptRestoreDone ⟨c, q⟩
      (Finishes x .ok [(rs.filter (fun y => [1, 6, 8, 9, 0xA, 0xB, 0xC, 0xD].contains y.2.type)).length] [.sch, .roll, .lard, .twin, .due] c))) ∧
  (c.Up → okPacket p = true → bitsAt (p.word 0) 60 4 = 0xA → p.crcGood = true →
    (bitAt (p.word 0) 59 = false → b.lastBseq < p.seq → Does (.jobStart p) ⟨c, q⟩ fun t =>
      SameBut (.twin :: Part.sending) c t ∧ t.twin.bcast.lastBseq = p.seq ∧
      t.twin.bcast.toChildren = b.toChildren ++ [p.payload] ∧ (⟨p.seq, p.payload, true⟩ : Held) ∈ t.twin.bcast.holds ∧
      t.twin.bcast.holds.length ≤ 8) ∧
    (bitAt (p.word 0) 59 = false → p.seq ≤ b.lastBseq → Does (.jobStart p) ⟨c, q⟩ fun t => t = c) ∧
    (bitAt (p.word 0) 59 = true → c.twin.state ≠ .unpaired → (∀ y, y ∈ b.holds → y.bseq ≠ p.seq) → Does (.jobStart p) ⟨c, q⟩ fun t =>
      SameBut [.twin] c t ∧ t.twin = { c.twin with bcast := { b with
        holds := (b.holds ++ [(⟨p.seq, markMirror false p.payload, false⟩ : Held)]).drop (b.holds.length - 7) } }) ∧
    (bitAt (p.word 0) 59 = true → c.twin.state = .unpaired → Does (.jobStart p) ⟨c, q⟩ fun t => t = c)) ∧
  (∀ v, c.Up → okPacket p = true → bitsAt (p.word 0) 60 4 = 0xB → p.crcGood = true →
    b.holds.find? (fun y => y.bseq == p.word 0 % 2 ^ 32) = some v → Does (.bcastAsk p) ⟨c, q⟩ fun t =>
      SameBut Part.packet c t ∧ t = c.originateFrom 0 c.nest.self p.src 1 0 v.bseq true none v.payload) ∧
  (∀ e d, c.Up → b.expected = some (e, d) → b.late = false → c.reached d = true → c.holdsOwn e = false → Does .bcastDeadline ⟨c, q⟩ fun t =>
    SameBut (.twin :: Part.packet) c t ∧ t.twin = { c.twin with
      bcast := { b with late := true, asks := 1, missed := false, lastAsk := c.tb.boundaries } }) ∧
  (∀ e, c.Up → b.expected = some e → b.late = true → b.missed = false → b.lastAsk + 4 ≤ c.tb.boundaries → Does .bcastAskRetry ⟨c, q⟩ fun t =>
    SameBut (.twin :: Part.packet) c t ∧ t.twin = { c.twin with
      bcast := if b.asks < 6 then { b with asks := b.asks + 1, lastAsk := c.tb.boundaries } else { b with missed := true } }) ∧
  (c.Up → windowCycles c.twin.health.window ≤ (c.tb.lt + 2 ^ 64 - c.twin.health.since) % 2 ^ 64 → Does .healthWindowEnd ⟨c, q⟩ fun t =>
    SameBut [.twin] c t ∧ t.twin = { c.twin with health := { c.twin.health with
      since := c.tb.lt
      threshold := if c.twin.health.spent then min 0xFFFF (c.twin.health.threshold + c.twin.health.rise) else c.twin.health.threshold } }) ∧
  (Served 0x0F31 k 5 w c → (nameAt w 0 ≠ 0 → c.unitName (nameAt w 0) = true) → (nameAt w 2 ≠ 0 → c.unitName (nameAt w 2) = true) →
    b.expected = none → Does (.bcastTree k) ⟨c, q⟩ fun t => Answers k .ok [] [.twin] c t ∧ t.twin = { c.twin with
      bcast := { b with
        parent := nameAt w 0, parentTwin := nameAt w 2
        groups := ⟨if bitAt (w 4) 26 then some (bitsAt (w 4) 0 13) else none, if bitAt (w 4) 27 then some (bitsAt (w 4) 13 13) else none⟩ } }) ∧
  (Served 0x0F32 k 3 w c → c.tooLate (nameAt w 1) = false → Does (.dealExpect k) ⟨c, q⟩ fun t => Answers k .ok [] [.twin] c t ∧
    t.twin = { c.twin with bcast := { b with
      expected := if c.holdsOwn (w 0) then none else some (w 0, nameAt w 1), late := false, asks := 0, missed := false } }) ∧
  (∀ pl, Served 0x0F33 k (4 + w 3) w c → b.lastBseq < w 0 → c.tb.aligned = true →
    pl = jobHeader (w 0) (nameAt w 1) c.deal ++ (List.range (w 3)).flatMap (fun i => beBytes 4 (w (4 + i))) → Does (.dealOpen k) ⟨c, q⟩ fun t =>
      Answers k .ok (dealWords c.deal) [.twin, .ports, .sch, .stamps] c t ∧ t.twin.bcast.lastBseq = w 0 ∧
      t.twin.bcast.toChildren = b.toChildren ++ [pl] ∧ (⟨w 0, pl, true⟩ : Held) ∈ t.twin.bcast.holds) ∧
  (Served 0x0F41 k 2 w c → bitsAt (w 0) 8 16 ≠ 0 → Does (.healthBudget k) ⟨c, q⟩ fun t => Answers k .ok [] [.twin] c t ∧
    t.twin = { c.twin with health := { c.twin.health with
      job := some (bitsAt (w 0) 24 8), budget := bitsAt (w 0) 0 8, window := bitsAt (w 0) 8 16, threshold := bitsAt (w 1) 0 16
      rise := bitsAt (w 1) 16 12, spent := false, since := c.tb.lt } }) ∧
  (Served 0x0F42 k 2 w c → nameAt w 0 ∈ c.twin.health.scores.map Prod.fst → Does (.healthClear k) ⟨c, q⟩ fun t =>
    Answers k .ok [] [.twin] c t ∧ t.twin = { c.twin with
      health := { c.twin.health with scores := Tab.erase (nameAt w 0) c.twin.health.scores } })

/-- Attestation over DOE (R458 to R461): once Moelo is ready, every SPDM request is answered with one response, in the order
GET_VERSION, GET_CAPABILITIES, NEGOTIATE_ALGORITHMS before the rest; a certificate is read from the chain of its slot, a
measurement is the block of its index, and slot 1 alone is written. The bytes of a response are laid out as SPDM 1.3 lays them out
(the model's choice, assumption 85), and nonces and signatures are free. -/
def Obligations.AttestationComplete : Prop := ∀ (c : Chip) (q : List Instr) (v : Spdm) (slot off n index nonce : Nat)
    (signed a b d : Bool) (ch : List Byte),
  c.pkg.held = false → c.stew.pcie.perst = false → c.stew.pcie.d3hot = false → c.stew.bootReady = true →
  v = c.stew.spdm → slot < 8 → ch = c.certChain slot →
  (c.stew.phase ≠ .restarting →
    Does .spdmGetVersion ⟨c, q⟩ (fun t => SameBut [.stew, .sent] c t ∧ t.stew = { c.stew with spdm := { version := true } } ∧
      t.sent = .doe [0x10, 0x04, 0, 0, 0, 1, 0x00, 0x13] :: c.sent) ∧
    (v.version = true → Does .spdmGetCapabilities ⟨c, q⟩ fun t => SameBut [.stew, .sent] c t ∧
      t.stew = { c.stew with spdm := { v with caps := true } } ∧ ∃ bs : List Nat, t.sent = .doe bs :: c.sent ∧ bs.take 4 = [0x13, 0x61, 0, 0]) ∧
    (v.caps = true → Does (.spdmNegotiateAlgorithms a b d) ⟨c, q⟩ fun t => SameBut [.stew, .sent] c t ∧
      t.stew = { c.stew with spdm := { v with algs := a && b && d } } ∧
      ∃ bs : List Nat, t.sent = .doe bs :: c.sent ∧ bs.take 4 = [0x13, 0x63, 0, 0]) ∧
    (v.algs = true → Does .spdmGetDigests ⟨c, q⟩ fun t => SameBut [.sent] c t ∧ ∃ bs : List Nat, t.sent = .doe bs :: c.sent ∧
      bs.length = if c.flash.slot1 = [] then 68 else 132) ∧
    (v.algs = true → (slot = 0 ∨ ch ≠ []) → (ch = [] ∨ off < ch.length) → Does (.spdmGetCertificate slot off n) ⟨c, q⟩ fun t =>
      SameBut [.sent] c t ∧ ∃ bs : List Nat, t.sent = .doe bs :: c.sent ∧ bs.take 4 = [0x13, 0x02, slot, 0] ∧
        bs.drop 8 = ((ch.drop off).take (min n 4080)).map BitVec.toNat) ∧
    (v.algs = true → (slot ≠ 0 ∧ ch = []) ∨ (ch ≠ [] ∧ ch.length ≤ off) → Does (.spdmGetCertificate slot off n) ⟨c, q⟩ fun t =>
      t = { c with sent := .doe [0x13, 0x7F, 1, 0] :: c.sent }) ∧
    (v.algs = true → (slot = 0 ∨ ch ≠ []) → Does (.spdmChallenge slot nonce) ⟨c, q⟩ fun t => SameBut [.sent, .free] c t ∧
      t.free = c.free + 298 ∧ ∃ bs : List Nat, t.sent = .doe bs :: c.sent ∧ bs.length = 302 ∧ bs.take 4 = [0x13, 0x03, slot, 2 ^ slot]) ∧
    (v.algs = true → index ≤ 5 ∨ index = 255 → Does (.spdmGetMeasurements index nonce signed) ⟨c, q⟩ fun t =>
      SameBut [.sent, .free] c t ∧ t.free = c.free + (if signed then 164 else 32) ∧ ∃ bs : List Nat, t.sent = .doe bs :: c.sent ∧
        (index = 0 → bs.take 5 = [0x13, 0x60, 5, 0, 0]) ∧ (index = 255 → bs.take 5 = [0x13, 0x60, 0, 0, 5]) ∧
        (1 ≤ index → index ≤ 5 → bs.take 5 = [0x13, 0x60, 0, 0, 1] ∧
          (bs.drop 8).take (c.measurementBlock index).length = (c.measurementBlock index).map BitVec.toNat)) ∧
    (v.algs = true → Does .spdmGetCsr ⟨c, q⟩ fun t => SameBut [.sent, .free] c t ∧ t.free = c.free + 256 ∧
      ∃ bs : List Nat, t.sent = .doe bs :: c.sent ∧ bs.length = 264) ∧
    (v.algs = true → Does (.spdmSetCertificate 1 ch) ⟨c, q⟩ fun t => SameBut [.flash, .sent] c t ∧
      t.flash = { c.flash with slot1 := ch } ∧ t.sent = .doe [0x13, 0x6E, 1, 0] :: c.sent) ∧
    (v.algs = true → slot ≠ 1 → Does (.spdmSetCertificate slot ch) ⟨c, q⟩ fun t =>
      t = { c with sent := .doe [0x13, 0x7F, 1, 0] :: c.sent }) ∧
    (v.algs = false → ∀ i, i ∈ [Instr.spdmGetDigests, .spdmGetCertificate slot off n, .spdmChallenge slot nonce, .spdmGetCsr,
        .spdmSetCertificate slot ch] → Does i ⟨c, q⟩ fun t => t = { c with sent := .doe [0x13, 0x7F, 4, 0] :: c.sent }) ∧
    Does .spdmRespondIfReady ⟨c, q⟩ (fun t => t = { c with sent := .doe [0x13, 0x7F, 4, 0] :: c.sent })) ∧
  (c.stew.phase = .restarting → ∀ i, i ∈ [Instr.spdmGetVersion, .spdmGetCapabilities, .spdmNegotiateAlgorithms a b d, .spdmGetDigests,
      .spdmGetCertificate slot off n, .spdmChallenge slot nonce, .spdmGetCsr, .spdmSetCertificate slot ch, .spdmRespondIfReady] →
    Does i ⟨c, q⟩ fun t => t = { c with sent := .doe [0x13, 0x7F, 3, 0] :: c.sent }) ∧
  (index < 256 → Does (.doeDiscovery index) ⟨c, q⟩ fun t => t = { c with
    sent := .doe (if index = 0 then [1, 0, 0, 1] else if index = 1 then [1, 0, 1, 0] else [0xFF, 0xFF, 0, 0]) :: c.sent })

/-- Firmware images and boot (R453 to R457, R498 to R500): words are staged into the inactive bank, whose image is checked, tried at
the next boot or run by a live restart, and committed with its security version; the ROM starts Moelo from a bank whose image
passes, with the keys of that image and no identity private key; an image not ready in time gives way to the committed bank; a stage
of bring-up that ends is recorded and the next begins. -/
def Obligations.FirmwareCompletes : Prop := ∀ (k : Nat) (w : Nat → Nat) (c : Chip) (q : List Instr) (x : ImageCheck) (b : Nat),
  b = c.inactiveBank →
  (Served 0x1041 k (2 + w 1) w c → w 0 % 4 = 0 → 1 ≤ w 1 → w 1 ≤ 1020 → w 0 + 4 * w 1 ≤ 31457280 →
    c.waitingOf 0x1043 (fun _ => true) = none → Does (.fwStage k) ⟨c, q⟩ fun t =>
      Waits k 0x1041 true (w 0 :: (List.range (w 1)).map (fun i => w (2 + i))) [.flash] c t ∧ t.flash = { c.flash with
        verified := false, nextBoot := if c.flash.nextBoot = b then c.flash.committed else c.flash.nextBoot }) ∧
  (Served 0x1042 k 0 w c → Does (.fwVerify k) ⟨c, q⟩ (Waits k 0x1042 true [] [] c)) ∧
  (Served 0x1043 k 1 w c → c.flash.verified = true → bitAt (w 0) 0 = false → Does (.fwActivate k) ⟨c, q⟩
    (Waits k 0x1043 true [0] [] c)) ∧
  (Served 0x1043 k 1 w c → c.flash.verified = true → bitAt (w 0) 0 = true → c.flash.bank.h0.liveOk = true → c.flash.bank.h1.liveOk = true →
    (∀ e, e ∈ c.stew.mbx → e.1 ≠ k → e.2.pending = false) → Does (.fwActivate k) ⟨c, q⟩ fun t =>
      Waits k 0x1043 true [1] [.firmware] c t ∧ t.stew.phase = .restarting) ∧
  (Served 0x1044 k 0 w c → c.stew.running ≠ c.flash.committed → Does (.fwCommit k) ⟨c, q⟩ (Waits k 0x1044 true [] [] c)) ∧
  (Served 0x1045 k 0 w c → Does (.fwStatus k) ⟨c, q⟩ (Answers k .ok [field c.stew.running 0 1 +
    field (b2n (c.stew.running == c.flash.committed)) 1 1 + field (b2n c.flash.verified) 2 1 + field (b2n c.stew.fallback) 3 1,
    c.flash.bank.h0.version, c.flash.bank.h1.version] [] c)) ∧
  (Served 0x1201 k 0 w c → Does (.bringStatus k) ⟨c, q⟩ (Answers k .ok (twoWords c.pnBringup ++ [c.stew.reasons]) [] c)) ∧
  (∀ v : Waiting, c.pkg.held = false → k < 32 → Outstanding v c → c.stew.waiting.find? (fun y => y.mbx == k &&
      [0x1041, 0x1042, 0x1043, 0x1044].contains y.opcode && y.args != [1]) = some v →
    (v.opcode = 0x1041 → Does (.fwWorkDone k x) ⟨c, q⟩ fun t => Finishes v .ok [] [.flash] c t ∧
      t.flash = { c.flash with bank := t.flash.bank } ∧ t.flash.bank.get (1 - b) = c.flash.bank.get (1 - b) ∧
      ∀ i, i + 1 < v.args.length → Tab.get 0 (v.args.headD 0 / 4 + i) (t.flash.bank.get b).words = BitVec.ofNat 32 (v.args.getD (i + 1) 0)) ∧
    (v.opcode = 0x1042 → Does (.fwWorkDone k x) ⟨c, q⟩ fun t => Finishes v (c.imageStatus x)
        (if c.imageStatus x = .ok then [x.version, x.svn, x.keySlot] else []) [.flash] c t ∧
      t.flash.verified = decide (c.imageStatus x = .ok) ∧ (t.flash.bank.get b).svn = x.svn) ∧
    (v.opcode = 0x1043 → Does (.fwWorkDone k x) ⟨c, q⟩ fun t => Finishes v .ok [] [.flash] c t ∧
      t.flash = { c.flash with nextBoot := b }) ∧
    (v.opcode = 0x1044 → Does (.fwWorkDone k x) ⟨c, q⟩ fun t => Finishes v .ok [max c.fuses.svn (c.flash.bank.get c.stew.running).svn]
        [.flash, .fuses] c t ∧ t.flash.committed = c.stew.running ∧ t.fuses.svn = max c.fuses.svn (c.flash.bank.get c.stew.running).svn)) ∧
  (∀ v : Waiting, c.pkg.held = false → c.stew.phase = .restarting → c.waitingOf 0x1043 (fun _ => true) = some v → Outstanding v c →
    Does .fwLiveRestartDone ⟨c, q⟩ (fun t => Finishes v .ok [] [.flash, .firmware] c t ∧ t.stew.phase = .running ∧
      t.stew.running = 1 - c.stew.running ∧ t.flash = { c.flash with verified := false }) ∧
    Does .fwReadyTimeout ⟨c, q⟩ (fun t => Finishes v .notReady [] [.flash, .firmware] c t ∧ t.stew.phase = .running ∧
      t.stew.running = c.flash.committed ∧ t.stew.fallback = true ∧ t.flash = { c.flash with verified := false })) ∧
  (c.Up → c.stew.phase ≠ .restarting → c.stew.triedNew = true → c.stew.bootReady = false → c.stew.fallback = false →
    Does .fwReadyTimeout ⟨c, q⟩ fun t => SameBut [.flash, .boot, .stew, .firmware] c t ∧ t.stew.phase = .running ∧
      t.stew.running = c.flash.committed ∧ t.stew.fallback = true ∧ t.boot = { c.boot with stage := 2 }) ∧
  (c.Up → c.stew.phase = .rom → c.stew.triedNew = false → c.pkg.straps % 4 ≤ 1 → c.boot.stage ≤ 1 → c.imageStatus x = .ok →
    Does (.bootImageCheck x) ⟨c, q⟩ fun t => SameBut [.flash, .boot, .stew, .firmware] c t ∧ t.stew.phase = .running ∧
      t.stew.running = (if c.pkg.straps % 4 = 0 then c.flash.nextBoot else 1 - c.flash.committed) ∧ t.stew.runningVersion = x.version ∧
      t.boot = { c.boot with stage := 2 } ∧ t.stew.keys.identityPrivate = none ∧
      t.stew.keys.imagePrivate = some (Config.aliasKey c.fuses.secret (payloadDigest x.version))) ∧
  (c.Up → c.stew.phase = .rom → c.stew.triedNew = false → c.pkg.straps % 4 ≤ 1 → c.boot.stage ≤ 1 → c.imageStatus x ≠ .ok →
    Does (.bootImageCheck x) ⟨c, q⟩ fun t => SameBut [.flash, .boot, .stew] c t ∧ t.boot = { c.boot with stage := 1 } ∧
      t.flash.nextBoot = c.flash.committed) ∧
  (c.Up → c.stew.phase = .running → c.stew.bootReady = false → c.boot.stage = 2 → Does .bootReady ⟨c, q⟩ fun t =>
    SameBut (.boot :: .firmware :: Part.event) c t ∧ t.stew.bootReady = true ∧ t.boot = { c.boot with stage := 3 }) ∧
  (∀ failures, c.Up → c.boot.stage = 0 → Does (.bringupStageEnd failures) ⟨c, q⟩ fun t => t = { c with boot := { c.boot with stage := 1 } }) ∧
  (c.Up → c.stew.bootReady = true → c.boot.stage = 3 → bitAt c.boot.ended 3 = false →
    Does (.bringupStageEnd []) ⟨c, q⟩ (fun t => t = { c with boot := { c.boot with ended := c.boot.ended ||| 2 ^ 3, stage := 4 } }) ∧
    ∀ u, c.loomServes u = true → Does (.bringupStageEnd [(1, u)]) ⟨c, q⟩ fun t => t.loomServes u = false ∧
      t.boot = { c.boot with ended := c.boot.ended ||| 2 ^ 3, failed := c.boot.failed ||| 2 ^ 4, stage := 4 }) ∧
  (∀ failures, c.Up → c.stew.bootReady = true → 4 ≤ c.boot.stage → c.boot.stage ≤ 6 → bitAt c.boot.ended c.boot.stage = false →
    Does (.bringupStageEnd failures) ⟨c, q⟩ fun t => t.boot.ended = c.boot.ended ||| 2 ^ c.boot.stage ∧
      t.boot.stage = min 6 (c.boot.stage + 1))

/-- PCIe resets and the accesses of the host (R428 to R436, R449 to R451): a PCIe reset clears the host's mailboxes, the MSI-X masks
and the ring, and a return from D3hot signals what waits unmasked; a ring submits the command, or sets RING_DISCARD while
one is pending; request bytes and MB_CTRL are stored, or set COLLIDE while one is pending; a header read counts; EV_CONS moves on, no
further than EV_PROD. That every vector is masked after a PCIe reset is the model's choice (assumption 13). -/
def Obligations.HostAccessesComplete : Prop := ∀ (k : Nat) (c : Chip) (q : List Instr) (m : Mailbox) (e : Events),
  c.pkg.held = false → m = c.mbx k → e = c.stew.events →
  (∀ i b, (i = Instr.perstAssert ∧ b = true) ∨ (i = Instr.functionLevelReset ∧ b = false ∧ c.hostUp = true) → Does i ⟨c, q⟩ fun t =>
    SameBut [.stew, .regs] c t ∧ t.stew.pcie = { perst := b } ∧ t.stew.events = { e with ringSet := false, ring := [] } ∧
    (∀ j, j < 16 → t.mbx j = {}) ∧ (∀ j, 16 ≤ j → t.mbx j = c.mbx j) ∧ t.stew.rung = c.stew.rung.filter (fun j => decide (16 ≤ j))) ∧
  Does .perstRelease ⟨c, q⟩ (fun t => t = { c with stew := { c.stew with pcie := { c.stew.pcie with perst := false } } }) ∧
  (c.stew.pcie.perst = false → Does (.d3hotTransition true) ⟨c, q⟩ fun t =>
    t = { c with stew := { c.stew with pcie := { c.stew.pcie with d3hot := true } } }) ∧
  (c.stew.pcie.perst = false → Does (.d3hotTransition false) ⟨c, q⟩ fun t => SameBut [.stew, .sent] c t ∧
    t.stew = { c.stew with pcie := { c.stew.pcie with d3hot := false, vecPending := c.stew.pcie.vecPending &&& c.stew.pcie.vecMasked } } ∧
    ∀ v, v < 64 → bitAt c.stew.pcie.vecPending v = true → bitAt c.stew.pcie.vecMasked v = false → .msix v ∈ t.sent) ∧
  (c.hostUp = true → k < 16 →
    (m.pending = true → Does (.mbRing k) ⟨c, q⟩ fun t => t = c.stick (mbStat k) 1) ∧
    (∀ j, m.pending = false → c.stew.bootReady = true → c.stew.phase ≠ .restarting → j = (c.stew.rung ++ [k]).headD 0 →
      (c.mbx j).opcode ∈ opcodes → (16 ≤ j → (c.mbx j).opcode ∉ deniedInBand) → Does (.mbRing k) ⟨c, q⟩ fun t =>
        SameBut [.stew] c t ∧ t.stew.rung = c.stew.rung ++ [k] ∧ (∀ x, x ≠ k → t.mbx x = c.mbx x) ∧ t.mbx k = { m with
          hdrSeq := m.seq, status := 1, ready := false, hdrWords := 0, readCount := 0, accepted := false, resultDeal := 0, res := []
          pending := true, ticket := c.stew.nextTicket }) ∧
    (m.pending = false → c.stew.bootReady = true → c.stew.phase ≠ .restarting → c.stew.rung = [] → m.opcode ∉ opcodes →
      Does (.mbRing k) ⟨c, q⟩ (Answers k .badOpcode [] [] c)) ∧
    (m.pending = false → c.stew.phase = .restarting ∨ (c.stew.bootReady = false ∧ c.earlyCommand k m.opcode = false) →
      Does (.mbRing k) ⟨c, q⟩ fun t => SameBut [.stew, .sent] c t ∧ (t.mbx k).ready = true ∧ (t.mbx k).pending = false ∧
        (t.mbx k).status = (if c.stew.phase = .restarting then Status.restarting else .notReady).code ∧ t.stew.rung = c.stew.rung) ∧
    (∀ off (bs : List Byte), okMbWrite off bs.length = true →
      (m.pending = true → Does (.mbRequestWrite k off bs) ⟨c, q⟩ fun t => t = c.stick (mbStat k) 0) ∧
      (m.pending = false → off < 0x1000 → Does (.mbRequestWrite k off bs) ⟨c, q⟩ fun t => SameBut [.stew] c t ∧
        (∀ x, x ≠ k → t.mbx x = c.mbx x) ∧ t.mbx k = { m with req := (t.mbx k).req } ∧ ∀ i, i < 0x1000 →
          bitsAt (Tab.get 0 (i / 4) (t.mbx k).req).toNat (8 * (i % 4)) 8 =
            if off ≤ i ∧ i < off + bs.length then (bs.getD (i - off) 0).toNat else bitsAt (Tab.get 0 (i / 4) m.req).toNat (8 * (i % 4)) 8) ∧
      (m.pending = false → off = 0x2000 → bs.length = 8 → Does (.mbRequestWrite k off bs) ⟨c, q⟩ fun t => SameBut [.stew] c t ∧
        (∀ x, x ≠ k → t.mbx x = c.mbx x) ∧ t.mbx k = { m with
          opcode := bitsAt (leNat bs) 0 16, words := bitsAt (leNat bs) 16 11, seq := bitsAt (leNat bs) 27 16, irq := bitAt (leNat bs) 43 })) ∧
    (∀ off size, okHdrRead off size = true → Does (.mbResultRead k off size) ⟨c, q⟩ fun t => SameBut [.stew, .sent] c t ∧
      t.sent = .readData (bitsAt m.header (8 * off) (8 * size)) :: c.sent ∧ (∀ x, x ≠ k → t.mbx x = c.mbx x) ∧
      t.mbx k = { m with readCount := if m.ready = true ∧ off = 0 then min 0xFFFF (m.readCount + 1) else m.readCount })) ∧
  (∀ v n, c.hostUp = true → v < 2 ^ 32 → n = (if (e.prod + 2 ^ 32 - e.cons) % 2 ^ 32 < (v + 2 ^ 32 - e.cons) % 2 ^ 32 then e.prod else v) →
    Does (.evConsWrite v) ⟨c, q⟩ fun t => SameBut [.stew, .sent] c t ∧ t.stew.events.cons = n ∧
      (e.die = [] → t = c.setEvents { e with cons := n, ring := e.ring.drop ((n + 2 ^ 32 - e.cons) % 2 ^ 32) })) ∧
  (e.unsignalled = true → e.ringSet = true → Does .eventModerationTimer ⟨c, q⟩ fun t => SameBut [.stew, .sent] c t ∧
    t.stew.events = { e with unsignalled := false, lastVec16 := some c.tb.age } ∧
    (bitAt c.stew.pcie.vecMasked 16 = false → c.hostUp = true → t.sent = .msix 16 :: c.sent)) ∧
  (e.unsignalled = false ∨ e.ringSet = false → Does .eventModerationTimer ⟨c, q⟩ fun t => t = c)

/-- The Steward's own commands and packets (R3, R438 to R446, R449, R452, R509): what the part reports of itself; a waiting command
that has not started is aborted; the event ring and the forwarding copy are set; a slot is bound; a packet leaves for the host and
comes for it, part by part; an in-band request becomes a command, or is asked about again. -/
def Obligations.StewardCommandsComplete : Prop := ∀ (k : Nat) (w : Nat → Nat) (c : Chip) (q : List Instr) (p : Packet) (s seq : Nat),
  (Served 0x1001 k 0 w c → Does (.sysCaps k) ⟨c, q⟩ (Answers k .ok (twoWords c.pnCaps ++ [c.stew.reasons,
    field c.caps.lanes.h0 0 11 + field c.caps.lanes.h1 11 11, c.caps.sites] ++ twoWords c.caps.loomMask ++
    [field c.caps.spares.h0 0 3 + field c.caps.spares.h1 3 3] ++ dealWords c.stew.capsDeal) [] c)) ∧
  (Served 0x1002 k 0 w c → Does (.sysInfo k) ⟨c, q⟩ (Answers k .ok ([c.stew.runningVersion, (Config.identity 20 0).toNat % 2 ^ 32,
    c.fuses.svn, field c.stew.running 0 1 + field (b2n (c.stew.running == c.flash.committed)) 1 1] ++ twoWords c.fuses.serial ++ [15]) [] c)) ∧
  (∀ (v : Waiting) (x : Nat), Served 0x1003 k 1 w c → x = bitsAt (w 0) 0 5 → x ≠ k →
    c.stew.waiting.find? (fun y => y.mbx == x && (c.mbx x).pending && y.ticket == (c.mbx x).ticket) = some v →
    v.started = false → v.opcode ∈ abortable → Does (.mbAbort k) ⟨c, q⟩ fun t => Answers k .ok [] [.twin, .waiting] c t ∧
      t.stew.waiting = c.stew.waiting.erase v ∧ (t.mbx x).ready = true ∧ (t.mbx x).pending = false ∧ (t.mbx x).status = Status.aborted.code) ∧
  (Served 0x1011 k 3 w c → bitsAt (w 2) 0 5 = 0 → Does (.evtRing k) ⟨c, q⟩ fun t => Answers k .ok [] [] c t ∧
    t.stew.events.ringSet = false) ∧
  (Served 0x1011 k 3 w c → 6 ≤ bitsAt (w 2) 0 5 → bitsAt (w 2) 0 5 ≤ 16 → longAt w 0 % 4096 = 0 → Does (.evtRing k) ⟨c, q⟩ fun t =>
    Answers k .ok [] [] c t ∧ t.stew.events.ringSet = true ∧ t.stew.events.log2 = bitsAt (w 2) 0 5 ∧ t.stew.events.addr = longAt w 0 ∧
    t.stew.events.modUs = bitsAt (w 2) 5 16 ∧ t.stew.events.cons = 0) ∧
  (Served 0x1012 k 4 w c → c.nameOk (nameAt w 0) = true → Does (.evtForward k) ⟨c, q⟩ fun t => Answers k .ok [] [] c t ∧
    t.stew.events.fwdName = nameAt w 0 ∧ t.stew.events.fwdMask = w 2 ∧ t.stew.events.fwdEn = bitAt (w 3) 0) ∧
  (Served 0x1013 k 3 w c → c.unitName (nameAt w 1) = true → Does (.mgmtAllow k) ⟨c, q⟩ fun t => Answers k .ok [] [] c t ∧
    t.slot (bitsAt (w 0) 0 4) = { bound := if bitAt (w 0) 4 then some (nameAt w 1) else none, heldSeq := none } ∧
    ∀ x, x ≠ bitsAt (w 0) 0 4 → t.slot x = c.slot x) ∧
  (Served 0x1021 k (10 + (w 1 + 3) / 4) w c → bitsAt (longAt w 2) 13 3 ≠ 0 → w 1 ≤ 4048 → Does (.pktSend k) ⟨c, q⟩
    (Answers k .ok [] [.ports, .sch] c)) ∧
  (∀ x rest cont, Served 0x1022 k 0 w c → c.stew.recvQueue = x :: rest → cont = decide (4060 * (x.part + 1) < x.pkt.length) →
    Does (.pktRecv k) ⟨c, q⟩ fun t => Answers k .ok ([field x.pkt.length 0 15 + field (b2n (!rest.isEmpty)) 16 1 + field (b2n cont) 17 1 +
        field x.part 18 3] ++ (packetHeader x.pkt).flatMap twoWords ++ packWords ((x.pkt.payload.drop (4060 * x.part)).take 4060)) [] c t ∧
      t.stew.recvQueue = if cont then { x with part := x.part + 1 } :: rest else rest) ∧
  (c.Up → okPacket p = true →
    (p.crcGood = true → c.stew.recvQueue.length < 256 → Does (.stewardLocalPacket p) ⟨c, q⟩ fun t =>
      t = { c with stew := { c.stew with recvQueue := c.stew.recvQueue ++ [⟨p, 0⟩] } }) ∧
    (p.crcGood = true → 256 ≤ c.stew.recvQueue.length → Does (.stewardLocalPacket p) ⟨c, q⟩ fun t => t = c.stick (bar2 0x40010) 63) ∧
    (p.crcGood = false → Does (.stewardLocalPacket p) ⟨c, q⟩ fun t => t = c.bump mgmtDrops 1)) ∧
  (c.Up → okPacket p = true → s = bitsAt (p.word 0) 56 4 → seq = bitsAt (p.word 0) 40 16 →
    (c.mgmtOk s p = false → Does (.mgmtReq p) ⟨c, q⟩ fun t => t = c.bump mgmtDrops 1) ∧
    (c.mgmtOk s p = true → (c.slot s).heldSeq = some seq → Does (.mgmtReq p) ⟨c, q⟩ fun t =>
      SameBut Part.packet c t ∧ t.mbx (16 + s) = { c.mbx (16 + s) with
        readCount := if (c.mbx (16 + s)).pending then (c.mbx (16 + s)).readCount else min 0xFFFF ((c.mbx (16 + s)).readCount + 1) }) ∧
    (c.mgmtOk s p = true → (c.slot s).heldSeq ≠ some seq → (c.mbx (16 + s)).pending = false → c.stew.bootReady = true →
      c.stew.phase ≠ .restarting → c.stew.rung = [] → bitsAt (p.word 0) 24 16 ∈ opcodes → bitsAt (p.word 0) 24 16 ∉ deniedInBand →
      Does (.mgmtReq p) ⟨c, q⟩ fun t => SameBut [.stew, .regs] c t ∧ t.stew.rung = [16 + s] ∧ (t.slot s).heldSeq = some seq ∧
        (t.mbx (16 + s)).pending = true ∧ (t.mbx (16 + s)).opcode = bitsAt (p.word 0) 24 16 ∧
        (t.mbx (16 + s)).words = bitsAt (p.word 0) 13 11 ∧ (t.mbx (16 + s)).hdrSeq = seq ∧
        (∀ x, x ≠ 16 + s → t.mbx x = c.mbx x) ∧ ∀ i, i < bitsAt (p.word 0) 13 11 →
          (t.reqWord (16 + s) i) = beNat ((p.payload.drop (32 + 4 * i)).take 4)))

/-- Accesses to the register map (R464 to R467, R470, R481, R482, R492): an access that breaks a rule is a bus error, latched if
none is; a read returns the word at its offset; a write takes the RW fields, by a whole register or one alias bit, and read-only
registers keep their values; a snapshot set is written and armed by its owner; JTAG reaches no register this way. -/
def Obligations.RegisterAccessesComplete : Prop := ∀ (c : Chip) (q : List Instr) (req : Requester) (off n v e : Nat) (b2 wr : Bool),
  c.pkg.held = false →
  (off < 2 ^ 27 → 0 < n → n ≤ 512 → Does (.badAccess .jtag b2 wr off n) ⟨c, q⟩ fun t => t = c) ∧
  (c.reachedBy req → off < 2 ^ 27 → 0 < n → n ≤ 512 → e = c.accessError req b2 wr off n →
    (e ≠ 0 → Does (.badAccess req b2 wr off n) ⟨c, q⟩ fun t => SameBut Part.event c t ∧ t = c.busError req b2 wr off e ∧
      t.regs.busErrValid = true ∧ t.regs.busErrRaised = true ∧ t.regs.busErr = if c.regs.busErrValid then c.regs.busErr else
        field off 0 27 + field (b2n b2) 27 1 + field e 28 3 + field (b2n wr) 31 1 + field (reqCode req) 32 2) ∧
    (e = 0 → Does (.badAccess req b2 wr off n) ⟨c, q⟩ fun t => t = c)) ∧
  (c.hostUp = true → off < 2 ^ 27 → off % 8 = 0 → e = c.accessError .host false false off 8 →
    (e ≠ 0 → Does (.rcFieldRead (.bar0 off)) ⟨c, q⟩ fun t => t = c.busError .host false false off e) ∧
    (e = 0 → off ∉ [0x10018, 0x10038, 0x10060, 0x10070, 0x10100, 0x10120] → Does (.rcFieldRead (.bar0 off)) ⟨c, q⟩ fun t =>
      t = { c with sent := .readData (c.readWord .host off) :: c.sent })) ∧
  (c.hostUp = true → off < 2 ^ 27 → off % 8 = 0 → c.accessError .host true false off 8 = 0 →
    (off < 0x40000 → off % 0x4000 = 0x2010 → Does (.rcFieldRead (.bar2 off)) ⟨c, q⟩ fun t => SameBut [.stew, .sent] c t ∧
      t.sent = .readData (bitsAt (c.mbx (off / 0x4000)).header 0 64) :: c.sent) ∧
    (¬ (off < 0x40000 ∧ off % 0x4000 = 0x2010) → ¬ (0x100000 ≤ off ∧ off < 0x200000) → Does (.rcFieldRead (.bar2 off)) ⟨c, q⟩ fun t =>
      t = { c with sent := .readData (c.bar2Word .host off) :: c.sent })) ∧
  (c.reachedBy req → off < 2 ^ 27 → off % 8 = 0 → v < 2 ^ 64 → e = c.accessError req b2 true off 8 →
    (e ≠ 0 → Does (.registerWrite req b2 off v) ⟨c, q⟩ fun t => t = c.busError req b2 true off e) ∧
    (e = 0 → b2 = false → off = 0x10058 → Does (.registerWrite req b2 off v) ⟨c, q⟩ fun t =>
      t = { c with tb := { c.tb with dealOutEn := bitAt v 0, dealOutAdvance := bitsAt v 1 6 } }) ∧
    (e = 0 → b2 = false → off = 0x10080 → Does (.registerWrite req b2 off v) ⟨c, q⟩ fun t =>
      t = { c with tb := { c.tb with capEdge0 := bitsAt v 0 2, capEdge1 := bitsAt v 2 2 } }) ∧
    (e = 0 → b2 = false → off = 0x3C00018 → Does (.registerWrite req b2 off v) ⟨c, q⟩ fun t => t = { c with regs :=
      if req = .steward then { c.regs with aliasSteward := bitsAt v 0 8 } else { c.regs with aliasHost := bitsAt v 0 8 } }) ∧
    (e = 0 → b2 = false → off < 0x1000 → Does (.registerWrite req b2 off v) ⟨c, q⟩ fun t => SameBut [.regs] c t ∧
      t.regs = { c.regs with ctr := t.regs.ctr }) ∧
    (e = 0 → b2 = true → off = 0x300000 → req = .host → Does (.registerWrite req b2 off v) ⟨c, q⟩ fun t =>
      t = { c with regs := { c.regs with frzHost := ⟨bitsAt v 0 4, bitsAt v 4 6, bitsAt v 22 14⟩ } }) ∧
    (e = 0 → b2 = true → off < 0x40000 → off % 0x4000 = 0x2008 → Does (.registerWrite req b2 off v) ⟨c, q⟩ fun t =>
      t = if bitAt v 0 then c.hostRing (off / 0x4000) else c)) ∧
  (∀ (d : Bool) a k, c.reachedBy req → off < 2 ^ 25 → off % 8 = 0 → e = c.accessError req false true (0x4000000 + off) 8 →
    (a, k) = (c.aliasBase req * 0x80000 + off / 512 * 8, off % 512 / 8) →
    (e ≠ 0 → Does (.aliasWrite req off d) ⟨c, q⟩ fun t => t = c.busError req false true (0x4000000 + off) e) ∧
    (e = 0 → Does (.aliasWrite req off d) ⟨c, q⟩ fun t => t = c.writeReg req a (2 ^ k * b2n d) (2 ^ k) ∧
      (a = 0x10058 → k = 0 → t = { c with tb := { c.tb with dealOutEn := d, dealOutAdvance := c.tb.dealOutAdvance % 64 } }))) ∧
  (∀ s x, c.reachedBy req → s < 8 → v < 2 ^ 64 → c.accessError req false true (0x3B10000 + 0x1000 * s) 8 = 0 → x = c.snap s →
    (ownsSet req s = false → Does (.snapArm req s) ⟨c, q⟩ (fun t => t = c) ∧ Does (.snapCtrlWrite req s v) ⟨c, q⟩ (fun t => t = c)) ∧
    (ownsSet req s = true → Does (.snapArm req s) ⟨c, q⟩ fun t => SameBut [.regs] c t ∧ (∀ y, y ≠ s → t.snap y = c.snap y) ∧
      t.snap s = if x.arm then x else { x with arm := true, armDeal := c.armedFrom x.mode }) ∧
    (ownsSet req s = true → Does (.snapCtrlWrite req s v) ⟨c, q⟩ fun t => SameBut [.regs] c t ∧ (∀ y, y ≠ s → t.snap y = c.snap y) ∧
      t.snap s = { x with
        count := bitsAt v 0 9, clear := bitAt v 9, mode := bitsAt v 10 2, period := bitsAt v 12 16
        arm := (x.arm && x.mode != 1) || bitAt v 28
        armDeal := if bitAt v 28 && !(x.arm && x.mode != 1) then c.armedFrom (bitsAt v 10 2) else x.armDeal }))

/-- Snapshots, counters, user pages, freeze readout and the TAP (R473 to R482, R489 to R493, R508): a capture that is due fills the
hidden bank from its sources and the banks swap when it is full; a counter at its threshold reports once; `ct.snap` waits for its
boundary, and counters and windows change there; a user page is mapped; `frz.now` answers and the freeze follows; frozen words are
read; the TAP takes an instruction and reads out by JTAG (its reset and captures are the model's choice, assumption 93; that the freeze
of `frz.now` is accepted at once, assumption 25). -/
def Obligations.CountersAndFreezeComplete : Prop := ∀ (k : Nat) (w : Nat → Nat) (c : Chip) (q : List Instr) (s : Nat) (x : SnapSet),
  x = c.snap s →
  (c.Up → s < 8 → c.snapDue s = true → x.filling = false → Does (.snapCapture s) ⟨c, q⟩ fun t =>
    SameBut (if x.clear then [.regs, .tb] else [.regs]) c t ∧ (∀ y, y ≠ s → t.snap y = c.snap y) ∧
    t.snap s = { x with
      arm := x.mode == 1, hidden := (t.snap s).hidden, pendDeal := c.deal, filling := true
      armDeal := if x.mode = 1 then (c.deal + 1) % 2 ^ 48 else x.armDeal } ∧
    ∀ i, i < 256 → i < x.count → Tab.get 0 i (t.snap s).hidden =
      if c.badSource (Tab.get 0 i x.src) then 0 else c.readWord .host (Tab.get 0 i x.src)) ∧
  (c.Up → s < 8 → c.snapDue s = true → x.filling = true → Does (.snapCapture s) ⟨c, q⟩ fun t => t = c.stick (snapStat s) 49) ∧
  (c.Up → s < 8 → c.snapDue s = false → Does (.snapCapture s) ⟨c, q⟩ fun t => t = c) ∧
  (c.Up → s < 8 → x.filling = true → Does (.snapBankSwap s) ⟨c, q⟩ fun t => SameBut [.regs] c t ∧ (∀ y, y ≠ s → t.snap y = c.snap y) ∧
    t.snap s = { x with
      filling := false, hold := x.hidden, hidden := x.hold, deal := x.pendDeal, valid := true, gen := (x.gen + 1) % 2 ^ 13 }) ∧
  (∀ b i p, c.pkg.held = false → b < 5 → i < 8 → p = c.prog b i →
    (p.armed = true → p.thrEn = true → 0 < p.thresh → p.thresh ≤ p.count → Does (.counterThreshold b i) ⟨c, q⟩ fun t =>
      SameBut Part.event c t ∧ (b < 4 → t.prog b i = { p with armed := false })) ∧
    (p.armed = false ∨ p.count < p.thresh → Does (.counterThreshold b i) ⟨c, q⟩ fun t => t = c)) ∧
  (∀ n, n = bitsAt (w 0) 1 8 → Served 0x1101 k (1 + n) w c → n ≠ 0 → (∀ i, i < n → w (i + 1) % 8 = 0) → Does (.ctSnap k) ⟨c, q⟩ fun t =>
    Waits k 0x1101 true [] [.due] c t ∧ t.due = c.due ++ [(c.effectDeal, .ctSnap k (c.mbx k).ticket (bitAt (w 0) 0)
      ((List.range n).map (fun i => w (i + 1))))]) ∧
  (Served 0x1102 k 4 w c → bitsAt (w 0) 0 3 ≤ 4 → sourceOk (bitsAt (w 0) 0 3) (bitsAt (w 1) 0 8) = true → Does (.ctConfig k) ⟨c, q⟩
    (Fixes k (.ctConfig (bitsAt (w 0) 0 3) (bitsAt (w 0) 3 3) (bitAt (w 0) 6) (bitAt (w 0) 7) (bitsAt (w 1) 0 8) (bitsAt (w 1) 8 12)
      (bitsAt (w 1) 20 8) (nameAt w 2)) c)) ∧
  (Served 0x1103 k 1 w c → bitsAt (w 0) 0 17 ≤ 65536 → Does (.ctBw k) ⟨c, q⟩ (Fixes k (.ctBw (bitsAt (w 0) 0 17)) c)) ∧
  (∀ g, Served 0x1104 k 2 w c → g = bitsAt (w 1) 0 15 → g ≠ 0x3C00 → (g < 0x4000 ∨ 0x6000 ≤ g) → Does (.userMap k) ⟨c, q⟩ fun t =>
    Answers k .ok [] [] c t ∧ ∀ i, Tab.get 0 i t.regs.userMap =
      if i = bitsAt (w 0) 0 8 then g + 0x8000 * b2n (bitAt (w 0) 8) else Tab.get 0 i c.regs.userMap) ∧
  (Served 0x1111 k 0 w c → Does (.frzNow k) ⟨c, q⟩ fun t => Answers k .ok (dealWords c.deal) [.tb, .waiting, .freeze] c t ∧
    t.regs.freeze.accepted = true ∧ t.regs.freeze.cause = 3 ∧ t.stew.waiting = [] ∧ c.tb.ft + 8 ≤ t.tb.ft ∧ t.tb.ft ≤ c.tb.ft + 31) ∧
  (Served 0x1112 k 0 w c ∨ FrozenServed 0x1112 k 0 w c → Does (.frzStatus k) ⟨c, q⟩
    (Answers k .ok (twoWords c.stFreeze ++ twoWords c.regs.freeze.ft) [] c)) ∧
  (∀ sp ix z, FrozenServed 0x1113 k 3 w c → sp = bitsAt (w 0) 0 4 → ix = bitsAt (w 0) 4 6 → spaceSize sp = some z →
    c.indexAbsent sp ix = false → w 2 % 2 = 0 → 2 ≤ w 2 → w 2 ≤ 1020 → w 1 % 8 = 0 → w 1 + 4 * w 2 ≤ z → Does (.frzRead k) ⟨c, q⟩ fun t =>
      ∃ ws : List Nat, ws.length = w 2 ∧ Answers k .ok ws [] c t ∧
        (sp ≠ 0 → ws = (List.range (w 2 / 2)).flatMap (fun i => twoWords ((c.frzWord sp ix (w 1 + 8 * i)).getD 0)))) ∧
  (c.pkg.held = false → Does .tapReset ⟨c, q⟩ (fun t => t = { c with regs := { c.regs with tapIr := 1 } }) ∧
    (∀ ir, ir < 256 → Does (.jtagInstruction ir) ⟨c, q⟩ fun t => SameBut [.regs, .stew, .sent] c t ∧ t.regs = { c.regs with
        tapIr := if ir ∈ [0x00, 0x01, 0x02, 0x04, 0x05, 0x20, 0x21, 0x22] then ir else 0xFF } ∧
      t.stew = { c.stew with measurement5 := c.stew.measurement5 || decide (ir ∈ [0x20, 0x21, 0x22]) } ∧
      t.sent = (if ir = 0x01 then [.jtag c.idcode] else if ir = 0x22 then [.jtag c.stFreeze] else []) ++ c.sent) ∧
    (∀ v, v < 2 ^ 64 → Does (.jtagFrzSelUpdate v) ⟨c, q⟩ fun t => t = if c.regs.tapIr = 0x20 then
      { c with regs := { c.regs with frzJtag := ⟨bitsAt v 0 4, bitsAt v 4 6, bitsAt v 22 14⟩, frzJtagOffset := 0 } } else c) ∧
    (c.regs.tapIr ≠ 0x21 → Does .frzDataCapture ⟨c, q⟩ fun t => t = c) ∧
    (c.regs.tapIr = 0x21 → Does .frzDataCapture ⟨c, q⟩ fun t => t = { c with
      regs := { c.regs with frzJtagOffset := c.regs.frzJtagOffset + 8 }
      sent := .jtag ((if c.regs.freeze.frozen then
        c.frzWord c.regs.frzJtag.space c.regs.frzJtag.index (c.regs.frzJtag.base * 2 ^ 22 + c.regs.frzJtagOffset)
        else none).getD (2 ^ 64)) :: c.sent }))

/-- The guard, the Deal boundary and DEAL_IN (R12, R21, R34 to R36): fabric time reaches the last 64 core cycles of its Deal, where
partly filled spill pages are closed; a boundary begins the next Deal at core cycle 0, unless edges of DEAL_IN place it; an edge
within 16 core cycles of the expected instant is a boundary at the Deal multiple nearest to FT, the first edge after a time set one
that FT jumps to, any other is refused; a window with no edge places the boundary at the expected instant and counts a fault. That
DEAL_IN_OK clears at a miss and at a refused edge is the model's choice (assumption 104). -/
def Obligations.BoundariesComplete : Prop := ∀ (c : Chip) (q : List Instr) (D n w : Nat) (i : DealIn),
  c.Up → D = c.dealCycles → i = c.tb.dealIn → n = min 0xFFFF (i.faultRun + 1) → w ≤ 65536 →
  (c.tb.guarded = true → Does .guardStart ⟨c, q⟩ fun t => t = c) ∧
  (c.tb.guarded = false → Does .guardStart ⟨c, q⟩ fun t => SameBut [.tb, .ports, .nest, .xbar, .sch, .loom, .gate, .stew, .regs, .sent, .stamps] c t ∧ t.tb.guarded = true ∧
    t.tb.ft = max c.tb.ft (c.tb.ft / D * D + (D - 64)) ∧ t.tb.boundaries = c.tb.boundaries ∧
    t.xbar = { c.xbar with queues := c.xbar.queues.map (fun e => (e.1, { e.2 with pages := closePage e.2.pages })), buf := t.xbar.buf }) ∧
  (c.followsEdges = true → Does .dealBoundary ⟨c, q⟩ fun t => t = c) ∧
  (c.followsEdges = false → c.tb.periodChange = none → Does .dealBoundary ⟨c, q⟩ fun t =>
    t.tb.ft = (c.tb.ft / D + 1) * D ∧ t.deal = (c.deal + 1) % 2 ^ 48 ∧ t.cycle = 0 ∧ t.tb.boundaries = c.tb.boundaries + 1 ∧
    t.tb.guarded = false ∧ t.tb.aligned = c.tb.aligned ∧ t.tb.dealIn = i) ∧
  (c.tb.dealSrc = false ∨ i.last = none → Does .dealInMiss ⟨c, q⟩ fun t => t = c) ∧
  (∀ l, c.tb.dealSrc = true → i.last = some l → c.tb.periodChange = none → Does .dealInMiss ⟨c, q⟩ fun t =>
    t.tb.dealInOk = false ∧ t.tb.dealIn = { i with last := some (l + D), faultRun := n, goodRun := 0 } ∧
    t.tb.aligned = (c.tb.aligned && decide (n < 16)) ∧ t.tb.boundaries = c.tb.boundaries + 1 ∧
    t.tb.ft = (c.tb.ft / D + 1) * D + 16) ∧
  (c.tb.dealSrc = false → Does (.dealInEdge w) ⟨c, q⟩ fun t => t = c) ∧
  (∀ l, c.tb.dealSrc = true → i.last = some l → l + D ≤ c.tb.lt + w + 16 → c.tb.lt + w ≤ l + D + 16 → c.tb.periodChange = none →
    Does (.dealInEdge w) ⟨c, q⟩ fun t => t.tb.dealInOk = true ∧
      t.tb.dealIn = { i with last := some ((c.tb.lt + w) % 2 ^ 64), goodRun := i.goodRun + 1, faultRun := 0 } ∧
      t.tb.aligned = (c.tb.aligned || decide (16 ≤ i.goodRun + 1)) ∧ t.tb.boundaries = c.tb.boundaries + 1 ∧
      t.tb.ft = (c.tb.ft + w + D / 2) / D * D) ∧
  (∀ l, c.tb.dealSrc = true → i.last = some l → c.tb.lt + w + 16 < l + D → Does (.dealInEdge w) ⟨c, q⟩ fun t =>
    t.tb.dealInOk = false ∧ t.tb.dealIn = i ∧ t.tb.boundaries = c.tb.boundaries ∧ t.tb.ft = c.tb.ft + w) ∧
  (c.tb.dealSrc = true → i.last = none → w < c.toBoundary → i.edgesFrom ≤ c.tb.lt + w → c.tb.periodChange = none →
    Does (.dealInEdge w) ⟨c, q⟩ fun t => t.tb.dealInOk = true ∧
      t.tb.dealIn = { i with last := some ((c.tb.lt + w) % 2 ^ 64), goodRun := i.goodRun + 1, faultRun := 0 } ∧
      t.tb.boundaries = c.tb.boundaries + 1 ∧ t.tb.ft = i.loadedDeal.getD (c.tb.ft / D + 1) * D) ∧
  (c.tb.dealSrc = true → i.last = none → w < c.toBoundary → c.tb.lt + w < i.edgesFrom → Does (.dealInEdge w) ⟨c, q⟩ fun t =>
    t.tb.dealInOk = false ∧ t.tb.dealIn = i ∧ t.tb.boundaries = c.tb.boundaries ∧ t.tb.ft = c.tb.ft + w)

/-- Firmware takes the oldest rung command and no other (R433): a command for which another mailbox or another opcode is at the
head of the rings changes nothing. -/
def Obligations.CommandsAreTakenInRingOrder : Prop := ∀ (i : Instr) (op k : Nat) (c : Chip) (q : List Instr),
  commandOf i = some (op, k) → k < 32 → c.regs.freeze.commanded = false →
  (c.stew.rung.head? ≠ some k ∨ (c.mbx k).opcode ≠ op → exec i ⟨c, q⟩ = .next ⟨c, q⟩) ∧
  (c.pkg.held = false → c.stew.bootReady = true → c.stew.phase ≠ .restarting → c.regs.freeze.accepted = true → op ∉ actsFrozen →
    (∃ rest, c.stew.rung = k :: rest ∧ k ∉ rest) → (c.mbx k).pending = true → (c.mbx k).opcode = op →
    Does i ⟨c, q⟩ (Answers k .frozen [] [] c))
end

