-- ==== Sys2Proof/Machine/Link.lean ====
section
/-! DEFINITION. What a link carries, as bytes and bits: the 264-byte block of R114, the bodies of R119, a packet's blocks and
lanes (R115, R116), the command that an arriving block is, and the line code of R120 and R121. The commands name blocks
by these contents; here is how the contents stand on the lane. -/

namespace Sys2Proof.Machine

/-! ### Blocks (R114) -/

/-- TYPE of a MARKER, CONTROL and TRAINING block. -/
def markerType : Nat := 8
def controlType : Nat := 9
def trainingType : Nat := 10

/-- TYPE of a data block, or of an IDLE or CONTROL block; `reserved` stands for every code that R114 does not list. -/
def dataType : DataType → Option Nat
  | .idle => some 0 | .first => some 1 | .middle => some 2 | .last => some 3 | .only => some 4 | .control => some 9 | .reserved => none

/-- What a TYPE code names, MARKER and TRAINING apart. -/
def typeOf (code : Nat) : DataType :=
  if code = 0 then .idle else if code = 1 then .first else if code = 2 then .middle else if code = 3 then .last
  else if code = 4 then .only else if code = 9 then .control else .reserved

/-- The block header of R114. -/
def blockHeader (type bseq lanes : Nat) (abort : Bool) : Nat :=
  field type 28 4 + field bseq 16 12 + field lanes 12 4 + field (b2n abort) 11 1

/-- The 264 bytes of a block with a 256-byte body. -/
def linkBlock (type bseq lanes : Nat) (abort : Bool) (body : List Byte) : List Byte :=
  let bs := beBytes 4 (blockHeader type bseq lanes abort) ++ body
  bs ++ beBytes 4 (crc32c bs)

/-- The header, body and check of the 264 bytes that arrive. -/
def headerOf (bs : List Byte) : Nat := beNat (bs.take 4)
def bodyOf (bs : List Byte) : List Byte := (bs.drop 4).take 256
def crcPasses (bs : List Byte) : Bool := crc32c (bs.take 260) == beNat ((bs.drop 260).take 4)

/-! ### Bodies (R119) -/

/-- 64-bit words as a body, most significant byte first, zero after them. -/
def wordsBody (ws : List Nat) : List Byte := ws.flatMap (beBytes 8) ++ List.replicate (256 - 8 * ws.length) 0

/-- Word `i` of a body. -/
def bodyWord (body : List Byte) (i : Nat) : Nat := beNat ((body.drop (8 * i)).take 8)

def markerWord (deal lanes : Nat) (aligned : Bool) (ftState : Nat) : Nat :=
  field deal 0 48 + field lanes 48 4 + field (b2n aligned) 52 1 + field ftState 53 2

/-- The marker that word 0 of a body carries; what became of its block and its instant stand beside it. -/
def markerOf (w : Nat) (check : BlockCheck) (fec : Fec) (dev : Int) : Marker :=
  ⟨bitsAt w 0 48, bitsAt w 48 4, bitAt w 52, bitsAt w 53 2, check, fec, dev⟩

def noticeCode : NoticeKind → Nat
  | .laneLeave => 1 | .laneJoin => 2 | .resize => 3 | .disable => 4

/-- The kind that a NOTICE field gives; a reserved value gives none, and its block is discarded. -/
def noticeKindOf (code : Nat) : Option NoticeKind :=
  if code = 1 then some .laneLeave else if code = 2 then some .laneJoin else if code = 3 then some .resize
  else if code = 4 then some .disable else none

def noticeWord (kind : NoticeKind) (echo : Bool) (n : Notice) : Nat :=
  field (noticeCode kind) 60 4 + field (b2n echo) 59 1 + field n.lanes 52 4 + field n.target 0 48

/-- The command that a NOTICE, or an echo of one, is. -/
def noticeInstr (p : Nat) (kind : NoticeKind) (echo : Bool) (n : Notice) : Instr :=
  if echo then .noticeEcho p kind n
  else match kind with
    | .laneLeave => .noticeLaneLeave p n
    | .laneJoin => .noticeLaneJoin p n
    | .resize => .noticeResize p n
    | .disable => .noticeDisable p n

/-- The notice in words 0 and 1 of a CONTROL body. -/
def noticeOf (w0 w1 : Nat) : Notice := ⟨bitsAt w0 52 4, bitsAt w0 0 48, bitsAt w1 0 16⟩

/-- The command that words 0 and 1 of a CONTROL body give. -/
def noticeCommand (p w0 w1 : Nat) : Option Instr :=
  (noticeKindOf (bitsAt w0 60 4)).map (fun k => noticeInstr p k (bitAt w0 59) (noticeOf w0 w1))

/-- Words 0 to 3 of a TRAINING body. -/
def trainingWords (b : TrainingBody) : List Nat :=
  [field b.cls 63 1 + field b.lotMode 60 3 + field b.port 48 12 + field b.nest 0 48,
    field b.role 0 2 + field b.lanes 2 4 + field (b2n b.aligned) 6 1 + field (b2n b.done) 7 1 + field b.xidx 8 3 +
      field (b2n b.xvalid) 11 1 + field b.ridx 12 3, b.tdep % 2 ^ 64, b.turnPs % 2 ^ 64]

/-- PATTERN: byte k of words 8 to 31. -/
def trainingPattern : List Byte := (List.range 192).map (fun k => BitVec.ofNat 8 (0x5A + 7 * k))

def trainingBytes (b : TrainingBody) : List Byte :=
  (trainingWords b ++ [0, 0, 0, 0]).flatMap (beBytes 8) ++ trainingPattern

/-- The TRAINING body in four words. -/
def trainingOf (w0 w1 w2 w3 : Nat) : TrainingBody :=
  ⟨bitsAt w0 63 1, bitsAt w0 60 3, bitsAt w0 48 12, bitsAt w0 0 48, bitsAt w1 0 2, bitsAt w1 2 4, bitAt w1 6, bitAt w1 7,
    bitsAt w1 8 3, bitAt w1 11, bitsAt w1 12 3, w2, w3⟩

/-! ### What leaves (R114 to R119) -/

/-- A packet's bytes: header, payload, and after the payload whatever `pad` holds to the end of its last block (R115 gives that
rest no content). -/
def packetBytes (pad : Nat → Byte) (p : Packet) : List Byte :=
  let bs := (packetHeader p).flatMap (beBytes 8) ++ p.payload.take p.length
  bs ++ (List.range (256 * p.cells - bs.length)).map pad

/-- TYPE of data block `i` of the `n` of a packet. -/
def pieceType (n i : Nat) : Nat := if n = 1 then 4 else if i = 0 then 1 else if i + 1 = n then 3 else 2

/-- The data blocks of a packet, BSEQ from `bseq` on (R115). -/
def packetBlocks (pad : Nat → Byte) (lanes bseq : Nat) (p : Packet) : List (List Byte) :=
  (List.range p.cells).map (fun i =>
    linkBlock (pieceType p.cells i) ((bseq + i) % 4096) lanes false (((packetBytes pad p).drop (256 * i)).take 256))

/-- The lane that takes the `i`-th data block after one on the `start`-th active lane: round-robin in lane order (R115). -/
def stripeLane (lanes start i : Nat) : Option Nat :=
  let active := (List.range 4).filter (fun k => bitAt lanes k)
  active[(start + i) % active.length]?

/-- The data blocks `first` to `first + count - 1` of the packet that leaves, as `Sent.cells` puts them on record, each on its lane: the
`start`-th active lane takes the first. -/
def cellBlocks (pad : Nat → Byte) (p : Packet) (bseq first count lanes start : Nat) : List (Option Nat × List Byte) :=
  (List.range count).map (fun i =>
    (stripeLane lanes start i, ((packetBlocks pad lanes ((bseq + 4096 - first % 4096) % 4096) p)[first + i]?).getD []))

/-- The block of a MARKER, NOTICE, TRAINING, IDLE or aborted copy that `Chip.sent` records, and its port. `bseq` fills BSEQ, which
R115 gives to data blocks alone, and `rest` the body of an IDLE block and of an ended copy, which no rule gives. -/
def sentBlock (c : Chip) (bseq : Nat) (rest : List Byte) : Sent → Option (Nat × List Byte)
  | .marker p deal lanes aligned ft => some (p, linkBlock markerType bseq lanes false (wordsBody [markerWord deal lanes aligned ft]))
  | .notice p kind echo n =>
    some (p, linkBlock controlType bseq (c.hereMask p) false (wordsBody [noticeWord kind echo n, field n.nseq 0 16]))
  | .training p b => some (p, linkBlock trainingType bseq b.lanes false (trainingBytes b))
  | .idle p => some (p, linkBlock 0 bseq (c.hereMask p) false rest)
  | .abort p => some (p, linkBlock 3 bseq (c.hereMask p) true rest)
  | _ => none

/-! ### What arrives (R114, R119 to R122) -/

/-- A block's outcome: a bit of it in an uncorrectable codeword, or else its CRC-32C, checked after correction (R121). -/
def checkOf (bad : Bool) (bs : List Byte) : BlockCheck := if bad then .uncorrectable else if crcPasses bs then .good else .crcFail

/-- The packet whose header and payload stand in `bs` (R116). -/
def packetOf (bs : List Byte) : Packet :=
  let w (i : Nat) : Nat := beNat ((bs.drop (8 * i)).take 8)
  let n := bitsAt (w 1) 1 15
  ⟨bitsAt (w 0) 16 48, bitsAt (w 0) 13 3, bitsAt (w 0) 12 1, bitAt (w 0) 11, bitsAt (w 0) 6 5, bitsAt (w 1) 16 48, n,
    bitAt (w 1) 0, bitsAt (w 2) 32 32, bitsAt (w 2) 0 32, w 3, (bs.drop 32).take n⟩

/-- PATTERN matches in a body (R119). -/
def patternMatches (body : List Byte) : Bool := (body.drop 64).take 192 == trainingPattern

/-- The command of the table that a block arriving on a lane of port `p` is: `bad` whether an uncorrectable codeword holds a bit of
it, `fec` what the lane's decoder reports, `pkt` the packet that it begins, `dev` and `arrival` its instant as a marker's and a
TRAINING block's operand take it. A discarded block is none. -/
def blockCommand (p lane : Nat) (bad : Bool) (fec : Fec) (pkt : Packet) (dev : Int) (arrival : Nat) (bs : List Byte) : Option Instr :=
  let h := headerOf bs
  let body := bodyOf bs
  let type := bitsAt h 28 4
  let check := checkOf bad bs
  let data : DataBlock := ⟨typeOf type, bitsAt h 16 12, bitsAt h 12 4, bitAt h 11, check, fec⟩
  if type = markerType then some (.markerBlock p (markerOf (bodyWord body 0) check fec dev))
  else if type = trainingType then
    some (.trainingBlock p { trainingOf (bodyWord body 0) (bodyWord body 1) (bodyWord body 2) (bodyWord body 3) with
      check := check, pattern := patternMatches body, lane := lane, fec := fec, arrival := arrival })
  else if type = controlType ∧ check = .good then noticeCommand p (bodyWord body 0) (bodyWord body 1)
  else if type = 1 ∨ type = 4 then some (.packetFirstBlock p pkt data)
  else some (.dataBlock p data)

/-! ### The line code (R120, R121) -/

/-- One bit through the self-synchronous scrambler x^58 + x^39 + 1: `s` holds the last 58 bits sent, the latest in bit 0. -/
def scramble (s : Nat) : List Bool → List Bool
  | [] => []
  | b :: bs =>
    let o := xor b (xor (s.testBit 38) (s.testBit 57))
    o :: scramble ((2 * s + b2n o) % 2 ^ 58) bs

/-- The same bits back: the register holds the bits that came. -/
def descramble (s : Nat) : List Bool → List Bool
  | [] => []
  | o :: os => xor o (xor (s.testBit 38) (s.testBit 57)) :: descramble ((2 * s + b2n o) % 2 ^ 58) os

/-- PAM4 level of a bit pair, Gray mapping. -/
def pam4 : Bool × Bool → Nat
  | (false, false) => 0 | (false, true) => 1 | (true, true) => 2 | (true, false) => 3

/-- The bit pair of a level. -/
def pam4Bits (level : Nat) : Bool × Bool := (decide (2 ≤ level), level % 4 == 1 || level % 4 == 2)

/-- Multiplication by α in GF(2^10), α^10 = α^3 + 1. -/
def rsDouble (a : Nat) : Nat := if 512 ≤ a then (2 * a) ^^^ 0x409 else 2 * a

/-- The product in GF(2^10). -/
def rsMul (a b : Nat) : Nat :=
  (List.range 10).foldl (fun acc i => (rsDouble acc) ^^^ (if b.testBit (9 - i) then a else 0)) 0

/-- α to the `n`. -/
def rsPow : Nat → Nat
  | 0 => 1
  | n + 1 => rsDouble (rsPow n)

/-- A polynomial, highest power first, times (x + a). -/
def polyStep (a : Nat) (g : List Nat) : List Nat :=
  (g ++ [0]).zipWith (fun u v => u ^^^ v) (0 :: g.map (rsMul a))

/-- The generator of RS(544,514), (x + 1)(x + α) to (x + α^29), highest power first. -/
def rsGenerator : List Nat := (List.range 30).foldl (fun g j => polyStep (rsPow j) g) [1]

/-- The 30 parity symbols of a message, first symbol the highest power: the rest of m(x)·x^30 by the generator. -/
def rsParity (m : List Nat) : List Nat :=
  m.foldl (fun r s => ((r.drop 1) ++ [0]).zipWith (fun u g => u ^^^ rsMul ((r.headD 0) ^^^ s) g) (rsGenerator.drop 1))
    (List.replicate 30 0)

def rsEncode (m : List Nat) : List Nat := m ++ rsParity m

/-- Symbols in which two words differ. -/
def rsDistance (u v : List Nat) : Nat := ((u.zip v).filter (fun x => x.1 != x.2)).length

/-- The decoder takes the 544 symbols `r` to the message `m` by correcting `n` of them. -/
def RsDecodes (r m : List Nat) (n : Nat) : Prop :=
  r.length = 544 ∧ m.length = 514 ∧ (∀ x ∈ m, x < 1024) ∧ n ≤ 15 ∧ rsDistance (rsEncode m) r = n

/-- What becomes of a received codeword: the symbols corrected, or none where it cannot be corrected. -/
def CodewordOutcome (r : List Nat) : Option Nat → Prop
  | some n => ∃ m : List Nat, RsDecodes r m n
  | none => ∀ (m : List Nat) (n : Nat), ¬ RsDecodes r m n

/-- What a decoder reports of the codewords that have ended. -/
def fecReport (l : List (Option Nat)) : Fec := ⟨l.foldl (fun a x => a + x.getD 0) 0, (l.filter (·.isNone)).length⟩

/-! ### A lane's stream (R114, R120, R121) -/

/-- The bits of a byte in the order of the lane. PRESUMED from IEEE 802.3: the least significant bit first. -/
def byteBits (b : Byte) : List Bool := (List.range 8).map (fun i => b.getLsbD i)

/-- A list in pieces of `n`; a rest shorter than `n` waits for what follows. -/
def pieces {α : Type} (n : Nat) (l : List α) : List (List α) := (List.range (l.length / n)).map (fun i => (l.drop (n * i)).take n)

/-- Ten bits as a symbol of GF(2^10) and back. PRESUMED from IEEE 802.3: the first bit is the least significant. -/
def symbolOf (bits : List Bool) : Nat := bits.foldr (fun b a => 2 * a + b2n b) 0

def symbolBits (s : Nat) : List Bool := (List.range 10).map (fun i => s.testBit i)

/-- The scrambled stream of a Sure lane with its parity: every 5140 bits as one codeword (R121). -/
def fecStream (bits : List Bool) : List Bool :=
  (pieces 5140 bits).flatMap (fun m => (rsEncode ((pieces 10 m).map symbolOf)).flatMap symbolBits)

/-- The PAM4 levels of a lane: the blocks in the order they leave, scrambled from the state `s`, with parity on a Sure port. -/
def laneLevels (sure : Bool) (s : Nat) (blocks : List (List Byte)) : List Nat :=
  let bits := scramble s (blocks.flatMap (fun b => b.flatMap byteBits))
  (pieces 2 (if sure then fecStream bits else bits)).map (fun l => pam4 (l.headD false, l.getLastD false))

/-- The codewords that hold a bit of the `i`-th block of a lane, a codeword lock counting from the first one (R121). -/
def codewordsOf (i : Nat) : List Nat :=
  let first := 2112 * i / 5140
  (List.range ((2112 * i + 2111) / 5140 + 1 - first)).map (fun k => first + k)

/-- The outcome of the `i`-th block of a lane, given which codewords could not be corrected (R121). -/
def blockOutcome (sure : Bool) (bad : Nat → Bool) (i : Nat) (bs : List Byte) : BlockCheck :=
  checkOf (sure && (codewordsOf i).any bad) bs

end Sys2Proof.Machine
end

