-- ==== Sys2Proof/Laws/Link.lean ====
section
/-! SUPPORT. What the link's codings keep: the scrambler and the Gray mapping lose no bit, and an arriving NOTICE is the one
that was sent. -/

namespace Sys2Proof.Laws

open Sys2Proof.Machine

/-- The receiver's register follows the sender's, so every bit comes back (R120). -/
theorem descramble_scramble (bits : List Bool) (s : Nat) : descramble s (scramble s bits) = bits := by
  induction bits generalizing s with
  | nil => rfl
  | cons b bs ih => simp [scramble, descramble, ih]

theorem pam4Bits_pam4 (b : Bool × Bool) : pam4Bits (pam4 b) = b := by
  obtain ⟨x, y⟩ := b
  cases x <;> cases y <;> rfl

theorem noticeKindOf_noticeCode (k : NoticeKind) : noticeKindOf (noticeCode k) = some k := by cases k <;> rfl

/-- Four fields side by side, each below its width, come back. -/
theorem fields_apart (u v x t : Nat) (hu : u < 2 ^ 4) (hv : v < 2) (hx : x < 2 ^ 4) (ht : t < 2 ^ 48) :
    bitsAt (field u 60 4 + field v 59 1 + field x 52 4 + field t 0 48) 60 4 = u ∧
    (field u 60 4 + field v 59 1 + field x 52 4 + field t 0 48) / 2 ^ 59 % 2 = v ∧
    bitsAt (field u 60 4 + field v 59 1 + field x 52 4 + field t 0 48) 52 4 = x ∧
    bitsAt (field u 60 4 + field v 59 1 + field x 52 4 + field t 0 48) 0 48 = t := by
  simp only [field, bitsAt, Nat.pow_zero, Nat.div_one, Nat.mul_one, Nat.mod_eq_of_lt hu, Nat.mod_eq_of_lt hx, Nat.mod_eq_of_lt ht,
    Nat.mod_eq_of_lt (show v < 2 ^ 1 from hv)]
  norm_num only at *
  omega

/-- The fields of a NOTICE word (R119). -/
theorem noticeWord_fields (k : NoticeKind) (e : Bool) (n : Notice) (hl : n.lanes < 16) (ht : n.target < 2 ^ 48) :
    bitsAt (noticeWord k e n) 60 4 = noticeCode k ∧ bitAt (noticeWord k e n) 59 = e ∧
      bitsAt (noticeWord k e n) 52 4 = n.lanes ∧ bitsAt (noticeWord k e n) 0 48 = n.target := by
  have hc : noticeCode k < 2 ^ 4 := by cases k <;> decide
  have he : b2n e < 2 := by cases e <;> decide
  have hb : (b2n e == 1) = e := by cases e <;> rfl
  have h := fields_apart (noticeCode k) (b2n e) n.lanes n.target hc he hl ht
  rw [← noticeWord] at h
  refine ⟨h.1, ?_, h.2.2.1, h.2.2.2⟩
  rw [bitAt, h.2.1, hb]

/-- The number of a NOTICE stands in word 1 (R119). -/
theorem noticeOf_sent (k : NoticeKind) (e : Bool) (n : Notice) (hl : n.lanes < 16) (ht : n.target < 2 ^ 48)
    (hs : n.nseq < 2 ^ 16) : noticeOf (noticeWord k e n) (field n.nseq 0 16) = n := by
  have seq : bitsAt (field n.nseq 0 16) 0 16 = n.nseq := by
    simp only [bitsAt, field, Nat.pow_zero, Nat.div_one, Nat.mul_one]
    omega
  obtain ⟨_, _, h3, h4⟩ := noticeWord_fields k e n hl ht
  rw [noticeOf, h3, h4, seq]

/-- A NOTICE and an echo arrive as the command of their kind, with the notice that was sent (R119). -/
theorem noticeCommand_sent (p : Nat) (k : NoticeKind) (e : Bool) (n : Notice) (hl : n.lanes < 16) (ht : n.target < 2 ^ 48)
    (hs : n.nseq < 2 ^ 16) :
    noticeCommand p (noticeWord k e n) (field n.nseq 0 16) = some (noticeInstr p k e n) := by
  obtain ⟨h1, h2, _, _⟩ := noticeWord_fields k e n hl ht
  rw [noticeCommand, h1, h2, noticeOf_sent k e n hl ht hs, noticeKindOf_noticeCode]
  rfl

end Sys2Proof.Laws
end

