-- ==== Sys2Proof/Laws/Numbers.lean ====
section
/-! SUPPORT. What an operation whose result is stated within a bound can give (R280, R317). -/

namespace Sys2Proof.Machine

open Sys2Proof

/-- A picked place lies between the two. -/
theorem pickPlace_between {a b : Int} (h : a ≤ b) (free : Nat) : a ≤ pickPlace a b free ∧ pickPlace a b free ≤ b := by
  have : free % ((b - a).toNat + 1) < (b - a).toNat + 1 := Nat.mod_lt _ (Nat.succ_pos _)
  unfold pickPlace; omega

/-- Every place between the two is picked by some free value. -/
theorem pickPlace_surjective {a b p : Int} (ha : a ≤ p) (hb : p ≤ b) : pickPlace a b (p - a).toNat = p := by
  have := Nat.mod_eq_of_lt (a := (p - a).toNat) (b := (b - a).toNat + 1) (by omega)
  unfold pickPlace; omega

/-- A result within a bound is the FP32 value of a place within it. -/
theorem near_place (k : Nat) (y : Enclosed) (free : Nat) (h : (placesNear k y).1 ≤ (placesNear k y).2) :
    ∃ p, (placesNear k y).1 ≤ p ∧ p ≤ (placesNear k y).2 ∧ near k y free = placeBits p :=
  ⟨_, (pickPlace_between h free).1, (pickPlace_between h free).2, rfl⟩

end Sys2Proof.Machine
end

