-- ==== Sys2Proof/Laws/State.lean ====
section
/-! SUPPORT. Laws of the sparse tables and of the memories: what a write leaves at every key, and that it keeps the
canonical form. -/

namespace Sys2Proof

theorem Tab.get_put {α : Type} (d : α) (k j : Nat) (v : α) (t : Tab α) :
    Tab.get d j (Tab.put k v t) = if j = k then v else Tab.get d j t := by
  induction t with
  | nil => simp only [Tab.put, Tab.get]; exact if_congr eq_comm rfl rfl
  | cons e t ih =>
    obtain ⟨i, w⟩ := e
    simp only [Tab.put]
    split
    · rename_i h
      by_cases hj : j = k
      · subst hj; simp [Tab.get]
      · simp [Tab.get, hj, Ne.symm hj]
    · split
      · rename_i h; subst h
        by_cases hj : j = k
        · subst hj; simp [Tab.get]
        · simp [Tab.get, hj, Ne.symm hj]
      · rename_i h1 h2
        by_cases hj : j = k
        · subst hj; simp [Tab.get, ih, Ne.symm h2]
        · simp only [Tab.get, ih, hj, if_false]

theorem Tab.get_erase {α : Type} (d : α) (k j : Nat) (t : Tab α) :
    Tab.get d j (Tab.erase k t) = if j = k then d else Tab.get d j t := by
  induction t with
  | nil => simp [Tab.erase, Tab.get]
  | cons e t ih =>
    obtain ⟨i, w⟩ := e
    simp only [Tab.erase]
    split
    · rename_i hi; subst hi; rw [ih]
      by_cases h : j = i
      · simp [h]
      · simp [h, Tab.get, Ne.symm h]
    · rename_i hi
      simp only [Tab.get, ih]
      by_cases h : j = k
      · subst h; simp [hi]
      · simp [h]

/-- What a table holds after a write, at every key. -/
theorem Tab.get_set {α : Type} [DecidableEq α] (d : α) (k j : Nat) (v : α) (t : Tab α) :
    Tab.get d j (Tab.set d k v t) = if j = k then v else Tab.get d j t := by
  simp only [Tab.set]; split
  · rename_i h; rw [Tab.get_erase, h]
  · rw [Tab.get_put]

/-- Canonical form as an order and a side condition on entries. -/
theorem Tab.wfFrom_iff {α : Type} [DecidableEq α] (d : α) (lo : Option Nat) (t : Tab α) :
    Tab.wfFrom d lo t = true ↔ t.Pairwise (fun a b => a.1 < b.1) ∧ ∀ e ∈ t, e.2 ≠ d ∧ ∀ l, lo = some l → l < e.1 := by
  induction t generalizing lo with
  | nil => simp [Tab.wfFrom]
  | cons e t ih =>
    obtain ⟨j, v⟩ := e
    simp only [Tab.wfFrom, Bool.and_eq_true, decide_eq_true_eq, ih, List.pairwise_cons, List.mem_cons, forall_eq_or_imp]
    constructor
    · rintro ⟨⟨h1, h2⟩, h3, h4⟩
      refine ⟨⟨fun b hb => (h4 b hb).2 j rfl, h3⟩, ⟨h2, ?_⟩, fun b hb => ⟨(h4 b hb).1, ?_⟩⟩
      · rintro l rfl; simpa using h1
      · rintro l rfl; exact lt_trans (by simpa using h1) ((h4 b hb).2 j rfl)
    · rintro ⟨⟨h1, h2⟩, ⟨h3, h4⟩, h5⟩
      refine ⟨⟨?_, h3⟩, h2, fun b hb => ⟨(h5 b hb).1, fun l hl => by cases hl; exact h1 b hb⟩⟩
      cases lo with
      | none => rfl
      | some l => simpa using h4 l rfl

theorem Tab.wf_iff {α : Type} [DecidableEq α] (d : α) (t : Tab α) :
    Tab.wf d t = true ↔ t.Pairwise (fun a b => a.1 < b.1) ∧ ∀ e ∈ t, e.2 ≠ d := by
  simp [Tab.wf, Tab.wfFrom_iff]

theorem Tab.mem_put {α : Type} (k : Nat) (v : α) (t : Tab α) (e : Nat × α) (h : e ∈ Tab.put k v t) : e = (k, v) ∨ e ∈ t := by
  induction t with
  | nil => simpa [Tab.put] using h
  | cons x t ih =>
    simp only [Tab.put] at h
    split at h
    · simpa using h
    · split at h
      · simp at h ⊢; tauto
      · simp at h ⊢; tauto

theorem Tab.erase_sublist {α : Type} (k : Nat) (t : Tab α) : (Tab.erase k t).Sublist t := by
  induction t with
  | nil => exact .slnil
  | cons x t ih =>
    simp only [Tab.erase]
    split
    · exact ih.cons _
    · exact ih.cons_cons _

theorem Tab.wf_sublist {α : Type} [DecidableEq α] {d : α} {t u : Tab α} (h : u.Sublist t) (w : Tab.wf d t = true) :
    Tab.wf d u = true := by
  rw [Tab.wf_iff] at *
  exact ⟨w.1.sublist h, fun e he => w.2 e (h.subset he)⟩

theorem Tab.wf_put {α : Type} [DecidableEq α] {d : α} {k : Nat} {v : α} {t : Tab α} (hv : v ≠ d) (w : Tab.wf d t = true) :
    Tab.wf d (Tab.put k v t) = true := by
  rw [Tab.wf_iff] at *
  refine ⟨?_, fun e he => ?_⟩
  · have p := w.1
    clear w
    induction t with
    | nil => simp [Tab.put]
    | cons x t ih =>
      rw [List.pairwise_cons] at p
      simp only [Tab.put]
      split
      · rename_i hk
        refine List.pairwise_cons.2 ⟨fun b hb => ?_, List.pairwise_cons.2 p⟩
        rcases List.mem_cons.1 hb with rfl | hb
        · exact hk
        · exact lt_trans hk (p.1 b hb)
      · split
        · rename_i hk; subst hk; exact List.pairwise_cons.2 ⟨p.1, p.2⟩
        · rename_i h1 h2
          refine List.pairwise_cons.2 ⟨fun b hb => ?_, ih p.2⟩
          rcases Tab.mem_put _ _ _ _ hb with rfl | hb
          · show x.1 < k; omega
          · exact p.1 b hb
  · rcases Tab.mem_put _ _ _ _ he with rfl | he
    · exact hv
    · exact w.2 e he

/-- Every write keeps a table canonical. -/
theorem Tab.wf_set {α : Type} [DecidableEq α] {d : α} {k : Nat} {v : α} {t : Tab α} (w : Tab.wf d t = true) :
    Tab.wf d (Tab.set d k v t) = true := by
  simp only [Tab.set]; split
  · exact Tab.wf_sublist (Tab.erase_sublist k t) w
  · rename_i h; exact Tab.wf_put h w
end Sys2Proof
namespace Sys2Proof.Machine
open Sys2Proof
@[simp] theorem Memory.wf_nil : Memory.wf [] = true := rfl
theorem Memory.wf_write {a : Nat} {b : Byte} {m : List Host.Cell} (w : Memory.wf m = true) : Memory.wf (Memory.write a b m) = true := Tab.wf_set w
theorem Memory.wf_writeBytes {a : Nat} {bs : List Byte} {m : List Host.Cell} (w : Memory.wf m = true) :
    Memory.wf (Memory.writeBytes a bs m) = true := by
  induction bs generalizing a m with
  | nil => exact w
  | cons b bs ih => exact ih (Memory.wf_write w)
theorem Memory.wf_filter {p : Host.Cell → Bool} {m : List Host.Cell} (w : Memory.wf m = true) : Memory.wf (m.filter p) = true :=
  Tab.wf_sublist List.filter_sublist w
theorem wb_ite {p : Prop} [Decidable p] {a b : List Host.Cell} (h1 : Memory.wf a = true) (h2 : Memory.wf b = true) : Memory.wf (if p then a else b) = true := by split <;> assumption
end Sys2Proof.Machine
end

