-- ==== Sys2Proof/Tests/Slice0.lean ====
section
/-! SUPPORT. Tests: operands that no command can have are refused, and a state and operands for each situation the statements speak of. -/

namespace Sys2Proof.Machine

open Sys2Proof

/-- A part right after reset, with firmware and every bring-up stage behind it, and one command rung. -/
def rung (b : Chip) (op k n : Nat) (req : Tab W32) : Chip :=
  { b with
    stew := { b.stew with mbx := [(k, { opcode := op, words := n, req := req, pending := true, ticket := 1 })], rung := [k]
                          bootReady := true, phase := .running }
    boot := { b.boot with ended := 255 } }

/-- The part right after reset. -/
abbrev fresh0 : Chip := State.reset.chip

theorem served_rung (b : Chip) (op k n : Nat) (req : Tab W32) (hk : k < 16) (ha : b.pkg.held = false)
    (hf : b.regs.freeze.accepted = false) : Served op k n (fun i => (Tab.get 0 i req).toNat) (rung b op k n req) where
  box := by omega
  inBand := by intro h; omega
  awake := ha
  ready := rfl
  phase := by simp [rung]
  thawed := hf
  oldest := ⟨[], rfl, by simp⟩
  rung := by simp [rung, Chip.mbx, Tab.get]
  opcode := by simp [rung, Chip.mbx, Tab.get]
  words := by simp [rung, Chip.mbx, Tab.get]
  request := by funext i; simp [rung, Chip.reqWord, Chip.mbx, Tab.get]
  staged := by
    intro h
    show bitAt 255 (stageOf op) = true
    unfold stageOf at h ⊢
    split at h <;> (try split) <;> decide

theorem fresh0_up : fresh0.Up := ⟨rfl, rfl⟩

/-- A packet with nothing in it but its payload. -/
def barePkt (pl : List (BitVec 8)) : Packet := ⟨0, 0, 0, false, 0, 0, pl.length, false, 0, 0, crc64 pl, pl⟩

theorem barePkt_good (pl : List (BitVec 8)) : (barePkt pl).crcGood = true := by simp [barePkt, Packet.crcGood]

/-- Request words from a list. -/
def reqOf (l : List Nat) : Tab W32 := (List.range l.length).map fun i => (i, BitVec.ofNat 32 (l.getD i 0))

/-- Mailbox 0 of a part right after reset holds a command of these words. -/
abbrev asked (b : Chip) (op : Nat) (ws : List Nat) : Chip := rung b op 0 ws.length (reqOf ws)

abbrev wordsOf (ws : List Nat) : Nat → Nat := fun i => (Tab.get 0 i (reqOf ws)).toNat

theorem served_asked (b : Chip) (op : Nat) (ws : List Nat) (ha : b.pkg.held = false) (hf : b.regs.freeze.accepted = false) :
    Served op 0 ws.length (wordsOf ws) (asked b op ws) := served_rung b op 0 ws.length (reqOf ws) (by decide) ha hf

theorem test_refuses_mailbox : Instr.wf (.timeSet 32) = false := by decide

theorem test_refuses_half : Instr.wf (.larderGrant 2) = false := by decide

theorem test_refuses_lane : Instr.wf (.lightLoss 0xC00) = false ∧ Instr.wf (.lightLoss (0x800 + 328)) = false := by decide

theorem test_refuses_laser : Instr.wf (.monitorResult [(20, List.replicate 8 0)]) = false := by decide

theorem test_refuses_port : Instr.wf (.portSilence 0x804) = false := by decide

theorem test_refuses_egress : Instr.wf (.egressSchedule 0x1002) = false := by decide

theorem test_refuses_sensor : Instr.wf (.thermalCompare [(2, 0)]) = false := by decide

theorem test_refuses_kitty_slot : Instr.wf (.kittyDeadline 0 32768) = false := by decide

theorem test_refuses_loom : Instr.wf (.sampleAck 64 0) = false := by decide

theorem test_refuses_packet : Instr.wf (.mack ⟨0, 8, 0, false, 0, 0, 0, false, 0, 0, 0, []⟩) = false := by decide

theorem test_refuses_block : Instr.wf (.dataBlock 0 ⟨.last, 4096, 0, false, .good, {}⟩) = false := by decide

theorem test_refuses_lanes : Instr.wf (.dataBlock 0 ⟨.last, 0, 16, false, .good, {}⟩) = false := by decide

theorem test_refuses_fec : Instr.wf (.dataBlock 0 ⟨.last, 0, 0, false, .good, ⟨2 ^ 32, 0⟩⟩) = false := by decide

theorem test_refuses_notice : Instr.wf (.noticeResize 0 ⟨16, 0, 0⟩) = false := by decide

theorem test_refuses_marker : Instr.wf (.markerBlock 0 ⟨0, 0, false, 4, .good, {}, 0⟩) = false := by decide

theorem test_refuses_training :
    Instr.wf (.trainingBlock 0 ⟨⟨2, 0, 0, 0, 0, 0, false, false, 0, false, 0, 0, 0⟩, .good, true, 4, {}, 0⟩) = false := by decide

theorem test_refuses_announce : Instr.wf (.ptpAnnounce ⟨256, 0, 0, 0, 0, 0, 0, 0, 0, 0, 0⟩) = false := by decide

theorem test_refuses_i3c_address : Instr.wf (.i3cCcc (.entdaa 128)) = false := by decide

theorem test_refuses_mailbox_write : Instr.wf (.mbRequestWrite 0 2 [0, 0, 0, 0]) = false := by decide

theorem test_refuses_header_read : Instr.wf (.mbResultRead 0 4 8) = false := by decide

theorem witness_IdleStepIsOneCycle : ∃ c : Chip, c.Up ∧ 65 < c.toBoundary ∧ c.cycle + 1 ≠ c.dealCycles / 2 ∧
    (∀ e ∈ c.loom.slots, e.2.en = false) ∧ (c.kit.half.get 0).ingest = [] ∧ (c.kit.half.get 1).ingest = [] ∧ c.tb.ftRate = 0 ∧ c.tb.ftFrac = 0 := ⟨fresh0, fresh0_up, by decide⟩

theorem witness_EveryWellFormedCommandRuns : Instr.wf .dealBoundary = true ∧ Instr.wf (.timeSet 32) = false := by decide

theorem witness_WellFedQueueIsServed : ∃ s : State, s.wellFed = true ∧ s.pending.length = 2 :=
  ⟨⟨fresh0, [.resetAccept, .timeSet 31]⟩, by decide⟩

theorem witness_MemoriesStayCanonical : ∃ s t : State, step s = .next t ∧
    Memory.wf s.chip.loom.bench = true ∧ Memory.wf s.chip.lard.hbm = true :=
  ⟨⟨fresh0, [.i3cCcc .enec]⟩, _, rfl, by decide, by decide⟩

theorem witness_IdentityOutlivesEveryStep : ∃ s t : State, step s = .next t := ⟨⟨fresh0, [.resetAccept]⟩, _, rfl⟩

theorem witness_HeldPartIgnoresCommands : ∃ (i : Instr) (s : State), s.chip.pkg.held = true ∧ i.wf = true ∧
    i ≠ .resetAccept ∧ (∀ straps, i ≠ .resetRelease straps) ∧ i ≠ .railOutOfTolerance :=
  ⟨.dealBoundary, ⟨{ fresh0 with pkg := { held := true } }, []⟩, by decide, by decide, by decide, by intro x; simp, by decide⟩

theorem witness_FrozenFabricStands : ∃ (i : Instr) (s : State), s.chip.regs.freeze.accepted = true ∧
    stoppedByFreeze i = true ∧ i.wf = true :=
  ⟨.dealBoundary, ⟨{ fresh0 with regs := { freeze := { accepted := true } } }, []⟩, by decide, by decide, by decide⟩

theorem witness_TimeCommandsComplete :
    (∃ k w c, Served 0x0101 k 3 w c ∧ c.tb.ftRole = true ∧ c.quiescent = true ∧ w 2 % 8192 = 0 ∧ w 2 < 1000000000) ∧
    (∃ k w c, Served 0x0102 k 0 w c) ∧
    (∃ k w c, Served 0x0103 k 2 w c ∧ c.isPort (bitsAt (w 0) 0 12) = true ∧ (toSigned (w 1) 32).natAbs ≤ 1000000) ∧
    (∃ k w c, Served 0x0104 k 1 w c ∧ c.quiescent = true ∧ (bitAt (w 0) 0 = true ∨ (c.isPort (bitsAt (w 0) 3 11) = true ∧
      (bitAt (w 0) 2 = true → c.isPort (bitsAt (w 0) 14 11) = true)))) ∧
    (∃ k w c, Served 0x0105 k 0 w c) ∧
    (∃ k w c, Served 0x0106 k 4 w c ∧ (bitAt (w 0) 9 = true → c.ftMaster = true) ∧ bitsAt (w 2) 0 6 ≤ 32) ∧
    (∃ k w c, Served 0x0107 k 3 w c ∧ c.tb.aligned = true ∧ c.quiescent = true ∧ c.ftSec < nameAt w 1 ∧ bitsAt (w 0) 0 3 ≤ 4) :=
  ⟨⟨0, _, _, served_asked { fresh0 with tb := { ftRole := true } } 0x0101 [0, 0, 999997440] rfl rfl, by decide⟩,
   ⟨0, _, _, served_asked fresh0 0x0102 [] rfl rfl⟩,
   ⟨0, _, _, served_asked { fresh0 with ports := { lotMode := [(0, 0)] } } 0x0103 [0, 1000000] rfl rfl, by decide⟩,
   ⟨0, _, _, served_asked fresh0 0x0104 [1] rfl rfl, by decide⟩,
   ⟨0, _, _, served_asked fresh0 0x0105 [] rfl rfl⟩,
   ⟨0, _, _, served_asked fresh0 0x0106 [1, 0, 32, 0] rfl rfl, by decide⟩,
   ⟨0, _, _, served_asked { fresh0 with tb := { aligned := true } } 0x0107 [4, 1, 0] rfl rfl, by decide⟩⟩

theorem witness_TimeExchangesComplete :
    (∃ c : Chip, c.Up ∧ c.ftMaster = false ∧ c.deal % 16 = 0 ∧ c.tb.servo.outstanding = none ∧
      (c.port c.parentPort).link.live = true ∧ c.inWindow c.parentPort = true) ∧
    (∃ (c : Chip) (p : Nat) (pkt : Packet) (t2 : Nat), c.Up ∧ okPort p = true ∧ okPacket pkt = true ∧ t2 < 2 ^ 64 ∧
      pkt.crcGood = true ∧ bitsAt (pkt.word 0) 60 4 = 1 ∧ c.recentDeal (bitsAt (pkt.word 0) 0 48) = true ∧ (c.port p).link.live = true) ∧
    (∃ (c : Chip) (p : Nat) (pkt : Packet) (t2 : Nat), c.Up ∧ okPort p = true ∧ okPacket pkt = true ∧ t2 < 2 ^ 64 ∧
      (c.port p).link.live = false) ∧
    (∃ (c : Chip) (p : Nat) (pkt : Packet) (t4 : Nat), c.Up ∧ okPort p = true ∧ okPacket pkt = true ∧ t4 < 2 ^ 64 ∧
      c.ftMaster = false ∧ p = c.parentPort ∧ pkt.crcGood = true ∧ bitsAt (pkt.word 0) 60 4 = 2 ∧
      c.recentDeal (bitsAt (pkt.word 0) 0 48) = true ∧ c.tb.servo.outstanding = some (bitsAt (pkt.word 0) 0 48) ∧
      c.tb.ftState = .track) ∧
    (∃ c : Chip, c.Up ∧ c.tb.ftState = .holdover) ∧
    (∃ (c : Chip) (v : Nat), c.Up ∧ c.tb.timeSet = some v ∧ c.tb.dealSrc = false) :=
  ⟨⟨{ fresh0 with ports := { port := [(0, { link := .up })] } }, ⟨rfl, rfl⟩, by decide⟩,
   ⟨{ fresh0 with ports := { port := [(0, { link := .up })] } }, 0, barePkt [0x10, 0, 0, 0, 0, 0, 0, 0], 0, ⟨rfl, rfl⟩, by decide +kernel⟩,
   ⟨fresh0, 0, barePkt [], 0, fresh0_up, by decide +kernel⟩,
   ⟨{ fresh0 with tb := { ftState := .track, servo := { outstanding := some 0 } } }, 0,
     barePkt [0x20, 0, 0, 0, 0, 0, 0, 0], 0, ⟨rfl, rfl⟩, by decide +kernel⟩,
   ⟨{ fresh0 with tb := { ftState := .holdover } }, ⟨rfl, rfl⟩, by decide⟩,
   ⟨{ fresh0 with tb := { timeSet := some 0 } }, 0, ⟨rfl, rfl⟩, by decide⟩⟩

theorem witness_PtpFollowerComplete :
    (∃ (c : Chip) (a : Announce), c.pkg.held = false ∧ c.tb.ptEn = true ∧ c.stew.phase ≠ .restarting ∧ okAnnounce a = true ∧
      a.domain = c.tb.ptp.domain ∧ a.transport = c.tb.ptp.transport ∧ c.tb.ptp.master = none ∧ c.tb.ptState ≠ .slave) ∧
    (∃ (c : Chip) (m : PtpHeader), c.pkg.held = false ∧ c.tb.ptEn = true ∧ c.stew.phase ≠ .restarting ∧ okPtp m = true ∧
      c.fromMaster (-4) 1 m = true) ∧
    (∃ (c : Chip) (m : PtpHeader) (s : Nat) (t1 t3 : Int), s < 65536 ∧ c.pkg.held = false ∧ c.tb.ptEn = true ∧ c.stew.phase ≠ .restarting ∧
      okPtp m = true ∧ c.fromMaster (-4) 1 m = true ∧ c.fromMaster (-4) 2 m = true ∧ c.tb.ptp.syncSeq = s ∧
      c.tb.ptp.awaitFollowUp = true ∧ c.tb.ptp.delaySeq = s ∧ c.tb.ptp.t1 = some t1 ∧ c.tb.ptp.t3 = some t3) :=
  ⟨⟨{ fresh0 with tb := { ptEn := true } }, ⟨0, 0, 255, 255, 255, 65535, 255, 2 ^ 64 - 1, 65535, 2 ^ 80 - 1, 37⟩, by decide⟩,
   ⟨{ fresh0 with tb := { ptEn := true, ptp := { master := some ⟨0, 0, 0, 0, 0, 0, 0, 0, 0, 2 ^ 80 - 1, 0⟩ } } },
     ⟨0, 0, 2 ^ 80 - 1, -4⟩, by decide⟩,
   ⟨{ fresh0 with tb := { ptEn := true, ptp := { master := some ⟨0, 0, 0, 0, 0, 0, 0, 0, 0, 1, 0⟩, awaitFollowUp := true, t1 := some 5, t3 := some 6 } } },
     ⟨0, 0, 1, 1⟩, 0, 5, 6, by decide⟩⟩

theorem witness_CapturesAndStampsComplete : ∃ c : Chip, c.Up ∧ c.capSelects 1 true = true ∧ (c.cap 1).waiting = true :=
  ⟨{ fresh0 with tb := { capEdge1 := 1, cap1 := { waiting := true } } }, ⟨rfl, rfl⟩, by decide⟩

theorem witness_StampReadPopsQueue :
    (∃ (c : Chip) (h : Nat) (x : Stamp) (l : List Stamp), c.Up ∧ h < 2 ∧ (c.tb.tsq.get h).entries = x :: l) ∧
    (∃ (c : Chip) (h : Nat), c.Up ∧ h < 2 ∧ (c.tb.tsq.get h).entries = []) :=
  ⟨⟨{ fresh0 with tb := { tsq := ⟨{}, { entries := [⟨0, 0, 0, 0, 0, 0, 0⟩] }⟩ } }, 1, _, [], ⟨rfl, rfl⟩, by decide, rfl⟩,
   ⟨fresh0, 0, fresh0_up, by decide, rfl⟩⟩

theorem witness_ResetAndFreezeComplete :
    (∃ c : Chip, c.pkg.held = true) ∧ (∃ c : Chip, c.pkg.held = false) ∧ (∃ c : Chip, c.Up) ∧
    (∃ c : Chip, c.pkg.held = false ∧ c.regs.freeze.accepted = true ∧ c.regs.freeze.frozen = false) :=
  ⟨⟨{ fresh0 with pkg := { held := true } }, rfl⟩, ⟨fresh0, rfl⟩, ⟨fresh0, fresh0_up⟩,
   ⟨{ fresh0 with regs := { freeze := { accepted := true } } }, by decide⟩⟩

theorem witness_PowerAndThermalComplete :
    (∃ (c : Chip) (i : Nat) (v : Int), okSensor i = true ∧ c.pkg.held = false ∧ (thresholds i).1 ≤ v ∧ v < (thresholds i).2.2) ∧
    (∃ (c : Chip) (i : Nat) (v : Int), okSensor i = true ∧ c.Up ∧ (thresholds i).2.2 ≤ v ∧ Tab.get false i c.pkg.overTrip = true ∧
      Tab.get false i c.pkg.warn = true ∧ c.pkg.thermtrip = false) ∧
    (∃ i : Nat, i ≤ 0x2E ∧ i % 2 = 0 ∧ i ≠ 2) ∧
    (∃ k w c, Served 0x0201 k 2 w c ∧ (bitsAt (w 0) 0 16 = 0 ∨ (1000 ≤ bitsAt (w 0) 0 16 ∧ bitsAt (w 0) 0 16 ≤ 4800)) ∧
      300 ≤ bitsAt (w 1) 0 16 ∧ bitsAt (w 1) 0 16 ≤ 1000) ∧
    (∃ k w c, Served 0x0202 k 0 w c) :=
  ⟨⟨fresh0, 4, (thresholds 4).1, by decide⟩,
   ⟨{ fresh0 with pkg := { overTrip := [(4, true)], warn := [(4, true)] } }, 4, (thresholds 4).2.2, by decide, ⟨rfl, rfl⟩, by decide⟩,
   ⟨0x2E, by decide⟩,
   ⟨0, _, _, served_asked fresh0 0x0201 [4800, 1000] rfl rfl, by decide⟩,
   ⟨0, _, _, served_asked fresh0 0x0202 [] rfl rfl⟩⟩

theorem witness_NoticesComplete :
    (∃ (c : Chip) (p : Nat) (n : Notice), c.Up ∧ okPort p = true ∧ okNotice n = true ∧ (c.port p).link.live = true ∧
      n.nseq ∉ (c.port p).echoed) ∧
    (∃ (c : Chip) (p : Nat) (n : Notice), c.Up ∧ okPort p = true ∧ okNotice n = true ∧ (c.port p).draining = true) :=
  ⟨⟨{ fresh0 with ports := { port := [(0x803, { link := .up })] } }, 0x803, ⟨15, 2 ^ 48 - 1, 65535⟩, ⟨rfl, rfl⟩, by decide⟩,
   ⟨{ fresh0 with ports := { port := [(0, { draining := true })] } }, 0, ⟨0, 0, 0⟩, ⟨rfl, rfl⟩, by decide⟩⟩

theorem witness_LinkEventsComplete :
    (∃ (c : Chip) (p : Nat) (b : TrainingBlock), c.Up ∧ okPort p = true ∧ okTraining b = true ∧ b.check = .good ∧
      (c.port p).link = .down ∧ bitAt (c.hereMask p) b.lane = true) ∧
    (∃ (c : Chip) (p : Nat), c.Up ∧ okPort p = true ∧ (c.port p).link = .train ∧ (c.port p).train.entered + 2000000 ≤ c.tb.lt ∧
      (c.port p).train.timeoutRaised = false) ∧
    (∃ (c : Chip) (p : Nat) (m : Marker), c.Up ∧ okPort p = true ∧ okMarker m = true ∧ (c.port p).link.marks = true ∧
      Marker.good m = true ∧ ((c.port p).farLanes = m.lanes ∨ runMask (c.cfgWidth p) (c.hereMask p &&& m.lanes) ≠ 0)) ∧
    (∃ (c : Chip) (p : Nat) (m : Marker), c.Up ∧ okPort p = true ∧ okMarker m = true ∧ (c.port p).link.marks = true ∧
      Marker.good m = true ∧ (c.port p).farLanes ≠ m.lanes ∧ runMask (c.cfgWidth p) (c.hereMask p &&& m.lanes) = 0) ∧
    (∃ (c : Chip) (p : Nat), c.Up ∧ okPort p = true ∧ (c.port p).link.marks = true) ∧
    (∃ (c : Chip) (p : Nat), c.Up ∧ okPort p = true ∧ (c.port p).link.live = true) :=
  ⟨⟨{ fresh0 with
        ports := { lotMode := [(0, 0)], port := [(0, { link := .down })] }
        light := { lanes := [(0, { tx := { state := .locked }, rx := { state := .locked } })] } }, 0,
      ⟨⟨0, 0, 0, 0, 0, 1, false, false, 0, false, 0, 0, 0⟩, .good, true, 0, Fec.mk 0 0, 0⟩, ⟨rfl, rfl⟩, by decide⟩,
   ⟨{ fresh0 with ports := { port := [(2047, { link := .train })] }, tb := { lt := 2000000 } }, 2047, ⟨rfl, rfl⟩, by decide⟩,
   ⟨{ fresh0 with
        ports := { lotMode := [(0, 0)], port := [(0, { link := .up })] }
        light := { lanes := [(0, { tx := { state := .locked }, rx := { state := .locked } })] } }, 0,
      ⟨0, 1, true, 2, .good, Fec.mk 0 0, 0⟩, ⟨rfl, rfl⟩, by decide⟩,
   ⟨{ fresh0 with ports := { port := [(0, { link := .up })] } }, 0, ⟨0, 15, true, 2, .good, Fec.mk 0 0, 0⟩, ⟨rfl, rfl⟩, by decide⟩,
   ⟨{ fresh0 with ports := { port := [(0, { link := .train })] } }, 0, ⟨rfl, rfl⟩, by decide⟩,
   ⟨{ fresh0 with ports := { port := [(0, { link := .resize })] } }, 0, ⟨rfl, rfl⟩, by decide⟩⟩

theorem witness_PortCommandsComplete :
    (∃ k w c, Served 0x0401 k 2 w c ∧ bitsAt (w 0) 0 11 % 4 = 0 ∧
      (∀ i, i < 4 → (c.port (bitsAt (w 0) 0 11 + i)).link = .disabled) ∧ (∀ i, i < 4 → bitsAt (w 1) (2 * i) 2 ≠ 3) ∧
      bitsAt (w 0) 11 3 ≠ 5 ∧ bitsAt (w 0) 11 3 ≠ 6) ∧
    (∃ k w c, Served 0x0402 k 1 w c ∧ c.isPort (bitsAt (w 0) 0 12) = true ∧ bitsAt (w 0) 0 12 < 2048 ∧
      (c.portLanes (bitsAt (w 0) 0 12)).all (fun x => c.laneAbsent x.1) = false ∧
      (c.port (bitsAt (w 0) 0 12)).link = .disabled) ∧
    (∃ k w c, Served 0x0403 k 1 w c ∧ c.isPort (bitsAt (w 0) 0 12) = true ∧ bitsAt (w 0) 0 12 < 2048) ∧
    (∃ k w c, Served 0x0404 k 1 w c ∧ c.isPort (bitsAt (w 0) 0 12) = true) :=
  ⟨⟨0, _, _, served_asked fresh0 0x0401 [2044, 0xAA] rfl rfl, by decide⟩,
   ⟨0, _, _, served_asked { fresh0 with ports := { lotMode := [(511, 4)] } } 0x0402 [2047] rfl rfl, by decide⟩,
   ⟨0, _, _, served_asked { fresh0 with ports := { lotMode := [(0, 0)] } } 0x0403 [0] rfl rfl, by decide⟩,
   ⟨0, _, _, served_asked { fresh0 with ports := { lotMode := [(0, 0)] } } 0x0404 [0] rfl rfl, by decide⟩⟩

/-- The part right after reset, with lane 0 as given, or a laser as given. -/
abbrev withLane (l : Lane) : Chip := { fresh0 with light := { lanes := [(0, l)] } }

abbrev withLaser (k : Nat) (l : Laser) : Chip := { fresh0 with light := { lasers := [(k, l)] } }

theorem witness_LaserEventsComplete :
    (∃ c : Chip, c.Up ∧ c.dealCycles / 2 ≤ c.cycle) ∧
    (∃ (c : Chip) (k : Nat) (l : List Nat), c.Up ∧ okLaser k = true ∧ l.length = 8 ∧ c.light.converting = true) ∧
    (∃ (c : Chip) (h p : Nat), c.Up ∧ h < 2 ∧ p < 20 ∧ (c.laser (32 * h + p)).state = .warming) ∧
    (∃ (c : Chip) (h p : Nat), c.Up ∧ h < 2 ∧ 16 ≤ p ∧ p < 20 ∧ (c.laser (32 * h + p)).state = .aligning) ∧
    (∃ (c : Chip) (h p : Nat), c.Up ∧ h < 2 ∧ p < 16 ∧ (c.laser (32 * h + p)).state = .aligning) ∧
    (∃ (c : Chip) (h p : Nat), c.Up ∧ h < 2 ∧ 16 ≤ p ∧ p < 20 ∧
      ((c.laser (32 * h + p)).state = .warming ∨ (c.laser (32 * h + p)).state = .aligning)) :=
  ⟨⟨{ fresh0 with tb := { ft := 2000 } }, ⟨rfl, rfl⟩, by decide⟩,
   ⟨{ fresh0 with light := { converting := true } }, 51, List.replicate 8 0, ⟨rfl, rfl⟩, by decide⟩,
   ⟨withLaser 51 { state := .warming }, 1, 19, ⟨rfl, rfl⟩, by decide⟩,
   ⟨withLaser 16 { state := .aligning }, 0, 16, ⟨rfl, rfl⟩, by decide⟩,
   ⟨withLaser 47 { state := .aligning }, 1, 15, ⟨rfl, rfl⟩, by decide⟩,
   ⟨withLaser 51 { state := .warming }, 1, 19, ⟨rfl, rfl⟩, by decide⟩⟩

theorem witness_RingEventsComplete :
    (∃ (c : Chip) (l : Nat) (rx : Bool), c.Up ∧ okLane l = true ∧ ((c.lane l).side rx).state = .sweep ∧
      ((c.lane l).side rx).keptCode = false ∧ ((c.lane l).side rx).heater < 4094) ∧
    (∃ (c : Chip) (l : Nat) (rx : Bool) (tones : List Nat), c.Up ∧ okLane l = true ∧ tones.length = 8 ∧
      ((c.lane l).side rx).state = .check ∧ argMax tones = laneWave l ∧
      (tones.eraseIdx (argMax tones)).foldl max 0 + 100 ≤ tones.getD (argMax tones) 0) ∧
    (∃ (c : Chip) (l : Nat) (rx : Bool) (tones : List Nat), c.Up ∧ okLane l = true ∧ tones.length = 8 ∧
      ((c.lane l).side rx).state = .check ∧ argMax tones ≠ laneWave l ∧ (c.lane l).idFails < 2) ∧
    (∃ (c : Chip) (l : Nat) (rx : Bool) (code : Nat) (outside : Bool), c.Up ∧ okLane l = true ∧ code < 4096 ∧
      ((c.lane l).side rx).state = .locked ∧ code ≠ 0 ∧ code ≠ 4095 ∧ (outside = true → ((c.lane l).side rx).outRun < 15)) ∧
    (∃ (c : Chip) (l : Nat) (rx : Bool) (code : Nat), c.Up ∧ okLane l = true ∧ (code = 0 ∨ code = 4095) ∧
      ((c.lane l).side rx).state = .locked ∧ (c.lane l).losses.length < 7) ∧
    (∃ (c : Chip) (l : Nat), c.Up ∧ okLane l = true ∧ (c.lane l).rx.state = .locked) ∧
    (∃ (c : Chip) (l : Nat), c.Up ∧ okLane l = true ∧ (c.lane l).rx.state = .nolight) ∧
    (∃ (c : Chip) (h b : Nat), c.Up ∧ h < 2 ∧ b < 512 ∧ (c.circuit (512 * h + b)).state ≠ 0) :=
  ⟨⟨withLane { tx := { state := .sweep, heater := 4093 } }, 0, false, ⟨rfl, rfl⟩, by decide⟩,
   ⟨withLane { tx := { state := .check } }, 0, false, [100, 0, 0, 0, 0, 0, 0, 0], ⟨rfl, rfl⟩, by decide⟩,
   ⟨withLane { rx := { state := .check }, idFails := 1 }, 0, true, [0, 100, 0, 0, 0, 0, 0, 0], ⟨rfl, rfl⟩, by decide⟩,
   ⟨withLane { rx := { state := .locked, outRun := 14 } }, 0, true, 4094, true, ⟨rfl, rfl⟩, by decide⟩,
   ⟨withLane { tx := { state := .locked } }, 0, false, 4095, ⟨rfl, rfl⟩, by decide⟩,
   ⟨withLane { rx := { state := .locked } }, 0, ⟨rfl, rfl⟩, by decide⟩,
   ⟨withLane { rx := { state := .nolight } }, 0, ⟨rfl, rfl⟩, by decide⟩,
   ⟨{ fresh0 with light := { circuits := [(1023, { state := 2 })] } }, 1, 511, ⟨rfl, rfl⟩, by decide⟩⟩

theorem witness_LightCommandsComplete :
    (∃ k w c, Served 0x0302 k 1 w c ∧ bitsAt (w 0) 0 12 < 2048 ∧ c.laneRetired (bitsAt (w 0) 0 12) = false ∧
      (c.lane (bitsAt (w 0) 0 12)).tx.state ≠ .bypass ∧ (c.lane (bitsAt (w 0) 0 12)).rx.state ≠ .bypass ∧
      c.retirementOf (bitsAt (w 0) 0 12) = none) ∧
    (∃ k w c, Served 0x0312 k 1 w c ∧ c.freeSpare (bitsAt (w 0) 0 1) = some 16 ∧
      c.swapping (bitsAt (w 0) 0 1) (bitsAt (w 0) 1 4) = false ∧ (c.preparing (bitsAt (w 0) 0 1)).length < 2) ∧
    (∃ k w c, Served 0x0313 k 1 w c) ∧
    (∃ k w c, Served 0x0321 k 2 w c ∧ c.caps.ocs = true ∧ w 0 = 1 ∧ circuitOk (bitsAt (w 1) 0 11) (bitsAt (w 1) 11 11) = true ∧
      c.inCircuit (bitsAt (w 1) 0 11) (bitsAt (w 1) 11 11) = false ∧ (c.circuit (circuitKey (bitsAt (w 1) 11 11))).state ≠ 3 ∧
      c.laneGone c.effectDeal (bitsAt (w 1) 0 11) = false ∧ c.laneGone c.effectDeal (bitsAt (w 1) 11 11) = false ∧ c.tb.aligned = true) ∧
    (∃ k w c, Served 0x0322 k 2 w c ∧ c.caps.ocs = true ∧ w 0 = 1 ∧ bitsAt (w 1) 0 11 % 1024 < 512 ∧
      (c.circuit (circuitKey (bitsAt (w 1) 0 11))).state = 2 ∧ bitsAt (w 1) 0 11 ∉ c.pendingClears) ∧
    (∃ k w c, Served 0x1202 k 1 w c ∧ c.boot.stage = 7 ∧ c.preparing (bitsAt (w 0) 0 1) = [] ∧
      (∀ p, p < 20 → (c.laser (32 * bitsAt (w 0) 0 1 + p)).state ≠ .serving)) :=
  ⟨⟨0, _, _, served_asked fresh0 0x0302 [2047] rfl rfl, by decide⟩,
   ⟨0, _, _, served_asked fresh0 0x0312 [0x1F] rfl rfl, by decide⟩,
   ⟨0, _, _, served_asked fresh0 0x0313 [2] rfl rfl⟩,
   ⟨0, _, _, served_asked { fresh0 with tb := { aligned := true } } 0x0321 [1, 1 + 9 * 2 ^ 11] rfl rfl, by decide⟩,
   ⟨0, _, _, served_asked { fresh0 with light := { circuits := [(511, { state := 2 })] } } 0x0322 [1, 511] rfl rfl, by decide⟩,
   ⟨0, _, _, served_asked { fresh0 with boot := { stage := 7 } } 0x1202 [0] rfl rfl, by decide⟩⟩

theorem witness_RouteTablesComplete :
    (∃ k w c, Served 0x0501 k 6 w c ∧ c.noKitty = true ∧ (∀ h, h < 2 → ∀ e, e < 2 → (c.table h e).state.idle = true) ∧
      descOk (longAt w 0 % 2 ^ 55) = true) ∧
    (∃ k w c h e first n, h = bitsAt (w 0) 0 1 ∧ e = bitsAt (w 0) 1 1 ∧ first = bitsAt (w 0) 2 14 ∧ n = bitsAt (w 0) 16 6 ∧
      Served 0x0511 k (1 + 4 * n) w c ∧ 1 ≤ n ∧ n ≤ 32 ∧ first + n ≤ 16384 ∧
      ((c.table h e).state.idle = true ∨ (c.table h e).state = .loading)) ∧
    (∃ k w c h e v, h = bitsAt (w 0) 0 1 ∧ e = bitsAt (w 0) 1 1 ∧ v = (c.table h e).entries.filter (fun x => entryValid x.2.1) ∧
      Served 0x0512 k 3 w c ∧ (c.table h e).state = .loading ∧ (∀ x, x ∈ v → c.badEntry x.2.1 x.2.2 = false) ∧
      c.firstConflict v = none ∧ v.length = w 1 ∧ entriesCrc v = w 2) ∧
    (∃ k w c, Served 0x0513 k 3 w c ∧ (∀ h, h < 2 → (c.table h (bitsAt (w 2) 0 1)).state = .loaded) ∧
      (∀ h, h < 2 → (c.table h (1 - bitsAt (w 2) 0 1)).state = .current) ∧ c.nest.flip = none ∧ c.tooLate (nameAt w 0) = false ∧
      c.tb.aligned = true) ∧
    (∃ k w c, Served 0x0514 k 1 w c ∧ (∀ h, h < 2 → ∀ e, e < 2 → (c.table h e).state ≠ .draining) ∧ 16 ≤ bitsAt (w 0) 0 13 ∧
      bitsAt (w 0) 0 13 ≤ 4096) ∧
    (∃ k w c, Served 0x0515 k 1 w c) :=
  ⟨⟨0, _, _, served_asked fresh0 0x0501 [129, 0, 0, 0, 0, 0] rfl rfl,
      by decide⟩,
   ⟨0, _, _, 0, 0, 16383, 1, by rfl, by rfl, by rfl, by rfl, served_asked fresh0 0x0511 [65536 + 65532, 0, 0, 0, 0] rfl rfl, by decide⟩,
   ⟨0, _, _, 0, 0, [], by rfl, by rfl, by decide, served_asked { fresh0 with nest := { tables := [(0, { state := .loading })] } } 0x0512 [0, 0, 0] rfl rfl, by decide⟩,
   ⟨0, _, _, served_asked { fresh0 with
        nest := { tables := [(0, { state := .current }), (1, { state := .loaded }), (2, { state := .current }), (3, { state := .loaded })] }
        tb := { aligned := true } } 0x0513 [2, 0, 1] rfl rfl, by decide⟩,
   ⟨0, _, _, served_asked fresh0 0x0514 [16] rfl rfl, by decide⟩,
   ⟨0, _, _, served_asked fresh0 0x0515 [0] rfl rfl⟩⟩

theorem witness_FansComplete :
    (∃ k w c ms, Served 0x0521 k (1 + bitsAt (w 0) 11 7) w c ∧ bitsAt (w 0) 11 7 ≤ 64 ∧
      ms = (List.range (bitsAt (w 0) 11 7)).map (fun i => (bitsAt (w (i + 1)) 0 12, bitsAt (w (i + 1)) 12 8)) ∧
      (∀ m, m ∈ ms → c.portOf (bitsAt (w 0) 0 1) m.1 = true) ∧ (ms.map Prod.fst).Nodup) ∧
    (∃ k w c ws, Served 0x0522 k (1 + bitsAt (w 0) 11 7) w c ∧
      ws = (List.range (bitsAt (w 0) 11 7)).map (fun i => (bitsAt (w (i + 1)) 0 6, bitsAt (w (i + 1)) 6 8)) ∧
      (∀ x, x ∈ ws → x.1 < (c.fan (bitsAt (w 0) 0 1) (bitsAt (w 0) 1 10)).members.length)) ∧
    (∃ k w c, Served 0x0523 k 1 w c ∧ c.isPort (bitsAt (w 0) 0 12) = true) ∧
    (∃ k w c, Served 0x0524 k 1 w c ∧ c.isPort (bitsAt (w 0) 0 12) = true) ∧
    (∃ k w c, Served 0x0531 k 3 w c ∧ bitsAt (w 0) 0 9 ≤ 256 ∧ c.nameOk (nameAt w 1) = true) :=
  ⟨⟨0, wordsOf [2048, 4 + 200 * 4096], _, [(4, 200)], served_asked { fresh0 with ports := { lotMode := [(1, 0)] } } 0x0521 [2048, 4 + 200 * 4096] rfl rfl, by decide⟩,
   ⟨0, wordsOf [2048, 255 * 64], _, [(0, 255)], served_asked { fresh0 with nest := { fans := [(0, { members := [⟨4, 1, 0, true⟩] })] } } 0x0522 [2048, 255 * 64] rfl rfl,
      by decide⟩,
   ⟨0, _, _, served_asked { fresh0 with ports := { lotMode := [(0, 0)] } } 0x0523 [0] rfl rfl, by decide⟩,
   ⟨0, _, _, served_asked { fresh0 with ports := { lotMode := [(0, 0)] } } 0x0524 [0] rfl rfl, by decide⟩,
   ⟨0, _, _, served_asked { fresh0 with nest := { desc := 129 } } 0x0531 [256, 0, 0] rfl rfl, by decide⟩⟩

/-- Port 0 as given, of Lot mode 0, in a part right after reset. -/
abbrev withPort (x : Port) : Chip := { fresh0 with ports := { lotMode := [(0, 0)], port := [(0, x)] } }

/-- A packet of `n` payload bytes of zero for the name 0, of class 2. -/
def zeroPkt (n : Nat) : Packet := { barePkt (List.replicate n 0) with cls := 2 }

/-- A header alone, for a payload of `n` bytes. -/
def longPkt (n : Nat) : Packet := { barePkt [] with cls := 2, length := n }

theorem witness_BlocksComplete :
    (∃ (c : Chip) (p : Nat) (pkt : Packet) (b : DataBlock), c.Up ∧ okPort p = true ∧ okPacket pkt = true ∧ okBlock b = true ∧
      (c.port p).link.live = true ∧ (c.port p).farLanes = b.lanes ∧ (c.port p).ingress = none ∧
      (c.port p).ahead = [] ∧ ((c.port p).nextBseqRx = none ∨ (c.port p).nextBseqRx = some b.bseq) ∧ c.firstFault p pkt b = none ∧ b.kind = .first) ∧
    (∃ (c : Chip) (p : Nat) (pkt : Packet) (b : DataBlock) (a v : Nat), c.Up ∧ okPort p = true ∧ okPacket pkt = true ∧
      okBlock b = true ∧ (c.port p).link = .up ∧ (c.port p).farLanes = b.lanes ∧ (c.port p).ingress = none ∧
      (c.port p).ahead = [] ∧ ((c.port p).nextBseqRx = none ∨ (c.port p).nextBseqRx = some b.bseq) ∧ c.firstFault p pkt b = none ∧ b.kind = .only ∧
      bitAt (Tab.get 0 (8 * p + pkt.cls) c.sch.bindings) 15 = false ∧ c.nameOk pkt.dest = true ∧
      (c.table (halfOf p) pkt.epoch).state = .current ∧
      c.winner (c.table (halfOf p) pkt.epoch) pkt.dest pkt.cls = some (a, v) ∧ bitsAt v 60 4 = 3 ∧
      namesOther (halfOf p) pkt = false) ∧
    (∃ (c : Chip) (p : Nat) (b : DataBlock) (x : Ingress), c.Up ∧ okPort p = true ∧ okBlock b = true ∧
      (c.port p).link.live = true ∧ (c.port p).farLanes = b.lanes ∧ (c.port p).ingress = some x ∧ (c.port p).nextBseqRx = some b.bseq ∧ (c.port p).ahead = [] ∧
      x.dropped = false ∧ b.check = .good ∧ b.abort = false ∧ b.kind = .middle ∧ x.seen + 1 < x.pkt.cells) ∧
    (∃ (c : Chip) (p : Nat) (b : DataBlock) (x : Ingress), c.Up ∧ okPort p = true ∧ okBlock b = true ∧
      (c.port p).link.live = true ∧ (c.port p).farLanes = b.lanes ∧ (c.port p).ingress = some x ∧ (c.port p).nextBseqRx = some b.bseq ∧ (c.port p).ahead = [] ∧ x.dropped = false ∧
      b.check = .good ∧ b.abort = false ∧ b.kind = .last ∧ x.seen + 1 = x.pkt.cells ∧ x.toUnit = true) ∧
    (∃ (c : Chip) (p : Nat) (b : DataBlock) (e : Nat), c.Up ∧ okPort p = true ∧ okBlock b = true ∧ (c.port p).link.live = true ∧
      (b.check = .good → (c.port p).farLanes = b.lanes) ∧ (c.port p).ahead = [] ∧ (c.port p).nextBseqRx = some e ∧ 0 < (b.bseq + 4096 - e) % 4096 ∧ (b.bseq + 4096 - e) % 4096 ≤ 9 ∧ b.kind ≠ .idle ∧
      b.kind ≠ .control) ∧
    (∃ (c : Chip) (h o s : Nat) (x : Queue) (g : SpillPage) (gs : List SpillPage) (n : Nat), c.Up ∧ h < 2 ∧ o < 1026 ∧ s < 8 ∧
      x = (c.endSent).queue h o s ∧ x.pages = g :: gs ∧ 256 ≤ g.filled ∧ x.depth < 256 ∧
      x.depth + 256 ≤ (c.endSent).queueLimit h o s ∧ n = sharedNeed (g.live - overlap (fun y => (c.endSent).holds h y) x.pending (x.pending + g.live) 0 x.spilled)
        ((c.endSent).qcfg h o s).min x.depth ∧
      n ≤ (c.endSent).sharedFree h ∧ ((c.endSent).xbar.buf.get h).spillReads < ((c.endSent).xbar.buf.get h).rate) :=
  ⟨⟨withPort { link := .up }, 0, zeroPkt 225, ⟨.first, 4095, 0, false, .good, Fec.mk 0 0⟩, ⟨rfl, rfl⟩, by decide +kernel⟩,
   ⟨{ fresh0 with
        ports := { lotMode := [(0, 0)], port := [(0, { link := .up })] }
        nest := { desc := 129, tables := [(0, { state := .current, entries := [(0, (0x1FF0, 3 * 2 ^ 60))] })] } },
      0, zeroPkt 0, ⟨.only, 0, 0, false, .good, Fec.mk 0 0⟩, 0x1FF0, 3 * 2 ^ 60, ⟨rfl, rfl⟩, by decide +kernel⟩,
   ⟨withPort { link := .up, nextBseqRx := some 7, ingress := some { pkt := longPkt 481 } }, 0, ⟨.middle, 7, 0, false, .good, Fec.mk 0 0⟩,
      { pkt := longPkt 481 }, ⟨rfl, rfl⟩, by decide +kernel⟩,
   ⟨withPort { link := .up, nextBseqRx := some 7, ingress := some { pkt := longPkt 225, toUnit := true } }, 0,
      ⟨.last, 7, 0, false, .good, Fec.mk 0 0⟩, { pkt := longPkt 225, toUnit := true }, ⟨rfl, rfl⟩, by decide +kernel⟩,
   ⟨withPort { link := .up, nextBseqRx := some 4090 }, 0, ⟨.middle, 3, 0, false, .good, Fec.mk 0 0⟩, 4090, ⟨rfl, rfl⟩, by decide +kernel⟩,
   ⟨{ fresh0 with xbar := { buf := ⟨{ rate := 64 }, {}⟩, queues := [(0, { pages := [⟨5376, 256, 256⟩] })] } },
      0, 0, 0, { pages := [⟨5376, 256, 256⟩] }, ⟨5376, 256, 256⟩, [], _, ⟨rfl, rfl⟩, by decide, by decide, by decide, by rfl, by rfl, by decide,
      by decide +kernel, by decide +kernel, rfl, by decide +kernel, by decide +kernel⟩⟩

theorem witness_CrossingCommandsComplete :
    (∃ k w c, Served 0x0601 k 3 w c ∧ c.privUsed (bitsAt (w 0) 0 1) ≤ bitsAt (w 0) 1 17 ∧
      bitsAt (w 0) 1 17 + c.sumMin (bitsAt (w 0) 0 1) ≤ bufferCells) ∧
    (∃ k w c, Served 0x0602 k 3 w c ∧ bitsAt (w 0) 0 12 ≠ 0xFFF ∧ c.isPort (bitsAt (w 0) 0 12) = true ∧ bitsAt (w 1) 8 4 ≤ 9 ∧
      bitAt (w 1) 25 = false ∧
      c.sumMin (halfOf (bitsAt (w 0) 0 12)) + (c.xbar.buf.get (halfOf (bitsAt (w 0) 0 12))).priv + 8 * bitsAt (w 1) 0 8 ≤ bufferCells) ∧
    (∃ k w c, Served 0x0603 k 1 w c ∧ bitsAt (w 0) 1 10 ≤ spillRateMax c.fuses.variant c.tb.period) ∧
    (∃ k w c, Served 0x0611 k 2 w c ∧ bitsAt (w 0) 16 8 = 1 ∧ bitsAt (w 1) 0 12 < 0x804 ∧
      halfOf (bitsAt (w 1) 0 12) = bitsAt (w 0) 0 1) ∧
    (∃ k w c, Served 0x0621 k 3 w c ∧ c.isPort (bitsAt (w 0) 0 12) = true ∧ bitsAt (w 0) 12 2 = 2 ∧ c.nameOk (nameAt w 1) = true) ∧
    (∃ k w c, Served 0x0622 k 1 w c ∧ c.isPort (bitsAt (w 0) 0 12) = true ∧ (c.expect (bitsAt (w 0) 0 12)).pending = true ∧
      bitAt (w 0) 12 = false) ∧
    (∃ k w c, Served 0x0622 k 1 w c ∧ c.isPort (bitsAt (w 0) 0 12) = true ∧ (c.expect (bitsAt (w 0) 0 12)).pending = true ∧
      bitAt (w 0) 12 = true) :=
  ⟨⟨0, _, _, served_asked fresh0 0x0601 [2048, 0, 0] rfl rfl, by decide +kernel⟩,
   ⟨0, _, _, served_asked { fresh0 with ports := { lotMode := [(0, 0)] } } 0x0602 [4096, 0x201, 0] rfl rfl, by decide +kernel⟩,
   ⟨0, _, _, served_asked fresh0 0x0603 [128] rfl rfl, by decide⟩,
   ⟨0, _, _, served_asked fresh0 0x0611 [65537, 0x803] rfl rfl, by decide⟩,
   ⟨0, _, _, served_asked { fresh0 with ports := { lotMode := [(0, 0)] }, nest := { desc := 129 } } 0x0621 [0x2000, 0, 0] rfl rfl, by decide⟩,
   ⟨0, _, _, served_asked { fresh0 with ports := { lotMode := [(0, 0)] }, xbar := { expect := [(0, { pending := true })] } } 0x0622 [0] rfl rfl,
      by decide⟩,
   ⟨0, _, _, served_asked { fresh0 with ports := { lotMode := [(0, 0)] }, xbar := { expect := [(0, { pending := true })] } } 0x0622 [0x1000]
      rfl rfl, by decide⟩⟩

/-- Calendar 0 of Half 0 as given, in a part right after reset. -/
abbrev withCal (x : Calendar) : Chip := { fresh0 with sch := { cals := [(0, x)] } }

/-- A bank of one entry that lasts one Deal of the default period. -/
def dealBank : CalBank := { n := 1, deals := 1, entries := [(0, (255, 2048))] }

theorem witness_CalendarsComplete :
    (∃ k w c, Served 0x0701 k (1 + bitsAt (w 0) 15 6) w c ∧ bitsAt (w 0) 15 6 ≤ 32 ∧ bitsAt (w 0) 6 9 + bitsAt (w 0) 15 6 ≤ 256 ∧
      bitAt (w 0) 21 = false ∧ (c.cal (32 * bitsAt (w 0) 0 1 + bitsAt (w 0) 1 5)).commitPending = none ∧
      (c.cal (32 * bitsAt (w 0) 0 1 + bitsAt (w 0) 1 5)).stopPending = none) ∧
    (∃ k w c x, Served 0x0701 k 1 w c ∧ x = c.cal (32 * bitsAt (w 0) 0 1 + bitsAt (w 0) 1 5) ∧ bitsAt (w 0) 15 6 = 0 ∧
      bitsAt (w 0) 6 9 ≤ 256 ∧ bitAt (w 0) 21 = true ∧ x.commitPending = none ∧ x.stopPending = none ∧ x.running = true ∧
      ({ x.bank (1 - x.active) with n := bitsAt (w 0) 6 9, deals := bitsAt (w 0) 22 7 } : CalBank).valid c.dealCycles = true) ∧
    (∃ k w c x, Served 0x0702 k 3 w c ∧ x = c.cal (32 * bitsAt (w 0) 0 1 + bitsAt (w 0) 1 5) ∧ x.running = false ∧
      c.tooLate (nameAt w 1) = false ∧ (x.bank x.active).valid c.dealCycles = true ∧ c.tb.aligned = true) ∧
    (∃ k w c, Served 0x0703 k 1 w c ∧ (c.cal (32 * bitsAt (w 0) 0 1 + bitsAt (w 0) 1 5)).running = true) ∧
    (∃ k w c, Served 0x0704 k 1 w c ∧ c.isPort (bitsAt (w 0) 0 12) = true) ∧
    (∃ (c : Chip) (h n : Nat) (x : Calendar) (s : Nat), c.Up ∧ h < 2 ∧ n < 32 ∧ x = c.cal (32 * h + n) ∧ x.running = true ∧
      x.begun = true ∧ x.entry + 1 < (x.bank x.active).n ∧ s = x.opened + ((x.bank x.active).entry x.entry).2 ∧ c.tb.ft < s ∧
      s < c.tb.ft + c.toBoundary) :=
  ⟨⟨0, wordsOf [255 * 64 + 32768, 0], _, served_asked fresh0 0x0701 [255 * 64 + 32768, 0] rfl rfl, by decide⟩,
   ⟨0, _, _, { running := true, bank1 := dealBank }, served_asked (withCal { running := true, bank1 := dealBank }) 0x0701
      [64 + 2 ^ 21 + 2 ^ 22] rfl rfl, by decide⟩,
   ⟨0, _, _, { bank0 := dealBank }, served_asked { withCal { bank0 := dealBank } with tb := { aligned := true } } 0x0702 [0, 2, 0] rfl rfl,
      by decide⟩,
   ⟨0, _, _, served_asked (withCal { running := true, bank0 := dealBank }) 0x0703 [0] rfl rfl, by decide⟩,
   ⟨0, _, _, served_asked { fresh0 with ports := { lotMode := [(0, 0)] } } 0x0704 [0] rfl rfl, by decide⟩,
   ⟨withCal { running := true, begun := true, bank0 := { n := 2, deals := 1, entries := [(0, (255, 1024)), (1, (0, 1024))] } }, 0, 0,
      { running := true, begun := true, bank0 := { n := 2, deals := 1, entries := [(0, (255, 1024)), (1, (0, 1024))] } }, 1024,
      ⟨rfl, rfl⟩, by decide⟩⟩

theorem witness_SchedulingComplete :
    (∃ (c : Chip) (p : Nat) (d : Chip) (x : QPacket) (r : List QPacket) (w : Nat), c.Up ∧ p < 0x804 ∧ d = c.endSent ∧
      (c.port p).link.live = true ∧ (c.port p).dataStop = false ∧ w = (if 2048 ≤ p then 4 - popcount 4 (c.guardIdle p)
        else popcount 4 (maskDiff (maskDiff (c.port p).lanes (c.port p).stopLanes) (c.guardIdle p))) ∧ w ≠ 0 ∧ c.exchangeDue p = false ∧
      (d.sched p).sending = none ∧ (d.sched p).leaving = [] ∧ (d.sched p).busyUntil < 100 * c.tb.ft + 100 ∧
      (d.queue (halfOf p) (pointOf p) 0).pkts = x :: r ∧ x.started = false ∧ x.after ≤ c.tb.lt ∧
      x.cells ≤ x.arrived ∧ x.stamp = none) ∧
    (∃ (c : Chip) (h : Nat) (d : Chip) (x : QPacket) (r : List QPacket), c.Up ∧ h < 2 ∧ d = c.endSent ∧ c.spanLanes h ≠ 0 ∧ c.spanNow h ≠ 0 ∧
      (d.sched (0x1000 + h)).sending = none ∧ (d.sched (0x1000 + h)).busyUntil < 100 * c.tb.ft + 100 ∧
      (d.queue h 1026 0).pkts = x :: r ∧ x.started = false ∧ x.after ≤ c.tb.lt ∧ x.cells ≤ x.arrived) ∧
    (∃ k w c, Served 0x0705 k 2 w c ∧ c.isPort (bitsAt (w 0) 0 12) = true ∧ bitsAt (w 0) 22 3 ≠ 0) ∧
    (∃ k w c, Served 0x0711 k 6 w c ∧ w 1 ≤ w 2 ∧ w 2 ≤ 1600000 ∧ 17439 ≤ w 3 ∧ w 3 ≤ 16777215 ∧ 17439 ≤ w 4 ∧
      w 4 ≤ 16777215 ∧ bitsAt (w 5) 0 2 ≠ 2 ∧ bitsAt (w 5) 2 2 ≠ 2 ∧ bitsAt (w 5) 4 2 ≠ 2) ∧
    (∃ k w c m, Served 0x0712 k 1 w c ∧ c.isPort (bitsAt (w 0) 0 12) = true ∧
      m = c.latestMeter (4096 * halfOf (bitsAt (w 0) 0 12) + bitsAt (w 0) 16 12) ∧ m.cbs ≠ 0 ∧ m.demotes = false) :=
  ⟨⟨{ withPort { link := .up, lanes := 1 } with
        tb := { servo := { outstanding := some 0 } }
        xbar := { queues := [(0, { pkts := [{ tag := 1, pkt := zeroPkt 0, cells := 1, arrived := 1 }] })] } }, 0, _,
      { tag := 1, pkt := zeroPkt 0, cells := 1, arrived := 1 }, [], 1, ⟨rfl, rfl⟩, by decide +kernel, rfl, by decide +kernel⟩,
   ⟨{ fresh0 with
        light := { lanes := [(0x800 + 256, { tx := { state := .locked }, rx := { state := .locked } })] }
        xbar := { buf := ⟨{ spanWidth := 1 }, {}⟩, queues := [(8 * 1026, { pkts := [{ tag := 1, pkt := zeroPkt 0, cells := 1, arrived := 1 }] })] } }, 0, _,
      { tag := 1, pkt := zeroPkt 0, cells := 1, arrived := 1 }, [], ⟨rfl, rfl⟩, by decide +kernel, rfl, by decide +kernel⟩,
   ⟨0, _, _, served_asked { fresh0 with ports := { lotMode := [(0, 0)] } } 0x0705 [2 ^ 22, 0] rfl rfl, by decide⟩,
   ⟨0, _, _, served_asked fresh0 0x0711 [0, 1600000, 1600000, 17439, 16777215, 1 + 4 * 3] rfl rfl, by decide⟩,
   ⟨0, _, _, { cbs := 17439, pbs := 17439 }, served_asked { fresh0 with
        ports := { lotMode := [(0, 0)] }, sch := { meters := [(0, { cbs := 17439, pbs := 17439 })] } } 0x0712 [0x8000] rfl rfl, by decide⟩⟩

/-- A part right after reset that a host reaches, with the Roll of Half 0 as given. -/
abbrev withRoll (r : RollHalf) : Chip := { fresh0 with roll := ⟨r, {}⟩, stew := { pcie := { perst := false } } }

theorem witness_RollCommandsStart :
    (∃ (c : Chip) (h r : Nat), c.Up ∧ h < 2 ∧ r < 2 ∧ (r = 0 → c.hostUp = true) ∧ (c.rset h r).op = none) ∧
    (∃ (c : Chip) (h r : Nat), c.Up ∧ h < 2 ∧ r < 2 ∧ (r = 0 → c.hostUp = true) ∧ (c.rset h r).op ≠ none) :=
  ⟨⟨withRoll {}, 1, 0, ⟨rfl, rfl⟩, by decide⟩, ⟨withRoll { sets := ⟨{ op := some { op := 1 } }, {}⟩ }, 0, 0, ⟨rfl, rfl⟩, by decide⟩⟩

/-- A Roll that holds the key 0, 0 and nothing else, with command set 0 at an operation on it. -/
abbrev rollWithKey (op : Nat) : Chip := withRoll
  { entries := [((fresh0.rollSlots 0 0).headD 0, {})], sets := ⟨{ op := some { op := op } }, {}⟩, ops := [0] }

theorem rollWithKey_find (op : Nat) :
    (rollWithKey op).rollFind 0 0 0 = some ((fresh0.rollSlots 0 0).headD 0, {}) := by
  have h : (rollWithKey op).rollSlots 0 0 = fresh0.rollSlots 0 0 := rfl
  have h2 : (fresh0.rollSlots 0 0).head?.getD 0 ∈ fresh0.rollSlots 0 0 := by
    simp [Chip.rollSlots, List.range_succ]
  have h3 : (rollWithKey op).purging 0 0 = false := rfl
  simp only [Chip.rollFind, h, h3]
  simp [Chip.rl, Halves.get, h2]

theorem witness_RollOperationsComplete :
    (∃ (c : Chip) (h r : Nat) (x : RollSet) (a : Nat) (e : RollEntry), c.Up ∧ h < 2 ∧ r < 2 ∧ x = c.rset h r ∧
      (c.rl h).ops.head? = some r ∧ x.op = some { op := 1 } ∧ c.purging h x.key1 = false ∧
      c.rollFind h x.key1 x.key0 = some (a, e)) ∧
    (∃ (c : Chip) (h r : Nat) (x : RollSet), c.Up ∧ h < 2 ∧ r < 2 ∧ x = c.rset h r ∧ (c.rl h).ops.head? = some r ∧
      x.op = some { op := 1 } ∧ c.purging h x.key1 = false ∧ c.rollFind h x.key1 x.key0 = none) ∧
    (∃ (c : Chip) (h r : Nat) (x : RollSet) (a : Nat) (e : RollEntry), c.Up ∧ h < 2 ∧ r < 2 ∧ x = c.rset h r ∧
      (c.rl h).ops.head? = some r ∧ x.op = some { op := 3 } ∧ c.purging h x.key1 = false ∧
      c.rollFind h x.key1 x.key0 = some (a, e)) ∧
    (∃ (c : Chip) (h r : Nat) (x : RollSet), c.Up ∧ h < 2 ∧ r < 2 ∧ x = c.rset h r ∧ (c.rl h).ops.head? = some r ∧
      x.op = some { op := 5 } ∧ c.kittyIsOpen x.key1 = false ∧ c.purging h x.key1 = false ∧ (c.rl h).purges = []) ∧
    (∃ (c : Chip) (h r : Nat) (x : RollSet) (o : Nat), c.Up ∧ h < 2 ∧ r < 2 ∧ x = c.rset h r ∧ (c.rl h).ops.head? = some r ∧
      x.op = some { op := o } ∧ (o = 0 ∨ 6 < o)) :=
  ⟨⟨rollWithKey 1, 0, 0, _, _, _, ⟨rfl, rfl⟩, by decide, by decide, rfl, rfl, rfl, rfl, rollWithKey_find 1⟩,
   ⟨withRoll { sets := ⟨{ op := some { op := 1 } }, {}⟩, ops := [0] }, 0, 0, _, ⟨rfl, rfl⟩, by decide, by decide, rfl, rfl, rfl, rfl, rfl⟩,
   ⟨rollWithKey 3, 0, 0, _, _, _, ⟨rfl, rfl⟩, by decide, by decide, rfl, rfl, rfl, rfl, rollWithKey_find 3⟩,
   ⟨withRoll { sets := ⟨{ op := some { op := 5 } }, {}⟩, ops := [0] }, 0, 0, _, ⟨rfl, rfl⟩, by decide, by decide, rfl, rfl, rfl, rfl, rfl, rfl⟩,
   ⟨withRoll { sets := ⟨{}, { op := some { op := 15 } }⟩, ops := [1] }, 0, 1, _, 15, ⟨rfl, rfl⟩, by decide, by decide, rfl, rfl, rfl, by decide⟩⟩

theorem witness_RollSweepComplete :
    (∃ (c : Chip) (h : Nat), c.Up ∧ h < 2) ∧
    (∃ (c : Chip) (h : Nat) (e : Nat × RollEntry), c.Up ∧ h < 2 ∧ e ∈ (c.rl h).entries ∧
      (e.1 + 2 ^ 23 - (c.rl h).sweepPos) % 2 ^ 23 < 256 * (c.rl h).sweepRate ∧ c.sweepTakes h e.2 = true) ∧
    (∃ (c : Chip) (h i : Nat) (p : Packet), c.Up ∧ h < 2 ∧ (c.rl h).misses = [(p, i)]) ∧
    (∃ k w c, Served 0x0801 k 2 w c ∧ bitsAt (w 0) 1 16 ≠ 0 ∧ bitsAt (w 0) 17 11 ≠ 0 ∧ bitsAt (w 0) 17 11 ≤ c.sweepMax) :=
  ⟨⟨fresh0, 1, ⟨rfl, rfl⟩, by decide⟩,
   ⟨withRoll { entries := [(32767, {})], purges := [(0, (0, 2 ^ 23))] }, 0, (32767, {}), ⟨rfl, rfl⟩, by decide⟩,
   ⟨withRoll { misses := [(zeroPkt 0, 3)] }, 0, 3, zeroPkt 0, ⟨rfl, rfl⟩, by decide, rfl⟩,
   ⟨0, _, _, served_asked fresh0 0x0801 [2 + 2 ^ 24, 0] rfl rfl, by decide⟩⟩

/-- A Kitty of ID 1 in Half 0, active, of two contributors and 65 elements in two chunks. -/
abbrev kitty1 (last : Option Showdown) (parent : Nat) : Kitty :=
  { desc := [2 ^ 32 + 1, 65 * 2 ^ 41 + 64 * 2 ^ 27, 0, 0, 0, parent * 2 ^ 16], state := .active, last := last }

/-- A packet of the name 5 for that Kitty: KIND, elements, chunk or code in SEQ, and a body of zeros. -/
abbrev kittyPkt (kind elems seq body cls : Nat) : Packet :=
  { barePkt (beBytes 8 (kind * 2 ^ 60 + elems * 2 ^ 30) ++ List.replicate (24 + body) 0) with cls := cls, id := 1, src := 5, seq := seq }

/-- A part right after reset with a Kitty in slot 0 of Half 0. -/
abbrev withKitty (k : Kitty) : Chip := { fresh0 with kit := { half := fresh0.kit.half, kitty := [(0, k)] } }

theorem kittyPkt_good (a b c d e : Nat) : (kittyPkt a b c d e).crcGood = true := by simp [barePkt, Packet.crcGood]

/-- The Roll of Half 0 has the static entry of the name 5 in Kitty 1, in its cache. -/
abbrev rollKnown (k : Kitty) : Chip :=
  { withKitty k with roll := ⟨
      { entries := [((fresh0.rollSlots 1 5).headD 0, { kitty := 1, src := 5, port := 4, kind := 2 })]
        cache := [(fresh0.rollSlot 0 1 5 % 65536, [rollKey 1 5])] }, {}⟩ }

theorem rollKnown_find (k : Kitty) :
    (rollKnown k).rollFind 0 1 5 = some ((fresh0.rollSlots 1 5).headD 0, { kitty := 1, src := 5, port := 4, kind := 2 }) := by
  have h : (rollKnown k).rollSlots 1 5 = fresh0.rollSlots 1 5 := rfl
  have h2 : (fresh0.rollSlots 1 5).head?.getD 0 ∈ fresh0.rollSlots 1 5 := by
    simp [Chip.rollSlots, List.range_succ]
  have h3 : (rollKnown k).purging 0 1 = false := rfl
  simp only [Chip.rollFind, h, h3]
  simp [Chip.rl, Halves.get, h2]

theorem rollKnown_hit (k : Kitty) : (rollKnown k).rollHit 0 1 5 = true := by
  have h : (rollKnown k).rollSlot 0 1 5 = fresh0.rollSlot 0 1 5 := rfl
  simp only [Chip.rollHit, h]
  simp [Chip.rl, Halves.get, Tab.get]

abbrev held1 : Showdown :=
  { step := 0, attempt := 0, bank := { got := [(0, 2)] }, ended := 0, order := 0, isPartial := false, nan := false, inf := false, done := true }

theorem atKitty (c : Chip) (k : Kitty) (a b s d e : Nat) (ho : okPacket (kittyPkt a b s d e) = true)
    (hi : (c.kit.half.get 0).ingest = []) (hs : (c.kit.half.get 0).served = none) (hf : (kittyPkt a b s d e).cells ≤ (c.kit.half.get 0).ingestLimit) (hk : c.findKitty 1 = some (0, k)) (hc : c.kitty 0 = k) :
    AtKitty 0 0 k (kittyPkt a b s d e) c :=
  ⟨by show bitsAt 1 31 1 = 0; decide, rfl, ho, kittyPkt_good a b s d e, hi, by simp [Chip.serves, hs], hf, hk, hc⟩

theorem witness_AntesComplete :
    (∃ (c : Chip) (h key : Nat) (k : Kitty) (p : Packet) (i s m n : Nat) (e : RollEntry), c.Up ∧ h < 2 ∧ AtKitty h key k p c ∧ p.cls = 2 ∧
      okPort i = true ∧ isAck p = false ∧ isNack p = false ∧ k.state = .active ∧ badHeader k p = false ∧
      anteAttempt p = k.attempt ∧ anteStep p = k.step ∧ m = anteCidx p ∧ n = p.seq % 65536 ∧
      (k.ownerOf m = none ∨ k.ownerOf m = some p.src) ∧ Tab.get false (65536 * m + n) k.bank.arrived = false ∧
      c.rollHit h k.id p.src = true ∧ c.rollFind h k.id p.src = some (s, e) ∧ e.kind = 2 ∧ e.port = i ∧
      k.bank.complete k < k.expect ∧ Tab.get 0 m k.bank.got + 1 ≠ k.nch) ∧
    (∃ (c : Chip) (h key : Nat) (k : Kitty) (p : Packet) (i : Nat), c.Up ∧ h < 2 ∧ AtKitty h key k p c ∧ p.cls = 2 ∧
      okPort i = true ∧ isAck p = false ∧ isNack p = false ∧ k.state = .active ∧ badHeader k p = true) ∧
    (∃ (c : Chip) (h key : Nat) (k : Kitty) (p : Packet) (x : Showdown), c.Up ∧ h < 2 ∧ AtKitty h key k p c ∧ p.cls = 2 ∧
      isAck p = true ∧ k.state = .active ∧ plainHeader 2 p = true ∧ k.last = some x ∧ x.done = true ∧ x.step = anteStep p ∧
      x.attempt = anteAttempt p ∧ (∃ y, y ∈ x.bank.contributors k ∧ y ∉ p.src :: x.confirmed.filter (fun y => y != p.src))) ∧
    (∃ (c : Chip) (h key : Nat) (k : Kitty) (p : Packet) (x : Showdown), c.Up ∧ h < 2 ∧ AtKitty h key k p c ∧ p.cls = 2 ∧
      isNack p = true ∧ k.state = .active ∧ plainHeader 5 p = true ∧ k.last = some x ∧ x.step = anteStep p ∧
      x.attempt = anteAttempt p ∧ p.src ∈ x.bank.contributors k) :=
  ⟨⟨rollKnown (kitty1 none 0), 0, 0, _, kittyPkt 1 1 1 4 2, 4, _, 0, 1, _, ⟨rfl, rfl⟩, by decide,
      atKitty _ _ 1 1 1 4 2 (by decide +kernel) rfl rfl (by decide +kernel) rfl rfl, rfl, by decide, by decide, by decide, rfl, by decide +kernel,
      by decide +kernel, by decide +kernel, by decide +kernel, by decide, .inl rfl, rfl, rollKnown_hit _, rollKnown_find _, rfl, rfl,
      by decide, by decide⟩,
   ⟨withKitty (kitty1 none 0), 0, 0, _, kittyPkt 1 2 1 4 2, 4, ⟨rfl, rfl⟩, by decide,
      atKitty _ _ 1 2 1 4 2 (by decide +kernel) rfl rfl (by decide +kernel) rfl rfl, rfl, by decide, by decide, by decide, rfl, by decide +kernel⟩,
   ⟨withKitty { kitty1 (some held1) 0 with owners := [(0, 7)] }, 0, 0, _, kittyPkt 2 0 0xFFFF 0 2, held1, ⟨rfl, rfl⟩, by decide,
      atKitty _ _ 2 0 0xFFFF 0 2 (by decide +kernel) rfl rfl (by decide +kernel) rfl rfl, rfl, by decide, rfl, by decide +kernel, rfl, rfl,
      by decide +kernel, by decide +kernel, 7, by decide⟩,
   ⟨withKitty { kitty1 (some held1) 0 with owners := [(0, 5)] }, 0, 0, _, kittyPkt 5 0 0xFFFE 0 2, held1, ⟨rfl, rfl⟩, by decide,
      atKitty _ _ 5 0 0xFFFE 0 2 (by decide +kernel) rfl rfl (by decide +kernel) rfl rfl, rfl, by decide, rfl, by decide +kernel, rfl,
      by decide +kernel, by decide +kernel, by decide⟩⟩

theorem witness_KittyWaitsComplete :
    (∃ (c : Chip) (h key : Nat) (k : Kitty) (p : Packet) (x : Showdown) (n : Nat), c.Up ∧ h < 2 ∧ AtKitty h key k p c ∧ p.cls = 3 ∧
      isNack p = false ∧ k.state = .active ∧ k.parent ≠ 0 ∧ plainHeader 3 p = true ∧ n = p.seq % 65536 ∧ n < k.nch ∧
      k.last = some x ∧ x.step = anteStep p ∧ x.attempt = anteAttempt p ∧ k.attempt = x.attempt ∧
      x.results.any (fun e => e.1 == n) = false ∧ (Tab.put n p.payload x.results).length ≠ k.nch) ∧
    (∃ (c : Chip) (h key : Nat) (k : Kitty) (p : Packet) (x : Showdown), c.Up ∧ h < 2 ∧ AtKitty h key k p c ∧ p.cls = 3 ∧
      isNack p = true ∧ k.state = .active ∧ k.parent ≠ 0 ∧ plainHeader 4 p = true ∧ k.last = some x ∧ x.step = anteStep p ∧
      x.attempt = anteAttempt p) ∧
    (∃ (c : Chip) (h n : Nat) (k : Kitty) (d : Nat), c.Up ∧ h < 2 ∧ n < 32768 ∧ k = c.kitty (32768 * h + n) ∧ k.state = .active ∧
      k.bank.deadline = some d ∧ d ≤ c.tb.boundaries ∧ k.policy = 0) ∧
    (∃ (c : Chip) (h n : Nat) (k : Kitty) (d : Nat), c.Up ∧ h < 2 ∧ n < 32768 ∧ k = c.kitty (32768 * h + n) ∧ k.state = .active ∧
      k.bank.deadline = some d ∧ d ≤ c.tb.boundaries ∧ k.policy = 2) ∧
    (∃ (c : Chip) (h n : Nat) (k : Kitty) (d i : Nat), c.Up ∧ h < 2 ∧ n < 32768 ∧ k = c.kitty (32768 * h + n) ∧ k.state = .active ∧
      k.bank.deadline = some d ∧ d ≤ c.tb.boundaries ∧ k.policy = 1 ∧ i < k.nch ∧ Tab.get 0 i k.bank.counts < k.quorum) ∧
    (∃ (c : Chip) (h n : Nat) (k : Kitty) (x : Showdown), c.Up ∧ h < 2 ∧ n < 32768 ∧ k = c.kitty (32768 * h + n) ∧ k.last = some x ∧
      x.done = true ∧ x.resendAt ≤ c.tb.boundaries) ∧
    (∃ (c : Chip) (h n : Nat) (k : Kitty) (x : Showdown) (d : Nat), c.Up ∧ h < 2 ∧ n < 32768 ∧ k = c.kitty (32768 * h + n) ∧
      k.last = some x ∧ x.upAt = some d ∧ d ≤ c.tb.boundaries ∧ x.done = false ∧ x.results.length ≠ k.nch) :=
  ⟨⟨withKitty (kitty1 (some held1) 9), 0, 0, _, kittyPkt 3 0 1 0 3, held1, 1, ⟨rfl, rfl⟩, by decide,
      atKitty _ _ 3 0 1 0 3 (by decide +kernel) rfl rfl (by decide +kernel) rfl rfl, rfl, by decide, rfl, by decide, by decide +kernel, by decide,
      by decide, rfl, by decide +kernel, by decide +kernel, rfl, rfl, by decide⟩,
   ⟨withKitty (kitty1 (some held1) 9), 0, 0, _, kittyPkt 4 0 0xFFFE 0 3, held1, ⟨rfl, rfl⟩, by decide,
      atKitty _ _ 4 0 0xFFFE 0 3 (by decide +kernel) rfl rfl (by decide +kernel) rfl rfl, rfl, by decide, rfl, by decide, by decide +kernel, rfl,
      by decide +kernel, by decide +kernel⟩,
   ⟨withKitty { kitty1 none 0 with bank := { deadline := some 0 } }, 0, 0, _, 0, ⟨rfl, rfl⟩, by decide, by decide, rfl, rfl, rfl, by decide, rfl⟩,
   ⟨withKitty { kitty1 none 0 with desc := [2 ^ 32 + 2 * 65536], bank := { deadline := some 0 } }, 0, 0, _, 0, ⟨rfl, rfl⟩, by decide, by decide,
      rfl, rfl, rfl, by decide, by decide⟩,
   ⟨withKitty { kitty1 none 0 with desc := [2 ^ 32 + 65536, 65 * 2 ^ 41 + 64 * 2 ^ 27], bank := { deadline := some 0 } }, 0, 0, _, 0, 1, ⟨rfl, rfl⟩,
      by decide, by decide, rfl, rfl, rfl, by decide, by decide, by decide, by decide⟩,
   ⟨withKitty (kitty1 (some held1) 0), 0, 0, _, held1, ⟨rfl, rfl⟩, by decide, by decide, rfl, rfl, rfl, by decide⟩,
   ⟨withKitty (kitty1 (some { held1 with done := false, upAt := some 0 }) 9), 0, 0, _, { held1 with done := false, upAt := some 0 }, 0,
      ⟨rfl, rfl⟩, by decide, by decide, rfl, rfl, rfl, by decide, rfl, by decide⟩⟩

/-- A part right after reset whose nest has one level of 16 bits, with job 0 in both Ledgers. -/
abbrev withJob (j : Job) : Chip :=
  { fresh0 with kit := { half := fresh0.kit.half, jobs := [(0, j), (256, j)] }, nest := { desc := 129, self := 2 ^ 32 }, tb := { aligned := true } }

theorem witness_KittyCommandsComplete :
    (∃ k w c y, Served 0x0901 k 12 w c ∧ y = ({ desc := (List.range 6).map (fun i => longAt w (2 * i)) } : Kitty) ∧
      c.tb.aligned = true ∧ y.recipe = 0 ∧ c.kittyIsOpen y.id = false ∧ c.purging y.half y.id = false ∧
      c.job y.half y.job ≠ none ∧ c.noKittySpace y.half 1 (kittyCells y.desc) = false ∧ c.badDescriptor y = false) ∧
    (∃ k w c key y, Served 0x0902 k 1 w c ∧ c.findKitty (w 0) = some (key, y) ∧ y.closing = none) ∧
    (∃ k w c key y, Served 0x0903 k 1 w c ∧ c.findKitty (w 0) = some (key, y)) ∧
    (∃ k w c, Served 0x0904 k 3 w c ∧ c.poolUsed (bitsAt (w 0) 0 1) ≤ bitsAt (w 0) 1 20 ∧ bitsAt (w 0) 1 20 ≤ 524288 ∧
      bitsAt (w 1) 0 17 ≤ c.xferMax (bitsAt (w 0) 0 1)) :=
  ⟨⟨0, _, _, _, served_asked (withJob {}) 0x0901 [1, 1, 32767, 65 * 2 ^ 9 + 2, 64 * 65536 + 128, 0, 0, 0, 0, 2 ^ 16, 0, 0] rfl rfl, rfl,
      by decide +kernel⟩,
   ⟨0, _, _, _, _, served_asked (withKitty (kitty1 none 0)) 0x0902 [1] rfl rfl, rfl, rfl⟩,
   ⟨0, _, _, _, _, served_asked (withKitty (kitty1 none 0)) 0x0903 [1] rfl rfl, rfl⟩,
   ⟨0, _, _, served_asked fresh0 0x0904 [2 * 524288, 0, 0] rfl rfl, by decide +kernel⟩⟩

theorem witness_LedgerCommandsComplete :
    (∃ k w c, Served 0x0911 k 5 w c ∧ c.job 0 (bitsAt (w 0) 0 8) = none ∧ c.job 1 (bitsAt (w 0) 0 8) = none ∧
      (bitAt (w 0) 8 = true → c.kit.stJob = none) ∧ c.nameOk (nameAt w 3) = true) ∧
    (∃ k w c a b, Served 0x0912 k 3 w c ∧ c.job 0 (bitsAt (w 0) 0 8) = some a ∧ c.job 1 (bitsAt (w 0) 0 8) = some b ∧
      nameAt w 1 = a.step ∧ nameAt w 1 = b.step ∧ a.abortPending = false) ∧
    (∃ k w c, Served 0x0913 k 1 w c ∧ c.job 0 (bitsAt (w 0) 0 8) ≠ none ∧ (∀ e, e ∈ c.kit.kitty → e.2.job ≠ bitsAt (w 0) 0 8)) ∧
    (∃ k w c, Served 0x0914 k 1 w c ∧ c.job (bitsAt (w 0) 8 1) (bitsAt (w 0) 0 8) ≠ none) :=
  ⟨⟨0, _, _, served_asked { fresh0 with nest := { desc := 129 } } 0x0911 [256 + 255, 7, 0, 0, 0] rfl rfl, by decide⟩,
   ⟨0, _, _, _, _, served_asked (withJob { step := 7 }) 0x0912 [0, 7, 0] rfl rfl, rfl, rfl, by decide⟩,
   ⟨0, _, _, served_asked (withJob {}) 0x0913 [0] rfl rfl, by decide⟩,
   ⟨0, _, _, served_asked (withJob {}) 0x0914 [256] rfl rfl, by decide⟩⟩

/-- A part right after reset with one region of one page, index 4 of Half 0, handle 4. -/
abbrev region1 : Region := { state := 1, extents := [(2000000, 1)] }

abbrev withRegion : Chip := { fresh0 with lard := { half := fresh0.lard.half, regions := [(4, region1)] } }

/-- A part right after reset in which a command waits in mailbox 0. -/
abbrev withWaiting (b : Chip) (op : Nat) (started : Bool) (args : List Nat) : Chip :=
  { b with stew := { mbx := [(0, { pending := true, ticket := 1 })], waiting := [⟨0, 1, op, started, args⟩] } }

theorem witness_GrantsComplete :
    (∃ k w c h i es, Served 0x0E01 k 3 w c ∧ h = bitsAt (w 0) 0 1 ∧ bitsAt (w 0) 1 3 ≤ 4 ∧ bitAt (w 0) 4 = false ∧ 1 ≤ w 1 ∧
      w 1 ≤ 20971520 ∧ c.waiters h = [] ∧
      (List.range 4096).find? (fun i => decide (4 ≤ i) && (c.region (4096 * h + i)).state == 0) = some i ∧ w 1 ≤ c.freePages h ∧
      c.findPages h (c.takenRuns h) 256 (w 1) 0 = some es) ∧
    (∃ k w c, Served 0x0E01 k 3 w c ∧ bitsAt (w 0) 1 3 ≤ 4 ∧ 1 ≤ w 1 ∧ w 1 ≤ 20971520 ∧ c.freePages (bitsAt (w 0) 0 1) < w 1) ∧
    (∃ (c : Chip) (h : Nat) (v : Waiting) (rest : List Waiting) (i kind n owner d : Nat) (es : List (Nat × Nat)), c.Up ∧ h < 2 ∧
      c.waiters h = v :: rest ∧ v.args = [h, kind, 0, n, owner, d] ∧ Outstanding v c ∧
      (List.range 4096).find? (fun i => decide (4 ≤ i) && (c.region (4096 * h + i)).state == 0) = some i ∧ n ≤ c.freePages h ∧
      c.findPages h (c.takenRuns h) 256 n 0 = some es) ∧
    (∃ (c : Chip) (h : Nat) (v : Waiting), c.Up ∧ h < 2 ∧ c.waiters h = [v] ∧ Outstanding v c ∧ (c.ld h).waitDeals ≠ 0 ∧
      v.args.getD 5 0 + (c.ld h).waitDeals ≤ c.tb.boundaries) ∧
    (∃ (c : Chip) (k x e : Nat) (v : Waiting), c.Up ∧ k < 32 ∧ c.waitingOf 0x0E01 (fun y => y.started && y.mbx == k) = some v ∧
      v.args = [x, e] ∧ Outstanding v c) ∧
    (∃ k w c, Served 0x0E02 k 1 w c ∧ c.regionOf (w 0) ≠ none ∧ c.regionNamed (w 0) = false) :=
  ⟨⟨0, _, _, 1, 4, [(1053952, 3)], served_asked fresh0 0x0E01 [1 + 2 * 4, 3, 9] rfl rfl, by decide +kernel⟩,
   ⟨0, _, _, served_asked fresh0 0x0E01 [0, 20971520, 9] rfl rfl, by decide +kernel⟩,
   ⟨withWaiting fresh0 0x0E01 false [0, 4, 0, 1, 9, 0], 0, _, [], 4, 4, 1, 9, 0, [(1053952, 1)], ⟨rfl, rfl⟩, by decide, rfl, rfl, ⟨rfl, rfl⟩,
      by decide +kernel⟩,
   ⟨{ withWaiting fresh0 0x0E01 false [0, 4, 0, 1, 9, 0] with tb := { boundaries := 4096 } }, 0, _, ⟨rfl, rfl⟩, by decide, rfl, ⟨rfl, rfl⟩,
      by decide, by decide⟩,
   ⟨withWaiting withRegion 0x0E01 true [4, 1], 0, 4, 1, _, ⟨rfl, rfl⟩, by decide, rfl, rfl, ⟨rfl, rfl⟩⟩,
   ⟨0, _, _, served_asked withRegion 0x0E02 [4] rfl rfl, by decide +kernel⟩⟩

theorem witness_RegionAccessComplete :
    (∃ k w c r, Served 0x0E03 k 1 w c ∧ c.regionOf (w 0) = some r) ∧
    (∃ k w c r, Served 0x0E04 k (3 + w 2) w c ∧ c.regionOf (w 0) = some r ∧ w 1 % 4 = 0 ∧ 1 ≤ w 2 ∧ w 2 ≤ 120 ∧
      w 1 + 4 * w 2 ≤ r.pages * 65536 ∧ c.rangeOk (w 0) (w 1) (4 * w 2) = true ∧
      (w 0) ∉ (c.table8 (bitsAt (w 0) 31 1)).protectedList) ∧
    (∃ k w c r, Served 0x0E05 k 3 w c ∧ c.regionOf (w 0) = some r ∧ w 1 % 4 = 0 ∧ 1 ≤ w 2 ∧ w 2 ≤ 120 ∧
      w 1 + 4 * w 2 ≤ r.pages * 65536 ∧ c.rangeOk (w 0) (w 1) (4 * w 2) = true) ∧
    (∃ k w c r, c.regionOf (w 0) = some r ∧ w 1 % 64 = 0 ∧ longAt w 2 % 64 = 0 ∧ w 4 % 64 = 0 ∧ w 4 ≤ 2 ^ 26 ∧
      w 1 + w 4 ≤ r.pages * 65536 ∧ c.rangeOk (w 0) (w 1) (w 4) = true ∧ Served 0x1031 k 5 w c) ∧
    (∃ k w c r, c.regionOf (w 0) = some r ∧ w 1 % 64 = 0 ∧ longAt w 2 % 64 = 0 ∧ w 4 % 64 = 0 ∧ w 4 ≤ 2 ^ 26 ∧
      w 1 + w 4 ≤ r.pages * 65536 ∧ c.rangeOk (w 0) (w 1) (w 4) = true ∧ Served 0x1032 k 5 w c) ∧
    (∃ (c : Chip) (k x a off n : Nat) (v : Waiting), c.Up ∧ k < 32 ∧
      c.stew.waiting.find? (fun y => (y.opcode == 0x1031 || y.opcode == 0x1032) && y.mbx == k) = some v ∧ v.args = [x, off, a, n] ∧
      Outstanding v c ∧ (∀ g, g ∈ (c.region (handleKey x)).touched off n → c.deadPage (bitsAt x 31 1) g = false) ∧ v.opcode = 0x1031) ∧
    (∃ (c : Chip) (k x a off n : Nat) (v : Waiting) (bs : List Byte), c.Up ∧ k < 32 ∧
      c.stew.waiting.find? (fun y => (y.opcode == 0x1031 || y.opcode == 0x1032) && y.mbx == k) = some v ∧ v.args = [x, off, a, n] ∧
      Outstanding v c ∧ (∀ g, g ∈ (c.region (handleKey x)).touched off n → c.deadPage (bitsAt x 31 1) g = false) ∧
      v.opcode = 0x1032 ∧ bs.length = n ∧ x ∉ (c.table8 (bitsAt x 31 1)).protectedList) :=
  ⟨⟨0, _, _, _, served_asked withRegion 0x0E03 [4] rfl rfl, rfl⟩,
   ⟨0, wordsOf [4, 65532, 1, 0xABCD], _, _, served_asked withRegion 0x0E04 [4, 65532, 1, 0xABCD] rfl rfl, rfl, by decide +kernel⟩,
   ⟨0, _, _, _, served_asked withRegion 0x0E05 [4, 65056, 120] rfl rfl, rfl, by decide +kernel⟩,
   ⟨0, wordsOf [4, 64, 0, 0, 65472], asked withRegion 0x1031 [4, 64, 0, 0, 65472], region1, rfl, by decide +kernel, by decide +kernel, by decide +kernel, by decide +kernel, by decide +kernel, by decide +kernel, served_asked withRegion 0x1031 [4, 64, 0, 0, 65472] rfl rfl⟩,
   ⟨0, wordsOf [4, 64, 0, 0, 65472], asked withRegion 0x1032 [4, 64, 0, 0, 65472], region1, rfl, by decide +kernel, by decide +kernel, by decide +kernel, by decide +kernel, by decide +kernel, by decide +kernel, served_asked withRegion 0x1032 [4, 64, 0, 0, 65472] rfl rfl⟩,
   ⟨withWaiting withRegion 0x1031 true [4, 0, 0, 64], 0, 4, 0, 0, 64, _, ⟨rfl, rfl⟩, by decide, rfl, rfl, ⟨rfl, rfl⟩, by decide +kernel⟩,
   ⟨withWaiting withRegion 0x1032 true [4, 0, 0, 64], 0, 4, 0, 0, 64, _, List.replicate 64 7, ⟨rfl, rfl⟩, by decide, rfl, rfl, ⟨rfl, rfl⟩,
      by decide +kernel⟩⟩

theorem witness_SharesAndStacksComplete :
    (∃ k w c, Served 0x0E06 k 2 w c ∧
      bitsAt (w 0) 1 10 + 2 * (c.xbar.buf.get (bitsAt (w 0) 0 1)).rate + bitsAt (w 0) 11 12 ≤ c.budget (bitsAt (w 0) 0 1) ∧
      c.sweepUnits (bitsAt (w 0) 0 1) ≤ bitsAt (w 0) 1 10) ∧
    (∃ k w c, Served 0x0E07 k 2 w c ∧ 5376 + w 1 ≤ c.halfPages (bitsAt (w 0) 0 1) ∧ w 1 < 2 ^ 25 ∧
      c.spillHeld (bitsAt (w 0) 0 1) = [] ∧
      (∀ e, e ∈ (c.takenRuns (bitsAt (w 0) 0 1)).drop 1 → 5376 + w 1 ≤ e.1)) ∧
    (∃ k w c, Served 0x0E08 k 1 w c ∧ bitAt c.caps.sites (bitsAt (w 0) 0 5) = true ∧
      bitAt (capsOf c.fuses.variant).sites (bitsAt (w 0) 0 5) = true ∧
      bitAt c.lard.retired (bitsAt (w 0) 0 5) = false ∧ c.stackRetiring (bitsAt (w 0) 0 5) = false) ∧
    (∃ (c : Chip) (s : Nat), c.Up ∧ s < 20 ∧ bitAt (capsOf c.fuses.variant).sites s = true ∧ bitAt c.lard.retired s = false ∧
      c.stackRetiring s = false) :=
  ⟨⟨0, _, _, served_asked fresh0 0x0E06 [2 * 64, 0] rfl rfl, by decide +kernel⟩,
   ⟨0, _, _, served_asked withRegion 0x0E07 [0, 1000] rfl rfl, by decide +kernel⟩,
   ⟨0, _, _, served_asked fresh0 0x0E08 [19] rfl rfl, by decide⟩,
   ⟨fresh0, 19, ⟨rfl, rfl⟩, by decide⟩⟩

/-- A part right after reset whose Loom 5 has slot 3 so set. -/
abbrev withSlot (s : LoomSlot) (x : Loom) : Chip :=
  { fresh0 with loom := { fresh0.loom with slots := [(16 * 5 + 3, s)], loom := [(5, x)] } }

/-- A part right after reset with one recipe, handle 7, of one instruction (END), loaded into Loom 5 and no other. -/
abbrev withRecipe (v : Recipe) : Chip := { fresh0 with loom := { fresh0.loom with recipes := [(7, v)] } }

/-- A recipe of `n` instructions based in Loom 5, the first of them END, and a run of handle 7 by a slot of its own. -/
abbrev recipeOf (n : Nat) (done : Bool) : Recipe := { length := n, stateBytes := 8, isSealed := done, code := [(0, 0x3F * 2 ^ 58)], bases := [(5, 0)] }

abbrev runOf (k : Nat) : Run := { slot := k, handle := 7, regs := List.replicate 32 0 }

theorem witness_LoomCommandsComplete :
    (∃ k w c n, n = bitsAt (w 0) 0 6 ∧ Served 0x0A01 k 1 w c ∧ c.loomAbsent n = false) ∧
    (∃ k w c n, n = bitsAt (w 0) 0 6 ∧ Served 0x0A02 k 1 w c ∧ c.loomAbsent n = false ∧ c.loomRetiring n = false) ∧
    (∃ k w c n, n = bitsAt (w 0) 0 6 ∧ Served 0x0A03 k 3 w c ∧ bitAt (w 0) 6 = false ∧ c.loomAbsent n = false) ∧
    (∃ k w c, Served 0x0A03 k 3 w c ∧ bitAt (w 0) 6 = true) ∧
    (∃ k w c n a, n = bitsAt (w 0) 0 6 ∧ a = bitsAt (w 1) 0 23 ∧ c.loomAbsent n = false ∧ benchBad a (w 2) = false ∧
      Served 0x0A11 k (3 + w 2) w c) ∧
    (∃ k w c n a e, n = bitsAt (w 0) 0 6 ∧ a = bitsAt (w 1) 0 23 ∧ c.loomAbsent n = false ∧ benchBad a (w 2) = false ∧
      a / 8 * 8 ≤ e ∧ e < a + 4 * w 2 ∧ Served 0x0A12 k 3 w c) ∧
    (∃ k w c n, n = bitsAt (w 0) 0 6 ∧ Served 0x0B21 k 2 w c ∧ (capsOf c.fuses.variant).recipes = true ∧ bitAt (w 0) 6 = false ∧
      c.loomAbsent n = false ∧ 64 ≤ bitsAt (w 1) 0 20) ∧
    (∃ (c : Chip) (l : Nat), c.Up ∧ okLoom l = true ∧ c.loomServes l = true ∧ (c.loomAt l).ring ≠ []) :=
  ⟨⟨0, _, _, _, rfl, served_asked fresh0 0x0A01 [5] rfl rfl, by decide +kernel⟩,
   ⟨0, _, _, _, rfl, served_asked fresh0 0x0A02 [63] rfl rfl, by decide +kernel⟩,
   ⟨0, _, _, _, rfl, served_asked fresh0 0x0A03 [5, 1, 2] rfl rfl, by decide +kernel⟩,
   ⟨0, _, _, served_asked fresh0 0x0A03 [64, 1, 2] rfl rfl, by decide +kernel⟩,
   ⟨0, wordsOf [5, 8388604, 1, 77], asked fresh0 0x0A11 [5, 8388604, 1, 77], _, _, rfl, rfl, by decide +kernel, by decide +kernel,
      served_asked fresh0 0x0A11 [5, 8388604, 1, 77] rfl rfl⟩,
   ⟨0, wordsOf [5, 8388604, 1], asked fresh0 0x0A12 [5, 8388604, 1], _, _, 8388600, rfl, rfl, by decide +kernel, by decide +kernel,
      by decide +kernel, by decide +kernel, served_asked fresh0 0x0A12 [5, 8388604, 1] rfl rfl⟩,
   ⟨0, _, _, _, rfl, served_asked fresh0 0x0B21 [128 + 5, 64] rfl rfl, by decide +kernel⟩,
   ⟨withSlot {} { ring := [0] }, 5, ⟨rfl, rfl⟩, by decide +kernel⟩⟩

theorem witness_SlotStartsComplete :
    (∃ (c : Chip) (n k : Nat), c.Up ∧ okLoom n = true ∧ k < 16 ∧ c.loomServes n = true ∧ c.hasWork n k = false ∧
      c.duePiece n k = none) ∧
    (∃ (c : Chip) (n k : Nat) (r : Run), c.Up ∧ okLoom n = true ∧ k < 16 ∧ c.loomServes n = true ∧
      c.cycle ≤ c.slotCycle (c.loomSlot n k).offset ∧ (c.loomSlot n k).started ≠ some c.tb.boundaries ∧
      (c.advanceTo (c.slotCycle (c.loomSlot n k).offset)).duePiece n k = none ∧ c.yieldedRun n k = some r ∧ (c.loomAt n).run = none) ∧
    (∃ (c : Chip) (n k : Nat), c.Up ∧ okLoom n = true ∧ k < 16 ∧ c.loomServes n = true ∧
      c.cycle ≤ c.slotCycle (c.loomSlot n k).offset ∧ (c.loomSlot n k).started ≠ some c.tb.boundaries ∧
      (∀ e, e ∈ (c.loomAt n).yielded → e.1 ≠ k) ∧
      (c.advanceTo (c.slotCycle (c.loomSlot n k).offset)).duePiece n k = none ∧ (c.loomSlot n k).en = true ∧
      (c.loomSlot n k).mode = 3 ∧ (c.loomSlot n k).faulted = false ∧ c.sealedOn (c.loomSlot n k).handle n = true ∧
      (c.loomAt n).run = none) ∧
    (∃ (c : Chip) (n k : Nat) (r : Run), c.Up ∧ okLoom n = true ∧ k < 16 ∧ c.loomServes n = true ∧
      c.cycle ≤ c.slotCycle (c.loomSlot n k).offset ∧ (c.loomSlot n k).started ≠ some c.tb.boundaries ∧
      (c.advanceTo (c.slotCycle (c.loomSlot n k).offset)).duePiece n k = none ∧ c.hasWork n k = true ∧ (c.loomAt n).run = some r ∧ k ∉ (c.loomAt n).waiting) :=
  ⟨⟨fresh0, 63, 15, fresh0_up, by decide +kernel⟩,
   ⟨{ withSlot { en := true, mode := 3, handle := 7 } { yielded := [(3, runOf 3)] } with tb := { boundaries := 1 } }, 5, 3, runOf 3, ⟨rfl, rfl⟩,
      by decide +kernel⟩,
   ⟨{ withSlot { en := true, mode := 3, handle := 7 } {} with loom := { (withSlot { en := true, mode := 3, handle := 7 } {}).loom with recipes := [(7, recipeOf 1 true)] } },
      5, 3, ⟨rfl, rfl⟩, by decide +kernel⟩,
   ⟨{ withSlot { en := true, mode := 3, handle := 7 } { run := some (runOf 2), yielded := [(3, runOf 3)] } with tb := { boundaries := 1 } }, 5, 3,
      runOf 2, ⟨rfl, rfl⟩, by decide +kernel⟩⟩

theorem witness_RecipeCommandsComplete :
    (∃ k w c x ns len, (capsOf c.fuses.variant).recipes = true ∧ x = bitsAt (w 0) 0 16 ∧ Served 0x0B01 k 4 w c ∧
      ns = bitsSet 64 (longAt w 1) ∧ len = bitsAt (w 3) 0 13 ∧ c.recipe x = none ∧ c.loom.recipes.length < 1024 ∧
      (∀ n, n ∈ ns → c.firstFit n len ≠ none ∧ c.loomAbsent n = false) ∧ x ≠ 0 ∧ len ≠ 0 ∧ bitsAt (w 3) 13 6 ≤ 32 ∧ ns ≠ []) ∧
    (∃ k w c v first n, Served 0x0B02 k (2 + 2 * n) w c ∧ n = bitsAt (w 1) 0 6 ∧ first = bitsAt (w 0) 16 13 ∧
      c.recipe (bitsAt (w 0) 0 16) = some v ∧ 1 ≤ n ∧ n ≤ 60 ∧ first + n ≤ v.length ∧ v.isSealed = false) ∧
    (∃ k w c v, Served 0x0B03 k 2 w c ∧ c.recipe (bitsAt (w 0) 0 16) = some v ∧
      crc32c ((List.range v.length).flatMap (fun i => leBytes 8 (Tab.get 0 i v.code))) = w 1 ∧
      (∀ i, i < v.length → instrOk v.length i (Tab.get 0 i v.code) = true) ∧ v.length ≠ 0) ∧
    (∃ k w c v, Served 0x0B04 k 1 w c ∧ c.recipe (bitsAt (w 0) 0 16) = some v ∧ c.recipeNamed (bitsAt (w 0) 0 16) v = false) ∧
    (∃ k w c n s en m o l, Served 0x0B11 k 4 w c ∧ n = bitsAt (w 0) 0 6 ∧ s = bitsAt (w 0) 6 4 ∧ en = bitAt (w 0) 10 ∧
      m = bitsAt (w 0) 11 3 ∧ o = bitsAt (w 1) 0 15 ∧ l = bitsAt (w 1) 15 15 ∧ c.loomAbsent n = false ∧ 2 ≤ m ∧ m ≤ 4 ∧
      en = true ∧ c.slotClash n s o l = false ∧ c.sealedOn (bitsAt (w 2) 0 16) n = true ∧ c.slotBound n s = none) ∧
    (∃ k w c n first m, Served 0x0B12 k (1 + 2 * m) w c ∧ n = bitsAt (w 0) 0 6 ∧ first = bitsAt (w 0) 10 3 ∧
      m = bitsAt (w 0) 13 4 ∧ c.loomAbsent n = false ∧ 1 ≤ m ∧ first + m ≤ 8) ∧
    (∃ k w c n s, Served 0x0B13 k 3 w c ∧ n = bitsAt (w 0) 0 6 ∧ s = bitsAt (w 0) 6 4 ∧ c.loomAbsent n = false ∧
      (c.loomSlot n s).en = true ∧ (c.loomSlot n s).mode = 4 ∧ (c.loomSlot n s).runAt = none ∧
      (∀ e, e ∈ (c.loomAt n).yielded → e.1 ≠ s) ∧ (∀ r, (c.loomAt n).run = some r → r.slot ≠ s) ∧ c.tooLate (nameAt w 1) = false) :=
  ⟨⟨0, wordsOf [7, 32, 0, 1], _, 7, [5], 1, by decide +kernel, by decide +kernel,
      served_asked fresh0 0x0B01 [7, 32, 0, 1] rfl rfl, by decide +kernel⟩,
   ⟨0, wordsOf [7 + 65536 * 3, 1, 5, 6], asked (withRecipe (recipeOf 4 false)) 0x0B02 [7 + 65536 * 3, 1, 5, 6], (recipeOf 4 false), 3, 1,
      served_asked (withRecipe (recipeOf 4 false)) 0x0B02 [7 + 65536 * 3, 1, 5, 6] rfl rfl, by decide +kernel⟩,
   ⟨0, wordsOf [7, crc32c (leBytes 8 (0x3F * 2 ^ 58))], asked (withRecipe (recipeOf 1 false)) 0x0B03 [7, crc32c (leBytes 8 (0x3F * 2 ^ 58))], (recipeOf 1 false),
      served_asked (withRecipe (recipeOf 1 false)) 0x0B03 [7, crc32c (leBytes 8 (0x3F * 2 ^ 58))] rfl rfl, by decide +kernel⟩,
   ⟨0, wordsOf [7], asked (withRecipe (recipeOf 1 false)) 0x0B04 [7], (recipeOf 1 false),
      served_asked (withRecipe (recipeOf 1 false)) 0x0B04 [7] rfl rfl, by decide +kernel⟩,
   ⟨0, wordsOf [5 + 64 * 3 + 1024 + 2048 * 3, 64 + 32768 * 1000, 7, 0],
      asked (withRecipe (recipeOf 1 true)) 0x0B11 [5 + 64 * 3 + 1024 + 2048 * 3, 64 + 32768 * 1000, 7, 0], 5, 3, true, 3, 64, 1000,
      served_asked (withRecipe (recipeOf 1 true)) 0x0B11 [5 + 64 * 3 + 1024 + 2048 * 3, 64 + 32768 * 1000, 7, 0] rfl rfl, by decide +kernel⟩,
   ⟨0, wordsOf [5 + 1024 * 7 + 8192, 1, 2], asked fresh0 0x0B12 [5 + 1024 * 7 + 8192, 1, 2], 5, 7, 1,
      served_asked fresh0 0x0B12 [5 + 1024 * 7 + 8192, 1, 2] rfl rfl, by decide +kernel⟩,
   ⟨0, wordsOf [5 + 64 * 3, 2, 0], asked (withSlot { en := true, mode := 4, handle := 7 } {}) 0x0B13 [5 + 64 * 3, 2, 0], 5, 3,
      served_asked (withSlot { en := true, mode := 4, handle := 7 } {}) 0x0B13 [5 + 64 * 3, 2, 0] rfl rfl, by decide +kernel,
      by decide +kernel, by decide +kernel, by decide +kernel, by decide +kernel, by decide +kernel,
      by intro r h; revert h; exact (by simp [withSlot, rung, Chip.loomAt, Tab.get]), by decide +kernel⟩⟩

/-- Registers of a run that hold small Bench addresses, lengths and a region handle. -/
abbrev regs1 : List Nat := [0, 64, 4096, 128, 4, 0, 1 + 2 ^ 16 + 2 ^ 25 + 2 ^ 33 + 2 ^ 48] ++ List.replicate 25 0

/-- A part right after reset in which the run of Loom 5 stands at an instruction of word `w`, with one region of half 0. -/
abbrev atWord (w : Nat) (x : Loom) : Chip :=
  { withRegion with
    sv := { state := .ready, bank := [(0, { state := .ready })] }
    loom := { fresh0.loom with
      loom := [(5, { x with run := some { runOf 3 with regs := regs1 } })], recipes := [(7, { recipeOf 2 true with code := [(0, w)] })]
      bench := [⟨2 ^ 23 * 5 + 70, 0x40⟩] } }

theorem atPc_word (w : Nat) (row : Nat × Nat) (h : (rowOf w == row && (atWord w {}).faultOf 5 { runOf 3 with regs := regs1 } w == 0 &&
    (atWord w {}).blockOf 5 { runOf 3 with regs := regs1 } w == 0 && (atWord w {}).loomServes 5) = true) :
    AtPc 5 row { runOf 3 with regs := regs1 } w (atWord w {}) := by
  simp only [Bool.and_eq_true, beq_iff_eq] at h
  exact ⟨⟨rfl, rfl⟩, by decide, h.2, rfl, rfl, h.1.1.1, rfl, h.1.1.2, h.1.2⟩

/-- The same with a Kitty return that waits in half 0. -/
abbrev atReturn (w : Nat) : Chip :=
  { atWord w {} with kit := { kitty := [(4, { kitty1 (some { held1 with ran := [(0, 0)] }) 0 with desc := [2 ^ 32 + 1, 65 * 2 ^ 41 + 64 * 2 ^ 27, 64 * 2 ^ 16] })] } }

/-- A word of opcode, fields D, A, B at their places, and the rest. -/
abbrev word (op d a b low : Nat) : Nat := op * 2 ^ 58 + d * 2 ^ 47 + a * 2 ^ 42 + b * 2 ^ 37 + low

theorem witness_ScalarInstructionsComplete :
    (∃ n r w c, AtPc n (0x00, 0) r w c) ∧ (∃ n r w c, AtPc n (0x10, 0) r w c) ∧
    (∃ n r w c, AtPc n (0x10, 0) r w c ∧ bitsAt w 52 6 = 7 ∧ 64 ≤ regAt w r.regs 37) ∧
    (∃ n r w c, ∃ i : Nat, AtPc n (0x11, 0) r w c ∧ (i : Int) = toSigned (bitsAt w 0 32) 32 % (2 ^ 64 : Int) ∧ bitsAt w 52 6 = 0) ∧
    (∃ n r w c, ∃ i : Nat, AtPc n (0x11, 0) r w c ∧ i = bitsAt w 0 6 ∧ bitsAt w 52 6 = 5) ∧
    (∃ n r w c, AtPc n (0x12, 0) r w c ∧ bitAt w 40 = true) ∧ (∃ n r w c, AtPc n (0x13, 0) r w c) ∧ (∃ n r w c, AtPc n (0x14, 0) r w c) ∧
    (∃ n r w c, AtPc n (0x15, 0) r w c) ∧ (∃ n r w c, AtPc n (0x16, 0) r w c) ∧ (∃ n r w c, AtPc n (0x18, 0) r w c) ∧
    (∃ n r w c, AtPc n (0x19, 0) r w c) ∧ (∃ n r w c, AtPc n (0x30, 0) r w c) ∧ (∃ n r w c, AtPc n (0x30, 1) r w c) ∧
    (∃ n r w c, AtPc n (0x30, 2) r w c) ∧ (∃ n r w c, AtPc n (0x30, 3) r w c ∧ r.stale = false ∧ (c.loomAt n).waiting = []) ∧
    (∃ n r w c, AtPc n (0x3F, 0) r w c ∧ r.forWhom = .self ∧ (c.loomAt n).waiting = []) :=
  ⟨⟨_, _, _, _, atPc_word 0 _ (by decide +kernel)⟩,
   ⟨_, _, _, _, atPc_word (word 0x10 5 1 2 0) _ (by decide +kernel)⟩,
   ⟨_, _, _, _, atPc_word (word 0x10 5 1 2 (7 * 2 ^ 52)) _ (by decide +kernel), by decide +kernel⟩,
   ⟨_, _, _, _, 2 ^ 64 - 1, atPc_word (word 0x11 5 1 0 (2 ^ 32 - 1)) _ (by decide +kernel), by decide +kernel⟩,
   ⟨_, _, _, _, 63, atPc_word (word 0x11 5 1 0 (5 * 2 ^ 52 + 63)) _ (by decide +kernel), by decide +kernel⟩,
   ⟨_, _, _, _, atPc_word (word 0x12 5 0 0 (2 ^ 40 + 7)) _ (by decide +kernel), by decide +kernel⟩,
   ⟨_, _, _, _, atPc_word (word 0x13 5 1 0 (3 * 2 ^ 56)) _ (by decide +kernel)⟩,
   ⟨_, _, _, _, atPc_word (word 0x14 0 1 2 (3 * 2 ^ 56)) _ (by decide +kernel)⟩,
   ⟨_, _, _, _, atPc_word (word 0x15 5 1 2 0) _ (by decide +kernel)⟩,
   ⟨_, _, _, _, atPc_word (word 0x16 5 0 0 6) _ (by decide +kernel)⟩,
   ⟨_, _, _, _, atPc_word (word 0x18 0 1 1 1) _ (by decide +kernel)⟩,
   ⟨_, _, _, _, atPc_word (word 0x19 0 0 0 1) _ (by decide +kernel)⟩,
   ⟨_, _, _, _, atPc_word (word 0x30 0 0 0 0) _ (by decide +kernel)⟩,
   ⟨_, _, _, _, atPc_word (word 0x30 0 0 0 (2 ^ 55)) _ (by decide +kernel)⟩,
   ⟨_, _, _, _, atPc_word (word 0x30 0 0 0 (2 * 2 ^ 55)) _ (by decide +kernel)⟩,
   ⟨_, _, _, _, atPc_word (word 0x30 0 0 0 (3 * 2 ^ 55)) _ (by decide +kernel), rfl, rfl⟩,
   ⟨_, _, _, _, atPc_word (word 0x3F 0 0 0 0) _ (by decide +kernel), rfl, rfl⟩⟩

theorem witness_FlightsIssueComplete :
    (∃ n r w c, AtPc n (0x01, 0) r w c ∧ (mmOf w r.regs).empty = false) ∧
    (∃ n r w c, AtPc n (0x01, 0) r w c ∧ (mmOf w r.regs).empty = true) ∧
    (∃ n r w c, AtPc n (0x08, 0) r w c) ∧ (∃ n r w c, AtPc n (0x09, 0) r w c) ∧ (∃ n r w c, AtPc n (0x0A, 0) r w c) ∧
    (∃ n r w c, AtPc n (0x0A, 1) r w c) ∧ (∃ n r w c, AtPc n (0x0A, 2) r w c) ∧ (∃ n r w c, AtPc n (0x20, 0) r w c) ∧
    (∃ n r w c, AtPc n (0x21, 0) r w c ∧ (moveOf w r.regs).length ≠ 0) ∧
    (∃ n r w c v, AtPc n (0x22, 0) r w c ∧ c.regionOf (moveOf w r.regs).region = some v ∧ (moveOf w r.regs).length ≠ 0 ∧
      (moveOf w r.regs).region ∉ (c.table8 (bitsAt (moveOf w r.regs).region 31 1)).protectedList) ∧
    (∃ n r w c, AtPc n (0x22, 0) r w c ∧ hbmOk (.bad 0) = false ∧
      (c.region (handleKey (moveOf w r.regs).region)).touched (moveOf w r.regs).offset (moveOf w r.regs).length ≠ [] ∧
      r.forWhom = .self ∧ (c.loomAt n).waiting = []) ∧
    (∃ n r w c, AtPc n (0x28, 0) r w c ∧ c.returnWaiting (n / 32) = true) ∧
    (∃ n r w c, AtPc n (0x28, 0) r w c ∧ c.returnWaiting (n / 32) = false) ∧ (∃ n r w c, AtPc n (0x29, 0) r w c) :=
  ⟨⟨_, _, _, _, atPc_word (2 ^ 58 + 1 * 2 ^ 53 + 3 * 2 ^ 48 + 2 * 2 ^ 43 + 7 * 2 ^ 34 + 7 * 2 ^ 30 + 6 * 2 ^ 38) _ (by decide +kernel), by decide +kernel⟩,
   ⟨_, _, _, _, atPc_word (2 ^ 58 + 1 * 2 ^ 53 + 3 * 2 ^ 48 + 2 * 2 ^ 43 + 7 * 2 ^ 34 + 7 * 2 ^ 30) _ (by decide +kernel), by decide +kernel⟩,
   ⟨_, _, _, _, atPc_word (word 0x08 1 1 2 0) _ (by decide +kernel)⟩,
   ⟨_, _, _, _, atPc_word (word 0x09 0 0 0 0) _ (by decide +kernel)⟩,
   ⟨_, _, _, _, atPc_word (word 0x0A 2 1 0 0) _ (by decide +kernel)⟩,
   ⟨_, _, _, _, atPc_word (word 0x0A 2 1 0 (2 ^ 52)) _ (by decide +kernel)⟩,
   ⟨_, _, _, _, atPc_word (word 0x0A 2 1 0 (2 * 2 ^ 52)) _ (by decide +kernel)⟩,
   ⟨_, _, _, _, atPc_word (word 0x20 1 2 3 0) _ (by decide +kernel)⟩,
   ⟨_, _, _, _, atPc_word (word 0x21 1 4 5 (1 * 2 ^ 32)) _ (by decide +kernel), by decide +kernel⟩,
   ⟨_, _, _, _, _, atPc_word (word 0x22 1 4 5 (1 * 2 ^ 32)) _ (by decide +kernel), rfl, by decide +kernel, by decide +kernel⟩,
   ⟨_, _, _, _, atPc_word (word 0x22 1 4 5 (1 * 2 ^ 32)) _ (by decide +kernel), rfl, by decide +kernel, rfl, rfl⟩,
   ⟨5, { runOf 3 with regs := regs1 }, word 0x28 1 2 0 0, atReturn (word 0x28 1 2 0 0),
      ⟨⟨rfl, rfl⟩, by decide, by decide +kernel, rfl, rfl, by decide +kernel, rfl, by decide +kernel, by decide +kernel⟩, by decide +kernel⟩,
   ⟨_, _, _, _, atPc_word (word 0x28 1 2 0 0) _ (by decide +kernel), by decide +kernel⟩,
   ⟨_, _, _, _, atPc_word (word 0x29 1 2 4 0) _ (by decide +kernel)⟩⟩

/-- Loom 5 with an instruction in flight and its run going on at word `w`, held or not. -/
abbrev inFlight (f : Nat) (w : Nat) (held : Option Hold) : Chip :=
  { atWord w {} with loom := { (atWord w {}).loom with loom := [(5, {
      run := some { runOf 3 with regs := regs1, id := 1, held := held }
      flight := [⟨1, 0, f, regs1, 0, 0⟩], sampleEn := true })] } }

/-- Loom 5 with a fetch of one granule of the region still landing. -/
abbrev filling : Chip :=
  { withRegion with loom := { fresh0.loom with loom := [(5, {
      fills := [{ bench := 64, length := 64, region := 4, offset := 0, granules := [0], deal := 0, seq := 0 }] })] } }

theorem witness_FlightsEndComplete :
    (∃ (c : Chip) (n i : Nat) (f : InFlight), c.Up ∧ okLoom n = true ∧ c.loomServes n = true ∧ i < 8 ∧
      (c.loomAt n).flight[i]? = some f ∧ (c.loomAt n).blockedBy i f = false) ∧
    (∃ (c : Chip) (n : Nat) (r : Run) (hold : Hold), c.Up ∧ okLoom n = true ∧ c.loomServes n = true ∧ (c.loomAt n).run = some r ∧
      r.held = some hold ∧ c.blockOf n r (c.instrAt r.handle r.pc) = 0 ∧ c.faultOf n r (c.instrAt r.handle r.pc) = 0) ∧
    (∃ (c : Chip) (n g : Nat) (f : Fill), c.Up ∧ okLoom n = true ∧ c.loomServes n = true ∧ g < 2048 ∧
      (c.loomAt n).moving.find? (fun y => y.granules.contains g) = some f ∧
      ((c.region (handleKey f.region)).touched (f.offset + (max f.bench (4096 * g) - f.bench))
        (min (f.bench + f.length) (4096 * g + 4096) - max f.bench (4096 * g))).any (fun y => c.deadPage (bitsAt f.region 31 1) y) = false) ∧
    (∃ (c : Chip) (n i : Nat) (f : InFlight) (r : Run), c.Up ∧ okLoom n = true ∧ c.loomServes n = true ∧ i < 8 ∧
      (c.loomAt n).flight[i]? = some f ∧ opcodeOf f.word = 1 ∧ (mmOf f.word f.regs).k ≠ 0 ∧ (c.loomAt n).blockedBy i f = false ∧
      (c.loomAt n).run = some r ∧ r.id = f.run ∧ r.forWhom = .self ∧ (c.loomAt n).waiting = []) ∧
    (∃ (c : Chip) (n : Nat), c.Up ∧ okLoom n = true ∧ c.loomServes n = true ∧ (c.loomAt n).sampleEn = true ∧
      (c.loomAt n).ring.length < 64) ∧
    (∃ (c : Chip) (n : Nat) (r : Run), c.Up ∧ okLoom n = true ∧ c.loomServes n = true ∧ (c.loomAt n).run = some r ∧ r.held = none ∧
      rowOf (c.instrAt r.handle r.pc) = (0x00, 0) ∧ r.forWhom = .self ∧ (c.loomAt n).waiting = []) ∧
    (∃ (c : Chip) (h k j b : Nat) (y : Showdown), c.Up ∧ h < 2 ∧ k < 32768 ∧ (c.kitty (32768 * h + k)).last = some y ∧
      y.ran.find? (fun e => e.1 == j) = some (j, b) ∧ c.tb.boundaries ≤ b ∧
      ∃ a, Ranges.meet [(a / 8 * 8, 8)] [((c.kitty (32768 * h + k)).resultAt j, elementBytes (c.kitty (32768 * h + k)).outFmt ((c.kitty (32768 * h + k)).pieceLen j))] = true) :=
  ⟨⟨inFlight 0 0 none, 5, 0, ⟨1, 0, 0, regs1, 0, 0⟩, ⟨rfl, rfl⟩, by decide, by decide +kernel, by decide, rfl, by decide +kernel⟩,
   ⟨inFlight 0 0 (some ⟨0, 0, true⟩), 5, _, ⟨0, 0, true⟩, ⟨rfl, rfl⟩, by decide, by decide +kernel, rfl, rfl, by decide +kernel, by decide +kernel⟩,
   ⟨filling, 5, 0, _, ⟨rfl, rfl⟩, by decide, by decide +kernel, by decide, rfl, by decide +kernel⟩,
   ⟨inFlight (2 ^ 58 + 1 * 2 ^ 53 + 3 * 2 ^ 48 + 2 * 2 ^ 43 + 7 * 2 ^ 34 + 7 * 2 ^ 30 + 6 * 2 ^ 38) 0 none, 5, 0, _, _, ⟨rfl, rfl⟩, by decide, by decide +kernel,
      by decide, rfl, by decide +kernel, by decide +kernel, by decide +kernel, rfl, rfl, rfl, rfl⟩,
   ⟨inFlight 0 0 none, 5, ⟨rfl, rfl⟩, by decide +kernel⟩,
   ⟨inFlight 0 0 none, 5, _, ⟨rfl, rfl⟩, by decide, by decide +kernel, rfl, rfl, by decide +kernel, rfl, rfl⟩,
   ⟨atReturn 0, 0, 4, 0, 0, _, ⟨rfl, rfl⟩, by decide, by decide, rfl, rfl, by decide +kernel,
      ((atReturn 0).kitty 4).resultAt 0, by decide +kernel⟩⟩

/-- A gate of ID 9: two experts, K = 1 of one candidate, one shard and one replica, and its two bindings on Loom 5. -/
abbrev gate1 : Gate :=
  { desc := [9 * 2 ^ 32 + 2 ^ 22 + 2 * 2 ^ 12 + 8, 2 ^ 56 + 2 ^ 47 + 2 ^ 44 + 4 * 2 ^ 31, 4 * 2 ^ 32, 0]
    bindings := [(5, 3, 0), (5, 4, 64)], state := .active, live := 1 }

/-- A part right after reset with that gate loaded in half 0. -/
abbrev withGate (g : Gate) : Chip := { fresh0 with
    nest := { desc := 129 }
    gate := { gate := [(3, g)] } }

/-- A packet for the gate with a payload of `pl` and SEQ `n`. -/
abbrev gatePkt (cls n : Nat) (pl : List (BitVec 8)) : Packet := { barePkt pl with cls := cls, id := 9, seq := n }

/-- The one part of a token row of 128 elements: KIND 6, FMT 2. -/
abbrev tokenBody : List (BitVec 8) := [0x62, 2, 0, 0] ++ List.replicate 160 0

/-- The one part of a reply row of 128 elements: KIND 8, FMT 1. -/
abbrev replyBody : List (BitVec 8) := [0x81, 2, 0, 0] ++ List.replicate 284 0

/-- The gate with a token in a batch at a phase. -/
abbrev gateAt (ph : BatchPhase) (cs : List Choice) : Gate :=
  { gate1 with batches := [{ deal := 0, tokens := [{ row := 0, replica := 0, src := 0, tseq := 0, choices := cs }], replicas := [{ replica := 0, phase := ph }] }] }

theorem crcByte_lt (a b : Nat) (ha : a < 2 ^ 64) (hb : b < 2 ^ 64) : crcByte 0xC96C5795D7870F42 a b < 2 ^ 64 := by
  have step : ∀ x, x < 2 ^ 64 → crcBit 0xC96C5795D7870F42 x < 2 ^ 64 := by
    intro x hx
    unfold crcBit
    split
    · exact Nat.xor_lt_two_pow (by omega) (by decide)
    · omega
  have all : ∀ (l : List Nat) x, x < 2 ^ 64 → l.foldl (fun a _ => crcBit 0xC96C5795D7870F42 a) x < 2 ^ 64 := by
    intro l
    induction l with
    | nil => intro x hx; exact hx
    | cons _ l ih => intro x hx; exact ih _ (step x hx)
  exact all _ _ (Nat.xor_lt_two_pow ha hb)

theorem crc64_lt (bs : List Byte) : crc64 bs < 2 ^ 64 := by
  have all : ∀ (l : List Byte) x, x < 2 ^ 64 → l.foldl (fun a b => crcByte 0xC96C5795D7870F42 a b.toNat) x < 2 ^ 64 := by
    intro l
    induction l with
    | nil => intro x hx; exact hx
    | cons b l ih => intro x hx; exact ih _ (crcByte_lt x b.toNat hx (by have := b.isLt; omega))
  exact Nat.xor_lt_two_pow (all bs _ (by decide)) (by decide)

theorem bytes_ok (bs : List Byte) (cls n : Nat) (h : (decide (bs.length ≤ 16384) && decide (cls < 8) && decide (n < 2 ^ 32)) = true) :
    okPacket (gatePkt cls n bs) = true := by
  simp only [Bool.and_eq_true, decide_eq_true_eq] at h
  have hc := crc64_lt bs
  simp only [okPacket, barePkt, Bool.and_eq_true, decide_eq_true_eq, beq_iff_eq]
  and_intros <;> first | rfl | exact h.1.1 | exact h.1.2 | exact h.2 | exact hc | exact decide_eq_true h.1.1 | exact decide_eq_true hc | decide

theorem reply_fits : (gateAt .replies [⟨1, 0, .dispatched, 0⟩]).replyOk (gatePkt 5 0 replyBody) = true := by
  have h : (gatePkt 5 0 replyBody).crcGood = true := by simp only [Packet.crcGood, barePkt, beq_self_eq_true]
  simp only [Gate.replyOk, h, Bool.true_and]
  decide +kernel

/-- The same gate with token rows of 8,320 elements, in two parts, and the second part of one. -/
abbrev gate2 : Gate := { gate1 with desc := [9 * 2 ^ 32 + 2 ^ 22 + 2 * 2 ^ 12 + 8, 65 * 2 ^ 56 + 2 ^ 47 + 2 ^ 44 + 4 * 2 ^ 31, 4 * 2 ^ 32, 0] }

abbrev partBody : List (BitVec 8) := [0x62, 2, 1, 0x40] ++ List.replicate 160 0

theorem part_fits : gate2.tokenOk (gatePkt 4 1 partBody) = true := by
  have h : (gatePkt 4 1 partBody).crcGood = true := by simp only [Packet.crcGood, barePkt, beq_self_eq_true]
  simp only [Gate.tokenOk, h, Bool.true_and]
  decide +kernel

theorem witness_GateEventsComplete :
    (∃ (c : Chip) (key : Nat) (g : Gate) (p : Packet), c.Up ∧ key < 32 ∧ c.gateOf key = some g ∧ okPacket p = true ∧
      c.findGate p.id = some (key, g) ∧ p.cls = 4 ∧ (g.state ≠ .active ∨ g.tokenOk p = false)) ∧
    (∃ (c : Chip) (key : Nat) (g : Gate) (p : Packet), c.Up ∧ key < 32 ∧ c.gateOf key = some g ∧ okPacket p = true ∧
      c.findGate p.id = some (key, g) ∧ p.cls = 4 ∧ g.state = .active ∧ g.tokenOk p = true ∧ g.held p.src (p.seq / 4 * 4) c.deal = none ∧
      gatePart p ≠ 0 ∧ g.early.any (fun e => e.src == p.src && e.tseq == p.seq / 4 * 4 && e.part == gatePart p) = false) ∧
    (∃ (c : Chip) (key : Nat) (g : Gate) (p : Packet) (x : Batch) (r : Nat), c.Up ∧ key < 32 ∧ c.gateOf key = some g ∧ okPacket p = true ∧
      c.findGate p.id = some (key, g) ∧ p.cls = 4 ∧ g.state = .active ∧ g.tokenOk p = true ∧ g.held p.src (p.seq / 4 * 4) c.deal = none ∧
      gatePart p = 0 ∧ x = g.joining ((c.deal + if c.inGuard then 1 else 0) % 2 ^ 48) ∧ g.nextReplica x = some r) ∧
    (∃ (c : Chip) (key : Nat) (g : Gate) (p : Packet) (x : Batch), c.Up ∧ key < 32 ∧ c.gateOf key = some g ∧ okPacket p = true ∧
      c.findGate p.id = some (key, g) ∧ p.cls = 4 ∧ g.state = .active ∧ g.tokenOk p = true ∧ g.held p.src (p.seq / 4 * 4) c.deal = none ∧
      gatePart p = 0 ∧ x = g.joining ((c.deal + if c.inGuard then 1 else 0) % 2 ^ 48) ∧ g.nextReplica x = none) ∧
    (∃ (c : Chip) (key : Nat) (g : Gate) (p : Packet), c.Up ∧ key < 32 ∧ c.gateOf key = some g ∧ okPacket p = true ∧
      c.findGate p.id = some (key, g) ∧ p.cls = 5 ∧ g.replyOk p = false) ∧
    (∃ (c : Chip) (key : Nat) (g : Gate) (p : Packet) (x : Batch) (y : Token) (r : ReplicaBatch), c.Up ∧ key < 32 ∧
      c.gateOf key = some g ∧ okPacket p = true ∧ c.findGate p.id = some (key, g) ∧ p.cls = 5 ∧ g.replyOk p = true ∧
      g.batches.find? (fun x => x.deal % 4096 == bitsAt p.seq 20 12 && x.replicas.any (fun r => r.phase == .replies)) = some x ∧
      x.tokens.find? (fun t => t.row == bitsAt p.seq 5 15) = some y ∧ x.replicaAt y.replica = some r ∧ r.phase = .replies ∧ c.deal < r.dispatched + g.wait ∧
      4 * bitsAt p.seq 2 3 + p.seq % 4 ∈ g.awaited y ∧ (∀ e, e ∈ y.replies → e.1 ≠ 4 * bitsAt p.seq 2 3 + p.seq % 4)) ∧
    (∃ (c : Chip) (key : Nat) (g : Gate) (x : Batch), c.Up ∧ key < 32 ∧ c.gateOf key = some g ∧
      g.batches.find? (fun x => !x.isChecked && x.ran) = some x) :=
  ⟨⟨withGate gate1, 3, gate1, gatePkt 4 0 [], ⟨rfl, rfl⟩, by decide, rfl, by decide, rfl, rfl, by decide +kernel⟩,
   ⟨withGate gate2, 3, gate2, gatePkt 4 1 partBody, ⟨rfl, rfl⟩, by decide, rfl, bytes_ok partBody 4 1 (by decide +kernel), rfl, rfl, rfl, part_fits,
      by decide +kernel, by decide +kernel, by decide +kernel⟩,
   ⟨withGate gate1, 3, gate1, gatePkt 4 0 tokenBody, _, 0, ⟨rfl, rfl⟩, by decide, rfl, by decide +kernel, rfl, rfl, rfl, by decide +kernel,
      by decide +kernel, by decide +kernel, rfl, by decide +kernel⟩,
   ⟨withGate { gate1 with live := 0 }, 3, { gate1 with live := 0 }, gatePkt 4 0 tokenBody, _, ⟨rfl, rfl⟩, by decide, rfl, by decide +kernel, rfl, rfl, rfl,
      by decide +kernel, by decide +kernel, by decide +kernel, rfl, by decide +kernel⟩,
   ⟨withGate gate1, 3, gate1, gatePkt 5 0 [], ⟨rfl, rfl⟩, by decide, rfl, by decide, rfl, rfl, by decide +kernel⟩,
   ⟨withGate (gateAt .replies [⟨1, 0, .dispatched, 0⟩]), 3, gateAt .replies [⟨1, 0, .dispatched, 0⟩], gatePkt 5 0 replyBody, _, _, _, ⟨rfl, rfl⟩, by decide, rfl,
      bytes_ok replyBody 5 0 (by decide +kernel), rfl, rfl, reply_fits, rfl, rfl, rfl, rfl, by decide +kernel, by decide +kernel, by decide +kernel⟩,
   ⟨withGate (gateAt .running []), 3, gateAt .running [], _, ⟨rfl, rfl⟩, by decide, rfl, rfl⟩⟩

/-- A part right after reset with an aligned time base, one region, and the two slots of Loom 5 in mode GATE for ID 9. -/
abbrev gateReady : Chip :=
  { withRegion with
    tb := { aligned := true, period := 4 }
    kit := { half := ⟨{ xferBudget := 0 }, {}⟩ }
    xbar := { buf := ⟨{ rate := 0 }, {}⟩ }
    light := { lanes := [(0x800, { tx := { state := .locked }, rx := { state := .locked } }), (0x880, { tx := { state := .locked }, rx := { state := .locked } })] }
    loom := { fresh0.loom with slots := [(16 * 5 + 3, { en := true, mode := 2, gate := 9 }), (16 * 5 + 4, { en := true, mode := 2, gate := 9 })] } }

abbrev loadWords : List Nat :=
  [2 ^ 22 + 2 * 2 ^ 12 + 8, 9, 4 * 2 ^ 31 % 2 ^ 32, 2 + 2 ^ 24 + 2 ^ 15 + 2 ^ 12, 0, 4, 0, 0, 5 + 64 * 3, 5 + 64 * 4 + 1024 * 64]

theorem witness_GateCommandsComplete :
    (∃ k w c g n h i, (capsOf c.fuses.variant).gating = true ∧
      n = bitsAt (longAt w 2) 47 6 * (2 ^ bitsAt (longAt w 2) 53 3 + bitsAt (longAt w 2) 44 3) ∧ Served 0x0C01 k (8 + n) w c ∧
      g = { desc := [longAt w 0, longAt w 2, longAt w 4, longAt w 6]
            bindings := (List.range n).map (fun i => (bitsAt (w (8 + i)) 0 6, bitsAt (w (8 + i)) 6 4, bitsAt (w (8 + i)) 10 17)) } ∧
      h = bitsAt g.id 31 1 ∧ c.tb.aligned = true ∧
      (∀ b, b ∈ g.bindings → c.loomAbsent b.1 = false ∧ c.bindingConflict h g.id b = false) ∧
      c.findGate g.id = none ∧ sameBinding g.bindings = false ∧ c.gateBad g = false ∧ c.gateNoSpace h g = false ∧
      (List.range 16).find? (fun i => (c.gateOf (16 * h + i)).isNone) = some i ∧ g.bindings ≠ []) ∧
    (∃ k w c key g, (capsOf c.fuses.variant).gating = true ∧ Served 0x0C02 k 1 w c ∧ c.gateNamed (w 0) = some (key, g)) ∧
    (∃ k w c key g first n, (capsOf c.fuses.variant).gating = true ∧ first = bitsAt (w 1) 0 10 ∧ n = bitsAt (w 1) 10 6 ∧
      Served 0x0C03 k (2 + 2 * n) w c ∧ c.gateNamed (w 0) = some (key, g) ∧ 1 ≤ n ∧ n ≤ 60 ∧ first + n ≤ g.experts ∧
      ∀ i, i < n → c.nameOk (nameAt w (2 + 2 * i)) = true) ∧
    (∃ k w c key g first n, (capsOf c.fuses.variant).gating = true ∧ first = bitsAt (w 1) 0 10 ∧ n = bitsAt (w 1) 10 7 ∧
      Served 0x0C04 k (2 + (n + 1) / 2) w c ∧ c.gateNamed (w 0) = some (key, g) ∧ 1 ≤ n ∧ n ≤ 120 ∧ first + n ≤ g.experts) ∧
    (∃ k w c key g r, (capsOf c.fuses.variant).gating = true ∧ Served 0x0C05 k 4 w c ∧ c.gateNamed (w 0) = some (key, g) ∧
      g.swap = none ∧ c.tooLate ((nameAt w 2 + 2 ^ 48 - 4) % 2 ^ 48) = false ∧ c.regionOf (w 1) = some r ∧
      bitsAt (w 1) 31 1 = bitsAt g.id 31 1 ∧ g.shards * g.wbytes ≤ r.pages * 65536) ∧
    (∃ k w c key g, (capsOf c.fuses.variant).gating = true ∧ Served 0x0C06 k 1 w c ∧ c.findGate (w 0) = some (key, g)) :=
  ⟨⟨0, wordsOf loadWords, asked gateReady 0x0C01 loadWords, _, 2, 0, 0, by decide +kernel, by decide +kernel, served_asked gateReady 0x0C01 loadWords rfl rfl, rfl, by decide +kernel, rfl,
      by decide +kernel⟩,
   ⟨0, wordsOf [9], asked (withGate gate1) 0x0C02 [9], 3, gate1, by decide +kernel, served_asked (withGate gate1) 0x0C02 [9] rfl rfl, by decide +kernel⟩,
   ⟨0, wordsOf [9, 1 + 1024, 0, 1], asked (withGate gate1) 0x0C03 [9, 1 + 1024, 0, 1], 3, gate1, 1, 1, by decide +kernel, by decide +kernel, by decide +kernel,
      served_asked (withGate gate1) 0x0C03 [9, 1 + 1024, 0, 1] rfl rfl, by decide +kernel⟩,
   ⟨0, wordsOf [9, 2 * 1024, 7], asked (withGate gate1) 0x0C04 [9, 2 * 1024, 7], 3, gate1, 0, 2, by decide +kernel, by decide +kernel, by decide +kernel,
      served_asked (withGate gate1) 0x0C04 [9, 2 * 1024, 7] rfl rfl, by decide +kernel⟩,
   ⟨0, wordsOf [9, 4, 6, 0], asked { withRegion with gate := { gate := [(3, gate1)] } } 0x0C05 [9, 4, 6, 0], 3, gate1, region1, by decide +kernel,
      served_asked { withRegion with gate := { gate := [(3, gate1)] } } 0x0C05 [9, 4, 6, 0] rfl rfl, by decide +kernel⟩,
   ⟨0, wordsOf [9], asked (withGate gate1) 0x0C06 [9], 3, gate1, by decide +kernel, served_asked (withGate gate1) 0x0C06 [9] rfl rfl, by decide +kernel⟩⟩

/-- A part right after reset with the Sieve READY and bank 0 in a state. -/
abbrev withSieve (st : BankState) (s : Sieve) : Chip :=
  { fresh0 with sv := { s with state := .ready, bank := [(0, { state := st, recal := true })] } }

/-- A sieve instruction of one vector of 256 FP32 values from Bench byte 64 to 4096, by bank 0, with one output. -/
abbrev sieveOp1 : SieveOp := { loom := 5, op := { run := 1, pc := 0, word := word 0x29 2 1 4 0, regs := regs1.set 4 1 } }

/-- The same 300 core cycles after a window of bank 0 began. -/
abbrev lateTrim (st : BankState) : Chip := { withSieve st { trimming := some 0 } with tb := { lt := 300 } }

theorem chunks_mem {α : Type} (n : Nat) : ∀ (k : Nat) (l : List α), ∀ x, x ∈ chunksOf n k l → x.length ≤ n ∧ ∀ b, b ∈ x → b ∈ l
  | 0, _, x, h => by simp [chunksOf] at h
  | k + 1, [], x, h => by simp [chunksOf] at h
  | k + 1, a :: l, x, h => by
    simp only [chunksOf, List.mem_cons] at h
    rcases h with rfl | h
    · exact ⟨by simp, fun b hb => List.mem_of_mem_take hb⟩
    · have := chunks_mem n k ((a :: l).drop n) x h
      exact ⟨this.1, fun b hb => List.mem_of_mem_drop (this.2 b hb)⟩

theorem leNat_small : ∀ (l : List Byte), (∀ b, b ∈ l → b.toNat ≤ 0x3F) → leNat l * 4 < 256 ^ l.length
  | [], _ => by decide
  | b :: l, h => by
    have ih := leNat_small l (fun x hx => h x (by simp [hx]))
    have hb := h b (by simp)
    simp only [leNat, List.foldr_cons, List.length_cons, Nat.pow_succ] at ih ⊢
    omega

theorem finite_of_lt (v : Nat) (h : v < 2 ^ 30) : (ofF32 v).isNan = false ∧ (ofF32 v).isInf = false := by
  have hv : v % 2 ^ 32 = v := Nat.mod_eq_of_lt (by omega)
  have hx : v / 2 ^ 23 % 2 ^ 8 + 1 ≠ 2 ^ 8 := by omega
  simp only [ofF32, hv, FloatFmt.ieee, fp32, if_neg hx, FloatFmt.finite]
  split <;> exact ⟨rfl, rfl⟩

/-- A region of four pages whose matrix holds 0.5 in row 0 and column 0, and zeros. -/
abbrev matrixAt (c : Chip) : Chip :=
  { c with lard := { c.lard with regions := [(4, { region1 with extents := [(2000000, 4)] })], hbm := [⟨2000000 * 65536 + 3, 0x3F⟩] } }

abbrev matrix (c : Chip) : List Nat :=
  (chunksOf 4 65536 ((matrixAt c).readRegion (bitsAt 4 31 1) ((matrixAt c).region (handleKey 4)) 0 262144)).map leNat

theorem matrix_small (c : Chip) (e : Nat) (h : e ∈ matrix c) : (ofF32 e).isNan = false ∧ (ofF32 e).isInf = false := by
  obtain ⟨x, hx, rfl⟩ := List.mem_map.1 h
  obtain ⟨hl, hb⟩ := chunks_mem 4 _ _ x hx
  have small : ∀ b, b ∈ x → b.toNat ≤ 0x3F := by
    intro b hm
    obtain ⟨i, -, rfl⟩ := List.mem_map.1 (hb b hm)
    simp only [Memory.read, Tab.get]
    split <;> decide
  have := leNat_small x small
  have : 256 ^ x.length ≤ 256 ^ 4 := Nat.pow_le_pow_right (by decide) hl
  exact finite_of_lt _ (by omega)

theorem matrix_head (c : Chip) : ∃ e, e ∈ matrix c ∧ (ofF32 e).isZero = false := by
  have first : ∀ l : List Byte, l ≠ [] → leNat (l.take 4) ∈ (chunksOf 4 65536 l).map leNat := by
    intro l hl
    cases l with
    | nil => exact absurd rfl hl
    | cons a l => exact List.mem_map.2 ⟨_, List.mem_cons_self (l := chunksOf 4 65535 ((a :: l).drop 4)), rfl⟩
  refine ⟨_, first _ ?_, ?_⟩
  · intro hn
    have := congrArg List.length hn
    simp [Chip.readRegion] at this
  · simp only [Chip.readRegion, ← List.map_take, List.take_range]
    rw [show (matrixAt c).region (handleKey 4) = { region1 with extents := [(2000000, 4)] } from rfl]
    decide +kernel
theorem witness_SieveComplete :
    (∃ (c : Chip) (o : SieveOp) (rest : List SieveOp), c.Up ∧ c.sv.queue = o :: rest ∧ c.sv.busy = none ∧ c.trimOpen = false ∧
      c.bankServes (bitsAt o.op.word 33 2) = true) ∧
    (∃ (c : Chip) (o : SieveOp) (b : SieveBank), c.Up ∧ c.sv.busy = some o ∧ c.loomServes o.loom = true ∧ c.sv.trimLate = false ∧
      b = c.svBank (bitsAt o.op.word 33 2) ∧ b.pendingClear = false ∧ b.pendingLoad = none ∧ (sieveShape o.op.word o.op.regs).vectors = 1) ∧
    (∃ (c : Chip) (o : SieveOp), c.Up ∧ c.sieveHere = true ∧ c.deal % c.sv.trimN = 0 ∧ c.sv.lastWindow ≠ some c.tb.boundaries ∧
      c.cycle < 256 ∧ c.trimOpen = false ∧ c.sv.busy = some o) ∧
    (∃ (c : Chip) (b : Nat), c.Up ∧ c.sieveHere = true ∧ c.deal % c.sv.trimN = 0 ∧ c.sv.lastWindow ≠ some c.tb.boundaries ∧
      c.cycle < 256 ∧ c.trimOpen = false ∧ c.sv.busy = none ∧ ((c.svBank b).state = .ready ∨ (c.svBank b).state = .degraded) ∧ b = c.sv.nextTrim % 4) ∧
    (∃ (c : Chip) (b : Nat) (es : List Nat), c.Up ∧ c.sv.trimming = some b ∧ c.trimOpen = false ∧ (c.svBank b).state = .ready ∧
      es.length = 4 ∧ ∀ e, e ∈ es → e < 128) ∧
    (∃ (c : Chip) (b : Nat) (es : List Nat), c.Up ∧ c.sv.trimming = some b ∧ c.trimOpen = false ∧ (c.svBank b).state = .empty ∧
      es.length = 4 ∧ ∀ e, e ∈ es → e < 128) ∧
    (∃ (c : Chip) (b : Nat), c.Up ∧ b < 4 ∧ c.sieveHere = true ∧ c.sv.busy = none ∧ c.trimOpen = false ∧ (c.svBank b).state = .loading) ∧
    (∃ (c : Chip) (b : Nat), c.Up ∧ b < 4 ∧ c.sieveHere = true ∧ c.sv.busy = none ∧ c.trimOpen = false ∧
      (c.svBank b).state = .degraded ∧ (c.svBank b).recal = true) ∧
    (∃ k w c, Served 0x0D01 k 3 w c ∧ c.caps.sieve = true ∧ (c.svBank (bitsAt (w 0) 0 2)).state ≠ .loading ∧ w 2 % 64 = 0 ∧
      c.rangeOk (w 1) (w 2) 262144 = true) ∧
    (∃ (c : Chip) (b x o : Nat) (v : Waiting) (bs : List Nat), c.Up ∧ b < 4 ∧ c.rangeOk x o 262144 = true ∧ c.stew.phase ≠ .restarting ∧
      c.waitingOf 0x0D01 (fun w => w.args.getD 0 0 == b) = some v ∧ v.args = [b, x, o] ∧ Outstanding v c ∧
      bs = (chunksOf 4 65536 (c.readRegion (bitsAt x 31 1) (c.region (handleKey x)) o 262144)).map leNat ∧
      (∀ e, e ∈ bs → (ofF32 e).isNan = false ∧ (ofF32 e).isInf = false) ∧ (∃ e, e ∈ bs ∧ (ofF32 e).isZero = false)) ∧
    (∃ k w c, Served 0x0D02 k 1 w c ∧ c.caps.sieve = true) ∧
    (∃ k w c, Served 0x0D03 k 1 w c ∧ c.caps.sieve = true ∧ 64 ≤ bitsAt (w 0) 0 13 ∧ bitsAt (w 0) 0 13 ≤ 4096) ∧
    (∃ k w c, Served 0x0D04 k 0 w c ∧ c.caps.sieve = true) :=
  ⟨⟨withSieve .ready { queue := [sieveOp1] }, _, [], ⟨rfl, rfl⟩, rfl, rfl, by decide +kernel, by decide +kernel⟩,
   ⟨withSieve .ready { busy := some sieveOp1 }, _, _, ⟨rfl, rfl⟩, rfl, by decide +kernel, rfl, rfl, by decide +kernel⟩,
   ⟨withSieve .ready { busy := some sieveOp1 }, _, ⟨rfl, rfl⟩, by decide +kernel, by decide +kernel, by decide +kernel, by decide +kernel, by decide +kernel, rfl⟩,
   ⟨withSieve .ready {}, 0, ⟨rfl, rfl⟩, by decide +kernel⟩,
   ⟨lateTrim .ready, 0, [60, 60, 60, 127], ⟨rfl, rfl⟩, rfl, by decide +kernel⟩,
   ⟨lateTrim .empty, 0, [60, 60, 60, 127], ⟨rfl, rfl⟩, rfl, by decide +kernel⟩,
   ⟨withSieve .loading {}, 0, ⟨rfl, rfl⟩, by decide +kernel⟩,
   ⟨withSieve .degraded {}, 0, ⟨rfl, rfl⟩, by decide +kernel⟩,
   ⟨0, wordsOf [3, 4, 0], asked { withRegion with lard := { withRegion.lard with regions := [(4, { region1 with extents := [(2000000, 4)] })] } } 0x0D01 [3, 4, 0],
      served_asked { withRegion with lard := { withRegion.lard with regions := [(4, { region1 with extents := [(2000000, 4)] })] } } 0x0D01 [3, 4, 0] rfl rfl,
      by decide +kernel⟩,
   ⟨matrixAt (withWaiting fresh0 0x0D01 true [0, 4, 0]), 0, 4, 0, _, _, ⟨rfl, rfl⟩, by decide, by decide +kernel, by decide, rfl, rfl, ⟨rfl, rfl⟩,
      rfl, matrix_small _, matrix_head _⟩,
   ⟨0, _, _, served_asked fresh0 0x0D02 [3] rfl rfl, by decide⟩,
   ⟨0, _, _, served_asked fresh0 0x0D03 [4096] rfl rfl, by decide +kernel⟩,
   ⟨0, _, _, served_asked fresh0 0x0D04 [] rfl rfl, by decide⟩⟩

/-- A packet with the payload words `ws`, from unit `src`. -/
abbrev codePkt (src cls : Nat) (ws : List Nat) : Packet := { barePkt (ws.flatMap (beBytes 8)) with src := src, cls := cls }

/-- A part right after reset in a nest of one level of 16 bits, with a region of 4096 pages in each half, and its twin state. -/
abbrev withTwin (t : Twin) : Chip :=
  { fresh0 with
    nest := { desc := 129, self := 2 ^ 32, pair := 2 ^ 33 }
    lard := { half := fresh0.lard.half, regions := [(4, { region1 with extents := [(2000000, 4096)] }), (4100, { region1 with extents := [(2000000, 4096)] })] }
    twin := t }

/-- A twin state PAIRED with unit 3, the mirror of half 0 on and with a packet unconfirmed. -/
abbrev paired (m : MirrorHalf) : Twin := { state := .paired, partner := 3 * 2 ^ 32, mirror := ⟨m, {}⟩ }

abbrev mirrorOn : MirrorHalf := { on := true, copying := true, copyPos := 2 ^ 23 - 2048, unconfirmed := [(0, 0, [])] }

/-- A backlog of 65,536 cells: records of a packet and the changes. -/
abbrev backlogged : MirrorHalf := { on := true, changes := List.replicate 262144 { type := 1 } }

/-- Member 0 of a Table of eight, with a protected region, and what else half 0 of it holds. -/
abbrev tabled (x : TableHalf) : Twin :=
  { joined := true, member := 0, members := (List.range 8).map (fun i => (i + 1) * 2 ^ 32), umax := 6000, deltaRto := 16
    table := ⟨{ x with shard := 4 }, {}⟩ }

theorem backlog_of_changes {m : MirrorHalf} (h : 262144 ≤ m.changes.length) : 65536 ≤ m.backlog := by
  unfold MirrorHalf.backlog; omega

theorem backlogged_full : 65536 ≤ backlogged.backlog :=
  backlog_of_changes (Nat.le_of_eq List.length_replicate.symm)

/-- The same in a resync whose pass goes on at one step a Deal. -/
abbrev resyncing : MirrorHalf :=
  { on := true, copying := true, resync := true, copyRate := 1, changes := List.replicate 262144 { type := 1 } }

theorem resyncing_full {m : MirrorHalf} (e : m = resyncing) : 65536 < m.backlog + 64 * m.copyRate := by
  have h : 65536 ≤ m.backlog := backlog_of_changes (e ▸ Nat.le_of_eq List.length_replicate.symm)
  have r : m.copyRate = 1 := e ▸ rfl
  omega

theorem witness_MirrorsComplete :
    (∃ (c : Chip) (h : Nat) (p : Packet), c.Up ∧ h < 2 ∧ FromPartner h 2 p c) ∧
    (∃ (c : Chip) (h : Nat) (p : Packet), c.Up ∧ h < 2 ∧ FromPartner h 1 p c ∧ p.word 1 % 2 ^ 32 ≠ (c.mirror h).rxNext) ∧
    (∃ (c : Chip) (h : Nat) (p : Packet), c.Up ∧ h < 2 ∧ FromPartner h 1 p c ∧ p.word 1 % 2 ^ 32 = (c.mirror h).rxNext) ∧
    (∃ (c : Chip) (h : Nat), c.Up ∧ h < 2 ∧ (c.mirror h).on = true ∧ c.twin.state = .paired ∧ (c.mirror h).unconfirmed ≠ [] ∧
      (c.mirror h).progress + 8 ≤ c.tb.boundaries) ∧
    (∃ (c : Chip) (h : Nat), c.Up ∧ h < 2 ∧ (c.mirror h).on = true ∧ (c.mirror h).stale = false ∧ 65536 ≤ (c.mirror h).backlog) ∧
    (∃ (c : Chip) (h : Nat), c.Up ∧ h < 2 ∧ (c.mirror h).backlog < 65536) ∧
    (∃ (c : Chip) (h : Nat), c.Up ∧ h < 2 ∧ (c.mirror h).copying = true ∧
      ((c.mirror h).resync = true → (c.mirror h).backlog + 64 * (c.mirror h).copyRate < 65536)) ∧
    (∃ (c : Chip) (h : Nat), c.Up ∧ h < 2 ∧ (c.mirror h).copying = true ∧ (c.mirror h).resync = true ∧
      65536 < (c.mirror h).backlog + 64 * (c.mirror h).copyRate) ∧
    (∃ (c : Chip) (h : Nat), c.Up ∧ h < 2 ∧ c.twin.state = .lost ∧ (c.mirror h).lastMack + 8 ≤ c.tb.boundaries ∧ c.twinUp h = none) ∧
    (∃ (c : Chip) (h l : Nat), c.Up ∧ h < 2 ∧ c.twin.state = .lost ∧ (c.mirror h).lastMack + 8 ≤ c.tb.boundaries ∧ c.twinUp h = some l) :=
  ⟨⟨withTwin (paired mirrorOn), 0, codePkt (3 * 2 ^ 32) 1 [2 * 2 ^ 52, 7, 0, 0], ⟨rfl, rfl⟩, by decide, ⟨by decide +kernel, barePkt_good _, .inl rfl, rfl,
      by decide +kernel, by decide +kernel, by decide +kernel⟩⟩,
   ⟨withTwin (paired mirrorOn), 1, codePkt (3 * 2 ^ 32) 1 [2 ^ 52 + 2 ^ 51, 7, 0, 0], ⟨rfl, rfl⟩, by decide, ⟨by decide +kernel, barePkt_good _, .inl rfl, rfl,
      by decide +kernel, by decide +kernel, by decide +kernel⟩, by decide +kernel⟩,
   ⟨withTwin { paired mirrorOn with state := .lost }, 0, codePkt (3 * 2 ^ 32) 1 [2 ^ 52, 0, 0, 0], ⟨rfl, rfl⟩, by decide, ⟨by decide +kernel, barePkt_good _, .inr rfl, rfl,
      by decide +kernel, by decide +kernel, by decide +kernel⟩, by decide +kernel⟩,
   ⟨{ withTwin (paired mirrorOn) with tb := { boundaries := 8 } }, 0, ⟨rfl, rfl⟩, by decide⟩,
   ⟨withTwin (paired backlogged), 0, ⟨rfl, rfl⟩, by decide, rfl, rfl, backlogged_full⟩,
   ⟨withTwin {}, 1, ⟨rfl, rfl⟩, by decide⟩,
   ⟨withTwin (paired mirrorOn), 0, ⟨rfl, rfl⟩, by decide⟩,
   ⟨withTwin (paired resyncing), 0, ⟨rfl, rfl⟩, by decide, rfl, rfl, resyncing_full rfl⟩,
   ⟨{ withTwin { state := .lost } with tb := { boundaries := 8 } }, 1, ⟨rfl, rfl⟩, by decide⟩,
   ⟨{ withTwin { state := .lost } with tb := { boundaries := 8 }, ports := { port := [(0x800, { link := .up })] } }, 0, 0x800, ⟨rfl, rfl⟩, by decide +kernel⟩⟩

theorem witness_TwinCommandsComplete :
    (∃ k w c, Served 0x0F01 k 4 w c ∧ c.nest.pair ≠ 0 ∧ c.unitName (nameAt w 0) = true ∧ nameAt w 0 ≠ c.nest.self ∧
      c.regionAtLeast 0 (w 2) 512 = true ∧ c.regionAtLeast 1 (w 3) 512 = true ∧ c.twin.state ≠ .paired) ∧
    (∃ k w c, Served 0x0F02 k 1 w c ∧ c.noTwinLane (bitsAt (w 0) 0 1) = false ∧ bitAt (w 0) 2 = true) ∧
    (∃ k w c, Served 0x0F02 k 1 w c ∧ c.noTwinLane (bitsAt (w 0) 0 1) = false ∧ bitAt (w 0) 2 = false) ∧
    (∃ k w c, Served 0x0F03 k 1 w c ∧ c.twin.state ≠ .unpaired ∧ 1 ≤ bitsAt (w 0) 3 8 ∧ bitsAt (w 0) 3 8 ≤ c.sweepMax / 8) ∧
    (∃ k w c, Served 0x0F04 k 0 w c ∧ c.twin.state = .paired) ∧
    (∃ k w c, Served 0x0F05 k 2 w c ∧ c.twin.state ≠ .unpaired) ∧
    (∃ k w c m need, Served 0x0F11 k 23 w c ∧ c.twin.joined = false ∧ m = bitsAt (w 0) 0 3 ∧ nameAt w (3 + 2 * m) = c.nest.self ∧
      (c.twin.state = .paired → nameAt w (3 + 2 * (m ^^^ 1)) = c.twin.partner) ∧ 2 * c.nest.horizon ≤ bitsAt (w 22) 0 16 ∧
      need = 2 * (2 * ((w 21 + 5) / 6)) + 1024 ∧ c.regionAtLeast 0 (w 19) need = true ∧ c.regionAtLeast 1 (w 20) need = true) ∧
    (∃ k w c g, Served 0x0F12 k 1 w c ∧ c.regionOf (w 0) = some g ∧ w 0 ∉ (c.table8 (bitsAt (w 0) 31 1)).protectedList ∧
      c.twin.joined = true ∧ (∀ e, e ∈ c.kit.kitty → e.1 / 32768 = bitsAt (w 0) 31 1 → e.2.job ≠ c.twin.job) ∧
      c.spacePages (bitsAt (w 0) 31 1) + g.generation ≤ c.twin.umax) ∧
    (∃ k w c, Served 0x0F13 k 3 w c ∧ c.twin.joined = true ∧ bitsAt (w 0) 0 3 ≠ c.twin.member) ∧
    (∃ k w c, Served 0x0F14 k 1 w c ∧ c.twin.joined = true ∧ 1 ≤ bitsAt (w 0) 0 7 ∧ bitsAt (w 0) 0 7 ≤ 64 ∧ 6 ≤ c.liveOthers.length ∧
      (∀ x, x < 2 → (c.table8 x).rebuild = 0 ∨ (c.table8 x).rebuild = 3) ∧ c.allDrained = false) ∧
    (∃ k w c, Served 0x0F14 k 1 w c ∧ c.twin.joined = true ∧ 1 ≤ bitsAt (w 0) 0 7 ∧ bitsAt (w 0) 0 7 ≤ 64 ∧ 6 ≤ c.liveOthers.length ∧
      (∀ x, x < 2 → (c.table8 x).rebuild = 0 ∨ (c.table8 x).rebuild = 3) ∧ c.allDrained = true) :=
  ⟨⟨0, _, _, served_asked (withTwin {}) 0x0F01 [0, 3, 4, 2 ^ 31 + 4] rfl rfl, by decide +kernel⟩,
   ⟨0, _, _, served_asked (withTwin {}) 0x0F02 [7] rfl rfl, by decide +kernel⟩,
   ⟨0, _, _, served_asked (withTwin {}) 0x0F02 [0] rfl rfl, by decide +kernel⟩,
   ⟨0, _, _, served_asked (withTwin (paired {})) 0x0F03 [8 * 8 + 6] rfl rfl, by decide +kernel⟩,
   ⟨0, _, _, served_asked (withTwin (paired {})) 0x0F04 [] rfl rfl, by decide⟩,
   ⟨0, _, _, served_asked (withTwin (paired {})) 0x0F05 [1, 0] rfl rfl, by decide⟩,
   ⟨0, _, _, _, _, served_asked (withTwin {}) 0x0F11 [0, 0, 9, 0, 1, 0, 2, 0, 3, 0, 4, 0, 5, 0, 6, 0, 7, 0, 8, 4, 2 ^ 31 + 4, 60, 128] rfl rfl, by decide, rfl,
      by decide +kernel, by decide, by decide +kernel, rfl, by decide +kernel, by decide +kernel⟩,
   ⟨0, _, _, { region1 with extents := [(2000000, 4096)] }, served_asked (withTwin (tabled {})) 0x0F12 [4] rfl rfl, by decide +kernel⟩,
   ⟨0, _, _, served_asked (withTwin (tabled {})) 0x0F13 [9, 0, 7] rfl rfl, by decide +kernel⟩,
   ⟨0, _, _, served_asked (withTwin (tabled {})) 0x0F14 [64] rfl rfl, by decide +kernel⟩,
   ⟨0, _, _, served_asked (withTwin { tabled {} with table := ⟨{ reports := (List.range 8).map (fun i => (i, (0, true))) },
      { reports := (List.range 8).map (fun i => (i, (0, true))) }⟩ }) 0x0F14 [1] rfl rfl, by decide +kernel⟩⟩

/-- Half 0 of a Table whose rebuild of two units has the six reads of its first unit. -/
abbrev rebuilding : TableHalf :=
  { rebuild := 2, total := 2, issued := 1, reads := (List.range 6).map (fun i => { unit := 0, member := i + 1, tag := i, asked := 0, parts :=
      [(0, List.replicate 16320 0), (16320, List.replicate 16320 0), (32640, List.replicate 16320 0), (48960, List.replicate 16320 0), (65280, List.replicate 256 0)] }) }

/-- A unit whose five parts have come, of the sizes that 65,536 bytes have, is whole. -/
theorem whole_of_parts {r : UnitRead} {a b : List Byte} (ha : a.length = 16320) (hb : b.length = 256)
    (h : r.parts = [(0, a), (16320, a), (32640, a), (48960, a), (65280, b)]) : r.whole.isSome = true := by
  simp [UnitRead.whole, h, ha, hb]

theorem rebuilding_whole : ∀ r, r ∈ rebuilding.reads → r.whole.isSome = true := by
  intro r h
  obtain ⟨i, -, rfl⟩ := List.mem_map.mp h
  exact whole_of_parts List.length_replicate List.length_replicate rfl

theorem witness_TableExchangesComplete :
    (∃ (c : Chip) (h m e : Nat) (p : Packet), c.Up ∧ h < 2 ∧ FromMember h m 0xC e p c ∧ p.seq = Tab.get 0 m (c.table8 h).rxSeq ∧
      (∃ k, c.parityPage (bitsAt (p.word 0) 50 1) (bitsAt (p.word 0) 49 1) (p.word 1 / 2 ^ 32) = some k) ∧
      bitsAt (p.word 0) 30 16 + (p.payload.length - 32) ≤ 65536 ∧ 32 ≤ p.payload.length) ∧
    (∃ (c : Chip) (h m : Nat) (p : Packet), c.Up ∧ h < 2 ∧ FromMember h m 0 6 p c ∧ p.seq = Tab.get 0 m (c.table8 h).rxSeq ∧
      (∃ k, c.parityPage (bitsAt (p.word 0) 50 1) (bitsAt (p.word 0) 49 1) (p.word 1 / 2 ^ 32) = some k)) ∧
    (∃ (c : Chip) (h m e : Nat) (p : Packet), c.Up ∧ h < 2 ∧ FromMember h m 0xD e p c) ∧
    (∃ (c : Chip) (h : Nat), c.Up ∧ h < 2 ∧ c.twin.joined = true ∧ (c.table8 h).unacked ≠ [] ∧
      (c.table8 h).progress + c.twin.deltaRto ≤ c.tb.boundaries) ∧
    (∃ (c : Chip) (h m : Nat) (p : Packet), c.Up ∧ h < 2 ∧ FromMember h m 0 3 p c ∧ (c.table8 0).rebuild ≠ 1) ∧
    (∃ (c : Chip) (h m : Nat) (p : Packet), c.Up ∧ h < 2 ∧ FromMember h m 0 3 p c ∧ (c.table8 0).rebuild = 1) ∧
    (∃ (c : Chip) (h : Nat), c.Up ∧ h < 2 ∧ c.twin.joined = true ∧ (c.table8 h).lastCoded + 16 ≤ c.tb.boundaries) ∧
    (∃ (c : Chip) (h m : Nat) (p : Packet), c.Up ∧ h < 2 ∧ FromMember h m 0 4 p c) ∧
    (∃ (c : Chip) (h m : Nat) (p : Packet), c.Up ∧ h < 2 ∧ FromMember h m 0 5 p c) ∧
    (∃ (c : Chip) (h : Nat), c.Up ∧ h < 2 ∧ (c.table8 h).rebuild = 2 ∧
      6 ≤ ((c.table8 h).reads.filter (fun r => r.unit == (c.table8 h).done)).length ∧
      ∀ r, r ∈ (c.table8 h).reads → r.unit = (c.table8 h).done → r.whole.isSome = true) :=
  ⟨⟨withTwin (tabled {}), 0, 1, 0, codePkt (2 * 2 ^ 32) 6 [0xC * 2 ^ 60, 0, 0, 0, 5], ⟨rfl, rfl⟩, by decide,
      ⟨by decide +kernel, barePkt_good _, rfl, by decide +kernel, by decide +kernel, by decide, by decide +kernel, by decide +kernel⟩, by decide +kernel,
      ⟨0, by decide +kernel⟩, by decide +kernel, by decide +kernel⟩,
   ⟨withTwin (tabled {}), 0, 1, codePkt (2 * 2 ^ 32) 6 [6 * 2 ^ 52, 0, 0, 0, 5], ⟨rfl, rfl⟩, by decide,
      ⟨by decide +kernel, barePkt_good _, rfl, by decide +kernel, by decide +kernel, fun _ => by decide +kernel, by decide +kernel, by decide +kernel⟩, by decide +kernel,
      ⟨0, by decide +kernel⟩⟩,
   ⟨withTwin (tabled {}), 0, 7, 0, codePkt (8 * 2 ^ 32) 6 [0xD * 2 ^ 60, 0, 0, 0], ⟨rfl, rfl⟩, by decide,
      ⟨by decide +kernel, barePkt_good _, rfl, by decide +kernel, by decide +kernel, by decide, by decide +kernel, by decide +kernel⟩⟩,
   ⟨{ withTwin (tabled { unacked := [⟨1, 0, false, []⟩] }) with tb := { boundaries := 16 } }, 0, ⟨rfl, rfl⟩, by decide⟩,
   ⟨withTwin (tabled {}), 0, 1, codePkt (2 * 2 ^ 32) 1 [3 * 2 ^ 52, 4, 0, 0], ⟨rfl, rfl⟩, by decide,
      ⟨by decide +kernel, barePkt_good _, rfl, by decide +kernel, by decide +kernel, fun _ => by decide +kernel, by decide +kernel, by decide +kernel⟩, by decide⟩,
   ⟨withTwin (tabled { rebuild := 1 }), 0, 1, codePkt (2 * 2 ^ 32) 1 [3 * 2 ^ 52, 4, 0, 0], ⟨rfl, rfl⟩, by decide,
      ⟨by decide +kernel, barePkt_good _, rfl, by decide +kernel, by decide +kernel, fun _ => by decide +kernel, by decide +kernel, by decide +kernel⟩, by decide⟩,
   ⟨{ withTwin (tabled {}) with tb := { boundaries := 16 } }, 1, ⟨rfl, rfl⟩, by decide⟩,
   ⟨withTwin (tabled {}), 0, 1, codePkt (2 * 2 ^ 32) 6 [4 * 2 ^ 52, 4, 0, 0], ⟨rfl, rfl⟩, by decide,
      ⟨by decide +kernel, barePkt_good _, rfl, by decide +kernel, by decide +kernel, fun _ => by decide +kernel, by decide +kernel, by decide +kernel⟩⟩,
   ⟨withTwin (tabled {}), 0, 1, codePkt (2 * 2 ^ 32) 6 [5 * 2 ^ 52, 4, 0, 0], ⟨rfl, rfl⟩, by decide,
      ⟨by decide +kernel, barePkt_good _, rfl, by decide +kernel, by decide +kernel, fun _ => by decide +kernel, by decide +kernel, by decide +kernel⟩⟩,
   ⟨withTwin (tabled rebuilding), 0, ⟨rfl, rfl⟩, by decide, rfl, by decide, fun r h _ => rebuilding_whole r h⟩⟩

/-- A part right after reset with a twin state that holds a broadcast tree, and a packet of KIND `w0`. -/
abbrev withBcast (b : Bcast) : Chip := withTwin { bcast := b }

theorem witness_ReplayComplete :
    (∃ k w c x y z, Served 0x0F21 k 4 w c ∧ c.job 0 (bitsAt (w 0) 0 8) = some x ∧ c.job 1 (bitsAt (w 0) 0 8) = some y ∧
      c.regionOf (w 3) = some z ∧ (x.step ≤ nameAt w 1 ∨ y.step ≤ nameAt w 1)) ∧
    (∃ (c : Chip) (v : Ckpt) (x : Waiting) (bs : List Byte), c.Up ∧ c.twin.ckpts.find? (fun y => y.image.isSome) = some v ∧
      v.image = some bs ∧ c.rangeOk v.region 0 bs.length = true ∧ v.region ∉ (c.table8 (bitsAt v.region 31 1)).protectedList ∧
      c.waitingOf 0x0F21 (fun y => y.mbx == v.mbx && y.ticket == v.ticket) = some x ∧ Outstanding x c) ∧
    (∃ k w c, Served 0x0F22 k 2 w c ∧ c.mayRestore = true) ∧
    (∃ (c : Chip) (x : Waiting) (a n : Nat), c.Up ∧ c.waitingOf 0x0F22 (fun _ => true) = some x ∧ x.args = [a, n] ∧ Outstanding x c ∧
      c.imageRecords a n = none) ∧
    (∃ (c : Chip) (x : Waiting) (a n : Nat) (rs : List (Nat × MirrorRecord)), c.Up ∧ c.waitingOf 0x0F22 (fun _ => true) = some x ∧
      x.args = [a, n] ∧ Outstanding x c ∧ c.imageRecords a n = some rs ∧ c.mayRestore = true) ∧
    (∃ (c : Chip) (p : Packet), c.Up ∧ okPacket p = true ∧ bitsAt (p.word 0) 60 4 = 0xA ∧ p.crcGood = true ∧
      bitAt (p.word 0) 59 = false ∧ c.twin.bcast.lastBseq < p.seq) ∧
    (∃ (c : Chip) (p : Packet), c.Up ∧ okPacket p = true ∧ bitsAt (p.word 0) 60 4 = 0xA ∧ p.crcGood = true ∧
      bitAt (p.word 0) 59 = false ∧ p.seq ≤ c.twin.bcast.lastBseq) ∧
    (∃ (c : Chip) (p : Packet), c.Up ∧ okPacket p = true ∧ bitsAt (p.word 0) 60 4 = 0xA ∧ p.crcGood = true ∧
      bitAt (p.word 0) 59 = true ∧ c.twin.state ≠ .unpaired ∧ ∀ y, y ∈ c.twin.bcast.holds → y.bseq ≠ p.seq) ∧
    (∃ (c : Chip) (p : Packet), c.Up ∧ okPacket p = true ∧ bitsAt (p.word 0) 60 4 = 0xA ∧ p.crcGood = true ∧
      bitAt (p.word 0) 59 = true ∧ c.twin.state = .unpaired) ∧
    (∃ (c : Chip) (p : Packet) (v : Held), c.Up ∧ okPacket p = true ∧ bitsAt (p.word 0) 60 4 = 0xB ∧ p.crcGood = true ∧
      c.twin.bcast.holds.find? (fun y => y.bseq == p.word 0 % 2 ^ 32) = some v) ∧
    (∃ (c : Chip) (e d : Nat), c.Up ∧ c.twin.bcast.expected = some (e, d) ∧ c.twin.bcast.late = false ∧ c.reached d = true ∧ c.holdsOwn e = false) ∧
    (∃ (c : Chip) (e : Nat × Nat), c.Up ∧ c.twin.bcast.expected = some e ∧ c.twin.bcast.late = true ∧ c.twin.bcast.missed = false ∧
      c.twin.bcast.lastAsk + 4 ≤ c.tb.boundaries ∧ c.twin.bcast.asks = 6) ∧
    (∃ c : Chip, c.Up ∧ windowCycles c.twin.health.window ≤ (c.tb.lt + 2 ^ 64 - c.twin.health.since) % 2 ^ 64) ∧
    (∃ k w c, Served 0x0F31 k 5 w c ∧ nameAt w 0 ≠ 0 ∧ c.unitName (nameAt w 0) = true ∧ nameAt w 2 = 0 ∧ c.twin.bcast.expected = none) ∧
    (∃ k w c, Served 0x0F32 k 3 w c ∧ c.tooLate (nameAt w 1) = false) ∧
    (∃ k w c, Served 0x0F33 k (4 + w 3) w c ∧ c.twin.bcast.lastBseq < w 0 ∧ c.tb.aligned = true) ∧
    (∃ k w c, Served 0x0F41 k 2 w c ∧ bitsAt (w 0) 8 16 ≠ 0) ∧
    (∃ k w c, Served 0x0F42 k 2 w c ∧ nameAt w 0 ∈ c.twin.health.scores.map Prod.fst) :=
  ⟨⟨0, _, _, _, _, _, served_asked { withRegion with kit := { half := fresh0.kit.half, jobs := [(0, {}), (256, {})] } } 0x0F21 [256, 5, 0, 4] rfl rfl, rfl, rfl, rfl, by decide +kernel⟩,
   ⟨{ withWaiting withRegion 0x0F21 true [] with twin := { ckpts := [⟨0, 0, false, 4, 0, 1, some []⟩] } }, _, _, [], ⟨rfl, rfl⟩, rfl, rfl, by decide +kernel, by decide,
      rfl, ⟨rfl, rfl⟩⟩,
   ⟨0, _, _, served_asked fresh0 0x0F22 [4, 64] rfl rfl, by decide +kernel⟩,
   ⟨withWaiting withRegion 0x0F22 true [4, 0], _, 4, 0, ⟨rfl, rfl⟩, rfl, rfl, ⟨rfl, rfl⟩, by decide +kernel⟩,
   ⟨{ withWaiting withRegion 0x0F22 true [4, 64] with lard := { withRegion.lard with
        hbm := [⟨2000000 * 65536 + 0, 0x4C⟩, ⟨2000000 * 65536 + 1, 0x53⟩, ⟨2000000 * 65536 + 2, 0x43⟩, ⟨2000000 * 65536 + 3, 0x50⟩] } },
      _, 4, 64, [], ⟨rfl, rfl⟩, rfl, rfl, ⟨rfl, rfl⟩, by decide +kernel, by decide +kernel⟩,
   ⟨withBcast {}, { codePkt 0 1 [0xA * 2 ^ 60, 0, 0, 0] with seq := 1 }, ⟨rfl, rfl⟩, by decide +kernel, by decide +kernel, barePkt_good _, by decide +kernel, by decide +kernel⟩,
   ⟨withBcast {}, codePkt 0 1 [0xA * 2 ^ 60, 0, 0, 0], ⟨rfl, rfl⟩, by decide +kernel, by decide +kernel, barePkt_good _, by decide +kernel, by decide +kernel⟩,
   ⟨withTwin (paired {}), codePkt 0 1 [0xA * 2 ^ 60 + 2 ^ 59, 0, 0, 0], ⟨rfl, rfl⟩, by decide +kernel, by decide +kernel, barePkt_good _, by decide +kernel, by decide +kernel, by decide⟩,
   ⟨withBcast {}, codePkt 0 1 [0xA * 2 ^ 60 + 2 ^ 59, 0, 0, 0], ⟨rfl, rfl⟩, by decide +kernel, by decide +kernel, barePkt_good _, by decide +kernel, rfl⟩,
   ⟨withBcast { holds := [⟨5, [], true⟩] }, codePkt 0 1 [0xB * 2 ^ 60 + 5, 0, 0, 0], ⟨5, [], true⟩, ⟨rfl, rfl⟩, by decide +kernel, by decide +kernel, barePkt_good _, by decide +kernel⟩,
   ⟨withBcast { expected := some (5, 0) }, 5, 0, ⟨rfl, rfl⟩, rfl, rfl, by decide +kernel, by decide⟩,
   ⟨{ withBcast { expected := some (5, 0), late := true, asks := 6 } with tb := { boundaries := 4 } }, (5, 0), ⟨rfl, rfl⟩, rfl, rfl, rfl, by decide, rfl⟩,
   ⟨{ withBcast {} with tb := { lt := 60 * 60 * 2000000000 } }, ⟨rfl, rfl⟩, by decide +kernel⟩,
   ⟨0, _, _, served_asked (withBcast {}) 0x0F31 [0, 3, 0, 0, 2 ^ 26 + 8191] rfl rfl, by decide +kernel⟩,
   ⟨0, _, _, served_asked (withBcast {}) 0x0F32 [5, 2, 0] rfl rfl, by decide +kernel⟩,
   ⟨0, wordsOf [5, 9, 0, 1, 77], _, served_asked { withBcast {} with tb := { aligned := true } } 0x0F33 [5, 9, 0, 1, 77] rfl rfl, by decide +kernel, rfl⟩,
   ⟨0, _, _, served_asked (withBcast {}) 0x0F41 [256, 192] rfl rfl, by decide +kernel⟩,
   ⟨0, _, _, served_asked (withTwin { health := { scores := [(2 ^ 32, {})] } }) 0x0F42 [0, 1] rfl rfl, by decide +kernel⟩⟩

/-- A part right after reset with Moelo ready and a certificate chain in slot 1. -/
abbrev attested (v : Spdm) : Chip :=
  { fresh0 with
    flash := { fresh0.flash with slot1 := [1, 2, 3] }
    stew := { fresh0.stew with phase := .running, bootReady := true, spdm := v, pcie := { fresh0.stew.pcie with perst := false, d3hot := false } } }

theorem witness_AttestationComplete :
    (∃ (c : Chip) (slot off : Nat), c.pkg.held = false ∧ c.stew.pcie.perst = false ∧ c.stew.pcie.d3hot = false ∧ c.stew.bootReady = true ∧
      c.stew.phase ≠ .restarting ∧ c.stew.spdm.version = true ∧ c.stew.spdm.caps = true ∧ c.stew.spdm.algs = true ∧ slot < 8 ∧
      c.certChain slot ≠ [] ∧ off < (c.certChain slot).length) ∧
    (∃ (c : Chip) (slot : Nat), c.pkg.held = false ∧ c.stew.pcie.perst = false ∧ c.stew.pcie.d3hot = false ∧ c.stew.bootReady = true ∧
      c.stew.phase ≠ .restarting ∧ c.stew.spdm.algs = true ∧ slot < 8 ∧ slot ≠ 0 ∧ c.certChain slot = []) ∧
    (∃ (c : Chip) (slot off : Nat), c.pkg.held = false ∧ c.stew.pcie.perst = false ∧ c.stew.pcie.d3hot = false ∧ c.stew.bootReady = true ∧
      c.stew.phase ≠ .restarting ∧ c.stew.spdm.algs = true ∧ slot < 8 ∧ c.certChain slot ≠ [] ∧ (c.certChain slot).length ≤ off) ∧
    (∃ c : Chip, c.pkg.held = false ∧ c.stew.pcie.perst = false ∧ c.stew.pcie.d3hot = false ∧ c.stew.bootReady = true ∧
      c.stew.phase ≠ .restarting ∧ c.stew.spdm.algs = false) ∧
    (∃ c : Chip, c.pkg.held = false ∧ c.stew.pcie.perst = false ∧ c.stew.pcie.d3hot = false ∧ c.stew.bootReady = true ∧
      c.stew.phase = .restarting) :=
  ⟨⟨attested ⟨true, true, true⟩, 1, 2, rfl, rfl, rfl, rfl, by decide, rfl, rfl, rfl, by decide, by decide, by decide⟩,
   ⟨attested ⟨true, true, true⟩, 7, rfl, rfl, rfl, rfl, by decide, rfl, by decide, by decide, rfl⟩,
   ⟨attested ⟨true, true, true⟩, 1, 3, rfl, rfl, rfl, rfl, by decide, rfl, by decide, by decide, by decide⟩,
   ⟨attested ⟨true, true, false⟩, rfl, rfl, rfl, rfl, by decide, rfl⟩,
   ⟨{ attested {} with stew := { (attested {}).stew with phase := .restarting } }, rfl, rfl, rfl, rfl, rfl⟩⟩

/-- A part right after reset whose inactive bank holds a verified image that a live restart may run. -/
abbrev staged : Chip :=
  { fresh0 with flash := { fresh0.flash with verified := true, bank := ⟨{ fresh0.flash.bank.h0 with liveOk := true }, { present := true, liveOk := true, svn := 3 }⟩ } }

abbrev goodImage : ImageCheck := ⟨true, true, true, true, 2, 0, 0, false, true⟩

/-- A part in bring-up, at a stage, with firmware ready. -/
abbrev atStage (n : Nat) : Chip :=
  { fresh0 with stew := { fresh0.stew with phase := .running, bootReady := true }, boot := { fresh0.boot with stage := n, ended := 0 } }

theorem witness_FirmwareCompletes :
    (∃ k w c, Served 0x1041 k (2 + w 1) w c ∧ w 0 % 4 = 0 ∧ 1 ≤ w 1 ∧ w 1 ≤ 1020 ∧ w 0 + 4 * w 1 ≤ 31457280 ∧
      c.waitingOf 0x1043 (fun _ => true) = none) ∧
    (∃ k w c, Served 0x1042 k 0 w c) ∧
    (∃ k w c, Served 0x1043 k 1 w c ∧ c.flash.verified = true ∧ bitAt (w 0) 0 = false) ∧
    (∃ k w c, Served 0x1043 k 1 w c ∧ c.flash.verified = true ∧ bitAt (w 0) 0 = true ∧ c.flash.bank.h0.liveOk = true ∧
      c.flash.bank.h1.liveOk = true ∧ ∀ e, e ∈ c.stew.mbx → e.1 ≠ k → e.2.pending = false) ∧
    (∃ k w c, Served 0x1044 k 0 w c ∧ c.stew.running ≠ c.flash.committed) ∧
    (∃ k w c, Served 0x1045 k 0 w c) ∧ (∃ k w c, Served 0x1201 k 0 w c) ∧
    (∀ op, op ∈ [0x1041, 0x1042, 0x1043, 0x1044] → ∃ (c : Chip) (k : Nat) (v : Waiting), c.pkg.held = false ∧ k < 32 ∧ Outstanding v c ∧
      c.stew.waiting.find? (fun y => y.mbx == k && [0x1041, 0x1042, 0x1043, 0x1044].contains y.opcode && y.args != [1]) = some v ∧ v.opcode = op) ∧
    (∃ (c : Chip) (v : Waiting), c.pkg.held = false ∧ c.stew.phase = .restarting ∧ c.waitingOf 0x1043 (fun _ => true) = some v ∧ Outstanding v c) ∧
    (∃ c : Chip, c.Up ∧ c.stew.phase ≠ .restarting ∧ c.stew.triedNew = true ∧ c.stew.bootReady = false ∧ c.stew.fallback = false) ∧
    (∃ (c : Chip) (x : ImageCheck), c.Up ∧ c.stew.phase = .rom ∧ c.stew.triedNew = false ∧ c.pkg.straps % 4 ≤ 1 ∧ c.boot.stage ≤ 1 ∧
      c.imageStatus x = .ok) ∧
    (∃ (c : Chip) (x : ImageCheck), c.Up ∧ c.stew.phase = .rom ∧ c.stew.triedNew = false ∧ c.pkg.straps % 4 ≤ 1 ∧ c.boot.stage ≤ 1 ∧
      c.imageStatus x ≠ .ok) ∧
    (∃ c : Chip, c.Up ∧ c.stew.phase = .running ∧ c.stew.bootReady = false ∧ c.boot.stage = 2) ∧
    (∃ c : Chip, c.Up ∧ c.boot.stage = 0) ∧
    (∃ (c : Chip) (u : Nat), c.Up ∧ c.stew.bootReady = true ∧ c.boot.stage = 3 ∧ bitAt c.boot.ended 3 = false ∧ c.loomServes u = true) ∧
    (∃ c : Chip, c.Up ∧ c.stew.bootReady = true ∧ c.boot.stage = 4 ∧ bitAt c.boot.ended c.boot.stage = false) ∧
    (∃ c : Chip, c.Up ∧ c.stew.bootReady = true ∧ c.boot.stage = 6 ∧ bitAt c.boot.ended c.boot.stage = false) :=
  ⟨⟨0, wordsOf [31457276, 1, 7], _, served_asked fresh0 0x1041 [31457276, 1, 7] rfl rfl, by decide +kernel⟩,
   ⟨0, _, _, served_asked fresh0 0x1042 [] rfl rfl⟩,
   ⟨0, _, _, served_asked staged 0x1043 [0] rfl rfl, rfl, by decide +kernel⟩,
   ⟨0, _, _, served_asked staged 0x1043 [1] rfl rfl, rfl, by decide +kernel, rfl, rfl, by decide +kernel⟩,
   ⟨0, _, _, served_asked { fresh0 with stew := { fresh0.stew with running := 1 } } 0x1044 [] rfl rfl, by decide⟩,
   ⟨0, _, _, served_asked fresh0 0x1045 [] rfl rfl⟩, ⟨0, _, _, served_asked fresh0 0x1201 [] rfl rfl⟩,
   by
    intro op h
    refine ⟨withWaiting fresh0 op true [0], 0, ⟨0, 1, op, true, [0]⟩, rfl, by decide, ⟨rfl, rfl⟩, ?_, rfl⟩
    fin_cases h <;> decide +kernel,
   ⟨{ withWaiting fresh0 0x1043 true [1] with stew := { (withWaiting fresh0 0x1043 true [1]).stew with phase := .restarting } }, _, rfl, rfl, rfl, ⟨rfl, rfl⟩⟩,
   ⟨{ fresh0 with stew := { fresh0.stew with triedNew := true } }, ⟨rfl, rfl⟩, by decide⟩,
   ⟨fresh0, goodImage, fresh0_up, by decide⟩,
   ⟨fresh0, { goodImage with sigOk := false }, fresh0_up, by decide⟩,
   ⟨{ fresh0 with stew := { fresh0.stew with phase := .running }, boot := { fresh0.boot with stage := 2 } }, ⟨rfl, rfl⟩, by decide⟩,
   ⟨fresh0, fresh0_up, by decide⟩,
   ⟨atStage 3, 63, ⟨rfl, rfl⟩, by decide +kernel⟩,
   ⟨atStage 4, ⟨rfl, rfl⟩, by decide +kernel⟩,
   ⟨atStage 6, ⟨rfl, rfl⟩, by decide +kernel⟩⟩

/-- A part right after reset that the host reaches, with firmware ready and a state of mailbox 3. -/
abbrev hosting (m : Mailbox) : Chip :=
  { fresh0 with stew := { mbx := [(3, m)], phase := .running, bootReady := true, pcie := { perst := false }, slots := [(2, ⟨some (2 ^ 33), some 9⟩)] }
                nest := { desc := 129, self := 2 ^ 32, pair := 2 ^ 34 } }

abbrev loudEvents : Events := { ringSet := true, log2 := 6, prod := 5, cons := 2, unsignalled := true }

theorem witness_HostAccessesComplete :
    (∃ c : Chip, c.pkg.held = false ∧ c.hostUp = true) ∧
    (∃ c : Chip, c.pkg.held = false ∧ c.stew.pcie.perst = false ∧ bitAt c.stew.pcie.vecPending 63 = true ∧
      bitAt c.stew.pcie.vecMasked 63 = false) ∧
    (∃ (c : Chip) (k : Nat), c.pkg.held = false ∧ c.hostUp = true ∧ k < 16 ∧ (c.mbx k).pending = true) ∧
    (∃ (c : Chip) (k j : Nat), c.pkg.held = false ∧ c.hostUp = true ∧ k < 16 ∧ (c.mbx k).pending = false ∧ c.stew.bootReady = true ∧
      c.stew.phase ≠ .restarting ∧ j = (c.stew.rung ++ [k]).headD 0 ∧ (c.mbx j).opcode ∈ opcodes ∧
      (16 ≤ j → (c.mbx j).opcode ∉ deniedInBand)) ∧
    (∃ (c : Chip) (k : Nat), c.pkg.held = false ∧ c.hostUp = true ∧ k < 16 ∧ (c.mbx k).pending = false ∧ c.stew.bootReady = true ∧
      c.stew.phase ≠ .restarting ∧ c.stew.rung = [] ∧ (c.mbx k).opcode ∉ opcodes) ∧
    (∃ (c : Chip) (k : Nat), c.pkg.held = false ∧ c.hostUp = true ∧ k < 16 ∧ (c.mbx k).pending = false ∧ c.stew.phase = .restarting) ∧
    (∃ (c : Chip) (k : Nat), c.pkg.held = false ∧ c.hostUp = true ∧ k < 16 ∧ (c.mbx k).pending = false ∧ c.stew.bootReady = false ∧
      c.earlyCommand k (c.mbx k).opcode = false) ∧
    okMbWrite 0xE00 512 = true ∧ okMbWrite 0x2000 8 = true ∧ okHdrRead 4 4 = true ∧
    (∃ (c : Chip) (v : Nat), c.pkg.held = false ∧ c.hostUp = true ∧ v < 2 ^ 32 ∧ c.stew.events.die = []) ∧
    (∃ c : Chip, c.pkg.held = false ∧ c.stew.events.unsignalled = true ∧ c.stew.events.ringSet = true ∧ c.hostUp = true) ∧
    (∃ c : Chip, c.pkg.held = false ∧ c.stew.events.unsignalled = false) :=
  ⟨⟨hosting {}, rfl, rfl⟩,
   ⟨{ hosting {} with stew := { pcie := { perst := false, vecPending := 2 ^ 63, vecMasked := 1 } } }, rfl, rfl, by decide, by decide⟩,
   ⟨hosting { pending := true }, 3, rfl, rfl, by decide, rfl⟩,
   ⟨hosting { opcode := 0x1002 }, 3, 3, rfl, rfl, by decide, rfl, rfl, by decide, rfl, by decide, by decide⟩,
   ⟨hosting { opcode := 0x1202 + 1 }, 3, rfl, rfl, by decide, rfl, rfl, by decide, rfl, by decide⟩,
   ⟨{ hosting {} with stew := { phase := .restarting, pcie := { perst := false } } }, 15, rfl, rfl, by decide, rfl, rfl⟩,
   ⟨{ hosting {} with stew := { pcie := { perst := false } } }, 15, rfl, rfl, by decide, rfl, rfl, by decide⟩,
   by decide, by decide, by decide,
   ⟨hosting {}, 2 ^ 32 - 1, rfl, rfl, by decide, rfl⟩,
   ⟨{ hosting {} with stew := { events := loudEvents, pcie := { perst := false } } }, rfl, rfl, rfl, rfl⟩,
   ⟨hosting {}, rfl, rfl⟩⟩

/-- An in-band request from the unit that slot 2 is bound to, with a sequence number and an opcode. -/
abbrev mgmtPkt (seq op : Nat) : Packet :=
  { codePkt (2 ^ 33) 1 [0xE * 2 ^ 60 + 2 * 2 ^ 56 + seq * 2 ^ 40 + op * 2 ^ 24, 0, 0, 0] with dest := 2 ^ 32 }

theorem mgmtPkt_ok (seq op : Nat) (b : Bool) (h : bitsAt ((mgmtPkt seq op).word 0) 60 4 = 0xE) :
    (hosting { pending := b }).mgmtOk 2 (mgmtPkt seq op) = true := by
  have g : (mgmtPkt seq op).crcGood = true := barePkt_good _
  simp only [Chip.mgmtOk, g, h]
  rfl

/-- The request words of a packet of one payload word. -/
abbrev sendWords : List Nat := [2 ^ 16, 4, 2 ^ 13, 3, 0, 0, 0, 0, 0, 0, 77]

theorem sendWords_count : sendWords.length = 10 + (wordsOf sendWords 1 + 3) / 4 := by decide +kernel

theorem witness_StewardCommandsComplete :
    (∃ k w c, Served 0x1001 k 0 w c) ∧ (∃ k w c, Served 0x1002 k 0 w c) ∧
    (∃ k w c v x, Served 0x1003 k 1 w c ∧ x = bitsAt (w 0) 0 5 ∧ x ≠ k ∧
      c.stew.waiting.find? (fun y => y.mbx == x && (c.mbx x).pending && y.ticket == (c.mbx x).ticket) = some v ∧
      v.started = false ∧ v.opcode ∈ abortable) ∧
    (∃ k w c, Served 0x1011 k 3 w c ∧ bitsAt (w 2) 0 5 = 0) ∧
    (∃ k w c, Served 0x1011 k 3 w c ∧ 6 ≤ bitsAt (w 2) 0 5 ∧ bitsAt (w 2) 0 5 ≤ 16 ∧ longAt w 0 % 4096 = 0) ∧
    (∃ k w c, Served 0x1012 k 4 w c ∧ c.nameOk (nameAt w 0) = true) ∧
    (∃ k w c, Served 0x1013 k 3 w c ∧ c.unitName (nameAt w 1) = true) ∧
    (∃ k w c, Served 0x1021 k (10 + (w 1 + 3) / 4) w c ∧ bitsAt (longAt w 2) 13 3 ≠ 0 ∧ w 1 ≤ 4048) ∧
    (∃ k w c x rest, Served 0x1022 k 0 w c ∧ c.stew.recvQueue = x :: rest) ∧
    (∃ (c : Chip) (p : Packet), c.Up ∧ okPacket p = true ∧ p.crcGood = true ∧ c.stew.recvQueue.length < 256) ∧
    (∃ (c : Chip) (p : Packet), c.Up ∧ okPacket p = true ∧ p.crcGood = true ∧ 256 ≤ c.stew.recvQueue.length) ∧
    (∃ (c : Chip) (p : Packet), c.Up ∧ okPacket p = true ∧ p.crcGood = false) ∧
    (∃ (c : Chip) (p : Packet) (s : Nat), c.Up ∧ okPacket p = true ∧ s = bitsAt (p.word 0) 56 4 ∧ c.mgmtOk s p = false) ∧
    (∃ (c : Chip) (p : Packet) (s seq : Nat), c.Up ∧ okPacket p = true ∧ s = bitsAt (p.word 0) 56 4 ∧ seq = bitsAt (p.word 0) 40 16 ∧
      c.mgmtOk s p = true ∧ (c.slot s).heldSeq = some seq) ∧
    (∃ (c : Chip) (p : Packet) (s seq : Nat), c.Up ∧ okPacket p = true ∧ s = bitsAt (p.word 0) 56 4 ∧ seq = bitsAt (p.word 0) 40 16 ∧
      c.mgmtOk s p = true ∧ (c.slot s).heldSeq ≠ some seq ∧ (c.mbx (16 + s)).pending = false ∧ c.stew.bootReady = true ∧
      c.stew.phase ≠ .restarting ∧ c.stew.rung = [] ∧ bitsAt (p.word 0) 24 16 ∈ opcodes ∧ bitsAt (p.word 0) 24 16 ∉ deniedInBand) :=
  ⟨⟨0, _, _, served_asked fresh0 0x1001 [] rfl rfl⟩, ⟨0, _, _, served_asked fresh0 0x1002 [] rfl rfl⟩,
   ⟨1, _, { rung fresh0 0x1003 1 1 (reqOf [0]) with stew := { (rung fresh0 0x1003 1 1 (reqOf [0])).stew with
        mbx := [(1, { opcode := 0x1003, words := 1, req := reqOf [0], pending := true, ticket := 1 }), (0, { pending := true, ticket := 7 })]
        waiting := [⟨0, 7, 0x0F21, false, []⟩] } }, ⟨0, 7, 0x0F21, false, []⟩, 0,
      { (served_rung fresh0 0x1003 1 1 (reqOf [0]) (by decide) rfl rfl) with
        rung := rfl, opcode := rfl, words := rfl, request := rfl },
      by decide +kernel, by decide, by decide, rfl, by decide⟩,
   ⟨0, _, _, served_asked fresh0 0x1011 [0, 0, 0] rfl rfl, by decide +kernel⟩,
   ⟨0, _, _, served_asked fresh0 0x1011 [4096, 1, 16] rfl rfl, by decide +kernel⟩,
   ⟨0, _, _, served_asked (hosting {}) 0x1012 [0, 3, 0xFF, 1] rfl rfl, by decide +kernel⟩,
   ⟨0, _, _, served_asked (hosting {}) 0x1013 [16, 0, 3] rfl rfl, by decide +kernel⟩,
   ⟨0, wordsOf sendWords, asked (hosting {}) 0x1021 sendWords, sendWords_count ▸ served_asked (hosting {}) 0x1021 sendWords rfl rfl, by decide +kernel⟩,
   ⟨0, _, _, ⟨barePkt [], 0⟩, [], served_asked { fresh0 with stew := { recvQueue := [⟨barePkt [], 0⟩] } } 0x1022 [] rfl rfl, rfl⟩,
   ⟨fresh0, codePkt 0 1 [0, 0, 0, 0], fresh0_up, by decide +kernel, barePkt_good _, by decide⟩,
   ⟨{ fresh0 with stew := { recvQueue := List.replicate 256 ⟨barePkt [], 0⟩ } }, codePkt 0 1 [0, 0, 0, 0], ⟨rfl, rfl⟩, by decide +kernel, barePkt_good _,
      Nat.le_of_eq List.length_replicate.symm⟩,
   ⟨fresh0, { codePkt 0 1 [0, 0, 0, 0] with crc := crc64 (codePkt 0 1 [0, 0, 0, 0]).payload + 1 }, fresh0_up, by decide +kernel, by simp [Packet.crcGood]⟩,
   ⟨hosting {}, { mgmtPkt 4 0x1002 with src := 2 ^ 35 }, 2, ⟨rfl, rfl⟩, by decide +kernel, by decide +kernel, rfl⟩,
   ⟨hosting {}, mgmtPkt 9 0x1002, 2, 9, ⟨rfl, rfl⟩, by decide +kernel, by decide +kernel, by decide +kernel, mgmtPkt_ok 9 0x1002 false (by decide +kernel), by decide⟩,
   ⟨hosting {}, mgmtPkt 4 0x1002, 2, 4, ⟨rfl, rfl⟩, by decide +kernel, by decide +kernel, by decide +kernel, mgmtPkt_ok 4 0x1002 false (by decide +kernel), by decide +kernel⟩⟩

theorem witness_RegisterAccessesComplete :
    (∃ (c : Chip) (req : Requester), c.pkg.held = false ∧ c.reachedBy req ∧ c.accessError req false true 0xFF8 8 = 1) ∧
    (∃ (c : Chip) (req : Requester), c.pkg.held = false ∧ c.reachedBy req ∧ c.accessError req true false 0x50000 8 = 0) ∧
    (∃ c : Chip, c.pkg.held = false ∧ c.hostUp = true ∧ c.accessError .host false false 0xFF8 8 ≠ 0) ∧
    (∃ c : Chip, c.pkg.held = false ∧ c.hostUp = true ∧ c.accessError .host false false 0x110 8 = 0) ∧
    (∃ c : Chip, c.pkg.held = false ∧ c.hostUp = true ∧ c.accessError .host true false 0x3E010 8 = 0) ∧
    (∃ c : Chip, c.pkg.held = false ∧ c.hostUp = true ∧ c.accessError .host true false 0x51000 8 = 0) ∧
    (∃ (c : Chip) (req : Requester), c.pkg.held = false ∧ c.reachedBy req ∧ c.accessError req false true 0x10058 8 = 0 ∧
      c.accessError req false true 0x10080 8 = 0 ∧ c.accessError req false true 0x3C00018 8 = 0 ∧ c.accessError req false true 0x8 8 = 0) ∧
    (∃ c : Chip, c.pkg.held = false ∧ c.reachedBy .host ∧ c.accessError .host true true 0x300000 8 = 0 ∧
      c.accessError .host true true 0x3E008 8 = 0) ∧
    (∃ (c : Chip) (req : Requester) (off : Nat), c.pkg.held = false ∧ c.reachedBy req ∧ off < 2 ^ 25 ∧ off % 8 = 0 ∧
      c.accessError req false true (0x4000000 + off) 8 ≠ 0) ∧
    (∃ (c : Chip) (req : Requester) (off : Nat), c.pkg.held = false ∧ c.reachedBy req ∧ off < 2 ^ 25 ∧ off % 8 = 0 ∧
      c.accessError req false true (0x4000000 + off) 8 = 0 ∧ (0x10058, 0) = (c.aliasBase req * 0x80000 + off / 512 * 8, off % 512 / 8)) ∧
    (∃ (c : Chip) (req : Requester) (s : Nat), c.pkg.held = false ∧ c.reachedBy req ∧ s < 8 ∧
      c.accessError req false true (0x3B10000 + 0x1000 * s) 8 = 0 ∧ ownsSet req s = false) ∧
    (∃ (c : Chip) (req : Requester) (s : Nat), c.pkg.held = false ∧ c.reachedBy req ∧ s < 8 ∧
      c.accessError req false true (0x3B10000 + 0x1000 * s) 8 = 0 ∧ ownsSet req s = true) :=
  ⟨⟨hosting {}, .steward, rfl, .inl rfl, by decide +kernel⟩,
   ⟨hosting {}, .host, rfl, .inr ⟨rfl, rfl⟩, by decide +kernel⟩,
   ⟨hosting {}, rfl, rfl, by decide +kernel⟩, ⟨hosting {}, rfl, rfl, by decide +kernel⟩,
   ⟨hosting {}, rfl, rfl, by decide +kernel⟩, ⟨hosting {}, rfl, rfl, by decide +kernel⟩,
   ⟨hosting {}, .host, rfl, .inr ⟨rfl, rfl⟩, by decide +kernel⟩,
   ⟨hosting {}, rfl, .inr ⟨rfl, rfl⟩, by decide +kernel⟩,
   ⟨hosting {}, .host, 2 ^ 25 - 8, rfl, .inr ⟨rfl, rfl⟩, by decide, by decide, by decide +kernel⟩,
   ⟨hosting {}, .steward, 0x10058 * 64, rfl, .inl rfl, by decide, by decide, by decide +kernel, by decide +kernel⟩,
   ⟨hosting {}, .host, 6, rfl, .inr ⟨rfl, rfl⟩, by decide, by decide +kernel, rfl⟩,
   ⟨hosting {}, .host, 5, rfl, .inr ⟨rfl, rfl⟩, by decide, by decide +kernel, rfl⟩⟩

/-- A frozen part with firmware ready and one command rung in mailbox 0. -/
abbrev frozenAsked (op : Nat) (ws : List Nat) : Chip :=
  { asked fresh0 op ws with regs := { freeze := { accepted := true, frozen := true } } }

theorem frozenServed_asked (op : Nat) (ws : List Nat) (h : op ∈ actsFrozen) : FrozenServed op 0 ws.length (wordsOf ws) (frozenAsked op ws) where
  box := by decide
  awake := rfl
  ready := rfl
  phase := by simp [asked, rung]
  frozen := rfl
  acts := h
  oldest := ⟨[], rfl, by simp⟩
  rung := by simp [asked, rung, Chip.mbx, Tab.get]
  opcode := by simp [asked, rung, Chip.mbx, Tab.get]
  words := by simp [asked, rung, Chip.mbx, Tab.get]
  request := by funext i; simp [asked, rung, Chip.reqWord, Chip.mbx, Tab.get, wordsOf]

/-- A part right after reset with snapshot set 2 as given. -/
abbrev withSnap (x : SnapSet) : Chip := { fresh0 with regs := { snap := [(2, x)], prog := [(3, { armed := true, thrEn := true, thresh := 1, count := 1 })] } }

theorem witness_CountersAndFreezeComplete :
    (∃ (c : Chip) (s : Nat), c.Up ∧ s < 8 ∧ c.snapDue s = true ∧ (c.snap s).filling = false ∧ (c.snap s).count = 1) ∧
    (∃ (c : Chip) (s : Nat), c.Up ∧ s < 8 ∧ c.snapDue s = true ∧ (c.snap s).filling = true) ∧
    (∃ (c : Chip) (s : Nat), c.Up ∧ s < 8 ∧ c.snapDue s = false) ∧
    (∃ (c : Chip) (b i : Nat), c.pkg.held = false ∧ b < 5 ∧ i < 8 ∧ (c.prog b i).armed = true ∧ (c.prog b i).thrEn = true ∧
      0 < (c.prog b i).thresh ∧ (c.prog b i).thresh ≤ (c.prog b i).count ∧ b < 4) ∧
    (∃ (c : Chip) (b i : Nat), c.pkg.held = false ∧ b < 5 ∧ i < 8 ∧ (c.prog b i).armed = false) ∧
    (∃ k w c n, n = bitsAt (w 0) 1 8 ∧ Served 0x1101 k (1 + n) w c ∧ n ≠ 0 ∧ ∀ i, i < n → w (i + 1) % 8 = 0) ∧
    (∃ k w c, Served 0x1102 k 4 w c ∧ bitsAt (w 0) 0 3 ≤ 4 ∧ sourceOk (bitsAt (w 0) 0 3) (bitsAt (w 1) 0 8) = true) ∧
    (∃ k w c, Served 0x1103 k 1 w c ∧ bitsAt (w 0) 0 17 ≤ 65536) ∧
    (∃ k w c g, Served 0x1104 k 2 w c ∧ g = bitsAt (w 1) 0 15 ∧ g ≠ 0x3C00 ∧ (g < 0x4000 ∨ 0x6000 ≤ g)) ∧
    (∃ k w c, Served 0x1111 k 0 w c) ∧ (∃ k w c, Served 0x1112 k 0 w c) ∧ (∃ k w c, FrozenServed 0x1112 k 0 w c) ∧
    (∃ k w c sp ix z, FrozenServed 0x1113 k 3 w c ∧ sp = bitsAt (w 0) 0 4 ∧ ix = bitsAt (w 0) 4 6 ∧ spaceSize sp = some z ∧
      c.indexAbsent sp ix = false ∧ w 2 % 2 = 0 ∧ 2 ≤ w 2 ∧ w 2 ≤ 1020 ∧ w 1 % 8 = 0 ∧ w 1 + 4 * w 2 ≤ z ∧ sp ≠ 0) ∧
    (∃ c : Chip, c.pkg.held = false ∧ c.regs.tapIr = 0x20) ∧
    (∃ c : Chip, c.pkg.held = false ∧ c.regs.tapIr = 0x21 ∧ c.regs.freeze.frozen = true) :=
  ⟨⟨withSnap { arm := true, count := 1, mode := 2 }, 2, ⟨rfl, rfl⟩, by decide, by decide +kernel, rfl, rfl⟩,
   ⟨withSnap { arm := true, count := 1, filling := true }, 2, ⟨rfl, rfl⟩, by decide, by decide +kernel, rfl⟩,
   ⟨withSnap {}, 7, ⟨rfl, rfl⟩, by decide, by decide +kernel⟩,
   ⟨withSnap {}, 0, 3, rfl, by decide, by decide, rfl, rfl, by decide, by decide, by decide⟩,
   ⟨withSnap {}, 4, 7, rfl, by decide, by decide, by decide⟩,
   ⟨0, wordsOf [3, 0x10020], asked fresh0 0x1101 [3, 0x10020], 1, by decide +kernel, served_asked fresh0 0x1101 [3, 0x10020] rfl rfl, by decide, by
      intro i h; have : i = 0 := by omega
      subst this; decide +kernel⟩,
   ⟨0, _, _, served_asked fresh0 0x1102 [4, 7, 0, 0] rfl rfl, by decide +kernel⟩,
   ⟨0, _, _, served_asked fresh0 0x1103 [65536] rfl rfl, by decide +kernel⟩,
   ⟨0, _, _, 0x3BFF, served_asked fresh0 0x1104 [255, 0x3BFF] rfl rfl, by decide +kernel⟩,
   ⟨0, _, _, served_asked fresh0 0x1111 [] rfl rfl⟩, ⟨0, _, _, served_asked fresh0 0x1112 [] rfl rfl⟩,
   ⟨0, _, _, frozenServed_asked 0x1112 [] (by decide)⟩,
   ⟨0, _, _, 9, 0, 800, frozenServed_asked 0x1113 [9, 792, 2] (by decide), by decide +kernel⟩,
   ⟨{ fresh0 with regs := { tapIr := 0x20 } }, rfl, rfl⟩,
   ⟨{ fresh0 with regs := { tapIr := 0x21, freeze := { frozen := true } } }, rfl, rfl, rfl⟩⟩

/-- A part right after reset that follows DEAL_IN, 2000 core cycles on, with the last edge as given. -/
abbrev edged (i : DealIn) : Chip := { fresh0 with tb := { dealSrc := true, dealIn := i, lt := 2000, ft := 2000 } }

theorem witness_BoundariesComplete :
    (∃ c : Chip, c.Up ∧ c.tb.guarded = true) ∧ (∃ c : Chip, c.Up ∧ c.tb.guarded = false) ∧
    (∃ c : Chip, c.Up ∧ c.followsEdges = true) ∧ (∃ c : Chip, c.Up ∧ c.followsEdges = false ∧ c.tb.periodChange = none) ∧
    (∃ c : Chip, c.Up ∧ c.tb.dealSrc = false) ∧
    (∃ (c : Chip) (l : Nat), c.Up ∧ c.tb.dealSrc = true ∧ c.tb.dealIn.last = some l ∧ c.tb.periodChange = none) ∧
    (∃ (c : Chip) (l w : Nat), c.Up ∧ w ≤ 65536 ∧ c.tb.dealSrc = true ∧ c.tb.dealIn.last = some l ∧ l + c.dealCycles ≤ c.tb.lt + w + 16 ∧
      c.tb.lt + w ≤ l + c.dealCycles + 16 ∧ c.tb.periodChange = none) ∧
    (∃ (c : Chip) (l w : Nat), c.Up ∧ w ≤ 65536 ∧ c.tb.dealSrc = true ∧ c.tb.dealIn.last = some l ∧ c.tb.lt + w + 16 < l + c.dealCycles) ∧
    (∃ (c : Chip) (w : Nat), c.Up ∧ w ≤ 65536 ∧ c.tb.dealSrc = true ∧ c.tb.dealIn.last = none ∧ w < c.toBoundary ∧
      c.tb.dealIn.edgesFrom ≤ c.tb.lt + w ∧ c.tb.periodChange = none) ∧
    (∃ (c : Chip) (w : Nat), c.Up ∧ w ≤ 65536 ∧ c.tb.dealSrc = true ∧ c.tb.dealIn.last = none ∧ w < c.toBoundary ∧
      c.tb.lt + w < c.tb.dealIn.edgesFrom) :=
  ⟨⟨{ fresh0 with tb := { guarded := true } }, ⟨rfl, rfl⟩, rfl⟩, ⟨fresh0, fresh0_up, rfl⟩,
   ⟨edged { last := some 0 }, ⟨rfl, rfl⟩, rfl⟩, ⟨fresh0, fresh0_up, rfl, rfl⟩, ⟨fresh0, fresh0_up, rfl⟩,
   ⟨edged { last := some 0 }, 0, ⟨rfl, rfl⟩, rfl, rfl, rfl⟩,
   ⟨edged { last := some 0 }, 0, 64, ⟨rfl, rfl⟩, by decide, rfl, rfl, by decide, by decide, rfl⟩,
   ⟨edged { last := some 0 }, 0, 31, ⟨rfl, rfl⟩, by decide, rfl, rfl, by decide⟩,
   ⟨edged {}, 47, ⟨rfl, rfl⟩, by decide, rfl, rfl, by decide, by decide, rfl⟩,
   ⟨edged { edgesFrom := 4096 }, 0, ⟨rfl, rfl⟩, by decide, rfl, rfl, by decide, by decide⟩⟩

theorem witness_CommandsAreTakenInRingOrder :
    (∃ (i : Instr) (op k : Nat) (c : Chip), commandOf i = some (op, k) ∧ k < 32 ∧ c.regs.freeze.commanded = false ∧
      c.stew.rung.head? ≠ some k) ∧
    (∃ (i : Instr) (op k : Nat) (c : Chip), commandOf i = some (op, k) ∧ k < 32 ∧ c.regs.freeze.commanded = false ∧ c.pkg.held = false ∧
      c.stew.bootReady = true ∧ c.stew.phase ≠ .restarting ∧ c.regs.freeze.accepted = true ∧ op ∉ actsFrozen ∧
      (∃ rest, c.stew.rung = k :: rest ∧ k ∉ rest) ∧ (c.mbx k).pending = true ∧ (c.mbx k).opcode = op) :=
  ⟨⟨.tableRebuild 31, 0x0F14, 31, fresh0, rfl, by decide, rfl, by decide⟩,
   ⟨.tableRebuild 0, 0x0F14, 0, frozenAsked 0x0F14 [1], rfl, by decide, rfl, rfl, rfl, by decide, rfl, by decide, ⟨[], rfl, by decide⟩, rfl, rfl⟩⟩

end Sys2Proof.Machine
end

/-! SUPPORT. Proofs of the statements on the Deal number of fabric time (R21) and on the reads of the timestamp queues
(R49), with the rules of the operations that they use. -/

namespace Sys2Proof.Machine

open Sys2Proof

/-! ### Halves -/

theorem Halves.get_set_same {α : Type} (h : Nat) (v : α) (x : Halves α) : (x.set h v).get h = v := by
  by_cases hh : h = 0 <;> simp [Halves.get, Halves.set, hh]

theorem Halves.get_set_other {α : Type} {h : Nat} (hh : h < 2) (v : α) (x : Halves α) :
    (x.set h v).get (1 - h) = x.get (1 - h) := by
  obtain rfl | rfl : h = 0 ∨ h = 1 := by omega
  · rfl
  · rfl

/-! ### Commands on a part that runs -/

theorem Chip.Up.fabric_eq {c : Chip} (up : c.Up) (f : Chip → Chip) : c.fabric f = f c := by
  simp [Chip.fabric, up.awake, up.thawed]

/-! ### The Deal of an instant (R21) -/

/-- A Deal holds two core cycles for each ns of its period. -/
theorem Chip.dealCycles_eq (c : Chip) : c.dealCycles = 2 * c.dealNs := by
  simp only [Chip.dealCycles, Chip.dealNs]
  omega

theorem Chip.deal_eq_ftNs_div (c : Chip) : c.deal = c.ftNs / c.dealNs % 2 ^ 48 := by
  rw [Chip.deal, Chip.ftNs, Chip.dealCycles_eq, Nat.div_div_eq_div_mul]

theorem Chip.cycle_eq_zero_iff (c : Chip) : c.cycle = 0 ↔ c.tb.ft % 2 = 0 ∧ c.ftNs % c.dealNs = 0 := by
  rw [Chip.cycle, Chip.ftNs, Chip.dealCycles_eq, Nat.mod_mul]
  omega

/-- Settles O14: a Deal is twice as many core cycles as its period is ns, so dividing FT by the first is halving it and
then dividing by the second, for the quotient and for the remainder. -/
theorem dealNumberOfFabricTime : Obligations.DealNumberOfFabricTime :=
  fun c => ⟨c.deal_eq_ftNs_div, c.cycle_eq_zero_iff⟩

/-! ### The timestamp queues (R48, R49) -/

/-- The part with another transmit timestamp queue in half `h`. -/
def Chip.setStamps (h : Nat) (v : StampQueue) (c : Chip) : Chip := { c with tb := { c.tb with tsq := c.tb.tsq.set h v } }

theorem Chip.popStamp_nil {c : Chip} {h : Nat} (he : (c.tb.tsq.get h).entries = []) :
    c.popStamp h = (c.setStamps h ⟨[], 0⟩).log (.readData 0) := by
  simp [Chip.popStamp, Chip.setStamps, he]

theorem Chip.popStamp_cons {c : Chip} {h : Nat} {x : Stamp} {l : List Stamp} (he : (c.tb.tsq.get h).entries = x :: l) :
    c.popStamp h = (c.setStamps h ⟨l, x.lo⟩).log (.readData x.hi) := by
  simp [Chip.popStamp, Chip.setStamps, he]

/-- The register at 0x108 of half 0 and at 0x128 of half 1 is TB_TSQh_LO. -/
theorem Chip.tbReg_tsqLo (c : Chip) (r : Requester) {h : Nat} (hh : h < 2) :
    c.tbReg r (0x108 + 0x20 * h) = some (c.tb.tsq.get h).latchedLo := by
  obtain rfl | rfl : h = 0 ∨ h = 1 := by omega
  · rfl
  · rfl

theorem Chip.sameBut_log_setStamps (c : Chip) (h : Nat) (v : StampQueue) (x : Sent) :
    SameBut [.stamps, .sent] c ((c.setStamps h v).log x) := by
  intro p hp
  cases p
  case stamps => simp at hp
  case sent => simp at hp
  case firmware => exact ⟨rfl, rfl⟩
  all_goals rfl

theorem exec_tsqPop_of_up {c : Chip} (up : c.Up) (q : List Instr) {h : Nat} (hh : h < 2) :
    exec (.tsqPop h) ⟨c, q⟩ = .next ⟨c.popStamp h, q⟩ := by
  show State.run (okHalf h) (Chip.fabric (Chip.popStamp h)) ⟨c, q⟩ = _
  simp [State.run, okHalf, hh, up.fabric_eq]

/-- A read of TB_TSQh_HI that leaves `v` in the queue of its half and gives the word `w`: what the part then is. -/
theorem does_tsqPop {c : Chip} (up : c.Up) (q : List Instr) (r : Requester) {h : Nat} (hh : h < 2) {v : StampQueue} {w : Nat}
    (hpop : c.popStamp h = (c.setStamps h v).log (.readData w)) :
    Does (.tsqPop h) ⟨c, q⟩ fun t => (t.tb.tsq.get h).entries = v.entries ∧ t.sent = .readData w :: c.sent ∧
      t.tbReg r (0x108 + 0x20 * h) = some v.latchedLo ∧ t.tb.tsq.get (1 - h) = c.tb.tsq.get (1 - h) ∧
      SameBut [.stamps, .sent] c t := by
  refine ⟨c.popStamp h, exec_tsqPop_of_up up q hh, ?_⟩
  have own : ((c.setStamps h v).log (.readData w)).tb.tsq.get h = v := Halves.get_set_same h v c.tb.tsq
  rw [hpop]
  exact ⟨by rw [own], rfl, by rw [Chip.tbReg_tsqLo _ r hh, own], Halves.get_set_other hh v c.tb.tsq,
    c.sameBut_log_setStamps h v _⟩

/-- Settles O15: a queue with entries gives up its head and latches that entry's low word; an empty one latches zero. -/
theorem stampReadPopsQueue : Obligations.StampReadPopsQueue :=
  fun _ q _ r up hh => ⟨fun _ _ he => does_tsqPop up q r hh (Chip.popStamp_cons he),
    fun he => does_tsqPop up q r hh (Chip.popStamp_nil he)⟩

end Sys2Proof.Machine

/-! SUPPORT. Footprints: the pieces of the part that an operation can change, and for each operation of the model the rule
that everything outside its footprint stays. -/

namespace Sys2Proof.Machine

set_option Elab.async false

open Sys2Proof

/-! ### Footprints -/

/-- Pieces of the part. `clock` is what time moves of the time base, `stamps` its timestamp queues and `base` its rest; `events`
is the event state with the vectors, `ctr` the counters, and `stew` and `regs` the rest of the Steward and of the registers. -/
structure Foot where
  (fuses flash caps clock base stamps pkg light ports nest xbar sch roll kit loom bench gate sv lard hbm twin : Bool := false)
  (mbx rung waiting firmware events unrecorded stew ctr freeze regs boot due sent free : Bool := false)

/-- Every piece of the first is one of the second. -/
def Foot.le (a b : Foot) : Bool :=
  a.fuses ≤ b.fuses && a.flash ≤ b.flash && a.caps ≤ b.caps && a.clock ≤ b.clock && a.base ≤ b.base && a.stamps ≤ b.stamps &&
  a.pkg ≤ b.pkg && a.light ≤ b.light && a.ports ≤ b.ports && a.nest ≤ b.nest && a.xbar ≤ b.xbar && a.sch ≤ b.sch &&
  a.roll ≤ b.roll && a.kit ≤ b.kit && a.loom ≤ b.loom && a.bench ≤ b.bench && a.gate ≤ b.gate && a.sv ≤ b.sv &&
  a.lard ≤ b.lard && a.hbm ≤ b.hbm && a.twin ≤ b.twin && a.mbx ≤ b.mbx && a.rung ≤ b.rung && a.waiting ≤ b.waiting &&
  a.firmware ≤ b.firmware && a.events ≤ b.events && a.unrecorded ≤ b.unrecorded && a.stew ≤ b.stew && a.ctr ≤ b.ctr &&
  a.freeze ≤ b.freeze && a.regs ≤ b.regs && a.boot ≤ b.boot && a.due ≤ b.due && a.sent ≤ b.sent && a.free ≤ b.free

/-- What the time base shows outside of a footprint. -/
@[simp] def TimeBase.outside (F : Foot) (t : TimeBase) : TimeBase :=
  { (if F.base then {} else t) with
    ft := if F.clock then 0 else t.ft
    lt := if F.clock then 0 else t.lt
    age := if F.clock then 0 else t.age
    st := if F.clock then 0 else t.st
    pt := if F.clock then 0 else t.pt
    ftFrac := if F.clock then 0 else t.ftFrac
    ptFrac := if F.clock then 0 else t.ptFrac
    tsq := if F.stamps then ⟨{}, {}⟩ else t.tsq }

@[simp] def Looms.outside (F : Foot) (x : Looms) : Looms :=
  { (if F.loom then {} else x) with bench := if F.bench then [] else x.bench }

@[simp] def Larder.outside (F : Foot) (x : Larder) : Larder :=
  { (if F.lard then {} else x) with hbm := if F.hbm then [] else x.hbm }

@[simp] def Steward.outside (F : Foot) (x : Steward) : Steward :=
  { (if F.stew then {} else x) with
    mbx := if F.mbx then [] else x.mbx
    rung := if F.rung then [] else x.rung
    waiting := if F.waiting then [] else x.waiting
    phase := if F.firmware then .rom else x.phase
    bootReady := if F.firmware then false else x.bootReady
    events := if F.events then {} else x.events
    pcie := if F.events then {} else x.pcie
    unrecorded := if F.unrecorded then [] else x.unrecorded }

@[simp] def Regs.outside (F : Foot) (x : Regs) : Regs :=
  { (if F.regs then {} else x) with
    ctr := if F.ctr then [] else x.ctr
    prog := if F.ctr then [] else x.prog
    bw := if F.ctr then [] else x.bw
    freeze := if F.freeze then {} else x.freeze }

/-- The part with every piece of a footprint blotted out: what it shows outside of it. -/
def Chip.outside (F : Foot) (c : Chip) : Chip where
  fuses := if F.fuses then {} else c.fuses
  flash := if F.flash then {} else c.flash
  caps := if F.caps then capsOf 0 else c.caps
  tb := c.tb.outside F
  pkg := if F.pkg then {} else c.pkg
  light := if F.light then {} else c.light
  ports := if F.ports then {} else c.ports
  nest := if F.nest then {} else c.nest
  xbar := if F.xbar then {} else c.xbar
  sch := if F.sch then {} else c.sch
  roll := if F.roll then ⟨{}, {}⟩ else c.roll
  kit := if F.kit then {} else c.kit
  loom := c.loom.outside F
  gate := if F.gate then {} else c.gate
  sv := if F.sv then {} else c.sv
  lard := c.lard.outside F
  twin := if F.twin then {} else c.twin
  stew := c.stew.outside F
  regs := c.regs.outside F
  boot := if F.boot then {} else c.boot
  due := if F.due then [] else c.due
  sent := if F.sent then [] else c.sent
  free := if F.free then 0 else c.free

/-- Blotting out a piece of a footprint after one of a smaller footprint. -/
theorem blot_blot {a b : Bool} (h : a ≤ b) {α : Type} (d x : α) :
    (if b then d else if a then d else x) = if b then d else x := by
  cases b
  · cases a
    · rfl
    · exact absurd h (by decide)
  · rfl

theorem Bool.eq_true_or_eq_false_of_le {a b : Bool} (h : a ≤ b) : b = true ∨ a = false ∧ b = false := by
  revert h; cases a <;> cases b <;> decide

theorem Chip.outside_outside {F G : Foot} (h : F.le G) (c : Chip) : (c.outside F).outside G = c.outside G := by
  simp only [Foot.le, Bool.and_eq_true, decide_eq_true_eq] at h
  have hb := Bool.eq_true_or_eq_false_of_le (a := F.base) (b := G.base) (by simp only [h])
  have hl := Bool.eq_true_or_eq_false_of_le (a := F.loom) (b := G.loom) (by simp only [h])
  have hd := Bool.eq_true_or_eq_false_of_le (a := F.lard) (b := G.lard) (by simp only [h])
  have hs := Bool.eq_true_or_eq_false_of_le (a := F.stew) (b := G.stew) (by simp only [h])
  have hr := Bool.eq_true_or_eq_false_of_le (a := F.regs) (b := G.regs) (by simp only [h])
  simp only [Chip.outside, TimeBase.outside, Looms.outside, Larder.outside, Steward.outside, Regs.outside,
    blot_blot, h, Chip.mk.injEq, true_and, and_true]
  refine ⟨?_, ?_, ?_, ?_, ?_⟩
  · rcases hb with e | ⟨e, e'⟩ <;> simp only [*, if_true, if_false, Bool.false_eq_true]
  · rcases hl with e | ⟨e, e'⟩ <;> simp only [*, if_true, if_false, Bool.false_eq_true]
  · rcases hd with e | ⟨e, e'⟩ <;> simp only [*, if_true, if_false, Bool.false_eq_true]
  · rcases hs with e | ⟨e, e'⟩ <;> simp only [*, if_true, if_false, Bool.false_eq_true]
  · rcases hr with e | ⟨e, e'⟩ <;> simp only [*, if_true, if_false, Bool.false_eq_true]

theorem Foot.le_trans {F G H : Foot} (h : F.le G) (h' : G.le H) : F.le H := by
  simp only [Foot.le, Bool.and_eq_true, decide_eq_true_eq, Bool.le_iff_imp] at h h' ⊢
  and_intros <;> intro e <;> simp only [h, h', e]

theorem Chip.outside_mono {F G : Foot} (h : F.le G) {a b : Chip} (e : a.outside F = b.outside F) : a.outside G = b.outside G := by
  rw [← Chip.outside_outside h a, e, Chip.outside_outside h b]

@[simp] theorem Chip.outside_ite {F : Foot} (p : Prop) [Decidable p] (a b : Chip) :
    (if p then a else b).outside F = if p then a.outside F else b.outside F := apply_ite _ _ _ _

theorem blot_eq {b : Bool} (h : b = true) {α : Type} (d x y : α) : (if b then d else x) = if b then d else y :=
  (if_pos h).trans (if_pos h).symm

/-- A loop whose every turn keeps what is outside. -/
@[simp] theorem foldl_outside {α : Type} {F : Foot} {f : Chip → α → Chip} (l : List α) (c : Chip)
    (hf : ∀ c x, (f c x).outside F = c.outside F) : (l.foldl f c).outside F = c.outside F := by
  induction l generalizing c with
  | nil => rfl
  | cons x l ih => rw [List.foldl_cons, ih, hf]

@[simp] theorem Chip.outside_with_fuses {F : Foot} (c : Chip) (x) (h : F.fuses) :
    ({ c with fuses := x } : Chip).outside F = c.outside F :=
  congrArg (fun y => { c.outside F with fuses := y }) (blot_eq h _ x _)
@[simp] theorem Chip.outside_with_flash {F : Foot} (c : Chip) (x) (h : F.flash) :
    ({ c with flash := x } : Chip).outside F = c.outside F :=
  congrArg (fun y => { c.outside F with flash := y }) (blot_eq h _ x _)
@[simp] theorem Chip.outside_with_caps {F : Foot} (c : Chip) (x) (h : F.caps) :
    ({ c with caps := x } : Chip).outside F = c.outside F :=
  congrArg (fun y => { c.outside F with caps := y }) (blot_eq h _ x _)
@[simp] theorem Chip.outside_with_pkg {F : Foot} (c : Chip) (x) (h : F.pkg) :
    ({ c with pkg := x } : Chip).outside F = c.outside F :=
  congrArg (fun y => { c.outside F with pkg := y }) (blot_eq h _ x _)
@[simp] theorem Chip.outside_with_light {F : Foot} (c : Chip) (x) (h : F.light) :
    ({ c with light := x } : Chip).outside F = c.outside F :=
  congrArg (fun y => { c.outside F with light := y }) (blot_eq h _ x _)
@[simp] theorem Chip.outside_with_ports {F : Foot} (c : Chip) (x) (h : F.ports) :
    ({ c with ports := x } : Chip).outside F = c.outside F :=
  congrArg (fun y => { c.outside F with ports := y }) (blot_eq h _ x _)
@[simp] theorem Chip.outside_with_nest {F : Foot} (c : Chip) (x) (h : F.nest) :
    ({ c with nest := x } : Chip).outside F = c.outside F :=
  congrArg (fun y => { c.outside F with nest := y }) (blot_eq h _ x _)
@[simp] theorem Chip.outside_with_xbar {F : Foot} (c : Chip) (x) (h : F.xbar) :
    ({ c with xbar := x } : Chip).outside F = c.outside F :=
  congrArg (fun y => { c.outside F with xbar := y }) (blot_eq h _ x _)
@[simp] theorem Chip.outside_with_sch {F : Foot} (c : Chip) (x) (h : F.sch) :
    ({ c with sch := x } : Chip).outside F = c.outside F :=
  congrArg (fun y => { c.outside F with sch := y }) (blot_eq h _ x _)
@[simp] theorem Chip.outside_with_roll {F : Foot} (c : Chip) (x) (h : F.roll) :
    ({ c with roll := x } : Chip).outside F = c.outside F :=
  congrArg (fun y => { c.outside F with roll := y }) (blot_eq h _ x _)
@[simp] theorem Chip.outside_with_kit {F : Foot} (c : Chip) (x) (h : F.kit) :
    ({ c with kit := x } : Chip).outside F = c.outside F :=
  congrArg (fun y => { c.outside F with kit := y }) (blot_eq h _ x _)
@[simp] theorem Chip.outside_with_gate {F : Foot} (c : Chip) (x) (h : F.gate) :
    ({ c with gate := x } : Chip).outside F = c.outside F :=
  congrArg (fun y => { c.outside F with gate := y }) (blot_eq h _ x _)
@[simp] theorem Chip.outside_with_sv {F : Foot} (c : Chip) (x) (h : F.sv) :
    ({ c with sv := x } : Chip).outside F = c.outside F :=
  congrArg (fun y => { c.outside F with sv := y }) (blot_eq h _ x _)
@[simp] theorem Chip.outside_with_twin {F : Foot} (c : Chip) (x) (h : F.twin) :
    ({ c with twin := x } : Chip).outside F = c.outside F :=
  congrArg (fun y => { c.outside F with twin := y }) (blot_eq h _ x _)
@[simp] theorem Chip.outside_with_boot {F : Foot} (c : Chip) (x) (h : F.boot) :
    ({ c with boot := x } : Chip).outside F = c.outside F :=
  congrArg (fun y => { c.outside F with boot := y }) (blot_eq h _ x _)
@[simp] theorem Chip.outside_with_due {F : Foot} (c : Chip) (x) (h : F.due) :
    ({ c with due := x } : Chip).outside F = c.outside F :=
  congrArg (fun y => { c.outside F with due := y }) (blot_eq h _ x _)
@[simp] theorem Chip.outside_with_sent {F : Foot} (c : Chip) (x) (h : F.sent) :
    ({ c with sent := x } : Chip).outside F = c.outside F :=
  congrArg (fun y => { c.outside F with sent := y }) (blot_eq h _ x _)
@[simp] theorem Chip.outside_with_free {F : Foot} (c : Chip) (x) (h : F.free) :
    ({ c with free := x } : Chip).outside F = c.outside F :=
  congrArg (fun y => { c.outside F with free := y }) (blot_eq h _ x _)
theorem Chip.outside_of_tb {F : Foot} (c : Chip) (x : TimeBase) (h : x.outside F = c.tb.outside F) :
    ({ c with tb := x } : Chip).outside F = c.outside F :=
  congrArg (fun y => { c.outside F with tb := y }) h
theorem Chip.outside_of_loom {F : Foot} (c : Chip) (x : Looms) (h : x.outside F = c.loom.outside F) :
    ({ c with loom := x } : Chip).outside F = c.outside F :=
  congrArg (fun y => { c.outside F with loom := y }) h
theorem Chip.outside_of_lard {F : Foot} (c : Chip) (x : Larder) (h : x.outside F = c.lard.outside F) :
    ({ c with lard := x } : Chip).outside F = c.outside F :=
  congrArg (fun y => { c.outside F with lard := y }) h
theorem Chip.outside_of_stew {F : Foot} (c : Chip) (x : Steward) (h : x.outside F = c.stew.outside F) :
    ({ c with stew := x } : Chip).outside F = c.outside F :=
  congrArg (fun y => { c.outside F with stew := y }) h
theorem Chip.outside_of_regs {F : Foot} (c : Chip) (x : Regs) (h : x.outside F = c.regs.outside F) :
    ({ c with regs := x } : Chip).outside F = c.outside F :=
  congrArg (fun y => { c.outside F with regs := y }) h

/-! One piece of a part of the state alone. -/

@[simp] theorem Chip.outside_with_stamps {F : Foot} (c : Chip) (x) (h : F.stamps) :
    ({ c with tb := { c.tb with tsq := x } } : Chip).outside F = c.outside F :=
  Chip.outside_of_tb c _ (by unfold TimeBase.outside; rw [if_pos h, if_pos h]; split <;> rfl)
@[simp] theorem Chip.outside_with_clock {F : Foot} (c : Chip) (x1 x2 x3 x4 x5 x6 x7) (h : F.clock) :
    ({ c with tb := { c.tb with ft := x1, lt := x2, age := x3, st := x4, pt := x5, ftFrac := x6, ptFrac := x7 } } : Chip).outside F =
    c.outside F :=
  Chip.outside_of_tb c _ (by unfold TimeBase.outside; rw [if_pos h, if_pos h]; split <;> rfl)
@[simp] theorem Chip.outside_with_base {F : Foot} (c : Chip) (x : TimeBase) (h : F.base) (hft : x.ft = c.tb.ft)
    (hlt : x.lt = c.tb.lt) (hage : x.age = c.tb.age) (hst : x.st = c.tb.st) (hpt : x.pt = c.tb.pt)
    (hftFrac : x.ftFrac = c.tb.ftFrac) (hptFrac : x.ptFrac = c.tb.ptFrac) (htsq : x.tsq = c.tb.tsq) :
    ({ c with tb := x } : Chip).outside F = c.outside F := by
  simp only [Chip.outside, TimeBase.outside, h, if_true, hft, hlt, hage, hst, hpt, hftFrac, hptFrac, htsq]
@[simp] theorem Chip.outside_with_looms {F : Foot} (c : Chip) (x : Looms) (h : F.loom) (hbench : x.bench = c.loom.bench) :
    ({ c with loom := x } : Chip).outside F = c.outside F := by
  simp only [Chip.outside, Looms.outside, h, if_true, hbench]
@[simp] theorem Chip.outside_with_larder {F : Foot} (c : Chip) (x : Larder) (h : F.lard) (hhbm : x.hbm = c.lard.hbm) :
    ({ c with lard := x } : Chip).outside F = c.outside F := by
  simp only [Chip.outside, Larder.outside, h, if_true, hhbm]
@[simp] theorem Chip.outside_with_mbx {F : Foot} (c : Chip) (x) (h : F.mbx) :
    ({ c with stew := { c.stew with mbx := x } } : Chip).outside F = c.outside F :=
  Chip.outside_of_stew c _ (by unfold Steward.outside; rw [if_pos h, if_pos h]; split <;> rfl)
@[simp] theorem Chip.outside_with_rung {F : Foot} (c : Chip) (x) (h : F.rung) :
    ({ c with stew := { c.stew with rung := x } } : Chip).outside F = c.outside F :=
  Chip.outside_of_stew c _ (by unfold Steward.outside; rw [if_pos h, if_pos h]; split <;> rfl)
@[simp] theorem Chip.outside_with_waiting {F : Foot} (c : Chip) (x) (h : F.waiting) :
    ({ c with stew := { c.stew with waiting := x } } : Chip).outside F = c.outside F :=
  Chip.outside_of_stew c _ (by unfold Steward.outside; rw [if_pos h, if_pos h]; split <;> rfl)
@[simp] theorem Chip.outside_with_unrecorded {F : Foot} (c : Chip) (x) (h : F.unrecorded) :
    ({ c with stew := { c.stew with unrecorded := x } } : Chip).outside F = c.outside F :=
  Chip.outside_of_stew c _ (by unfold Steward.outside; rw [if_pos h, if_pos h]; split <;> rfl)
@[simp] theorem Chip.outside_with_events {F : Foot} (c : Chip) (x) (h : F.events) :
    ({ c with stew := { c.stew with events := x } } : Chip).outside F = c.outside F :=
  Chip.outside_of_stew c _ (by unfold Steward.outside; rw [if_pos h, if_pos h]; split <;> rfl)
@[simp] theorem Chip.outside_with_pcie {F : Foot} (c : Chip) (x) (h : F.events) :
    ({ c with stew := { c.stew with pcie := x } } : Chip).outside F = c.outside F :=
  Chip.outside_of_stew c _ (by unfold Steward.outside; rw [if_pos h, if_pos h]; split <;> rfl)
@[simp] theorem Chip.outside_with_steward {F : Foot} (c : Chip) (x : Steward) (h : F.stew) (hmbx : x.mbx = c.stew.mbx)
    (hrung : x.rung = c.stew.rung) (hwaiting : x.waiting = c.stew.waiting) (hphase : x.phase = c.stew.phase) (hbootReady : x.bootReady = c.stew.bootReady) (hevents : x.events = c.stew.events) (hpcie : x.pcie = c.stew.pcie) (hunrecorded : x.unrecorded = c.stew.unrecorded) :
    ({ c with stew := x } : Chip).outside F = c.outside F := by
  simp only [Chip.outside, Steward.outside, h, if_true, hmbx, hrung, hwaiting, hphase, hbootReady, hevents, hpcie,
    hunrecorded]
@[simp] theorem Chip.outside_with_ctr {F : Foot} (c : Chip) (x) (h : F.ctr) :
    ({ c with regs := { c.regs with ctr := x } } : Chip).outside F = c.outside F :=
  Chip.outside_of_regs c _ (by unfold Regs.outside; rw [if_pos h, if_pos h]; split <;> rfl)
@[simp] theorem Chip.outside_with_prog {F : Foot} (c : Chip) (x) (h : F.ctr) :
    ({ c with regs := { c.regs with prog := x } } : Chip).outside F = c.outside F :=
  Chip.outside_of_regs c _ (by unfold Regs.outside; rw [if_pos h, if_pos h]; split <;> rfl)
@[simp] theorem Chip.outside_with_bw {F : Foot} (c : Chip) (x) (h : F.ctr) :
    ({ c with regs := { c.regs with bw := x } } : Chip).outside F = c.outside F :=
  Chip.outside_of_regs c _ (by unfold Regs.outside; rw [if_pos h, if_pos h]; split <;> rfl)
@[simp] theorem Chip.outside_with_freeze {F : Foot} (c : Chip) (x) (h : F.freeze) :
    ({ c with regs := { c.regs with freeze := x } } : Chip).outside F = c.outside F :=
  Chip.outside_of_regs c _ (by unfold Regs.outside; rw [if_pos h, if_pos h]; split <;> rfl)
@[simp] theorem Chip.outside_with_registers {F : Foot} (c : Chip) (x : Regs) (h : F.regs) (hctr : x.ctr = c.regs.ctr) (hprog : x.prog = c.regs.prog) (hbw : x.bw = c.regs.bw) (hfreeze : x.freeze = c.regs.freeze) :
    ({ c with regs := x } : Chip).outside F = c.outside F := by
  simp only [Chip.outside, Regs.outside, h, if_true, hctr, hprog, hbw, hfreeze]

/-! Several pieces of it at once: the record is shown as before. -/

@[simp] theorem Chip.outside_with_tb {F : Foot} (c : Chip) (x : TimeBase) (h : x.outside F = c.tb.outside F) :
    ({ c with tb := x } : Chip).outside F = c.outside F := Chip.outside_of_tb c x h
@[simp] theorem Chip.outside_with_loom {F : Foot} (c : Chip) (x : Looms) (h : x.outside F = c.loom.outside F) :
    ({ c with loom := x } : Chip).outside F = c.outside F := Chip.outside_of_loom c x h
@[simp] theorem Chip.outside_with_lard {F : Foot} (c : Chip) (x : Larder) (h : x.outside F = c.lard.outside F) :
    ({ c with lard := x } : Chip).outside F = c.outside F := Chip.outside_of_lard c x h
@[simp] theorem Chip.outside_with_stew {F : Foot} (c : Chip) (x : Steward) (h : x.outside F = c.stew.outside F) :
    ({ c with stew := x } : Chip).outside F = c.outside F := Chip.outside_of_stew c x h
@[simp] theorem Chip.outside_with_regs {F : Foot} (c : Chip) (x : Regs) (h : x.outside F = c.regs.outside F) :
    ({ c with regs := x } : Chip).outside F = c.outside F := Chip.outside_of_regs c x h

@[simp] theorem Chip.outside_fst_ite {α : Type} {F : Foot} (p : Prop) [Decidable p] (a b : Chip × α) :
    (if p then a else b).1.outside F = if p then a.1.outside F else b.1.outside F := by split <;> rfl

@[simp] theorem Chip.outside_snd_ite {α : Type} {F : Foot} (p : Prop) [Decidable p] (a b : α × Chip) :
    (if p then a else b).2.outside F = if p then a.2.outside F else b.2.outside F := by split <;> rfl

@[simp] theorem foldl_fst_outside {α β : Type} {F : Foot} {f : Chip × β → α → Chip × β} (l : List α) (r : Chip × β)
    (hf : ∀ r x, (f r x).1.outside F = r.1.outside F) : (l.foldl f r).1.outside F = r.1.outside F := by
  induction l generalizing r with
  | nil => rfl
  | cons x l ih => rw [List.foldl_cons, ih, hf]

@[simp] theorem foldl_snd_outside {α β : Type} {F : Foot} {f : β × Chip → α → β × Chip} (l : List α) (r : β × Chip)
    (hf : ∀ r x, (f r x).2.outside F = r.2.outside F) : (l.foldl f r).2.outside F = r.2.outside F := by
  induction l generalizing r with
  | nil => rfl
  | cons x l ih => rw [List.foldl_cons, ih, hf]

/-- What an operation with a result beside the part leaves outside, read off the pair it answers. -/
theorem Chip.outside_of_fst {α : Type} {F : Foot} {c t : Chip} {r : Chip × α} {o : α} (e : r = (t, o))
    (h : r.1.outside F = c.outside F) : t.outside F = c.outside F := by rwa [e] at h

theorem Chip.outside_of_snd {α : Type} {F : Foot} {c t : Chip} {r : α × Chip} {o : α} (e : r = (o, t))
    (h : r.2.outside F = c.outside F) : t.outside F = c.outside F := by rwa [e] at h
@[simp] theorem Chip.outside_with_stew_boot {F : Foot} (c : Chip) (x : Steward) (y)
    (hx : x.outside F = c.stew.outside F) (hy : F.boot) :
    ({ c with stew := x, boot := y } : Chip).outside F = c.outside F :=
  (Chip.outside_with_boot { c with stew := x } y hy).trans (Chip.outside_with_stew c x hx)
@[simp] theorem Chip.outside_with_caps_stew {F : Foot} (c : Chip) (x) (y : Steward)
    (hx : F.caps) (hy : y.outside F = c.stew.outside F) :
    ({ c with caps := x, stew := y } : Chip).outside F = c.outside F :=
  (Chip.outside_with_stew { c with caps := x } y hy).trans (Chip.outside_with_caps c x hx)
@[simp] theorem Chip.outside_with_regs_roll {F : Foot} (c : Chip) (x : Regs) (y)
    (hx : x.outside F = c.regs.outside F) (hy : F.roll) :
    ({ c with regs := x, roll := y } : Chip).outside F = c.outside F :=
  (Chip.outside_with_roll { c with regs := x } y hy).trans (Chip.outside_with_regs c x hx)
@[simp] theorem Chip.outside_with_flash_stew {F : Foot} (c : Chip) (x) (y : Steward)
    (hx : F.flash) (hy : y.outside F = c.stew.outside F) :
    ({ c with flash := x, stew := y } : Chip).outside F = c.outside F :=
  (Chip.outside_with_stew { c with flash := x } y hy).trans (Chip.outside_with_flash c x hx)

/-- What raising an event or an interrupt moves. -/
@[reducible] def Foot.event : Foot := { events := true, ctr := true, sent := true }

/-- What originating a packet moves. -/
@[reducible] def Foot.packet : Foot :=
  { ports := true, nest := true, xbar := true, sch := true, events := true, ctr := true, sent := true, free := true }

/-- What sending a packet moves. -/
@[reducible] def Foot.sending : Foot :=
  { stamps := true, ports := true, nest := true, sch := true, events := true, ctr := true, sent := true }

/-- What the arrival of a packet or a fault moves of ports and queues. -/
@[reducible] def Foot.reach : Foot :=
  { stamps := true, light := true, ports := true, nest := true, xbar := true, sch := true, events := true,
    unrecorded := true, ctr := true, due := true, sent := true }

/-- What a change that waited for a boundary moves. -/
@[reducible] def Foot.change : Foot :=
  { flash := true, caps := true, clock := true, base := true, stamps := true, light := true, ports := true,
    nest := true, xbar := true, sch := true, roll := true, kit := true, loom := true, bench := true, gate := true,
    sv := true, lard := true, twin := true, mbx := true, waiting := true, events := true, unrecorded := true,
    stew := true, ctr := true, regs := true, boot := true, due := true, sent := true, free := true }

/-! ### What the operations of Ops leave -/

@[simp] theorem Chip.log_outside (x) (c : Chip)
    {F : Foot} (hF : Foot.le { sent := true } F) : (Chip.log x c).outside F = c.outside F :=
  Chip.outside_mono hF rfl

@[simp] theorem Chip.draw_outside (c : Chip)
    {F : Foot} (hF : Foot.le { free := true } F) : (Chip.draw c).2.outside F = c.outside F :=
  Chip.outside_mono hF rfl

@[simp] theorem Chip.schedule_outside (deal x) (c : Chip)
    {F : Foot} (hF : Foot.le { due := true } F) : (Chip.schedule deal x c).outside F = c.outside F :=
  Chip.outside_mono hF rfl

@[simp] theorem Chip.bump_outside (f n) (c : Chip)
    {F : Foot} (hF : Foot.le { ctr := true } F) : (Chip.bump f n c).outside F = c.outside F :=
  Chip.outside_mono hF (by unfold Chip.bump; split <;> rfl)

@[simp] theorem Chip.stick_outside (off bit) (c : Chip)
    {F : Foot} (hF : Foot.le { ctr := true } F) : (Chip.stick off bit c).outside F = c.outside F :=
  Chip.outside_mono hF rfl

@[simp] theorem Chip.clearSticky_outside (off mask) (c : Chip)
    {F : Foot} (hF : Foot.le { ctr := true } F) : (Chip.clearSticky off mask c).outside F = c.outside F :=
  Chip.outside_mono hF rfl

@[simp] theorem Chip.unstick_outside (off bit) (c : Chip)
    {F : Foot} (hF : Foot.le { ctr := true } F) : (Chip.unstick off bit c).outside F = c.outside F :=
  Chip.outside_mono hF rfl

@[simp] theorem Chip.clearCounters_outside (off) (c : Chip)
    {F : Foot} (hF : Foot.le { ctr := true } F) : (Chip.clearCounters off c).outside F = c.outside F :=
  Chip.outside_mono hF rfl

@[simp] theorem Chip.occur_outside (block src filt cls n) (c : Chip)
    {F : Foot} (hF : Foot.le { ctr := true } F) : (Chip.occur block src filt cls n c).outside F = c.outside F :=
  Chip.outside_mono hF (by simp +decide [Chip.occur])

@[simp] theorem Chip.countClocks_outside (age lt) (c : Chip)
    {F : Foot} (hF : Foot.le { ctr := true } F) : (Chip.countClocks age lt c).outside F = c.outside F :=
  Chip.outside_mono hF (by simp +decide [Chip.countClocks])

@[simp] theorem Chip.pulse_outside (n) (c : Chip)
    {F : Foot} (hF : Foot.le { sent := true } F) : (Chip.pulse n c).outside F = c.outside F :=
  Chip.outside_mono hF (by simp +decide [Chip.pulse])

@[simp] theorem Chip.pass_outside (ft lt) (c : Chip)
    {F : Foot} (hF : Foot.le { clock := true, ctr := true, sent := true } F) : (Chip.pass ft lt c).outside F = c.outside F :=
  Chip.outside_mono hF (by simp +decide [Chip.pass, TimeBase.runPt]; split <;> simp +decide)

@[simp] theorem Chip.advance_outside (n) (c : Chip)
    {F : Foot} (hF : Foot.le { clock := true, ctr := true, sent := true } F) : (Chip.advance n c).outside F = c.outside F :=
  Chip.outside_mono hF (by simp +decide [Chip.advance])

@[simp] theorem Chip.advanceTo_outside (cycle) (c : Chip)
    {F : Foot} (hF : Foot.le { clock := true, ctr := true, sent := true } F) :
    (Chip.advanceTo cycle c).outside F = c.outside F :=
  Chip.outside_mono hF (by simp +decide [Chip.advanceTo])

@[simp] theorem Chip.advanceFrozen_outside (n) (c : Chip)
    {F : Foot} (hF : Foot.le { clock := true, ctr := true } F) : (Chip.advanceFrozen n c).outside F = c.outside F :=
  Chip.outside_mono hF (by simp +decide [Chip.advanceFrozen, TimeBase.runPt]; split <;> simp +decide)

@[simp] theorem Chip.signal_outside (v) (c : Chip)
    {F : Foot} (hF : Foot.le { events := true, sent := true } F) : (Chip.signal v c).outside F = c.outside F :=
  Chip.outside_mono hF (by unfold Chip.signal; split <;> rfl)

@[simp] theorem Chip.setEvents_outside (e) (c : Chip)
    {F : Foot} (hF : Foot.le { events := true } F) : (Chip.setEvents e c).outside F = c.outside F :=
  Chip.outside_mono hF rfl

@[simp] theorem Chip.writeRing_outside (r) (c : Chip)
    {F : Foot} (hF : Foot.le { events := true, sent := true } F) : (Chip.writeRing r c).outside F = c.outside F :=
  Chip.outside_mono hF (by simp +decide [Chip.writeRing])

@[simp] theorem Chip.drainDie_outside (n : Nat) (c : Chip)
    {F : Foot} (hF : Foot.le { events := true, sent := true } F) : (Chip.drainDie n c).outside F = c.outside F :=
  Chip.outside_mono hF (by
  induction n generalizing c with
  | zero => rfl
  | succ n ih => simp only [Chip.drainDie]; (repeat' split) <;> simp +decide [ih])

@[simp] theorem Chip.storeRecord_outside (r) (c : Chip)
    {F : Foot} (hF : Foot.le Foot.event F) : (Chip.storeRecord r c).outside F = c.outside F :=
  Chip.outside_mono hF (by simp +decide [Chip.storeRecord])

@[simp] theorem Chip.record_outside (code cls args) (c : Chip)
    {F : Foot} (hF : Foot.le Foot.event F) : (Chip.record code cls args c).outside F = c.outside F :=
  Chip.outside_mono hF (by simp +decide [Chip.record])

@[simp] theorem Chip.raise_outside (code cls args) (c : Chip)
    {F : Foot} (hF : Foot.le Foot.event F) : (Chip.raise code cls args c).outside F = c.outside F :=
  Chip.outside_mono hF (by simp +decide [Chip.raise])

@[simp] theorem Chip.coalesce_outside (c : Chip)
    {F : Foot} (hF : Foot.le Foot.event F) : (Chip.coalesce c).outside F = c.outside F :=
  Chip.outside_mono hF (by simp +decide [Chip.coalesce])

@[simp] theorem Chip.live_outside {f : Chip → Chip} (c : Chip) {F : Foot} (hf : ∀ c, (f c).outside F = c.outside F) :
    (Chip.live f c).outside F = c.outside F := by simp [Chip.live, hf]

@[simp] theorem Chip.fabric_outside {f : Chip → Chip} (c : Chip) {F : Foot} (hf : ∀ c, (f c).outside F = c.outside F) :
    (Chip.fabric f c).outside F = c.outside F := by simp [Chip.fabric, hf]

/-! ### What the operations of Net leave -/

@[simp] theorem Chip.setPort_outside (p v) (c : Chip)
    {F : Foot} (hF : Foot.le { ports := true } F) : (Chip.setPort p v c).outside F = c.outside F :=
  Chip.outside_mono hF rfl

@[simp] theorem Chip.setLane_outside (l v) (c : Chip)
    {F : Foot} (hF : Foot.le { light := true } F) : (Chip.setLane l v c).outside F = c.outside F :=
  Chip.outside_mono hF rfl

@[simp] theorem Chip.setQueue_outside (h q k v) (c : Chip)
    {F : Foot} (hF : Foot.le { xbar := true } F) : (Chip.setQueue h q k v c).outside F = c.outside F :=
  Chip.outside_mono hF rfl

@[simp] theorem Chip.setTally_outside (p v) (c : Chip)
    {F : Foot} (hF : Foot.le { nest := true } F) : (Chip.setTally p v c).outside F = c.outside F :=
  Chip.outside_mono hF rfl

@[simp] theorem Chip.dropAt_outside (h q lsb) (c : Chip)
    {F : Foot} (hF : Foot.le { nest := true, ctr := true } F) : (Chip.dropAt h q lsb c).outside F = c.outside F :=
  Chip.outside_mono hF (by unfold Chip.dropAt; split <;> rfl)

@[simp] theorem Chip.setMcastHold_outside (h tag v) (c : Chip)
    {F : Foot} (hF : Foot.le { xbar := true } F) : (Chip.setMcastHold h tag v c).outside F = c.outside F :=
  Chip.outside_mono hF rfl

@[simp] theorem Chip.chargeCopy_outside (h x shared priv) (c : Chip)
    {F : Foot} (hF : Foot.le { xbar := true } F) : (Chip.chargeCopy h x shared priv c).outside F = c.outside F :=
  Chip.outside_mono hF (by simp +decide [Chip.chargeCopy])

@[simp] theorem Chip.countCopy_outside (h x) (c : Chip)
    {F : Foot} (hF : Foot.le { xbar := true } F) : (Chip.countCopy h x c).outside F = c.outside F :=
  Chip.outside_mono hF (by unfold Chip.countCopy; split <;> rfl)

@[simp] theorem Chip.holdCopy_outside (h x shared priv) (c : Chip)
    {F : Foot} (hF : Foot.le { xbar := true } F) : (Chip.holdCopy h x shared priv c).outside F = c.outside F :=
  Chip.outside_mono hF (by simp +decide [Chip.holdCopy])

@[simp] theorem Chip.dropCopy_outside (h tag) (c : Chip)
    {F : Foot} (hF : Foot.le { xbar := true } F) : (Chip.dropCopy h tag c).outside F = c.outside F :=
  Chip.outside_mono hF (by unfold Chip.dropCopy; split <;> rfl)

@[simp] theorem Chip.dropCopies_outside (h l) (c : Chip)
    {F : Foot} (hF : Foot.le { xbar := true } F) : (Chip.dropCopies h l c).outside F = c.outside F :=
  Chip.outside_mono hF (by simp +decide [Chip.dropCopies])

@[simp] theorem Chip.setSched_outside (p v) (c : Chip)
    {F : Foot} (hF : Foot.le { sch := true } F) : (Chip.setSched p v c).outside F = c.outside F :=
  Chip.outside_mono hF rfl

@[simp] theorem Chip.emptied_outside (h q k) (c : Chip)
    {F : Foot} (hF : Foot.le { sch := true } F) : (Chip.emptied h q k c).outside F = c.outside F :=
  Chip.outside_mono hF (by simp +decide [Chip.emptied])

@[simp] theorem Chip.countRx_outside (p n) (c : Chip)
    {F : Foot} (hF : Foot.le { ctr := true } F) : (Chip.countRx p n c).outside F = c.outside F :=
  Chip.outside_mono hF rfl

@[simp] theorem Chip.countTx_outside (p n) (c : Chip)
    {F : Foot} (hF : Foot.le { ctr := true } F) : (Chip.countTx p n c).outside F = c.outside F :=
  Chip.outside_mono hF rfl

@[simp] theorem Chip.pushStamp_outside (h x) (c : Chip)
    {F : Foot} (hF : Foot.le { Foot.event with stamps := true } F) : (Chip.pushStamp h x c).outside F = c.outside F :=
  Chip.outside_mono hF (by simp +decide [Chip.pushStamp])

@[simp] theorem Chip.stampDeparture_outside (p t pkt stamp) (c : Chip)
    {F : Foot} (hF : Foot.le { Foot.event with stamps := true } F) :
    (Chip.stampDeparture p t pkt stamp c).outside F = c.outside F :=
  Chip.outside_mono hF (by simp only [Chip.stampDeparture]; split <;> simp +decide)

@[simp] theorem Chip.countSent_outside (p n pkt) (c : Chip)
    {F : Foot} (hF : Foot.le { ports := true, nest := true, ctr := true } F) :
    (Chip.countSent p n pkt c).outside F = c.outside F :=
  Chip.outside_mono hF (by simp +decide [Chip.countSent])

@[simp] theorem Chip.sendCells_outside (p n x) (c : Chip)
    {F : Foot} (hF : Foot.le { ports := true, nest := true, ctr := true, sent := true } F) :
    (Chip.sendCells p n x c).outside F = c.outside F :=
  Chip.outside_mono hF (by simp +decide [Chip.sendCells])

@[simp] theorem Chip.settlePort_outside (p) (c : Chip)
    {F : Foot} (hF : Foot.le { ports := true, nest := true, sch := true, ctr := true, sent := true } F) :
    (Chip.settlePort p c).outside F = c.outside F :=
  Chip.outside_mono hF (by simp +decide [Chip.settlePort])

@[simp] theorem Chip.depart_outside (p) (c : Chip)
    {F : Foot} (hF : Foot.le { Foot.event with stamps := true, sch := true } F) : (Chip.depart p c).outside F = c.outside F :=
  Chip.outside_mono hF (by simp +decide [Chip.depart])

@[simp] theorem Chip.refit_outside (p) (c : Chip)
    {F : Foot} (hF : Foot.le Foot.sending F) : (Chip.refit p c).outside F = c.outside F :=
  Chip.outside_mono hF (by simp +decide [Chip.refit])

@[simp] theorem Chip.putOut_outside (p x) (c : Chip)
    {F : Foot} (hF : Foot.le { Foot.event with stamps := true, sch := true } F) :
    (Chip.putOut p x c).outside F = c.outside F :=
  Chip.outside_mono hF (by simp +decide [Chip.putOut])

@[simp] theorem Chip.cutSending_outside (p) (c : Chip)
    {F : Foot} (hF : Foot.le Foot.sending F) : (Chip.cutSending p c).outside F = c.outside F :=
  Chip.outside_mono hF (by simp only [Chip.cutSending]; split <;> simp +decide)

@[simp] theorem Chip.endSentAt_outside (c : Chip) (p)
    {F : Foot} (hF : Foot.le { ports := true, nest := true, xbar := true, sch := true, ctr := true, sent := true } F) :
    (Chip.endSentAt c p).outside F = c.outside F :=
  Chip.outside_mono hF (by simp only [Chip.endSentAt]; (repeat' split) <;> simp +decide)

@[simp] theorem Chip.endSent_outside (c : Chip)
    {F : Foot} (hF : Foot.le { ports := true, nest := true, xbar := true, sch := true, ctr := true, sent := true } F) :
    (Chip.endSent c).outside F = c.outside F :=
  Chip.outside_mono hF (by simp +decide [Chip.endSent])

theorem Chip.outside_of_evictOne {h a n : Nat} {c t : Chip} (e : c.evictOne h a = some (n, t)) {F : Foot}
    (hF : Foot.le { nest := true, xbar := true, sch := true, ctr := true } F) : t.outside F = c.outside F := by
  refine Chip.outside_mono hF ?_
  simp only [Chip.evictOne] at e
  split at e
  · cases e
  · split at e
    · cases e
    · cases e
      simp +decide

theorem Chip.outside_of_evicted {h a n k : Nat} {c t : Chip} (e : Chip.evictUpTo h a n k c = some t) {F : Foot}
    (hF : Foot.le { nest := true, xbar := true, sch := true, ctr := true } F) : t.outside F = c.outside F := by
  induction n, k, c using Chip.evictUpTo.induct (h := h) (a := a) with
  | case1 => rw [Chip.evictUpTo] at e; cases e; rfl
  | case2 => rw [Chip.evictUpTo] at e; cases e
  | case3 _ _ _ he => rw [Chip.evictUpTo, he] at e; cases e
  | case4 _ _ _ _ _ he ih => rw [Chip.evictUpTo, he] at e; rw [ih e, Chip.outside_of_evictOne he hF]

@[simp] theorem Chip.setBuf_outside (h v) (c : Chip)
    {F : Foot} (hF : Foot.le { xbar := true } F) : (Chip.setBuf h v c).outside F = c.outside F :=
  Chip.outside_mono hF rfl

@[simp] theorem Chip.spillOrDrop_outside (h q k x) (c : Chip)
    {F : Foot} (hF : Foot.le { Foot.event with nest := true, xbar := true, free := true } F) :
    (Chip.spillOrDrop h q k x c).1.outside F = c.outside F :=
  Chip.outside_mono hF (by simp +decide [Chip.spillOrDrop])

@[simp] theorem Chip.enqueue_outside (h q k x) (c : Chip)
    {F : Foot} (hF : Foot.le { xbar := true } F) : (Chip.enqueue h q k x c).outside F = c.outside F :=
  Chip.outside_mono hF rfl

@[simp] theorem Chip.decideAdmit_outside (h q k x) (c : Chip)
    {F : Foot} (hF : Foot.le { nest := true, xbar := true, sch := true, events := true, ctr := true, sent := true, free := true } F) :
    (Chip.decideAdmit h q k x c).1.outside F = c.outside F :=
  Chip.outside_mono hF (by
  unfold Chip.decideAdmit
  extract_lets p n qu link
  split
  · simp +decide
  · split
    · simp +decide
    · split
      · simp +decide
      · split
        · simp +decide
        · split
          · simp +decide
          next s room _ _ _ _ _ =>
            generalize hr : room = r
            cases r with
            | none => simp +decide
            | some t =>
              simp +decide
              simp only [room] at hr
              split at hr
              · split at hr
                · cases hr; rfl
                · exact Chip.outside_of_evicted hr rfl
              · cases hr)

@[simp] theorem Chip.notePeak_outside (h q) (c : Chip)
    {F : Foot} (hF : Foot.le { nest := true } F) : (Chip.notePeak h q c).outside F = c.outside F :=
  Chip.outside_mono hF (by unfold Chip.notePeak; split <;> rfl)

@[simp] theorem Chip.takeIn_outside (h q k x) (c : Chip)
    {F : Foot} (hF : Foot.le Foot.packet F) : (Chip.takeIn h q k x c).1.outside F = c.outside F :=
  Chip.outside_mono hF (by simp +decide [Chip.takeIn])

@[simp] theorem Chip.setTable_outside (h e v) (c : Chip)
    {F : Foot} (hF : Foot.le { nest := true } F) : (Chip.setTable h e v c).outside F = c.outside F :=
  Chip.outside_mono hF rfl

@[simp] theorem Chip.noteSkew_outside (h e) (c : Chip)
    {F : Foot} (hF : Foot.le { Foot.event with nest := true } F) : (Chip.noteSkew h e c).outside F = c.outside F :=
  Chip.outside_mono hF (by simp only [Chip.noteSkew]; (repeat' split) <;> simp +decide)

@[simp] theorem Chip.route_outside (h p) (c : Chip)
    {F : Foot} (hF : Foot.le { Foot.event with nest := true } F) : (Chip.route h p c).1.outside F = c.outside F :=
  Chip.outside_mono hF (by simp only [Chip.route]; (repeat' split) <;> simp +decide)

@[simp] theorem Chip.setFan_outside (h f v) (c : Chip)
    {F : Foot} (hF : Foot.le { nest := true } F) : (Chip.setFan h f v c).outside F = c.outside F :=
  Chip.outside_mono hF rfl

@[simp] theorem Chip.setFanActive_outside (p on) (c : Chip)
    {F : Foot} (hF : Foot.le { nest := true, due := true } F) : (Chip.setFanActive p on c).outside F = c.outside F :=
  Chip.outside_mono hF (by unfold Chip.setFanActive; split <;> rfl)

@[simp] theorem Chip.toPort_outside (h p x) (c : Chip)
    {F : Foot} (hF : Foot.le Foot.packet F) : (Chip.toPort h p x c).outside F = c.outside F :=
  Chip.outside_mono hF (by simp +decide [Chip.toPort])

@[simp] theorem Chip.replicateTo_outside (h copies) (c : Chip)
    {F : Foot} (hF : Foot.le Foot.packet F) : (Chip.replicateTo h copies c).outside F = c.outside F :=
  Chip.outside_mono hF (by simp +decide [Chip.replicateTo])

@[simp] theorem Chip.replicate_outside (h points x) (c : Chip)
    {F : Foot} (hF : Foot.le Foot.packet F) : (Chip.replicate h points x c).outside F = c.outside F :=
  Chip.outside_mono hF (by simp +decide [Chip.replicate])

@[simp] theorem Chip.replicateNamed_outside (h copies x) (c : Chip)
    {F : Foot} (hF : Foot.le Foot.packet F) : (Chip.replicateNamed h copies x c).outside F = c.outside F :=
  Chip.outside_mono hF (by simp only [Chip.replicateNamed]; split <;> simp +decide)

@[simp] theorem Chip.follow_outside (h b inPort fromSpan x) (c : Chip)
    {F : Foot} (hF : Foot.le Foot.packet F) : (Chip.follow h b inPort fromSpan x c).outside F = c.outside F :=
  Chip.outside_mono hF (by simp only [Chip.follow]; (repeat' split) <;> simp +decide)

@[simp] theorem Chip.newTag_outside (c : Chip)
    {F : Foot} (hF : Foot.le { xbar := true } F) : (Chip.newTag c).2.outside F = c.outside F :=
  Chip.outside_mono hF rfl

@[simp] theorem Chip.forward_outside (h inPort x) (c : Chip)
    {F : Foot} (hF : Foot.le Foot.packet F) : (Chip.forward h inPort x c).outside F = c.outside F :=
  Chip.outside_mono hF (by
  simp only [Chip.forward]
  split
  next e => exact Chip.outside_of_fst e (by simp +decide)
  next e => rw [Chip.follow_outside _ _ _ _ _ _ rfl]; exact Chip.outside_of_fst e (by simp +decide))

@[simp] theorem Chip.originateFrom_outside (h src dest cls id seq resend stamp payload) (c : Chip)
    {F : Foot} (hF : Foot.le Foot.packet F) :
    (Chip.originateFrom h src dest cls id seq resend stamp payload c).outside F = c.outside F :=
  Chip.outside_mono hF (by simp only [Chip.originateFrom]; split <;> simp +decide)

@[simp] theorem Chip.originate_outside (h dest cls id seq payload) (c : Chip)
    {F : Foot} (hF : Foot.le Foot.packet F) : (Chip.originate h dest cls id seq payload c).outside F = c.outside F :=
  Chip.outside_mono hF (by simp +decide [Chip.originate])

@[simp] theorem Chip.sendOnPort_outside (p dest cls id seq resend payload writes) (c : Chip)
    {F : Foot} (hF : Foot.le Foot.sending F) :
    (Chip.sendOnPort p dest cls id seq resend payload writes c).outside F = c.outside F :=
  Chip.outside_mono hF (by simp +decide [Chip.sendOnPort])

@[simp] theorem Chip.setArrived_outside (tag n) (c : Chip)
    {F : Foot} (hF : Foot.le { xbar := true } F) : (Chip.setArrived tag n c).outside F = c.outside F :=
  Chip.outside_mono hF rfl

@[simp] theorem Chip.abandonIn_outside (tag) (c : Chip) (key)
    {F : Foot} (hF : Foot.le { Foot.sending with xbar := true } F) : (Chip.abandonIn tag c key).outside F = c.outside F :=
  Chip.outside_mono hF (by simp +decide [Chip.abandonIn])

@[simp] theorem Chip.abandon_outside (tag) (c : Chip)
    {F : Foot} (hF : Foot.le { Foot.sending with xbar := true } F) : (Chip.abandon tag c).outside F = c.outside F :=
  Chip.outside_mono hF (by simp +decide [Chip.abandon])

@[simp] theorem Chip.flushQueue_outside (h q k) (c : Chip)
    {F : Foot} (hF : Foot.le { nest := true, xbar := true, ctr := true } F) :
    (Chip.flushQueue h q k c).outside F = c.outside F :=
  Chip.outside_mono hF (by simp +decide [Chip.flushQueue])

@[simp] theorem Chip.flushPort_outside (p) (c : Chip)
    {F : Foot} (hF : Foot.le { ports := true, nest := true, xbar := true, sch := true, ctr := true, sent := true } F) :
    (Chip.flushPort p c).outside F = c.outside F :=
  Chip.outside_mono hF (by simp only [Chip.flushPort]; split <;> simp +decide)

@[simp] theorem Chip.flushSpan_outside (h) (c : Chip)
    {F : Foot} (hF : Foot.le { xbar := true, ctr := true } F) : (Chip.flushSpan h c).outside F = c.outside F :=
  Chip.outside_mono hF (by simp +decide [Chip.flushSpan])

@[simp] theorem Chip.takeDown_outside (p new drain) (c : Chip)
    {F : Foot} (hF : Foot.le { Foot.sending with xbar := true, due := true } F) :
    (Chip.takeDown p new drain c).outside F = c.outside F :=
  Chip.outside_mono hF (by simp only [Chip.takeDown]; (repeat' split) <;> simp +decide)

/-! ### What the operations of Memory leave -/

@[simp] theorem Chip.hbmCe_outside (h pages check) (c : Chip)
    {F : Foot} (hF : Foot.le { ctr := true } F) : (Chip.hbmCe h pages check c).outside F = c.outside F :=
  Chip.outside_mono hF (by simp only [Chip.hbmCe]; split <;> simp +decide)

@[simp] theorem Chip.retireStackSoon_outside (site) (c : Chip)
    {F : Foot} (hF : Foot.le { due := true } F) : (Chip.retireStackSoon site c).outside F = c.outside F :=
  Chip.outside_mono hF (by unfold Chip.retireStackSoon; split <;> rfl)

@[simp] theorem Chip.eccUe_outside (h page) (c : Chip)
    {F : Foot} (hF : Foot.le { Foot.event with lard := true, due := true } F) :
    (Chip.eccUe h page c).outside F = c.outside F :=
  Chip.outside_mono hF (by simp +decide [Chip.eccUe])

/-! ### What the operations of Mailbox leave -/

@[simp] theorem Chip.setMbx_outside (k v) (c : Chip)
    {F : Foot} (hF : Foot.le { mbx := true } F) : (Chip.setMbx k v c).outside F = c.outside F :=
  Chip.outside_mono hF rfl

@[simp] theorem Chip.setSlot_outside (s v) (c : Chip)
    {F : Foot} (hF : Foot.le { stew := true } F) : (Chip.setSlot s v c).outside F = c.outside F :=
  Chip.outside_mono hF rfl

@[simp] theorem Chip.mgmtRespond_outside (s) (c : Chip)
    {F : Foot} (hF : Foot.le Foot.packet F) : (Chip.mgmtRespond s c).outside F = c.outside F :=
  Chip.outside_mono hF (by simp only [Chip.mgmtRespond]; split <;> simp +decide)

@[simp] theorem Chip.post_outside (k ticket status words) (c : Chip)
    {F : Foot} (hF : Foot.le { Foot.packet with mbx := true } F) :
    (Chip.post k ticket status words c).outside F = c.outside F :=
  Chip.outside_mono hF (by simp +decide [Chip.post])

@[simp] theorem answer_outside (c : Chip) (words) {F : Foot} : (answer c words).chip.outside F = c.outside F :=
  by simp +decide [answer]

@[simp] theorem refuse_outside (c : Chip) (st words) {F : Foot} : (refuse c st words).chip.outside F = c.outside F :=
  by simp +decide [refuse]

@[simp] theorem waits_outside (r opcode started args) (c : Chip)
    {F : Foot} (hF : Foot.le { waiting := true } F) : (waits r opcode started args c).chip.outside F = c.outside F :=
  Chip.outside_mono hF rfl

@[simp] theorem Chip.taken_outside (k) (c : Chip)
    {F : Foot} (hF : Foot.le { mbx := true, rung := true, ctr := true } F) : (Chip.taken k c).outside F = c.outside F :=
  Chip.outside_mono hF (by simp +decide [Chip.taken])

@[simp] theorem Answer.conclude_outside (k ticket) (a : Answer) {F : Foot} (hF : Foot.le { ports := true, nest := true, xbar := true, sch := true, mbx := true, events := true, ctr := true, sent := true, free := true } F) :
    (Answer.conclude k ticket a).outside F = a.chip.outside F := by simp [Answer.conclude, hF]

@[simp] theorem Chip.settle_outside (n : Nat) (c : Chip)
    {F : Foot} (hF : Foot.le { ports := true, nest := true, xbar := true, sch := true, mbx := true, rung := true, events := true, ctr := true, sent := true, free := true } F) :
    (Chip.settle n c).outside F = c.outside F :=
  Chip.outside_mono hF (by
  induction n generalizing c with
  | zero => rfl
  | succ n ih => simp only [Chip.settle]; (repeat' split) <;> simp +decide [ih])

@[simp] theorem Chip.ringBox_outside (k) (c : Chip)
    {F : Foot} (hF : Foot.le { Foot.packet with mbx := true, rung := true, stew := true } F) :
    (Chip.ringBox k c).outside F = c.outside F :=
  Chip.outside_mono hF (by simp +decide [Chip.ringBox])

@[simp] theorem Chip.serve_outside (op) (cmd : Command) (r) (c : Chip) {F : Foot} (hf : ∀ r c, (cmd.act r c).chip.outside F = c.outside F) :
    (Chip.serve op cmd r c).chip.outside F = c.outside F := by
  simp only [Chip.serve, refuse]
  (repeat' split) <;> simp [hf]

@[simp] theorem Chip.accept_outside (op k) (cmd : Command) (c : Chip) {F : Foot} (hF : Foot.le { ports := true, nest := true, xbar := true, sch := true, mbx := true, rung := true, events := true, ctr := true, sent := true, free := true } F)
    (hf : ∀ r c, (cmd.act r c).chip.outside F = c.outside F) : (Chip.accept op k cmd c).outside F = c.outside F := by
  have h1 : Foot.le { ports := true, nest := true, xbar := true, sch := true, mbx := true, events := true, ctr := true, sent := true, free := true } F := Foot.le_trans rfl hF
  have h2 : Foot.le { mbx := true, rung := true, ctr := true } F := Foot.le_trans rfl hF
  simp only [Chip.accept]
  (repeat' split) <;> simp [hf, h1, h2, hF]

@[simp] theorem Chip.finish_outside (w status words) (c : Chip)
    {F : Foot} (hF : Foot.le { Foot.packet with mbx := true, waiting := true } F) :
    (Chip.finish w status words c).outside F = c.outside F :=
  Chip.outside_mono hF (by simp +decide [Chip.finish])

@[simp] theorem Chip.startWork_outside (w) (c : Chip)
    {F : Foot} (hF : Foot.le { waiting := true } F) : (Chip.startWork w c).outside F = c.outside F :=
  Chip.outside_mono hF rfl

@[simp] theorem atBoundary_outside (x) (c : Chip)
    {F : Foot} (hF : Foot.le { due := true } F) : (atBoundary x c).chip.outside F = c.outside F :=
  Chip.outside_mono hF rfl

/-! ### What the operations of Mirror leave -/

@[simp] theorem Chip.setExpect_outside (p v) (c : Chip)
    {F : Foot} (hF : Foot.le { xbar := true } F) : (Chip.setExpect p v c).outside F = c.outside F :=
  Chip.outside_mono hF rfl

@[simp] theorem Chip.setCal_outside (k v) (c : Chip)
    {F : Foot} (hF : Foot.le { sch := true } F) : (Chip.setCal k v c).outside F = c.outside F :=
  Chip.outside_mono hF rfl

@[simp] theorem Chip.setMirror_outside (h v) (c : Chip)
    {F : Foot} (hF : Foot.le { twin := true } F) : (Chip.setMirror h v c).outside F = c.outside F :=
  Chip.outside_mono hF rfl

@[simp] theorem Chip.goStale_outside (h) (c : Chip)
    {F : Foot} (hF : Foot.le { Foot.event with twin := true } F) : (Chip.goStale h c).outside F = c.outside F :=
  Chip.outside_mono hF (by simp +decide [Chip.goStale])

@[simp] theorem Chip.endResync_outside (h) (c : Chip)
    {F : Foot} (hF : Foot.le { twin := true } F) : (Chip.endResync h c).outside F = c.outside F :=
  Chip.outside_mono hF (by simp +decide [Chip.endResync])

@[simp] theorem Chip.mirrorChange_outside (h r) (c : Chip)
    {F : Foot} (hF : Foot.le { Foot.event with twin := true } F) : (Chip.mirrorChange h r c).outside F = c.outside F :=
  Chip.outside_mono hF (by simp +decide [Chip.mirrorChange])

@[simp] theorem Chip.mirrored_outside {f : Chip → Chip} (c : Chip) {F : Foot}
    (hF : Foot.le { twin := true, events := true, ctr := true, sent := true } F) (hf : ∀ c, (f c).outside F = c.outside F) :
    (Chip.mirrored f c).outside F = c.outside F := by simp [Chip.mirrored, hf, hF]

/-! ### What the operations of Targets leave -/

@[simp] theorem Chip.retarget_outside (d f g) (c : Chip)
    {F : Foot} (hF : Foot.le { ports := true, nest := true, sch := true, kit := true, loom := true, gate := true, twin := true, unrecorded := true, regs := true, boot := true, due := true } F) :
    (Chip.retarget d f g c).outside F = c.outside F :=
  Chip.outside_mono hF rfl

@[simp] theorem Chip.shiftFt_outside (ft) (c : Chip)
    {F : Foot} (hF : Foot.le { sch := true } F) : (Chip.shiftFt ft c).outside F = c.outside F :=
  Chip.outside_mono hF rfl

@[simp] theorem Chip.jumpFt_outside (ft) (c : Chip)
    {F : Foot} (hF : Foot.le { clock := true, base := true, ports := true, nest := true, sch := true, kit := true, loom := true, gate := true, twin := true, unrecorded := true, regs := true, boot := true, due := true } F) :
    (Chip.jumpFt ft c).outside F = c.outside F :=
  Chip.outside_mono hF rfl

@[simp] theorem Chip.changePeriod_outside (code) (c : Chip)
    {F : Foot} (hF : Foot.le { base := true, ports := true, nest := true, sch := true, kit := true, loom := true, gate := true, twin := true, unrecorded := true, regs := true, boot := true, due := true } F) :
    (Chip.changePeriod code c).outside F = c.outside F :=
  Chip.outside_mono hF rfl

/-! ### What the operations of Ports leave -/

@[simp] theorem Chip.sendNotice_outside (p kind lanes target) (c : Chip)
    {F : Foot} (hF : Foot.le { ports := true, sent := true } F) :
    (Chip.sendNotice p kind lanes target c).outside F = c.outside F :=
  Chip.outside_mono hF rfl

@[simp] theorem Chip.portLostLane_outside (p) (c : Chip)
    {F : Foot} (hF : Foot.le { Foot.sending with xbar := true, due := true } F) :
    (Chip.portLostLane p c).outside F = c.outside F :=
  Chip.outside_mono hF (by simp only [Chip.portLostLane]; (repeat' split) <;> simp +decide)

@[simp] theorem Chip.portGainedLane_outside (p lane) (c : Chip)
    {F : Foot} (hF : Foot.le { ports := true, sent := true } F) : (Chip.portGainedLane p lane c).outside F = c.outside F :=
  Chip.outside_mono hF (by simp +decide [Chip.portGainedLane])

@[simp] theorem Chip.takeWidth_outside (p) (c : Chip)
    {F : Foot} (hF : Foot.le { Foot.sending with xbar := true, due := true } F) :
    (Chip.takeWidth p c).outside F = c.outside F :=
  Chip.outside_mono hF (by simp +decide [Chip.takeWidth])

@[simp] theorem Chip.refreshWidth_outside (p drain) (c : Chip)
    {F : Foot} (hF : Foot.le { Foot.sending with xbar := true, due := true } F) :
    (Chip.refreshWidth p drain c).outside F = c.outside F :=
  Chip.outside_mono hF (by simp +decide [Chip.refreshWidth])

@[simp] theorem Chip.noteFec_outside (p f) (c : Chip)
    {F : Foot} (hF : Foot.le { ctr := true } F) : (Chip.noteFec p f c).outside F = c.outside F :=
  Chip.outside_mono hF (by simp +decide [Chip.noteFec])

@[simp] theorem Chip.hearLanes_outside (p m) (c : Chip)
    {F : Foot} (hF : Foot.le { Foot.sending with xbar := true, due := true } F) :
    (Chip.hearLanes p m c).outside F = c.outside F :=
  Chip.outside_mono hF (by simp +decide [Chip.hearLanes])

@[simp] theorem Chip.echoNotice_outside {f : Chip → Chip} (p kind n) (c : Chip) {F : Foot}
    (hF : Foot.le { ports := true, sent := true } F) (hf : ∀ c, (f c).outside F = c.outside F) :
    (Chip.echoNotice p kind n f c).outside F = c.outside F := by
  have h1 : Foot.le { ports := true } F := Foot.le_trans rfl hF
  have h2 : Foot.le { sent := true } F := Foot.le_trans rfl hF
  simp [Chip.echoNotice, hf, h1, h2]

@[simp] theorem Chip.takeResize_outside (p n) (c : Chip)
    {F : Foot} (hF : Foot.le Foot.sending F) : (Chip.takeResize p n c).outside F = c.outside F :=
  Chip.outside_mono hF (by simp +decide [Chip.takeResize])

@[simp] theorem Chip.takeLeave_outside (p n) (c : Chip)
    {F : Foot} (hF : Foot.le Foot.sending F) : (Chip.takeLeave p n c).outside F = c.outside F :=
  Chip.outside_mono hF (by simp +decide [Chip.takeLeave])

@[simp] theorem Chip.takeJoin_outside (p n) (c : Chip)
    {F : Foot} (hF : Foot.le { ports := true, sent := true } F) : (Chip.takeJoin p n c).outside F = c.outside F :=
  Chip.outside_mono hF (by simp +decide [Chip.takeJoin])

@[simp] theorem Chip.takeFarDisable_outside (p n) (c : Chip)
    {F : Foot} (hF : Foot.le Foot.sending F) : (Chip.takeFarDisable p n c).outside F = c.outside F :=
  Chip.outside_mono hF (by simp +decide [Chip.takeFarDisable])

@[simp] theorem Chip.takeEcho_outside (p kind n) (c : Chip)
    {F : Foot} (hF : Foot.le { ports := true } F) : (Chip.takeEcho p kind n c).outside F = c.outside F :=
  Chip.outside_mono hF rfl

@[simp] theorem Chip.repeatNotices_outside (p) (c : Chip)
    {F : Foot} (hF : Foot.le { ports := true, sent := true } F) : (Chip.repeatNotices p c).outside F = c.outside F :=
  Chip.outside_mono hF (by simp +decide [Chip.repeatNotices])

@[simp] theorem Chip.sendTraining_outside (p) (c : Chip)
    {F : Foot} (hF : Foot.le { ports := true, sent := true } F) : (Chip.sendTraining p c).outside F = c.outside F :=
  Chip.outside_mono hF (by simp +decide [Chip.sendTraining])

@[simp] theorem Chip.trainStep_outside (p b) (c : Chip)
    {F : Foot} (hF : Foot.le { Foot.event with ports := true } F) : (Chip.trainStep p b c).outside F = c.outside F :=
  Chip.outside_mono hF (by simp +decide [Chip.trainStep])

@[simp] theorem Chip.takeTraining_outside (p b) (c : Chip)
    {F : Foot} (hF : Foot.le { Foot.sending with xbar := true, due := true } F) :
    (Chip.takeTraining p b c).outside F = c.outside F :=
  Chip.outside_mono hF (by simp only [Chip.takeTraining]; (repeat' split) <;> simp +decide)

@[simp] theorem Chip.trainTimeout_outside (p) (c : Chip)
    {F : Foot} (hF : Foot.le { Foot.event with ports := true } F) : (Chip.trainTimeout p c).outside F = c.outside F :=
  Chip.outside_mono hF (by simp +decide [Chip.trainTimeout])

@[simp] theorem Chip.takeMarker_outside (p m) (c : Chip)
    {F : Foot} (hF : Foot.le { Foot.sending with xbar := true, due := true } F) :
    (Chip.takeMarker p m c).outside F = c.outside F :=
  Chip.outside_mono hF (by simp +decide [Chip.takeMarker])

@[simp] theorem Chip.missMarker_outside (p) (c : Chip)
    {F : Foot} (hF : Foot.le { Foot.event with ports := true, nest := true, due := true } F) :
    (Chip.missMarker p c).outside F = c.outside F :=
  Chip.outside_mono hF (by simp +decide [Chip.missMarker])

@[simp] theorem Chip.silence_outside (p) (c : Chip)
    {F : Foot} (hF : Foot.le { Foot.sending with xbar := true, due := true } F) :
    (Chip.silence p c).outside F = c.outside F :=
  Chip.outside_mono hF (by simp +decide [Chip.silence])

@[simp] theorem Chip.planDisable_outside (p) (c : Chip)
    {F : Foot} (hF : Foot.le { ports := true, due := true, sent := true } F) :
    (Chip.planDisable p c).outside F = c.outside F :=
  Chip.outside_mono hF (by unfold Chip.planDisable; split <;> rfl)

/-! ### What the operations of Light leave -/

@[simp] theorem Chip.setSpanRaised_outside (h b) (c : Chip)
    {F : Foot} (hF : Foot.le { xbar := true } F) : (Chip.setSpanRaised h b c).outside F = c.outside F :=
  Chip.outside_mono hF rfl

@[simp] theorem Chip.checkSpan_outside (h) (c : Chip)
    {F : Foot} (hF : Foot.le { Foot.event with xbar := true } F) : (Chip.checkSpan h c).outside F = c.outside F :=
  Chip.outside_mono hF (by simp +decide [Chip.checkSpan])

@[simp] theorem Chip.updateLane_outside (l v) (c : Chip)
    {F : Foot} (hF : Foot.le { Foot.sending with light := true, xbar := true, due := true } F) :
    (Chip.updateLane l v c).outside F = c.outside F :=
  Chip.outside_mono hF (by simp only [Chip.updateLane]; (repeat' split) <;> simp +decide)

@[simp] theorem Chip.noteRetired_outside (deal reason unit) (c : Chip)
    {F : Foot} (hF : Foot.le { unrecorded := true } F) : (Chip.noteRetired deal reason unit c).outside F = c.outside F :=
  Chip.outside_mono hF rfl

@[simp] theorem Chip.retireFor_outside (d l reason) (c : Chip)
    {F : Foot} (hF : Foot.le Foot.reach F) : (Chip.retireFor d l reason c).outside F = c.outside F :=
  Chip.outside_mono hF (by simp +decide [Chip.retireFor])

@[simp] theorem Chip.retireNow_outside (l reason) (c : Chip)
    {F : Foot} (hF : Foot.le Foot.reach F) : (Chip.retireNow l reason c).outside F = c.outside F :=
  Chip.outside_mono hF (by simp +decide [Chip.retireNow])

@[simp] theorem Chip.failId_outside (l rx strongest skip) (c : Chip)
    {F : Foot} (hF : Foot.le Foot.reach F) : (Chip.failId l rx strongest skip c).outside F = c.outside F :=
  Chip.outside_mono hF (by simp +decide [Chip.failId])

@[simp] theorem Chip.sweepTick_outside (l rx resonance) (c : Chip)
    {F : Foot} (hF : Foot.le Foot.reach F) : (Chip.sweepTick l rx resonance c).outside F = c.outside F :=
  Chip.outside_mono hF (by simp only [Chip.sweepTick]; split <;> simp +decide)

@[simp] theorem Chip.endCheck_outside (l rx tones) (c : Chip)
    {F : Foot} (hF : Foot.le Foot.reach F) : (Chip.endCheck l rx tones c).outside F = c.outside F :=
  Chip.outside_mono hF (by simp +decide [Chip.endCheck])

@[simp] theorem Chip.loopUpdate_outside (l rx code outside) (c : Chip)
    {F : Foot} (hF : Foot.le Foot.reach F) : (Chip.loopUpdate l rx code outside c).outside F = c.outside F :=
  Chip.outside_mono hF (by simp +decide [Chip.loopUpdate])

@[simp] theorem Chip.loseLight_outside (l) (c : Chip)
    {F : Foot} (hF : Foot.le { Foot.sending with light := true, xbar := true, due := true } F) :
    (Chip.loseLight l c).outside F = c.outside F :=
  Chip.outside_mono hF (by simp only [Chip.loseLight]; split <;> simp +decide)

@[simp] theorem Chip.circuitsLit_outside (a) (c : Chip)
    {F : Foot} (hF : Foot.le { light := true } F) : (Chip.circuitsLit a c).outside F = c.outside F :=
  Chip.outside_mono hF rfl

@[simp] theorem Chip.gainLight_outside (l) (c : Chip)
    {F : Foot} (hF : Foot.le { light := true } F) : (Chip.gainLight l c).outside F = c.outside F :=
  Chip.outside_mono hF (by simp only [Chip.gainLight]; split <;> simp +decide)

@[simp] theorem Chip.setLaser_outside (k v) (c : Chip)
    {F : Foot} (hF : Foot.le { light := true } F) : (Chip.setLaser k v c).outside F = c.outside F :=
  Chip.outside_mono hF rfl

@[simp] theorem Chip.startSwap_outside (h slot) (c : Chip)
    {F : Foot} (hF : Foot.le { Foot.event with light := true } F) : (Chip.startSwap h slot c).outside F = c.outside F :=
  Chip.outside_mono hF (by simp only [Chip.startSwap]; split <;> simp +decide)

@[simp] theorem Chip.giveUpSlot_outside (d h slot) (c : Chip)
    {F : Foot} (hF : Foot.le Foot.reach F) : (Chip.giveUpSlot d h slot c).outside F = c.outside F :=
  Chip.outside_mono hF (by simp +decide [Chip.giveUpSlot])

@[simp] theorem Chip.startWaiting_outside (d h) (n : Nat) (c : Chip)
    {F : Foot} (hF : Foot.le Foot.reach F) : (Chip.startWaiting d h n c).outside F = c.outside F :=
  Chip.outside_mono hF (by
  induction n generalizing c with
  | zero => rfl
  | succ n ih => simp only [Chip.startWaiting]; (repeat' split) <;> simp +decide [ih])

@[simp] theorem Chip.announceLeave_outside (l d) (c : Chip)
    {F : Foot} (hF : Foot.le { ports := true, sent := true } F) : (Chip.announceLeave l d c).outside F = c.outside F :=
  Chip.outside_mono hF (by unfold Chip.announceLeave; (repeat' split) <;> rfl)

@[simp] theorem Chip.combFail_outside (h slot p) (c : Chip)
    {F : Foot} (hF : Foot.le Foot.reach F) : (Chip.combFail h slot p c).outside F = c.outside F :=
  Chip.outside_mono hF (by simp +decide [Chip.combFail])

@[simp] theorem Chip.startConversion_outside (c : Chip)
    {F : Foot} (hF : Foot.le { clock := true, light := true, ctr := true, sent := true } F) :
    (Chip.startConversion c).outside F = c.outside F :=
  Chip.outside_mono hF (by simp +decide [Chip.startConversion])

@[simp] theorem Chip.takeSamples_outside (samples) (c : Chip)
    {F : Foot} (hF : Foot.le { clock := true, light := true, ports := true, ctr := true, due := true, sent := true } F) :
    (Chip.takeSamples samples c).outside F = c.outside F :=
  Chip.outside_mono hF (by simp +decide [Chip.takeSamples])

@[simp] theorem Chip.fadeAction_outside (k) (c : Chip)
    {F : Foot} (hF : Foot.le Foot.reach F) : (Chip.fadeAction k c).outside F = c.outside F :=
  Chip.outside_mono hF (by simp +decide [Chip.fadeAction])

@[simp] theorem Chip.fadeActions_outside (c : Chip)
    {F : Foot} (hF : Foot.le Foot.reach F) : (Chip.fadeActions c).outside F = c.outside F :=
  Chip.outside_mono hF (by simp +decide [Chip.fadeActions])

@[simp] theorem Chip.lightLaser_outside (h p) (c : Chip)
    {F : Foot} (hF : Foot.le { light := true } F) : (Chip.lightLaser h p c).outside F = c.outside F :=
  Chip.outside_mono hF (by simp +decide [Chip.lightLaser])

@[simp] theorem Chip.spareReady_outside (h p) (c : Chip)
    {F : Foot} (hF : Foot.le { light := true, due := true } F) : (Chip.spareReady h p c).outside F = c.outside F :=
  Chip.outside_mono hF (by simp +decide [Chip.spareReady])

@[simp] theorem Chip.spareTimeout_outside (h p) (c : Chip)
    {F : Foot} (hF : Foot.le Foot.reach F) : (Chip.spareTimeout h p c).outside F = c.outside F :=
  Chip.outside_mono hF (by simp +decide [Chip.spareTimeout])

@[simp] theorem Chip.setCircuit_outside (k v) (c : Chip)
    {F : Foot} (hF : Foot.le { light := true } F) : (Chip.setCircuit k v c).outside F = c.outside F :=
  Chip.outside_mono hF rfl

@[simp] theorem Chip.circuitDark_outside (h b) (c : Chip)
    {F : Foot} (hF : Foot.le { Foot.event with light := true } F) : (Chip.circuitDark h b c).outside F = c.outside F :=
  Chip.outside_mono hF (by simp +decide [Chip.circuitDark])

@[simp] theorem Chip.planLane_outside (l drain v) (c : Chip)
    {F : Foot} (hF : Foot.le { Foot.sending with light := true, xbar := true, due := true } F) :
    (Chip.planLane l drain v c).outside F = c.outside F :=
  Chip.outside_mono hF (by simp only [Chip.planLane]; (repeat' split) <;> simp +decide)

@[simp] theorem Chip.departLane_outside (l reason) (c : Chip)
    {F : Foot} (hF : Foot.le { Foot.sending with light := true, xbar := true, due := true } F) :
    (Chip.departLane l reason c).outside F = c.outside F :=
  Chip.outside_mono hF (by simp +decide [Chip.departLane])

@[simp] theorem Chip.endDrain_outside (p) (c : Chip)
    {F : Foot} (hF : Foot.le { Foot.sending with light := true, xbar := true } F) :
    (Chip.endDrain p c).outside F = c.outside F :=
  Chip.outside_mono hF (by simp only [Chip.endDrain]; (repeat' split) <;> simp +decide)

@[simp] theorem Chip.driveCircuits_outside (l) (c : Chip)
    {F : Foot} (hF : Foot.le { Foot.sending with light := true, xbar := true, due := true } F) :
    (Chip.driveCircuits l c).outside F = c.outside F :=
  Chip.outside_mono hF (by simp +decide [Chip.driveCircuits])

@[simp] theorem Chip.settleCircuits_outside (l) (c : Chip)
    {F : Foot} (hF : Foot.le { Foot.event with light := true } F) : (Chip.settleCircuits l c).outside F = c.outside F :=
  Chip.outside_mono hF (by simp +decide [Chip.settleCircuits])

@[simp] theorem Chip.releaseCircuits_outside (l) (c : Chip)
    {F : Foot} (hF : Foot.le { light := true } F) : (Chip.releaseCircuits l c).outside F = c.outside F :=
  Chip.outside_mono hF (by simp +decide [Chip.releaseCircuits])

@[simp] theorem Chip.clearCircuits_outside (l) (c : Chip)
    {F : Foot} (hF : Foot.le { Foot.sending with light := true, xbar := true, due := true } F) :
    (Chip.clearCircuits l c).outside F = c.outside F :=
  Chip.outside_mono hF (by simp +decide [Chip.clearCircuits])

@[simp] theorem Chip.swapLaser_outside (h p) (c : Chip)
    {F : Foot} (hF : Foot.le Foot.reach F) : (Chip.swapLaser h p c).outside F = c.outside F :=
  Chip.outside_mono hF (by simp only [Chip.swapLaser]; (repeat' split) <;> simp +decide)

@[simp] theorem Chip.dropLine_outside (h slot w) (c : Chip)
    {F : Foot} (hF : Foot.le Foot.reach F) : (Chip.dropLine h slot w c).outside F = c.outside F :=
  Chip.outside_mono hF (by simp +decide [Chip.dropLine])

@[simp] theorem Chip.retirePlanned_outside (l reason) (c : Chip)
    {F : Foot} (hF : Foot.le Foot.reach F) : (Chip.retirePlanned l reason c).outside F = c.outside F :=
  Chip.outside_mono hF (by simp +decide [Chip.retirePlanned])

@[simp] theorem Chip.nominalOf_outside (c : Chip) (k)
    {F : Foot} (hF : Foot.le { flash := true, light := true } F) : (Chip.nominalOf c k).outside F = c.outside F :=
  Chip.outside_mono hF rfl

@[simp] theorem Chip.recordNominal_outside (h) (c : Chip)
    {F : Foot} (hF : Foot.le { Foot.event with flash := true, light := true } F) :
    (Chip.recordNominal h c).outside F = c.outside F :=
  Chip.outside_mono hF (by simp +decide [Chip.recordNominal])

/-! ### What the operations of Steward leave -/

@[simp] theorem Chip.hosted_outside {f : Chip → Chip} (c : Chip) {F : Foot} (hf : ∀ c, (f c).outside F = c.outside F) :
    (Chip.hosted f c).outside F = c.outside F := by simp [Chip.hosted, hf]

@[simp] theorem Chip.setPcie_outside (p) (c : Chip)
    {F : Foot} (hF : Foot.le { events := true } F) : (Chip.setPcie p c).outside F = c.outside F :=
  Chip.outside_mono hF rfl

@[simp] theorem Chip.releaseVectors_outside (c : Chip)
    {F : Foot} (hF : Foot.le { events := true, sent := true } F) : (Chip.releaseVectors c).outside F = c.outside F :=
  Chip.outside_mono hF (by simp +decide [Chip.releaseVectors])

@[simp] theorem Chip.resetPcie_outside (perst) (c : Chip)
    {F : Foot} (hF : Foot.le { mbx := true, rung := true, events := true, ctr := true } F) :
    (Chip.resetPcie perst c).outside F = c.outside F :=
  Chip.outside_mono hF (by simp +decide [Chip.resetPcie])

@[simp] theorem Chip.hostRing_outside (k) (c : Chip)
    {F : Foot} (hF : Foot.le { Foot.packet with mbx := true, rung := true, stew := true } F) :
    (Chip.hostRing k c).outside F = c.outside F :=
  Chip.outside_mono hF (by simp +decide [Chip.hostRing])

@[simp] theorem Chip.hostWriteBox_outside (k off bs) (c : Chip)
    {F : Foot} (hF : Foot.le { mbx := true, ctr := true } F) : (Chip.hostWriteBox k off bs c).outside F = c.outside F :=
  Chip.outside_mono hF (by simp +decide [Chip.hostWriteBox])

@[simp] theorem Chip.hostReadHeader_outside (k off size) (c : Chip)
    {F : Foot} (hF : Foot.le { mbx := true, sent := true } F) : (Chip.hostReadHeader k off size c).outside F = c.outside F :=
  Chip.outside_mono hF rfl

@[simp] theorem Chip.mgmtRequest_outside (p) (c : Chip)
    {F : Foot} (hF : Foot.le { Foot.packet with mbx := true, rung := true, stew := true } F) :
    (Chip.mgmtRequest p c).outside F = c.outside F :=
  Chip.outside_mono hF (by simp +decide [Chip.mgmtRequest])

@[simp] theorem Chip.takeHostPacket_outside (p) (c : Chip)
    {F : Foot} (hF : Foot.le { stew := true, ctr := true } F) : (Chip.takeHostPacket p c).outside F = c.outside F :=
  Chip.outside_mono hF (by unfold Chip.takeHostPacket; (repeat' split) <;> rfl)

@[simp] theorem Chip.intact_outside {f : Chip → Chip} (p) (c : Chip) {F : Foot} (hF : Foot.le { ctr := true } F)
    (hf : ∀ c, (f c).outside F = c.outside F) : (Chip.intact p f c).outside F = c.outside F := by simp [Chip.intact, hf, hF]

@[simp] theorem Chip.writeCons_outside (v) (c : Chip)
    {F : Foot} (hF : Foot.le { events := true, sent := true } F) : (Chip.writeCons v c).outside F = c.outside F :=
  Chip.outside_mono hF (by simp +decide [Chip.writeCons])

@[simp] theorem Chip.moderate_outside (c : Chip)
    {F : Foot} (hF : Foot.le { events := true, sent := true } F) : (Chip.moderate c).outside F = c.outside F :=
  Chip.outside_mono hF (by simp +decide [Chip.moderate])

@[simp] theorem Chip.forwardRecords_outside (n : Nat) (c : Chip)
    {F : Foot} (hF : Foot.le Foot.packet F) : (Chip.forwardRecords n c).outside F = c.outside F :=
  Chip.outside_mono hF (by
  induction n generalizing c with
  | zero => rfl
  | succ n ih => simp only [Chip.forwardRecords]; (repeat' split) <;> simp +decide [ih])

@[simp] theorem Chip.dropWork_outside (w) (c : Chip)
    {F : Foot} (hF : Foot.le { twin := true } F) : (Chip.dropWork w c).outside F = c.outside F :=
  Chip.outside_mono hF (by unfold Chip.dropWork; split <;> rfl)

/-! ### What the operations of Regions leave -/

@[simp] theorem Chip.setLd_outside (h v) (c : Chip)
    {F : Foot} (hF : Foot.le { lard := true } F) : (Chip.setLd h v c).outside F = c.outside F :=
  Chip.outside_mono hF rfl

@[simp] theorem Chip.setRegion_outside (k v) (c : Chip)
    {F : Foot} (hF : Foot.le { lard := true } F) : (Chip.setRegion k v c).outside F = c.outside F :=
  Chip.outside_mono hF rfl

@[simp] theorem Chip.storeRegion_outside (h r) (n : Nat) (m : List Byte) (c : Chip)
    {F : Foot} (hF : Foot.le { hbm := true } F) : (Chip.storeRegion h r n m c).outside F = c.outside F :=
  Chip.outside_mono hF (by
  induction m generalizing n c with
  | nil => rfl
  | cons b l ih => rw [Chip.storeRegion, ih]; simp)

@[simp] theorem Chip.chargeRecipe_outside (h bytes) (c : Chip)
    {F : Foot} (hF : Foot.le { lard := true } F) : (Chip.chargeRecipe h bytes c).outside F = c.outside F :=
  Chip.outside_mono hF rfl

@[simp] theorem Chip.chargeRoll_outside (h bytes) (c : Chip)
    {F : Foot} (hF : Foot.le { lard := true } F) : (Chip.chargeRoll h bytes c).outside F = c.outside F :=
  Chip.outside_mono hF rfl

@[simp] theorem Chip.setTable8_outside (h v) (c : Chip)
    {F : Foot} (hF : Foot.le { twin := true } F) : (Chip.setTable8 h v c).outside F = c.outside F :=
  Chip.outside_mono hF rfl

@[simp] theorem Chip.emitCode_outside (h p) (c : Chip)
    {F : Foot} (hF : Foot.le { Foot.packet with twin := true } F) : (Chip.emitCode h p c).outside F = c.outside F :=
  Chip.outside_mono hF (by simp +decide [Chip.emitCode])

@[simp] theorem Chip.drainDeltas_outside (h) (n : Nat) (c : Chip)
    {F : Foot} (hF : Foot.le { ports := true, nest := true, xbar := true, sch := true, twin := true, events := true, ctr := true, sent := true, free := true } F) :
    (Chip.drainDeltas h n c).outside F = c.outside F :=
  Chip.outside_mono hF (by
  induction n generalizing c with
  | zero => rfl
  | succ n ih => simp only [Chip.drainDeltas]; (repeat' split) <;> simp +decide [ih])

@[simp] theorem Chip.sendCode_outside (h m isPset payload) (c : Chip)
    {F : Foot} (hF : Foot.le { Foot.packet with twin := true } F) :
    (Chip.sendCode h m isPset payload c).outside F = c.outside F :=
  Chip.outside_mono hF (by simp +decide [Chip.sendCode])

@[simp] theorem Chip.sendDeltas_outside (h g u off d) (c : Chip)
    {F : Foot} (hF : Foot.le { Foot.packet with lard := true, twin := true } F) :
    (Chip.sendDeltas h g u off d c).outside F = c.outside F :=
  Chip.outside_mono hF (by simp +decide [Chip.sendDeltas])

@[simp] theorem Chip.writeRegion_outside (x off bs) (c : Chip)
    {F : Foot} (hF : Foot.le { ports := true, nest := true, xbar := true, sch := true, lard := true, hbm := true, twin := true, events := true, ctr := true, sent := true, free := true } F) :
    (Chip.writeRegion x off bs c).outside F = c.outside F :=
  Chip.outside_mono hF (by
  simp only [Chip.writeRegion]
  split
  · simp +decide
  · refine foldl_outside _ _ fun c x => ?_
    split <;> simp +decide)

/-! ### What the operations of Larder leave -/

theorem Chip.outside_of_made {h kind n owner x e : Nat} {c t : Chip} (hg : c.grant h kind n owner = .made t x e) {F : Foot}
    (hF : Foot.le { lard := true, ctr := true } F) : t.outside F = c.outside F := by
  refine Chip.outside_mono hF ?_
  unfold Chip.grant at hg
  extract_lets index at hg
  clear_value index
  split at hg
  · cases hg
  · split at hg
    · cases hg
    · split at hg
      · cases hg
      · cases hg; simp +decide

@[simp] theorem Chip.serveHead_outside (h) (c : Chip)
    {F : Foot} (hF : Foot.le { ports := true, nest := true, xbar := true, sch := true, lard := true, mbx := true, waiting := true, events := true, ctr := true, sent := true, free := true } F) :
    (Chip.serveHead h c).outside F = c.outside F :=
  Chip.outside_mono hF (by
  simp only [Chip.serveHead]
  split
  · rfl
  · split
    · rfl
    · simp +decide
    next e =>
      refine Eq.trans ?_ (Chip.outside_of_made e rfl)
      simp +decide)

@[simp] theorem Chip.serveAll_outside (h) (c : Chip)
    {F : Foot} (hF : Foot.le { Foot.packet with lard := true, mbx := true, waiting := true } F) :
    (Chip.serveAll h c).outside F = c.outside F :=
  Chip.outside_mono hF (by simp +decide [Chip.serveAll])

@[simp] theorem Chip.waitTimeout_outside (h) (c : Chip)
    {F : Foot} (hF : Foot.le { Foot.packet with lard := true, mbx := true, waiting := true } F) :
    (Chip.waitTimeout h c).outside F = c.outside F :=
  Chip.outside_mono hF (by simp only [Chip.waitTimeout]; split <;> simp +decide)

@[simp] theorem Chip.zeroRegion_outside (h r) (c : Chip)
    {F : Foot} (hF : Foot.le { hbm := true } F) : (Chip.zeroRegion h r c).outside F = c.outside F :=
  Chip.outside_mono hF rfl

@[simp] theorem Chip.zeroDone_outside (k) (c : Chip)
    {F : Foot} (hF : Foot.le { Foot.packet with hbm := true, mbx := true, waiting := true } F) :
    (Chip.zeroDone k c).outside F = c.outside F :=
  Chip.outside_mono hF (by simp only [Chip.zeroDone]; split <;> simp +decide)

@[simp] theorem Chip.applyLarderFree_outside (x) (c : Chip)
    {F : Foot} (hF : Foot.le { lard := true } F) : (Chip.applyLarderFree x c).outside F = c.outside F :=
  Chip.outside_mono hF (by unfold Chip.applyLarderFree; split <;> rfl)

@[simp] theorem Chip.returnPages_outside (c : Chip)
    {F : Foot} (hF : Foot.le { Foot.packet with lard := true, mbx := true, waiting := true } F) :
    (Chip.returnPages c).outside F = c.outside F :=
  Chip.outside_mono hF (by simp +decide [Chip.returnPages])

@[simp] theorem Chip.accessCe_outside (x off n check) (c : Chip)
    {F : Foot} (hF : Foot.le { ctr := true } F) : (Chip.accessCe x off n check c).outside F = c.outside F :=
  Chip.outside_mono hF (by simp +decide [Chip.accessCe])

theorem Chip.outside_of_accessFault {x off n : Nat} {check : HbmCheck} {st : Status} {c t : Chip} 
    (e : c.accessFault x off n check = some (st, t)) {F : Foot}
    (hF : Foot.le { lard := true, events := true, ctr := true, due := true, sent := true } F) : t.outside F = c.outside F := by
  refine Chip.outside_mono hF ?_
  simp only [Chip.accessFault] at e
  split at e
  · cases e; rfl
  · split at e
    · cases e; rfl
    · split at e
      · cases e; rfl
      · split at e
        · cases e; simp +decide
        · cases e

@[simp] theorem Chip.applyLarderConfig_outside (h roll kitty wait) (c : Chip)
    {F : Foot} (hF : Foot.le { lard := true } F) : (Chip.applyLarderConfig h roll kitty wait c).outside F = c.outside F :=
  Chip.outside_mono hF rfl

@[simp] theorem Chip.lowerShares_outside (h) (c : Chip)
    {F : Foot} (hF : Foot.le { lard := true } F) : (Chip.lowerShares h c).outside F = c.outside F :=
  Chip.outside_mono hF rfl

@[simp] theorem Chip.damageRegions_outside (h was) (c : Chip)
    {F : Foot} (hF : Foot.le { Foot.event with lard := true } F) : (Chip.damageRegions h was c).outside F = c.outside F :=
  Chip.outside_mono hF (by simp +decide [Chip.damageRegions])

@[simp] theorem Chip.dropDeadSpill_outside (h) (c : Chip)
    {F : Foot} (hF : Foot.le { xbar := true, ctr := true } F) : (Chip.dropDeadSpill h c).outside F = c.outside F :=
  Chip.outside_mono hF (by
  refine foldl_outside _ _ fun c e => foldl_outside _ _ fun c x => ?_
  simp +decide)

@[simp] theorem Chip.retireStack_outside (site) (c : Chip)
    {F : Foot} (hF : Foot.le { Foot.event with xbar := true, lard := true, unrecorded := true } F) :
    (Chip.retireStack site c).outside F = c.outside F :=
  Chip.outside_mono hF (by simp +decide [Chip.retireStack])

@[simp] theorem Chip.budgetBoundary_outside (h) (c : Chip)
    {F : Foot} (hF : Foot.le { lard := true, ctr := true } F) : (Chip.budgetBoundary h c).outside F = c.outside F :=
  Chip.outside_mono hF (by simp +decide [Chip.budgetBoundary])

@[simp] theorem Chip.xferDone_outside (k bytes check) (c : Chip)
    {F : Foot} (hF : Foot.le { Foot.packet with lard := true, hbm := true, twin := true, mbx := true, waiting := true, due := true } F) :
    (Chip.xferDone k bytes check c).outside F = c.outside F :=
  Chip.outside_mono hF (by simp only [Chip.xferDone]; split <;> simp +decide)

/-! ### What the operations of Roll leave -/

@[simp] theorem Chip.setRl_outside (h v) (c : Chip)
    {F : Foot} (hF : Foot.le { roll := true } F) : (Chip.setRl h v c).outside F = c.outside F :=
  Chip.outside_mono hF rfl

@[simp] theorem Chip.rollCache_outside (h kitty src) (c : Chip)
    {F : Foot} (hF : Foot.le { roll := true } F) : (Chip.rollCache h kitty src c).outside F = c.outside F :=
  Chip.outside_mono hF rfl

@[simp] theorem Chip.rollAccess_outside (h kitty src) (c : Chip)
    {F : Foot} (hF : Foot.le { roll := true, lard := true, ctr := true } F) :
    (Chip.rollAccess h kitty src c).outside F = c.outside F :=
  Chip.outside_mono hF (by simp +decide [Chip.rollAccess])

@[simp] theorem Chip.rollLevel_outside (h) (c : Chip)
    {F : Foot} (hF : Foot.le { Foot.event with roll := true } F) : (Chip.rollLevel h c).outside F = c.outside F :=
  Chip.outside_mono hF (by simp +decide [Chip.rollLevel])

@[simp] theorem Chip.rollPut_outside (h at_ e) (c : Chip)
    {F : Foot} (hF : Foot.le { Foot.event with roll := true, lard := true } F) :
    (Chip.rollPut h at_ e c).outside F = c.outside F :=
  Chip.outside_mono hF (by simp +decide [Chip.rollPut])

@[simp] theorem Chip.rollErase_outside (h at_) (c : Chip)
    {F : Foot} (hF : Foot.le { Foot.event with roll := true } F) : (Chip.rollErase h at_ c).outside F = c.outside F :=
  Chip.outside_mono hF (by simp +decide [Chip.rollErase])

@[simp] theorem Chip.mirrorEntry_outside (h e) (c : Chip)
    {F : Foot} (hF : Foot.le { Foot.event with twin := true } F) : (Chip.mirrorEntry h e c).outside F = c.outside F :=
  Chip.outside_mono hF (by simp +decide [Chip.mirrorEntry])

@[simp] theorem Chip.mirrorRemoval_outside (h e) (c : Chip)
    {F : Foot} (hF : Foot.le { Foot.event with twin := true } F) : (Chip.mirrorRemoval h e c).outside F = c.outside F :=
  Chip.outside_mono hF (by simp +decide [Chip.mirrorRemoval])

@[simp] theorem Chip.rollRemove_outside (h at_) (c : Chip)
    {F : Foot} (hF : Foot.le { Foot.event with roll := true, twin := true } F) :
    (Chip.rollRemove h at_ c).outside F = c.outside F :=
  Chip.outside_mono hF (by simp +decide [Chip.rollRemove])

@[simp] theorem Chip.rollMove_outside (h) (n : List Nat) (c : Chip)
    {F : Foot} (hF : Foot.le { roll := true, lard := true } F) : (Chip.rollMove h n c).1.outside F = c.outside F :=
  Chip.outside_mono hF (by
  induction n, c using Chip.rollMove.induct (h := h) with
  | case1 => rfl
  | case2 => rfl
  | case3 _ _ _ _ _ _ ih => rw [Chip.rollMove, ih]; simp +decide)

@[simp] theorem Chip.rollInsert_outside (h e) (c : Chip)
    {F : Foot} (hF : Foot.le { Foot.event with roll := true, lard := true, twin := true } F) :
    (Chip.rollInsert h e c).1.outside F = c.outside F :=
  Chip.outside_mono hF (by simp only [Chip.rollInsert]; split <;> simp +decide)

@[simp] theorem Chip.rollLearn_outside (h kitty src port) (c : Chip)
    {F : Foot} (hF : Foot.le { roll := true, lard := true, twin := true, events := true, ctr := true, sent := true } F) :
    (Chip.rollLearn h kitty src port c).1.outside F = c.outside F :=
  Chip.outside_mono hF (by
  unfold Chip.rollLearn
  split
  · simp +decide
  · extract_lets e r
    suffices hr : r.1.outside _ = c.outside _ by
      clear_value r
      obtain ⟨c', o⟩ := r
      cases o <;> simp +decide <;> exact hr
    simp only [r]
    split
    · rfl
    · exact Chip.rollInsert_outside _ _ _ rfl)

@[simp] theorem Chip.rollReport_outside (h kitty srcs laggard) (c : Chip)
    {F : Foot} (hF : Foot.le { roll := true, lard := true, events := true, ctr := true, sent := true } F) :
    (Chip.rollReport h kitty srcs laggard c).outside F = c.outside F :=
  Chip.outside_mono hF (by
  refine foldl_outside _ _ fun c x => ?_
  simp only
  split <;> simp +decide)

@[simp] theorem Chip.rollLose_outside (h at_) (c : Chip)
    {F : Foot} (hF : Foot.le { Foot.event with roll := true, lard := true, due := true } F) :
    (Chip.rollLose h at_ c).outside F = c.outside F :=
  Chip.outside_mono hF (by simp +decide [Chip.rollLose])

@[simp] theorem Chip.rollDeadSlots_outside (h) (c : Chip)
    {F : Foot} (hF : Foot.le { Foot.event with roll := true, twin := true } F) :
    (Chip.rollDeadSlots h c).outside F = c.outside F :=
  Chip.outside_mono hF (by simp +decide [Chip.rollDeadSlots])

@[simp] theorem Chip.rollSweep_outside (h bad) (c : Chip)
    {F : Foot} (hF : Foot.le { Foot.event with roll := true, lard := true, twin := true, due := true } F) :
    (Chip.rollSweep h bad c).outside F = c.outside F :=
  Chip.outside_mono hF (by simp +decide [Chip.rollSweep])

@[simp] theorem Chip.setRset_outside (h s v) (c : Chip)
    {F : Foot} (hF : Foot.le { roll := true } F) : (Chip.setRset h s v c).outside F = c.outside F :=
  Chip.outside_mono hF rfl

@[simp] theorem Chip.rollStart_outside (h s op) (c : Chip)
    {F : Foot} (hF : Foot.le { roll := true, ctr := true } F) : (Chip.rollStart h s op c).outside F = c.outside F :=
  Chip.outside_mono hF (by unfold Chip.rollStart; split <;> rfl)

@[simp] theorem Chip.setAccess_outside {f : Chip → Chip} (s) (c : Chip) {F : Foot} (hf : ∀ c, (f c).outside F = c.outside F) :
    (Chip.setAccess s f c).outside F = c.outside F := by simp [Chip.setAccess, hf]

@[simp] theorem Chip.rollSetWrite_outside (h s reg v) (c : Chip)
    {F : Foot} (hF : Foot.le { roll := true, ctr := true } F) : (Chip.rollSetWrite h s reg v c).outside F = c.outside F :=
  Chip.outside_mono hF (by simp +decide [Chip.rollSetWrite])

@[simp] theorem Chip.rollRead_outside (h kitty src bad) (c : Chip)
    {F : Foot} (hF : Foot.le { Foot.event with roll := true, lard := true, due := true } F) :
    (Chip.rollRead h kitty src bad c).outside F = c.outside F :=
  Chip.outside_mono hF (by simp +decide [Chip.rollRead])

@[simp] theorem Chip.rollKeyed_outside (h s op bad) (c : Chip)
    {F : Foot} (hF : Foot.le { Foot.event with roll := true, lard := true, twin := true, due := true } F) :
    (Chip.rollKeyed h s op bad c).outside F = c.outside F :=
  Chip.outside_mono hF (by simp only [Chip.rollKeyed]; (repeat' split) <;> simp +decide)

@[simp] theorem Chip.rollWrite_outside (h s op bad) (c : Chip)
    {F : Foot} (hF : Foot.le { roll := true, lard := true, twin := true, events := true, ctr := true, due := true, sent := true } F) :
    (Chip.rollWrite h s op bad c).outside F = c.outside F :=
  Chip.outside_mono hF (by
  unfold Chip.rollWrite
  extract_lets x e portOk spare
  split
  · simp +decide
  · split
    · simp +decide
    next hit c1 _ _ =>
      refine Eq.trans ?_ (Chip.rollRead_outside h e.kitty e.src bad c rfl)
      change _ = c1.outside _
      clear_value c1
      split
      · simp +decide
      · split
        · simp +decide
        · split
          next e =>
            refine Eq.trans ?_ (Chip.outside_of_fst e (by simp +decide))
            simp +decide
          next e =>
            refine Eq.trans ?_ (Chip.outside_of_fst e (by simp +decide))
            simp +decide)

@[simp] theorem Chip.rollPurge_outside (h s) (c : Chip)
    {F : Foot} (hF : Foot.le { roll := true } F) : (Chip.rollPurge h s c).outside F = c.outside F :=
  Chip.outside_mono hF (by simp only [Chip.rollPurge]; (repeat' split) <;> simp +decide)

@[simp] theorem Chip.rollReadIndex_outside (h s index bad) (c : Chip)
    {F : Foot} (hF : Foot.le { Foot.event with roll := true, lard := true, due := true } F) :
    (Chip.rollReadIndex h s index bad c).outside F = c.outside F :=
  Chip.outside_mono hF (by simp +decide [Chip.rollReadIndex])

@[simp] theorem Chip.rollOpDone_outside (h s bad) (c : Chip)
    {F : Foot} (hF : Foot.le { Foot.event with roll := true, lard := true, twin := true, due := true } F) :
    (Chip.rollOpDone h s bad c).outside F = c.outside F :=
  Chip.outside_mono hF (by simp only [Chip.rollOpDone]; (repeat' split) <;> simp +decide)

@[simp] theorem Chip.rollMirrored_outside (h e) (c : Chip)
    {F : Foot} (hF : Foot.le { Foot.event with roll := true, lard := true, twin := true } F) :
    (Chip.rollMirrored h e c).outside F = c.outside F :=
  Chip.outside_mono hF (by simp only [Chip.rollMirrored]; split <;> simp +decide)

@[simp] theorem Chip.rollMirrorRemoved_outside (h src kitty) (c : Chip)
    {F : Foot} (hF : Foot.le { Foot.event with roll := true, lard := true, twin := true } F) :
    (Chip.rollMirrorRemoved h src kitty c).outside F = c.outside F :=
  Chip.outside_mono hF (by simp only [Chip.rollMirrorRemoved]; split <;> simp +decide)

@[simp] theorem Chip.applyRollConfig_outside (h age rate margin) (c : Chip)
    {F : Foot} (hF : Foot.le { roll := true } F) : (Chip.applyRollConfig h age rate margin c).outside F = c.outside F :=
  Chip.outside_mono hF rfl

/-! ### What the operations of Kitties leave -/

@[simp] theorem Chip.setKitty_outside (key v) (c : Chip)
    {F : Foot} (hF : Foot.le { kit := true } F) : (Chip.setKitty key v c).outside F = c.outside F :=
  Chip.outside_mono hF rfl

@[simp] theorem Chip.setJob_outside (h j v) (c : Chip)
    {F : Foot} (hF : Foot.le { kit := true } F) : (Chip.setJob h j v c).outside F = c.outside F :=
  Chip.outside_mono hF rfl

@[simp] theorem Chip.kittySend_outside (h k seq resend dests payload) (c : Chip)
    {F : Foot} (hF : Foot.le { Foot.packet with roll := true, lard := true } F) :
    (Chip.kittySend h k seq resend dests payload c).outside F = c.outside F :=
  Chip.outside_mono hF (by simp +decide [Chip.kittySend])

@[simp] theorem Chip.sendUp_outside (h k seq resend payload) (c : Chip)
    {F : Foot} (hF : Foot.le Foot.packet F) : (Chip.sendUp h k seq resend payload c).outside F = c.outside F :=
  Chip.outside_mono hF (by simp +decide [Chip.sendUp])

@[simp] theorem Chip.sendAnack_outside (h k src step attempt chunks) (c : Chip)
    {F : Foot} (hF : Foot.le { Foot.packet with roll := true, lard := true } F) :
    (Chip.sendAnack h k src step attempt chunks c).outside F = c.outside F :=
  Chip.outside_mono hF (by simp +decide [Chip.sendAnack])

@[simp] theorem Chip.freeScratch_outside (h n) (c : Chip)
    {F : Foot} (hF : Foot.le { lard := true } F) : (Chip.freeScratch h n c).outside F = c.outside F :=
  Chip.outside_mono hF rfl

@[simp] theorem Chip.dropShow_outside (key) (c : Chip)
    {F : Foot} (hF : Foot.le { kit := true, lard := true } F) : (Chip.dropShow key c).outside F = c.outside F :=
  Chip.outside_mono hF (by simp only [Chip.dropShow]; split <;> simp +decide)

@[simp] theorem Chip.failRound_outside (key step reason) (c : Chip)
    {F : Foot} (hF : Foot.le { Foot.event with kit := true, lard := true } F) :
    (Chip.failRound key step reason c).outside F = c.outside F :=
  Chip.outside_mono hF (by simp only [Chip.failRound]; split <;> simp +decide)

@[simp] theorem Chip.noteEnded_outside (h j step) (c : Chip)
    {F : Foot} (hF : Foot.le { kit := true } F) : (Chip.noteEnded h j step c).outside F = c.outside F :=
  Chip.outside_mono hF (by unfold Chip.noteEnded; split <;> rfl)

@[simp] theorem Chip.endCollection_outside (key isPartial) (c : Chip)
    {F : Foot} (hF : Foot.le { Foot.event with kit := true, lard := true } F) :
    (Chip.endCollection key isPartial c).outside F = c.outside F :=
  Chip.outside_mono hF (by simp +decide [Chip.endCollection])

@[simp] theorem Chip.releaseIfConfirmed_outside (key) (c : Chip)
    {F : Foot} (hF : Foot.le { kit := true, lard := true } F) : (Chip.releaseIfConfirmed key c).outside F = c.outside F :=
  Chip.outside_mono hF (by simp only [Chip.releaseIfConfirmed]; split <;> simp +decide)

@[simp] theorem Chip.confirm_outside (key src) (c : Chip)
    {F : Foot} (hF : Foot.le { kit := true, lard := true } F) : (Chip.confirm key src c).outside F = c.outside F :=
  Chip.outside_mono hF (by simp only [Chip.confirm]; split <;> simp +decide)

@[simp] theorem Chip.resendChunks_outside (key src chunks) (c : Chip)
    {F : Foot} (hF : Foot.le { ports := true, nest := true, xbar := true, sch := true, roll := true, lard := true, events := true, ctr := true, sent := true, free := true } F) :
    (Chip.resendChunks key src chunks c).outside F = c.outside F :=
  Chip.outside_mono hF (by
  simp only [Chip.resendChunks]
  split
  · rfl
  · refine foldl_outside _ _ fun c x => ?_
    split <;> simp +decide)

@[simp] theorem Chip.showdownDone_outside (key) (c : Chip)
    {F : Foot} (hF : Foot.le { Foot.event with roll := true, kit := true, lard := true } F) :
    (Chip.showdownDone key c).outside F = c.outside F :=
  Chip.outside_mono hF (by simp only [Chip.showdownDone]; (repeat' split) <;> simp +decide)

@[simp] theorem Chip.sendResults_outside (key chunks) (c : Chip)
    {F : Foot} (hF : Foot.le { Foot.packet with roll := true, kit := true, lard := true } F) :
    (Chip.sendResults key chunks c).outside F = c.outside F :=
  Chip.outside_mono hF (by simp only [Chip.sendResults]; split <;> simp +decide)

@[simp] theorem Chip.sendUpward_outside (key resend chunks) (c : Chip)
    {F : Foot} (hF : Foot.le { ports := true, nest := true, xbar := true, sch := true, kit := true, events := true, ctr := true, sent := true, free := true } F) :
    (Chip.sendUpward key resend chunks c).outside F = c.outside F :=
  Chip.outside_mono hF (by
  simp only [Chip.sendUpward]
  split
  · rfl
  · rw [Chip.setKitty_outside _ _ _ rfl]
    refine foldl_outside _ _ fun c x => ?_
    split <;> simp +decide)

@[simp] theorem Chip.enqueueChunks_outside (key chunks) (c : Chip)
    {F : Foot} (hF : Foot.le { Foot.packet with roll := true, kit := true, lard := true } F) :
    (Chip.enqueueChunks key chunks c).outside F = c.outside F :=
  Chip.outside_mono hF (by simp +decide [Chip.enqueueChunks])

@[simp] theorem Chip.keepBodies_outside (key bodies) (c : Chip)
    {F : Foot} (hF : Foot.le { kit := true } F) : (Chip.keepBodies key bodies c).outside F = c.outside F :=
  Chip.outside_mono hF (by simp only [Chip.keepBodies]; split <;> simp +decide)

@[simp] theorem Chip.showPlain_outside (key) (c : Chip)
    {F : Foot} (hF : Foot.le { Foot.packet with roll := true, kit := true, lard := true } F) :
    (Chip.showPlain key c).outside F = c.outside F :=
  Chip.outside_mono hF (by simp only [Chip.showPlain]; split <;> simp +decide)

@[simp] theorem Chip.refuseAnte_outside (key reg lsb) (c : Chip)
    {F : Foot} (hF : Foot.le { ctr := true } F) : (Chip.refuseAnte key reg lsb c).outside F = c.outside F :=
  Chip.outside_mono hF rfl

@[simp] theorem Chip.lateAnswer_outside (key src step) (c : Chip)
    {F : Foot} (hF : Foot.le { Foot.packet with roll := true, kit := true, lard := true } F) :
    (Chip.lateAnswer key src step c).outside F = c.outside F :=
  Chip.outside_mono hF (by simp only [Chip.lateAnswer]; split <;> simp +decide)

@[simp] theorem Chip.acceptAnte_outside (key p) (c : Chip)
    {F : Foot} (hF : Foot.le { Foot.event with kit := true, lard := true, free := true } F) :
    (Chip.acceptAnte key p c).outside F = c.outside F :=
  Chip.outside_mono hF (by simp +decide [Chip.acceptAnte])

@[simp] theorem Chip.learnAnte_outside (key port p) (c : Chip)
    {F : Foot} (hF : Foot.le { roll := true, kit := true, lard := true, twin := true, events := true, ctr := true, sent := true, free := true } F) :
    (Chip.learnAnte key port p c).outside F = c.outside F :=
  Chip.outside_mono hF (by
  unfold Chip.learnAnte
  extract_lets k h isStatic
  clear_value isStatic
  split
  · simp +decide; simp +zetaDelta +decide
  · split
    next e => exact Chip.outside_of_fst e (Chip.rollLearn_outside _ _ _ _ _ rfl)
    next e =>
      refine Eq.trans ?_ (Chip.outside_of_fst e (by simp +decide))
      simp +decide)

@[simp] theorem Chip.setKittyHalf_outside (h v) (c : Chip)
    {F : Foot} (hF : Foot.le { kit := true } F) : (Chip.setKittyHalf h v c).outside F = c.outside F :=
  Chip.outside_mono hF rfl

@[simp] theorem Chip.ingestFirst_outside (h port p) (c : Chip)
    {F : Foot} (hF : Foot.le { kit := true } F) : (Chip.ingestFirst h port p c).outside F = c.outside F :=
  Chip.outside_mono hF rfl

@[simp] theorem Chip.missAnte_outside (h port p) (c : Chip)
    {F : Foot} (hF : Foot.le { roll := true, kit := true, lard := true, ctr := true } F) :
    (Chip.missAnte h port p c).outside F = c.outside F :=
  Chip.outside_mono hF (by simp +decide [Chip.missAnte])

@[simp] theorem Chip.lookAnte_outside (key port looked p) (c : Chip)
    {F : Foot} (hF : Foot.le { Foot.event with roll := true, kit := true, lard := true, twin := true, free := true } F) :
    (Chip.lookAnte key port looked p c).outside F = c.outside F :=
  Chip.outside_mono hF (by simp +decide [Chip.lookAnte])

@[simp] theorem Chip.checkAnte_outside (key port looked p) (c : Chip)
    {F : Foot} (hF : Foot.le { Foot.packet with roll := true, kit := true, lard := true, twin := true } F) :
    (Chip.checkAnte key port looked p c).outside F = c.outside F :=
  Chip.outside_mono hF (by simp only [Chip.checkAnte]; (repeat' split) <;> simp +decide)

@[simp] theorem Chip.ingestDrop_outside (h) (c : Chip)
    {F : Foot} (hF : Foot.le { Foot.event with kit := true } F) : (Chip.ingestDrop h c).outside F = c.outside F :=
  Chip.outside_mono hF (by simp +decide [Chip.ingestDrop])

@[simp] theorem Chip.forKitty_outside {f : Nat → Chip → Chip} (h p live) (c : Chip) {F : Foot} (hF : Foot.le { ctr := true } F)
    (hf : ∀ key c, (f key c).outside F = c.outside F) : (Chip.forKitty h p live f c).outside F = c.outside F := by
  simp only [Chip.forKitty]
  split <;> simp [hf, hF]

@[simp] theorem Chip.takeAnte_outside (h port looked p) (c : Chip)
    {F : Foot} (hF : Foot.le { Foot.packet with roll := true, kit := true, lard := true, twin := true } F) :
    (Chip.takeAnte h port looked p c).outside F = c.outside F :=
  Chip.outside_mono hF (by simp +decide [Chip.takeAnte])

@[simp] theorem Chip.ackAt_outside (p key) (c : Chip)
    {F : Foot} (hF : Foot.le { kit := true, lard := true, ctr := true } F) : (Chip.ackAt p key c).outside F = c.outside F :=
  Chip.outside_mono hF (by simp only [Chip.ackAt]; (repeat' split) <;> simp +decide)

@[simp] theorem Chip.rnackAt_outside (p key) (c : Chip)
    {F : Foot} (hF : Foot.le { Foot.packet with roll := true, lard := true } F) :
    (Chip.rnackAt p key c).outside F = c.outside F :=
  Chip.outside_mono hF (by simp only [Chip.rnackAt]; (repeat' split) <;> simp +decide)

@[simp] theorem Chip.resendResult_outside (key) (c : Chip)
    {F : Foot} (hF : Foot.le { Foot.packet with roll := true, kit := true, lard := true } F) :
    (Chip.resendResult key c).outside F = c.outside F :=
  Chip.outside_mono hF (by simp only [Chip.resendResult]; split <;> simp +decide)

@[simp] theorem Chip.ackParent_outside (key x) (c : Chip)
    {F : Foot} (hF : Foot.le Foot.packet F) : (Chip.ackParent key x c).outside F = c.outside F :=
  Chip.outside_mono hF (by simp +decide [Chip.ackParent])

@[simp] theorem Chip.resultAt_outside (p key) (c : Chip)
    {F : Foot} (hF : Foot.le { Foot.packet with kit := true } F) : (Chip.resultAt p key c).outside F = c.outside F :=
  Chip.outside_mono hF (by simp only [Chip.resultAt]; (repeat' split) <;> simp +decide)

@[simp] theorem Chip.anackAt_outside (p key) (c : Chip)
    {F : Foot} (hF : Foot.le { Foot.packet with kit := true } F) : (Chip.anackAt p key c).outside F = c.outside F :=
  Chip.outside_mono hF (by simp only [Chip.anackAt]; (repeat' split) <;> simp +decide)

@[simp] theorem Chip.takeKitty_outside (h port p) (c : Chip)
    {F : Foot} (hF : Foot.le { Foot.packet with roll := true, kit := true, lard := true, twin := true } F) :
    (Chip.takeKitty h port p c).outside F = c.outside F :=
  Chip.outside_mono hF (by simp +decide [Chip.takeKitty])

@[simp] theorem Chip.takeUp_outside (h port p) (c : Chip)
    {F : Foot} (hF : Foot.le { Foot.packet with roll := true, kit := true, lard := true, twin := true } F) :
    (Chip.takeUp h port p c).outside F = c.outside F :=
  Chip.outside_mono hF (by simp +decide [Chip.takeUp])

@[simp] theorem Chip.drainIngest_outside (h) (n : Nat) (c : Chip)
    {F : Foot} (hF : Foot.le { ports := true, nest := true, xbar := true, sch := true, roll := true, kit := true, lard := true, twin := true, events := true, ctr := true, sent := true, free := true } F) :
    (Chip.drainIngest h n c).outside F = c.outside F :=
  Chip.outside_mono hF (by
  induction n generalizing c with
  | zero => rfl
  | succ n ih => simp only [Chip.drainIngest]; (repeat' split) <;> simp +decide [ih])

@[simp] theorem Chip.serveIngest_outside (h) (c : Chip)
    {F : Foot} (hF : Foot.le { Foot.packet with roll := true, kit := true, lard := true, twin := true } F) :
    (Chip.serveIngest h c).outside F = c.outside F :=
  Chip.outside_mono hF (by simp +decide [Chip.serveIngest])

@[simp] theorem Chip.kittyIngest_outside (h port p) (c : Chip)
    {F : Foot} (hF : Foot.le { Foot.packet with roll := true, kit := true, lard := true, twin := true } F) :
    (Chip.kittyIngest h port p c).outside F = c.outside F :=
  Chip.outside_mono hF (by simp +decide [Chip.kittyIngest])

@[simp] theorem Chip.ante_outside (h port p) (c : Chip)
    {F : Foot} (hF : Foot.le { Foot.packet with roll := true, kit := true, lard := true, twin := true } F) :
    (Chip.ante h port p c).outside F = c.outside F :=
  Chip.outside_mono hF (by simp +decide [Chip.ante])

@[simp] theorem Chip.ack_outside (h p) (c : Chip)
    {F : Foot} (hF : Foot.le { Foot.packet with roll := true, kit := true, lard := true, twin := true } F) :
    (Chip.ack h p c).outside F = c.outside F :=
  Chip.outside_mono hF (by simp +decide [Chip.ack])

@[simp] theorem Chip.rnack_outside (h p) (c : Chip)
    {F : Foot} (hF : Foot.le { Foot.packet with roll := true, kit := true, lard := true, twin := true } F) :
    (Chip.rnack h p c).outside F = c.outside F :=
  Chip.outside_mono hF (by simp +decide [Chip.rnack])

@[simp] theorem Chip.result_outside (h p) (c : Chip)
    {F : Foot} (hF : Foot.le { Foot.packet with roll := true, kit := true, lard := true, twin := true } F) :
    (Chip.result h p c).outside F = c.outside F :=
  Chip.outside_mono hF (by simp +decide [Chip.result])

@[simp] theorem Chip.anack_outside (h p) (c : Chip)
    {F : Foot} (hF : Foot.le { Foot.packet with roll := true, kit := true, lard := true, twin := true } F) :
    (Chip.anack h p c).outside F = c.outside F :=
  Chip.outside_mono hF (by simp +decide [Chip.anack])

@[simp] theorem Chip.missFill_outside (h way check) (c : Chip)
    {F : Foot} (hF : Foot.le { Foot.packet with roll := true, kit := true, lard := true, twin := true, due := true } F) :
    (Chip.missFill h way check c).outside F = c.outside F :=
  Chip.outside_mono hF (by simp only [Chip.missFill]; split <;> simp +decide)

@[simp] theorem Chip.resendUpward_outside (key) (c : Chip)
    {F : Foot} (hF : Foot.le { Foot.packet with kit := true } F) : (Chip.resendUpward key c).outside F = c.outside F :=
  Chip.outside_mono hF (by simp only [Chip.resendUpward]; (repeat' split) <;> simp +decide)

@[simp] theorem Chip.kittyDeadline_outside (key) (c : Chip)
    {F : Foot} (hF : Foot.le { ports := true, nest := true, xbar := true, sch := true, roll := true, kit := true, lard := true, events := true, ctr := true, sent := true, free := true } F) :
    (Chip.kittyDeadline key c).outside F = c.outside F :=
  Chip.outside_mono hF (by
  unfold Chip.kittyDeadline
  extract_lets k
  split
  · rfl
  · split
    · rfl
    next c1 c2 _ _ _ _ _ _ =>
      simp +decide
      refine Eq.trans (b := c1.outside _) (Chip.raise_outside _ _ _ c1 rfl) ?_
      exact foldl_outside _ _ fun c x => by split <;> simp +decide)

@[simp] theorem Chip.showdownReturn_outside (key j) (c : Chip)
    {F : Foot} (hF : Foot.le { Foot.packet with roll := true, kit := true, lard := true } F) :
    (Chip.showdownReturn key j c).outside F = c.outside F :=
  Chip.outside_mono hF (by simp only [Chip.showdownReturn]; (repeat' split) <;> simp +decide)

@[simp] theorem Chip.pieceEnded_outside (key step attempt j fault) (c : Chip)
    {F : Foot} (hF : Foot.le { Foot.event with kit := true, lard := true } F) :
    (Chip.pieceEnded key step attempt j fault c).outside F = c.outside F :=
  Chip.outside_mono hF (by simp only [Chip.pieceEnded]; split <;> simp +decide)

@[simp] theorem Chip.prefetchFailed_outside (key step attempt) (c : Chip)
    {F : Foot} (hF : Foot.le { Foot.event with kit := true, lard := true } F) :
    (Chip.prefetchFailed key step attempt c).outside F = c.outside F :=
  Chip.outside_mono hF (by simp only [Chip.prefetchFailed]; split <;> simp +decide)

@[simp] theorem Chip.transferPiece_outside (key j x) (c : Chip)
    {F : Foot} (hF : Foot.le { kit := true, loom := true, bench := true, lard := true, ctr := true } F) :
    (Chip.transferPiece key j x c).outside F = c.outside F :=
  Chip.outside_mono hF (by simp +decide [Chip.transferPiece])

@[simp] theorem Chip.kittyTransfer_outside (key r) {F : Foot}
    (hF : Foot.le { kit := true, loom := true, bench := true, lard := true, events := true, ctr := true, sent := true } F) :
    (Chip.kittyTransfer key r).1.outside F = r.1.outside F :=
  Chip.outside_mono hF (by
  simp only [Chip.kittyTransfer]
  split <;> simp +decide)

@[simp] theorem Chip.kittyBoundary_outside (h) (c : Chip)
    {F : Foot} (hF : Foot.le { ports := true, nest := true, xbar := true, sch := true, roll := true, kit := true, loom := true, bench := true, lard := true, events := true, ctr := true, sent := true, free := true } F) :
    (Chip.kittyBoundary h c).outside F = c.outside F :=
  Chip.outside_mono hF (by
  unfold Chip.kittyBoundary
  extract_lets send c1
  simp +decide
  refine foldl_outside _ _ fun c key => ?_
  simp only [send]
  split <;> simp +decide)

@[simp] theorem Chip.kittyNewDeal_outside (c : Chip)
    {F : Foot} (hF : Foot.le { kit := true } F) : (Chip.kittyNewDeal c).outside F = c.outside F :=
  Chip.outside_mono hF rfl

/-! ### What the operations of Ledger leave -/

@[simp] theorem Chip.applyKittyOpen_outside (key) (c : Chip)
    {F : Foot} (hF : Foot.le { kit := true } F) : (Chip.applyKittyOpen key c).outside F = c.outside F :=
  Chip.outside_mono hF rfl

@[simp] theorem Chip.applyKittyClose_outside (key) (c : Chip)
    {F : Foot} (hF : Foot.le { kit := true, lard := true } F) : (Chip.applyKittyClose key c).outside F = c.outside F :=
  Chip.outside_mono hF (by simp +decide [Chip.applyKittyClose])

@[simp] theorem Chip.applyKittyConfig_outside (h pool budget ingest) (c : Chip)
    {F : Foot} (hF : Foot.le { kit := true } F) : (Chip.applyKittyConfig h pool budget ingest c).outside F = c.outside F :=
  Chip.outside_mono hF rfl

@[simp] theorem Chip.lowerXfer_outside (h) (c : Chip)
    {F : Foot} (hF : Foot.le { kit := true } F) : (Chip.lowerXfer h c).outside F = c.outside F :=
  Chip.outside_mono hF rfl

@[simp] theorem Chip.abortKitty_outside (s attempt key) (c : Chip)
    {F : Foot} (hF : Foot.le { kit := true, lard := true } F) : (Chip.abortKitty s attempt key c).outside F = c.outside F :=
  Chip.outside_mono hF (by simp +decide [Chip.abortKitty])

@[simp] theorem Chip.abortHalf_outside (j s) (c : Chip) (h)
    {F : Foot} (hF : Foot.le { kit := true, lard := true } F) : (Chip.abortHalf j s c h).outside F = c.outside F :=
  Chip.outside_mono hF (by simp only [Chip.abortHalf]; split <;> simp +decide)

@[simp] theorem Chip.restartSt_outside (step) (c : Chip)
    {F : Foot} (hF : Foot.le { clock := true, base := true } F) : (Chip.restartSt step c).outside F = c.outside F :=
  Chip.outside_mono hF rfl

@[simp] theorem Chip.applyLedgerAbort_outside (j s) (c : Chip)
    {F : Foot} (hF : Foot.le { Foot.event with clock := true, base := true, kit := true, lard := true } F) :
    (Chip.applyLedgerAbort j s c).outside F = c.outside F :=
  Chip.outside_mono hF (by simp only [Chip.applyLedgerAbort]; (repeat' split) <;> simp +decide)

@[simp] theorem Chip.advanceJob_outside (h j) (c : Chip)
    {F : Foot} (hF : Foot.le { Foot.packet with kit := true } F) : (Chip.advanceJob h j c).outside F = c.outside F :=
  Chip.outside_mono hF (by simp only [Chip.advanceJob]; split <;> simp +decide)

/-! ### What the operations of Bench leave -/

@[simp] theorem Chip.setLoom_outside (n v) (c : Chip)
    {F : Foot} (hF : Foot.le { loom := true } F) : (Chip.setLoom n v c).outside F = c.outside F :=
  Chip.outside_mono hF rfl

@[simp] theorem Chip.setLoomSlot_outside (n k v) (c : Chip)
    {F : Foot} (hF : Foot.le { loom := true } F) : (Chip.setLoomSlot n k v c).outside F = c.outside F :=
  Chip.outside_mono hF rfl

@[simp] theorem Chip.writeBench_outside (n a bs) (c : Chip)
    {F : Foot} (hF : Foot.le { bench := true } F) : (Chip.writeBench n a bs c).outside F = c.outside F :=
  Chip.outside_mono hF rfl

@[simp] theorem Chip.setGate_outside (key v) (c : Chip)
    {F : Foot} (hF : Foot.le { gate := true } F) : (Chip.setGate key v c).outside F = c.outside F :=
  Chip.outside_mono hF rfl

@[simp] theorem Chip.dropReplicaBatch_outside (key deal q) (c : Chip)
    {F : Foot} (hF : Foot.le { gate := true, ctr := true } F) :
    (Chip.dropReplicaBatch key deal q c).outside F = c.outside F :=
  Chip.outside_mono hF (by simp only [Chip.dropReplicaBatch]; (repeat' split) <;> simp +decide)

@[simp] theorem Chip.gateRunEnded_outside (key deal b fault) (c : Chip)
    {F : Foot} (hF : Foot.le { gate := true, ctr := true } F) :
    (Chip.gateRunEnded key deal b fault c).outside F = c.outside F :=
  Chip.outside_mono hF (by simp only [Chip.gateRunEnded]; (repeat' split) <;> simp +decide)

/-! ### What the operations of Looms leave -/

@[simp] theorem Chip.loomFlags_outside (n rid flags) (c : Chip)
    {F : Foot} (hF : Foot.le { loom := true, ctr := true } F) : (Chip.loomFlags n rid flags c).outside F = c.outside F :=
  Chip.outside_mono hF (by simp +decide [Chip.loomFlags])

@[simp] theorem Chip.retireLoomSoon_outside (n reason) (c : Chip)
    {F : Foot} (hF : Foot.le { due := true } F) : (Chip.retireLoomSoon n reason c).outside F = c.outside F :=
  Chip.outside_mono hF (by unfold Chip.retireLoomSoon; split <;> rfl)

@[simp] theorem Chip.benchUe_outside (n a) (c : Chip)
    {F : Foot} (hF : Foot.le { Foot.event with loom := true, due := true } F) :
    (Chip.benchUe n a c).outside F = c.outside F :=
  Chip.outside_mono hF (by simp +decide [Chip.benchUe])

@[simp] theorem Chip.checkFail_outside (n array) (c : Chip)
    {F : Foot} (hF : Foot.le { Foot.event with loom := true, due := true } F) :
    (Chip.checkFail n array c).outside F = c.outside F :=
  Chip.outside_mono hF (by simp +decide [Chip.checkFail])

@[simp] theorem Chip.reportFault_outside (n slot handle pc fault) (c : Chip)
    {F : Foot} (hF : Foot.le Foot.event F) : (Chip.reportFault n slot handle pc fault c).outside F = c.outside F :=
  Chip.outside_mono hF (by simp +decide [Chip.reportFault])

@[simp] theorem Chip.faultPiece_outside (key j x) (c : Chip)
    {F : Foot} (hF : Foot.le { Foot.event with kit := true, loom := true, lard := true } F) :
    (Chip.faultPiece key j x c).outside F = c.outside F :=
  Chip.outside_mono hF (by simp +decide [Chip.faultPiece])

@[simp] theorem Chip.settleRun_outside (n r fault) (c : Chip)
    {F : Foot} (hF : Foot.le { Foot.event with kit := true, loom := true, gate := true, lard := true } F) :
    (Chip.settleRun n r fault c).outside F = c.outside F :=
  Chip.outside_mono hF (by simp only [Chip.settleRun]; split <;> simp +decide)

@[simp] theorem Chip.stopRun_outside (n fault pc) (c : Chip)
    {F : Foot} (hF : Foot.le { Foot.event with kit := true, loom := true, gate := true, lard := true } F) :
    (Chip.stopRun n fault pc c).outside F = c.outside F :=
  Chip.outside_mono hF (by simp only [Chip.stopRun]; split <;> simp +decide)

@[simp] theorem Chip.startFresh_outside (n k w) (c : Chip)
    {F : Foot} (hF : Foot.le { Foot.event with kit := true, loom := true, gate := true, lard := true } F) :
    (Chip.startFresh n k w c).outside F = c.outside F :=
  Chip.outside_mono hF (by simp +decide [Chip.startFresh])

@[simp] theorem Chip.beginSlot_outside (n k) (c : Chip)
    {F : Foot} (hF : Foot.le { Foot.event with kit := true, loom := true, gate := true, lard := true } F) :
    (Chip.beginSlot n k c).outside F = c.outside F :=
  Chip.outside_mono hF (by simp only [Chip.beginSlot]; (repeat' split) <;> simp +decide)

@[simp] theorem Chip.startNext_outside (n) (n' : Nat) (c : Chip)
    {F : Foot} (hF : Foot.le { kit := true, loom := true, gate := true, lard := true, events := true, ctr := true, sent := true } F) :
    (Chip.startNext n n' c).outside F = c.outside F :=
  Chip.outside_mono hF (by
  induction n' generalizing c with
  | zero => rfl
  | succ m ih => simp only [Chip.startNext]; (repeat' split) <;> simp +decide [ih])

@[simp] theorem Chip.endRun_outside (n fault pc) (c : Chip)
    {F : Foot} (hF : Foot.le { Foot.event with kit := true, loom := true, gate := true, lard := true } F) :
    (Chip.endRun n fault pc c).outside F = c.outside F :=
  Chip.outside_mono hF (by simp +decide [Chip.endRun])

@[simp] theorem Chip.faultRun_outside (n rid pc fault) (c : Chip)
    {F : Foot} (hF : Foot.le { Foot.event with kit := true, loom := true, gate := true, lard := true } F) :
    (Chip.faultRun n rid pc fault c).outside F = c.outside F :=
  Chip.outside_mono hF (by simp only [Chip.faultRun]; (repeat' split) <;> simp +decide)

@[simp] theorem Chip.refusePiece_outside (n k) (c : Chip)
    {F : Foot} (hF : Foot.le { Foot.event with kit := true, loom := true, lard := true } F) :
    (Chip.refusePiece n k c).outside F = c.outside F :=
  Chip.outside_mono hF (by simp only [Chip.refusePiece]; (repeat' split) <;> simp +decide)

@[simp] theorem Chip.slotStart_outside (n k) (c : Chip)
    {F : Foot} (hF : Foot.le { Foot.event with clock := true, kit := true, loom := true, gate := true, lard := true } F) :
    (Chip.slotStart n k c).outside F = c.outside F :=
  Chip.outside_mono hF (by simp +decide [Chip.slotStart])

@[simp] theorem Chip.loomGuard_outside (c : Chip)
    {F : Foot} (hF : Foot.le { loom := true } F) : (Chip.loomGuard c).outside F = c.outside F :=
  Chip.outside_mono hF (by
  refine foldl_outside _ _ fun c x => ?_
  simp only
  split <;> simp +decide)

@[simp] theorem Chip.prefetchLate_outside (n) (c : Chip)
    {F : Foot} (hF : Foot.le { Foot.event with loom := true } F) : (Chip.prefetchLate n c).outside F = c.outside F :=
  Chip.outside_mono hF (by simp +decide [Chip.prefetchLate])

@[simp] theorem Chip.noteOverrun_outside (unit d n) (c : Chip)
    {F : Foot} (hF : Foot.le { base := true } F) : (Chip.noteOverrun unit d n c).outside F = c.outside F :=
  Chip.outside_mono hF rfl

@[simp] theorem Chip.overrun_outside (unit d n) (c : Chip)
    {F : Foot} (hF : Foot.le { Foot.event with base := true } F) : (Chip.overrun unit d n c).outside F = c.outside F :=
  Chip.outside_mono hF (by simp +decide [Chip.overrun])

@[simp] theorem Chip.loomOverrun_outside (n) (c : Chip)
    {F : Foot} (hF : Foot.le { Foot.event with base := true, kit := true, loom := true, gate := true, lard := true } F) :
    (Chip.loomOverrun n c).outside F = c.outside F :=
  Chip.outside_mono hF (by simp only [Chip.loomOverrun]; split <;> simp +decide)

@[simp] theorem Chip.discardYielded_outside (n k) (c : Chip)
    {F : Foot} (hF : Foot.le { Foot.event with loom := true } F) : (Chip.discardYielded n k c).outside F = c.outside F :=
  Chip.outside_mono hF (by simp only [Chip.discardYielded]; split <;> simp +decide)

@[simp] theorem Chip.discardNamed_outside (n k) (c : Chip)
    {F : Foot} (hF : Foot.le { Foot.event with loom := true } F) : (Chip.discardNamed n k c).outside F = c.outside F :=
  Chip.outside_mono hF (by simp +decide [Chip.discardNamed])

@[simp] theorem Chip.staleRun_outside (n k) (c : Chip)
    {F : Foot} (hF : Foot.le { loom := true } F) : (Chip.staleRun n k c).outside F = c.outside F :=
  Chip.outside_mono hF (by simp only [Chip.staleRun]; split <;> simp +decide)

@[simp] theorem Chip.applySlotConfig_outside (key en mode offset length handle gate) (c : Chip)
    {F : Foot} (hF : Foot.le { Foot.event with loom := true } F) :
    (Chip.applySlotConfig key en mode offset length handle gate c).outside F = c.outside F :=
  Chip.outside_mono hF (by simp +decide [Chip.applySlotConfig])

@[simp] theorem Chip.applyRecipeParam_outside (key first words) (c : Chip)
    {F : Foot} (hF : Foot.le { loom := true } F) : (Chip.applyRecipeParam key first words c).outside F = c.outside F :=
  Chip.outside_mono hF rfl

@[simp] theorem Chip.disableSlots_outside (c : Chip)
    {F : Foot} (hF : Foot.le { Foot.event with loom := true } F) : (Chip.disableSlots c).outside F = c.outside F :=
  Chip.outside_mono hF (by simp +decide [Chip.disableSlots])

@[simp] theorem Chip.retireLoom_outside (n reason) (c : Chip)
    {F : Foot} (hF : Foot.le { Foot.event with kit := true, loom := true, gate := true, sv := true, lard := true, unrecorded := true } F) :
    (Chip.retireLoom n reason c).outside F = c.outside F :=
  Chip.outside_mono hF (by simp +decide [Chip.retireLoom])

@[simp] theorem Chip.applySeed_outside (loom seed) (c : Chip)
    {F : Foot} (hF : Foot.le { loom := true } F) : (Chip.applySeed loom seed c).outside F = c.outside F :=
  Chip.outside_mono hF (by simp only [Chip.applySeed]; split <;> simp +decide)

@[simp] theorem Chip.missedPieces_outside (c : Chip)
    {F : Foot} (hF : Foot.le { kit := true, loom := true, lard := true, events := true, ctr := true, sent := true } F) :
    (Chip.missedPieces c).outside F = c.outside F :=
  Chip.outside_mono hF (by
  refine foldl_outside _ _ fun c x => ?_
  (repeat' split) <;> simp +decide)

@[simp] theorem Chip.loomBoundary_outside (c : Chip)
    {F : Foot} (hF : Foot.le { Foot.event with base := true, kit := true, loom := true, gate := true, lard := true } F) :
    (Chip.loomBoundary c).outside F = c.outside F :=
  Chip.outside_mono hF (by simp +decide [Chip.loomBoundary])

@[simp] theorem Chip.sampleAck_outside (n count) (c : Chip)
    {F : Foot} (hF : Foot.le { loom := true } F) : (Chip.sampleAck n count c).outside F = c.outside F :=
  Chip.outside_mono hF (by unfold Chip.sampleAck; split <;> rfl)

/-! ### What the operations of Recipes leave -/

@[simp] theorem Chip.setRun_outside (n r) (c : Chip)
    {F : Foot} (hF : Foot.le { loom := true } F) : (Chip.setRun n r c).outside F = c.outside F :=
  Chip.outside_mono hF rfl

@[simp] theorem Chip.issueScalar_outside (n r w) (c : Chip)
    {F : Foot} (hF : Foot.le { loom := true, ctr := true } F) : (Chip.issueScalar n r w c).outside F = c.outside F :=
  Chip.outside_mono hF (by simp only [Chip.issueScalar]; split <;> simp +decide)

@[simp] theorem Chip.sendEmit_outside (n e) (c : Chip)
    {F : Foot} (hF : Foot.le Foot.packet F) : (Chip.sendEmit n e c).outside F = c.outside F :=
  Chip.outside_mono hF (by
  simp only [Chip.sendEmit, Chip.newTag]
  split
  · simp +decide
  · split
    next e => exact Chip.outside_of_fst e (by simp +decide)
    next e =>
      refine Eq.trans ?_ (Chip.outside_of_fst e (by simp +decide : _ = c.outside _))
      refine (Chip.outside_ite _ _ _).trans ?_
      rw [Chip.bump_outside _ _ _ (by decide)]
      exact (ite_self _).trans (Chip.follow_outside _ _ _ _ _ _ (by decide)))

@[simp] theorem Chip.drainEmits_outside (h) (c : Chip)
    {F : Foot} (hF : Foot.le { ports := true, nest := true, xbar := true, sch := true, loom := true, events := true, ctr := true, sent := true, free := true } F) :
    (Chip.drainEmits h c).outside F = c.outside F :=
  Chip.outside_mono hF (by
  simp only [Chip.drainEmits]
  split
  · rfl
  · refine foldl_outside _ _ fun c x => ?_
    simp +decide)

@[simp] theorem Chip.issueEmit_outside (n r w) (c : Chip)
    {F : Foot} (hF : Foot.le { Foot.packet with loom := true } F) : (Chip.issueEmit n r w c).outside F = c.outside F :=
  Chip.outside_mono hF (by simp +decide [Chip.issueEmit])

@[simp] theorem Chip.loadBuffer_outside (n m) (c : Chip)
    {F : Foot} (hF : Foot.le { loom := true } F) : (Chip.loadBuffer n m c).outside F = c.outside F :=
  Chip.outside_mono hF (by simp only [Chip.loadBuffer]; (repeat' split) <;> simp +decide)

@[simp] theorem Chip.nextBuffer_outside (n) (c : Chip)
    {F : Foot} (hF : Foot.le { loom := true } F) : (Chip.nextBuffer n c).outside F = c.outside F :=
  Chip.outside_mono hF (by simp only [Chip.nextBuffer]; split <;> simp +decide)

@[simp] theorem Chip.loomTime_outside (n f src cycles) (c : Chip)
    {F : Foot} (hF : Foot.le { ctr := true } F) : (Chip.loomTime n f src cycles c).outside F = c.outside F :=
  Chip.outside_mono hF (by simp +decide [Chip.loomTime])

@[simp] theorem Chip.issueFlight_outside (n r w) (c : Chip)
    {F : Foot} (hF : Foot.le { loom := true, ctr := true } F) : (Chip.issueFlight n r w c).outside F = c.outside F :=
  Chip.outside_mono hF (by simp +decide [Chip.issueFlight])

@[simp] theorem Chip.issueFetch_outside (n r w) (c : Chip)
    {F : Foot} (hF : Foot.le { loom := true, lard := true } F) : (Chip.issueFetch n r w c).outside F = c.outside F :=
  Chip.outside_mono hF rfl

@[simp] theorem Chip.issueStore_outside (n r w) (c : Chip)
    {F : Foot} (hF : Foot.le { Foot.packet with loom := true, lard := true, hbm := true, twin := true } F) :
    (Chip.issueStore n r w c).outside F = c.outside F :=
  Chip.outside_mono hF (by simp +decide [Chip.issueStore])

@[simp] theorem Chip.issueYield_outside (n r) (c : Chip)
    {F : Foot} (hF : Foot.le { Foot.event with kit := true, loom := true, gate := true, lard := true } F) :
    (Chip.issueYield n r c).outside F = c.outside F :=
  Chip.outside_mono hF (by simp +decide [Chip.issueYield])

@[simp] theorem Chip.issueNow_outside (n r w) (c : Chip)
    {F : Foot} (hF : Foot.le { Foot.packet with kit := true, loom := true, bench := true, gate := true, sv := true, lard := true, hbm := true, twin := true } F) :
    (Chip.issueNow n r w c).outside F = c.outside F :=
  Chip.outside_mono hF (by simp only [Chip.issueNow]; split <;> simp +decide)

@[simp] theorem Chip.issueChecked_outside (n r w check) (c : Chip)
    {F : Foot} (hF : Foot.le { Foot.packet with kit := true, loom := true, bench := true, gate := true, sv := true, lard := true, hbm := true, twin := true, due := true } F) :
    (Chip.issueChecked n r w check c).outside F = c.outside F :=
  Chip.outside_mono hF (by simp +decide [Chip.issueChecked])

@[simp] theorem Chip.issueRead_outside (n r w read) (c : Chip)
    {F : Foot} (hF : Foot.le { Foot.packet with kit := true, loom := true, bench := true, gate := true, sv := true, lard := true, hbm := true, twin := true, due := true } F) :
    (Chip.issueRead n r w read c).outside F = c.outside F :=
  Chip.outside_mono hF (by simp only [Chip.issueRead]; split <;> simp +decide)

@[simp] theorem Chip.tryIssue_outside (n r w read) (c : Chip)
    {F : Foot} (hF : Foot.le { Foot.packet with kit := true, loom := true, bench := true, gate := true, sv := true, lard := true, hbm := true, twin := true, due := true } F) :
    (Chip.tryIssue n r w read c).outside F = c.outside F :=
  Chip.outside_mono hF (by simp +decide [Chip.tryIssue])

@[simp] theorem Chip.issueRow_outside (n row imem read) (c : Chip)
    {F : Foot} (hF : Foot.le { Foot.packet with kit := true, loom := true, bench := true, gate := true, sv := true, lard := true, hbm := true, twin := true, due := true } F) :
    (Chip.issueRow n row imem read c).outside F = c.outside F :=
  Chip.outside_mono hF (by simp only [Chip.issueRow]; split <;> simp +decide)

@[simp] theorem Chip.waitEnd_outside (n read) (c : Chip)
    {F : Foot} (hF : Foot.le { Foot.packet with kit := true, loom := true, bench := true, gate := true, sv := true, lard := true, hbm := true, twin := true, due := true } F) :
    (Chip.waitEnd n read c).outside F = c.outside F :=
  Chip.outside_mono hF (by simp only [Chip.waitEnd]; (repeat' split) <;> simp +decide)

@[simp] theorem Chip.leaveFlight_outside (n i f) (c : Chip)
    {F : Foot} (hF : Foot.le { loom := true } F) : (Chip.leaveFlight n i f c).outside F = c.outside F :=
  Chip.outside_mono hF (by simp +decide [Chip.leaveFlight])

@[simp] theorem Chip.recompute_outside (n f) (c : Chip)
    {F : Foot} (hF : Foot.le { ctr := true } F) : (Chip.recompute n f c).outside F = c.outside F :=
  Chip.outside_mono hF (by simp +decide [Chip.recompute])

@[simp] theorem Chip.refreshHold_outside (n) (c : Chip)
    {F : Foot} (hF : Foot.le { loom := true, ctr := true } F) : (Chip.refreshHold n c).outside F = c.outside F :=
  Chip.outside_mono hF (by simp only [Chip.refreshHold]; (repeat' split) <;> simp +decide)

@[simp] theorem Chip.finishFlight_outside (n f v) (c : Chip)
    {F : Foot} (hF : Foot.le { loom := true, bench := true, ctr := true, free := true } F) :
    (Chip.finishFlight n f v c).outside F = c.outside F :=
  Chip.outside_mono hF (by simp +decide [Chip.finishFlight])

@[simp] theorem Chip.complete_outside (n i recompute bad corrected) (c : Chip)
    {F : Foot} (hF : Foot.le { Foot.event with kit := true, loom := true, bench := true, gate := true, lard := true, due := true, free := true } F) :
    (Chip.complete n i recompute bad corrected c).outside F = c.outside F :=
  Chip.outside_mono hF (by simp only [Chip.complete]; (repeat' split) <;> simp +decide)

@[simp] theorem Chip.scramble_outside (n writes) (c : Chip)
    {F : Foot} (hF : Foot.le { bench := true, free := true } F) : (Chip.scramble n writes c).outside F = c.outside F :=
  Chip.outside_mono hF (by simp +decide [Chip.scramble])

@[simp] theorem Chip.loomCheckFail_outside (n array i) (c : Chip)
    {F : Foot} (hF : Foot.le { Foot.event with kit := true, loom := true, bench := true, gate := true, lard := true, due := true, free := true } F) :
    (Chip.loomCheckFail n array i c).outside F = c.outside F :=
  Chip.outside_mono hF (by simp only [Chip.loomCheckFail]; split <;> simp +decide)

@[simp] theorem Chip.fillWaits_outside (n len) (c : Chip)
    {F : Foot} (hF : Foot.le { ctr := true, free := true } F) : (Chip.fillWaits n len c).outside F = c.outside F :=
  Chip.outside_mono hF (by simp +decide [Chip.fillWaits])

@[simp] theorem Chip.fillLanded_outside (n granule check) (c : Chip)
    {F : Foot} (hF : Foot.le { Foot.event with kit := true, loom := true, bench := true, gate := true, lard := true, due := true, free := true } F) :
    (Chip.fillLanded n granule check c).outside F = c.outside F :=
  Chip.outside_mono hF (by simp only [Chip.fillLanded]; (repeat' split) <;> simp +decide)

@[simp] theorem Chip.returnPiece_outside (key p) (c : Chip)
    {F : Foot} (hF : Foot.le { Foot.packet with roll := true, kit := true, loom := true, lard := true, due := true } F) :
    (Chip.returnPiece key p c).outside F = c.outside F :=
  Chip.outside_mono hF (by simp only [Chip.returnPiece]; (repeat' split) <;> simp +decide)

@[simp] theorem Chip.sample_outside (n stall) (c : Chip)
    {F : Foot} (hF : Foot.le { loom := true, ctr := true } F) : (Chip.sample n stall c).outside F = c.outside F :=
  Chip.outside_mono hF (by simp +decide [Chip.sample])

/-! ### What the operations of Crossing leave -/

@[simp] theorem Chip.dropIngress_outside (p lsb x) (c : Chip)
    {F : Foot} (hF : Foot.le { Foot.sending with xbar := true } F) : (Chip.dropIngress p lsb x c).outside F = c.outside F :=
  Chip.outside_mono hF (by simp +decide [Chip.dropIngress])

@[simp] theorem Chip.stretch_outside (c : Chip) (p)
    {F : Foot} (hF : Foot.le Foot.sending F) : (Chip.stretch c p).outside F = c.outside F :=
  Chip.outside_mono hF (by simp +decide [Chip.stretch])

@[simp] theorem Chip.arrive_outside (tag n) (c : Chip)
    {F : Foot} (hF : Foot.le { Foot.sending with xbar := true } F) : (Chip.arrive tag n c).outside F = c.outside F :=
  Chip.outside_mono hF (by simp +decide [Chip.arrive])

@[simp] theorem Chip.completeIngress_outside (p x) (c : Chip)
    {F : Foot} (hF : Foot.le { Foot.sending with xbar := true } F) : (Chip.completeIngress p x c).outside F = c.outside F :=
  Chip.outside_mono hF (by simp +decide [Chip.completeIngress])

@[simp] theorem Chip.strayBlock_outside (p b) (c : Chip)
    {F : Foot} (hF : Foot.le { ports := true, ctr := true } F) : (Chip.strayBlock p b c).outside F = c.outside F :=
  Chip.outside_mono hF (by simp +decide [Chip.strayBlock])

@[simp] theorem Chip.nextBlock_outside (p b) (c : Chip)
    {F : Foot} (hF : Foot.le { Foot.sending with xbar := true } F) : (Chip.nextBlock p b c).outside F = c.outside F :=
  Chip.outside_mono hF (by simp only [Chip.nextBlock]; (repeat' split) <;> simp +decide)

@[simp] theorem Chip.setMeter_outside (m v) (c : Chip)
    {F : Foot} (hF : Foot.le { sch := true } F) : (Chip.setMeter m v c).outside F = c.outside F :=
  Chip.outside_mono hF rfl

@[simp] theorem Chip.meterPacket_outside (p pkt) (c : Chip)
    {F : Foot} (hF : Foot.le { sch := true, ctr := true } F) : (Chip.meterPacket p pkt c).1.outside F = c.outside F :=
  Chip.outside_mono hF (by
  unfold Chip.meterPacket
  -- The colour does not matter here; left in place, the kernel would compute it.
  obtain ⟨decide, h⟩ : ∃ f, f = Meter.decide := ⟨_, rfl⟩
  rw [← h]
  simp only
  (repeat' split) <;> simp +decide)

@[simp] theorem Chip.beginIngress_outside (p b x) (c : Chip)
    {F : Foot} (hF : Foot.le { ports := true } F) : (Chip.beginIngress p b x c).outside F = c.outside F :=
  Chip.outside_mono hF rfl

@[simp] theorem Chip.policyDrop_outside (p b pkt) (c : Chip)
    {F : Foot} (hF : Foot.le { ports := true, ctr := true } F) : (Chip.policyDrop p b pkt c).outside F = c.outside F :=
  Chip.outside_mono hF rfl

@[simp] theorem Chip.takeHeader_outside (p pkt b) (c : Chip)
    {F : Foot} (hF : Foot.le Foot.packet F) : (Chip.takeHeader p pkt b c).outside F = c.outside F :=
  Chip.outside_mono hF (by
  simp only [Chip.takeHeader, Chip.newTag]
  split
  next e =>
    refine Eq.trans ?_ (Chip.outside_of_fst e (by simp +decide))
    split <;> simp +decide
  next e =>
    refine Eq.trans ?_ (Chip.outside_of_fst e (by simp +decide))
    split
    · simp +decide
    · split
      next e' =>
        refine Eq.trans ?_ (Chip.outside_of_fst e' (by simp +decide))
        split <;> simp +decide
      next e' =>
        refine Eq.trans ?_ (Chip.outside_of_fst e' (by simp +decide))
        simp +decide)

@[simp] theorem Chip.firstInTurn_outside (p pkt b) (c : Chip)
    {F : Foot} (hF : Foot.le { Foot.packet with stamps := true } F) : (Chip.firstInTurn p pkt b c).outside F = c.outside F :=
  Chip.outside_mono hF (by simp only [Chip.firstInTurn]; (repeat' split) <;> simp +decide)

@[simp] theorem Chip.inTurn_outside (p pkt b) (c : Chip)
    {F : Foot} (hF : Foot.le { Foot.packet with stamps := true } F) : (Chip.inTurn p pkt b c).outside F = c.outside F :=
  Chip.outside_mono hF (by simp only [Chip.inTurn]; split <;> simp +decide)

@[simp] theorem Chip.takeAhead_outside (p) (n : Nat) (c : Chip)
    {F : Foot} (hF : Foot.le { stamps := true, ports := true, nest := true, xbar := true, sch := true, events := true, ctr := true, sent := true, free := true } F) :
    (Chip.takeAhead p n c).outside F = c.outside F :=
  Chip.outside_mono hF (by
  induction n generalizing c with
  | zero => rfl
  | succ n ih => simp only [Chip.takeAhead]; (repeat' split) <;> simp +decide [ih])

@[simp] theorem Chip.loseBlocks_outside (p bseq begins) (c : Chip)
    {F : Foot} (hF : Foot.le { Foot.sending with xbar := true } F) :
    (Chip.loseBlocks p bseq begins c).outside F = c.outside F :=
  Chip.outside_mono hF (by simp only [Chip.loseBlocks]; split <;> simp +decide)

@[simp] theorem Chip.expireAhead_outside (p) (n : Nat) (c : Chip)
    {F : Foot} (hF : Foot.le { stamps := true, ports := true, nest := true, xbar := true, sch := true, events := true, ctr := true, sent := true, free := true } F) :
    (Chip.expireAhead p n c).outside F = c.outside F :=
  Chip.outside_mono hF (by
  induction n generalizing c with
  | zero => rfl
  | succ n ih => simp only [Chip.expireAhead]; (repeat' split) <;> simp +decide [ih])

@[simp] theorem Chip.hearBlock_outside (p b) (c : Chip)
    {F : Foot} (hF : Foot.le { Foot.sending with xbar := true, due := true } F) :
    (Chip.hearBlock p b c).outside F = c.outside F :=
  Chip.outside_mono hF (by simp +decide [Chip.hearBlock])

@[simp] theorem Chip.takeBlock_outside (p pkt b) (c : Chip)
    {F : Foot} (hF : Foot.le { Foot.packet with stamps := true, due := true } F) :
    (Chip.takeBlock p pkt b c).outside F = c.outside F :=
  Chip.outside_mono hF (by simp +decide [Chip.takeBlock])

@[simp] theorem Chip.takeFiller_outside (p b) (c : Chip)
    {F : Foot} (hF : Foot.le { Foot.sending with xbar := true, due := true } F) :
    (Chip.takeFiller p b c).outside F = c.outside F :=
  Chip.outside_mono hF (by simp +decide [Chip.takeFiller])

@[simp] theorem Chip.firstBlock_outside (p pkt b) (c : Chip)
    {F : Foot} (hF : Foot.le { Foot.packet with stamps := true, due := true } F) :
    (Chip.firstBlock p pkt b c).outside F = c.outside F :=
  Chip.outside_mono hF (by simp +decide [Chip.firstBlock])

@[simp] theorem Chip.laterBlock_outside (p b) (c : Chip)
    {F : Foot} (hF : Foot.le { Foot.packet with stamps := true, due := true } F) :
    (Chip.laterBlock p b c).outside F = c.outside F :=
  Chip.outside_mono hF (by simp +decide [Chip.laterBlock])

@[simp] theorem Chip.readBack_outside (h q k check) (c : Chip)
    {F : Foot} (hF : Foot.le { Foot.event with xbar := true, lard := true, due := true } F) :
    (Chip.readBack h q k check c).outside F = c.outside F :=
  Chip.outside_mono hF (by simp only [Chip.readBack]; split <;> simp +decide)

@[simp] theorem Chip.joinSpilled_outside (h q k) (n : Nat) (c : Chip)
    {F : Foot} (hF : Foot.le { xbar := true } F) : (Chip.joinSpilled h q k n c).outside F = c.outside F :=
  Chip.outside_mono hF (by
  induction n generalizing c with
  | zero => rfl
  | succ n ih => simp only [Chip.joinSpilled]; (repeat' split) <;> simp +decide [ih])

@[simp] theorem Chip.settleQueue_outside (c : Chip) (key)
    {F : Foot} (hF : Foot.le { xbar := true } F) : (Chip.settleQueue c key).outside F = c.outside F :=
  Chip.outside_mono hF (by simp +decide [Chip.settleQueue])

@[simp] theorem Chip.spillGuard_outside (c : Chip)
    {F : Foot} (hF : Foot.le { xbar := true } F) : (Chip.spillGuard c).outside F = c.outside F :=
  Chip.outside_mono hF rfl

@[simp] theorem Chip.spillBoundary_outside (c : Chip)
    {F : Foot} (hF : Foot.le { xbar := true } F) : (Chip.spillBoundary c).outside F = c.outside F :=
  Chip.outside_mono hF (by simp +decide [Chip.spillBoundary])

@[simp] theorem Chip.checkView_outside (p) (c : Chip)
    {F : Foot} (hF : Foot.le { due := true } F) : (Chip.checkView p c).outside F = c.outside F :=
  Chip.outside_mono hF (by unfold Chip.checkView; split <;> rfl)

@[simp] theorem Chip.enterDispute_outside (p) (c : Chip)
    {F : Foot} (hF : Foot.le { Foot.event with ports := true, xbar := true } F) :
    (Chip.enterDispute p c).outside F = c.outside F :=
  Chip.outside_mono hF (by simp only [Chip.enterDispute]; split <;> simp +decide)

@[simp] theorem Chip.resolveDispute_outside (p mgmt) (c : Chip)
    {F : Foot} (hF : Foot.le { ports := true, xbar := true } F) : (Chip.resolveDispute p mgmt c).outside F = c.outside F :=
  Chip.outside_mono hF (by simp +decide [Chip.resolveDispute])

@[simp] theorem Chip.applyBufConfig_outside (h p m) (c : Chip)
    {F : Foot} (hF : Foot.le { xbar := true } F) : (Chip.applyBufConfig h p m c).outside F = c.outside F :=
  Chip.outside_mono hF rfl

@[simp] theorem Chip.applyQueueConfig_outside (keys v) (c : Chip)
    {F : Foot} (hF : Foot.le { xbar := true } F) : (Chip.applyQueueConfig keys v c).outside F = c.outside F :=
  Chip.outside_mono hF rfl

@[simp] theorem Chip.applyMcast_outside (g append set) (c : Chip)
    {F : Foot} (hF : Foot.le { xbar := true } F) : (Chip.applyMcast g append set c).outside F = c.outside F :=
  Chip.outside_mono hF rfl

/-! ### What the operations of Time leave -/

@[simp] theorem Chip.raiseUnaligned_outside (c : Chip)
    {F : Foot} (hF : Foot.le Foot.event F) : (Chip.raiseUnaligned c).outside F = c.outside F :=
  Chip.outside_mono hF (by simp +decide [Chip.raiseUnaligned])

@[simp] theorem Chip.setAligned_outside (b) (c : Chip)
    {F : Foot} (hF : Foot.le { Foot.event with base := true } F) : (Chip.setAligned b c).outside F = c.outside F :=
  Chip.outside_mono hF (by simp +decide [Chip.setAligned])

@[simp] theorem Chip.setServo_outside (s) (c : Chip)
    {F : Foot} (hF : Foot.le { base := true } F) : (Chip.setServo s c).outside F = c.outside F :=
  Chip.outside_mono hF rfl

@[simp] theorem Chip.setFtState_outside (s) (c : Chip)
    {F : Foot} (hF : Foot.le { base := true } F) : (Chip.setFtState s c).outside F = c.outside F :=
  Chip.outside_mono hF rfl

@[simp] theorem Chip.enterHoldover_outside (c : Chip)
    {F : Foot} (hF : Foot.le { Foot.event with base := true } F) : (Chip.enterHoldover c).outside F = c.outside F :=
  Chip.outside_mono hF (by simp +decide [Chip.enterHoldover])

@[simp] theorem Chip.missExchange_outside (c : Chip)
    {F : Foot} (hF : Foot.le { Foot.event with base := true } F) : (Chip.missExchange c).outside F = c.outside F :=
  Chip.outside_mono hF (by simp +decide [Chip.missExchange])

@[simp] theorem Chip.sendExchange_outside (c : Chip)
    {F : Foot} (hF : Foot.le { Foot.sending with base := true } F) : (Chip.sendExchange c).outside F = c.outside F :=
  Chip.outside_mono hF (by simp +decide [Chip.sendExchange])

@[simp] theorem Chip.answerExchange_outside (p pkt t2) (c : Chip)
    {F : Foot} (hF : Foot.le Foot.sending F) : (Chip.answerExchange p pkt t2 c).outside F = c.outside F :=
  Chip.outside_mono hF (by simp +decide [Chip.answerExchange])

@[simp] theorem Chip.stepToParent_outside (c : Chip)
    {F : Foot} (hF : Foot.le { clock := true, base := true, ports := true, nest := true, sch := true, kit := true, loom := true, gate := true, twin := true, unrecorded := true, regs := true, boot := true, due := true } F) :
    (Chip.stepToParent c).outside F = c.outside F :=
  Chip.outside_mono hF (by simp +decide [Chip.stepToParent])

@[simp] theorem Chip.slewFt_outside (c : Chip)
    {F : Foot} (hF : Foot.le { base := true, free := true } F) : (Chip.slewFt c).outside F = c.outside F :=
  Chip.outside_mono hF rfl

@[simp] theorem Chip.servoUpdate_outside (offsetPs) (c : Chip)
    {F : Foot} (hF : Foot.le { Foot.event with clock := true, base := true, ports := true, nest := true, sch := true, kit := true, loom := true, gate := true, twin := true, unrecorded := true, regs := true, boot := true, due := true, free := true } F) :
    (Chip.servoUpdate offsetPs c).outside F = c.outside F :=
  Chip.outside_mono hF (by simp only [Chip.servoUpdate]; split <;> simp +decide)

@[simp] theorem Chip.takeExchange_outside (p pkt t4) (c : Chip)
    {F : Foot} (hF : Foot.le { Foot.event with clock := true, base := true, ports := true, nest := true, sch := true, kit := true, loom := true, gate := true, twin := true, unrecorded := true, regs := true, boot := true, due := true, free := true } F) :
    (Chip.takeExchange p pkt t4 c).outside F = c.outside F :=
  Chip.outside_mono hF (by simp +decide [Chip.takeExchange])

@[simp] theorem Chip.expireHoldover_outside (c : Chip)
    {F : Foot} (hF : Foot.le { Foot.event with base := true } F) : (Chip.expireHoldover c).outside F = c.outside F :=
  Chip.outside_mono hF (by simp +decide [Chip.expireHoldover])

@[simp] theorem Chip.loadTime_outside (c : Chip)
    {F : Foot} (hF : Foot.le { Foot.event with clock := true, base := true, ports := true, nest := true, sch := true, kit := true, loom := true, gate := true, twin := true, unrecorded := true, regs := true, boot := true, due := true } F) :
    (Chip.loadTime c).outside F = c.outside F :=
  Chip.outside_mono hF (by simp only [Chip.loadTime]; split <;> simp +decide)

@[simp] theorem Chip.restartServo_outside (c : Chip)
    {F : Foot} (hF : Foot.le { Foot.event with clock := true, base := true } F) :
    (Chip.restartServo c).outside F = c.outside F :=
  Chip.outside_mono hF (by simp +decide [Chip.restartServo])

@[simp] theorem Chip.takeAnnounce_outside (a) (c : Chip)
    {F : Foot} (hF : Foot.le { Foot.event with base := true } F) : (Chip.takeAnnounce a c).outside F = c.outside F :=
  Chip.outside_mono hF (by simp +decide [Chip.takeAnnounce])

@[simp] theorem Chip.takeSync_outside (m seq twoStep t1 t2) (c : Chip)
    {F : Foot} (hF : Foot.le { base := true } F) : (Chip.takeSync m seq twoStep t1 t2 c).outside F = c.outside F :=
  Chip.outside_mono hF (by unfold Chip.takeSync; split <;> rfl)

@[simp] theorem Chip.takeFollowUp_outside (m seq t1) (c : Chip)
    {F : Foot} (hF : Foot.le { base := true } F) : (Chip.takeFollowUp m seq t1 c).outside F = c.outside F :=
  Chip.outside_mono hF (by unfold Chip.takeFollowUp; split <;> rfl)

@[simp] theorem Chip.sendDelayReq_outside (c : Chip)
    {F : Foot} (hF : Foot.le { base := true, sent := true } F) : (Chip.sendDelayReq c).outside F = c.outside F :=
  Chip.outside_mono hF (by unfold Chip.sendDelayReq; split <;> rfl)

@[simp] theorem Chip.adjustPt_outside (off) (c : Chip)
    {F : Foot} (hF : Foot.le { clock := true, base := true, free := true } F) :
    (Chip.adjustPt off c).outside F = c.outside F :=
  Chip.outside_mono hF (by unfold Chip.adjustPt; split <;> rfl)

@[simp] theorem Chip.steerFt_outside (c : Chip)
    {F : Foot} (hF : Foot.le { base := true, free := true } F) : (Chip.steerFt c).outside F = c.outside F :=
  Chip.outside_mono hF (by unfold Chip.steerFt; split <;> rfl)

@[simp] theorem Chip.takeDelayResp_outside (m seq t4) (c : Chip)
    {F : Foot} (hF : Foot.le { clock := true, base := true, free := true } F) :
    (Chip.takeDelayResp m seq t4 c).outside F = c.outside F :=
  Chip.outside_mono hF (by simp only [Chip.takeDelayResp]; split <;> simp +decide)

@[simp] theorem Chip.loseMaster_outside (c : Chip)
    {F : Foot} (hF : Foot.le { Foot.event with base := true } F) : (Chip.loseMaster c).outside F = c.outside F :=
  Chip.outside_mono hF (by simp +decide [Chip.loseMaster])

@[simp] theorem Chip.setCap_outside (n v) (c : Chip)
    {F : Foot} (hF : Foot.le { base := true } F) : (Chip.setCap n v c).outside F = c.outside F :=
  Chip.outside_mono hF (by unfold Chip.setCap; split <;> rfl)

@[simp] theorem Chip.captureEdge_outside (n rising) (c : Chip)
    {F : Foot} (hF : Foot.le { base := true, ctr := true } F) : (Chip.captureEdge n rising c).outside F = c.outside F :=
  Chip.outside_mono hF (by simp +decide [Chip.captureEdge])

@[simp] theorem Chip.captureReady_outside (n) (c : Chip)
    {F : Foot} (hF : Foot.le { Foot.event with base := true } F) : (Chip.captureReady n c).outside F = c.outside F :=
  Chip.outside_mono hF (by simp +decide [Chip.captureReady])

@[simp] theorem Chip.readCap_outside (n) (c : Chip)
    {F : Foot} (hF : Foot.le { base := true, sent := true } F) : (Chip.readCap n c).outside F = c.outside F :=
  Chip.outside_mono hF (by simp +decide [Chip.readCap])

@[simp] theorem Chip.popStamp_outside (h) (c : Chip)
    {F : Foot} (hF : Foot.le { stamps := true, sent := true } F) : (Chip.popStamp h c).outside F = c.outside F :=
  Chip.outside_mono hF (by simp only [Chip.popStamp]; split <;> simp +decide)

@[simp] theorem Chip.readNs_outside (req pt) (c : Chip)
    {F : Foot} (hF : Foot.le { base := true, sent := true } F) : (Chip.readNs req pt c).outside F = c.outside F :=
  Chip.outside_mono hF (by unfold Chip.readNs; split <;> rfl)

/-! ### What the operations of Calendars leave -/

@[simp] theorem Chip.openEntry_outside (k) (c : Chip)
    {F : Foot} (hF : Foot.le { clock := true, sch := true, ctr := true, sent := true } F) :
    (Chip.openEntry k c).outside F = c.outside F :=
  Chip.outside_mono hF (by simp +decide [Chip.openEntry])

@[simp] theorem Chip.calBoundary_outside (c : Chip) (key)
    {F : Foot} (hF : Foot.le { sch := true } F) : (Chip.calBoundary c key).outside F = c.outside F :=
  Chip.outside_mono hF (by simp +decide [Chip.calBoundary])

@[simp] theorem Chip.startPacket_outside (p k late) (c : Chip)
    {F : Foot} (hF : Foot.le { Foot.event with stamps := true, xbar := true, sch := true } F) :
    (Chip.startPacket p k late c).outside F = c.outside F :=
  Chip.outside_mono hF (by simp only [Chip.startPacket]; split <;> simp +decide)

@[simp] theorem Chip.schedulePort_outside (p) (c : Chip)
    {F : Foot} (hF : Foot.le { Foot.sending with xbar := true } F) : (Chip.schedulePort p c).outside F = c.outside F :=
  Chip.outside_mono hF (by simp only [Chip.schedulePort]; (repeat' split) <;> simp +decide)

@[simp] theorem Chip.spanBoundary_outside (h) (c : Chip)
    {F : Foot} (hF : Foot.le { xbar := true } F) : (Chip.spanBoundary h c).outside F = c.outside F :=
  Chip.outside_mono hF rfl

@[simp] theorem Chip.refitSpan_outside (h) (c : Chip)
    {F : Foot} (hF : Foot.le { xbar := true, sch := true } F) : (Chip.refitSpan h c).outside F = c.outside F :=
  Chip.outside_mono hF (by simp +decide [Chip.refitSpan])

@[simp] theorem Chip.scheduleSpan_outside (h) (c : Chip)
    {F : Foot} (hF : Foot.le Foot.packet F) : (Chip.scheduleSpan h c).outside F = c.outside F :=
  Chip.outside_mono hF (by simp only [Chip.scheduleSpan]; (repeat' split) <;> simp +decide)

@[simp] theorem Chip.markerWindow_outside (c : Chip) (p)
    {F : Foot} (hF : Foot.le { ports := true, nest := true, sch := true, ctr := true, sent := true } F) :
    (Chip.markerWindow c p).outside F = c.outside F :=
  Chip.outside_mono hF (by simp +decide [Chip.markerWindow])

@[simp] theorem Chip.applyMeter_outside (m cir pir cbs pbs g y r) (c : Chip)
    {F : Foot} (hF : Foot.le { sch := true } F) : (Chip.applyMeter m cir pir cbs pbs g y r c).outside F = c.outside F :=
  Chip.outside_mono hF rfl

@[simp] theorem Chip.applyBinding_outside (p k m en) (c : Chip)
    {F : Foot} (hF : Foot.le { sch := true } F) : (Chip.applyBinding p k m en c).outside F = c.outside F :=
  Chip.outside_mono hF rfl

/-! ### What the operations of Gates leave -/

@[simp] theorem Chip.refuseToken_outside (key) (c : Chip)
    {F : Foot} (hF : Foot.le { ctr := true } F) : (Chip.refuseToken key c).outside F = c.outside F :=
  Chip.outside_mono hF rfl

@[simp] theorem Chip.writeToken_outside (g x t part payload) (c : Chip)
    {F : Foot} (hF : Foot.le { bench := true } F) : (Chip.writeToken g x t part payload c).outside F = c.outside F :=
  Chip.outside_mono hF (by simp +decide [Chip.writeToken])

@[simp] theorem Chip.keepToken_outside (key known g x t parts) (c : Chip)
    {F : Foot} (hF : Foot.le { bench := true, gate := true, ctr := true } F) :
    (Chip.keepToken key known g x t parts c).outside F = c.outside F :=
  Chip.outside_mono hF (by simp +decide [Chip.keepToken])

@[simp] theorem Chip.writeKept_outside (g) (c : Chip)
    {F : Foot} (hF : Foot.le { bench := true } F) : (Chip.writeKept g c).outside F = c.outside F :=
  Chip.outside_mono hF (by
  simp only [Chip.writeKept]
  split
  · rfl
  · exact foldl_outside _ _ fun c t => foldl_outside _ _ fun c e => by simp +decide)

@[simp] theorem Chip.tokenAt_outside (key g p) (c : Chip)
    {F : Foot} (hF : Foot.le { Foot.event with bench := true, gate := true } F) :
    (Chip.tokenAt key g p c).outside F = c.outside F :=
  Chip.outside_mono hF (by simp only [Chip.tokenAt]; (repeat' split) <;> simp +decide)

@[simp] theorem Chip.token_outside (h p) (c : Chip)
    {F : Foot} (hF : Foot.le { Foot.event with bench := true, gate := true } F) :
    (Chip.token h p c).outside F = c.outside F :=
  Chip.outside_mono hF (by simp only [Chip.token]; split <;> simp +decide)

@[simp] theorem Chip.gateGuard_outside (c : Chip)
    {F : Foot} (hF : Foot.le { gate := true, ctr := true } F) : (Chip.gateGuard c).outside F = c.outside F :=
  Chip.outside_mono hF (by
  refine foldl_outside _ _ fun c x => ?_
  simp only
  split
  · rfl
  · split <;> simp +decide)

@[simp] theorem Chip.capacityCheck_outside (key) (c : Chip)
    {F : Foot} (hF : Foot.le { gate := true, ctr := true } F) : (Chip.capacityCheck key c).outside F = c.outside F :=
  Chip.outside_mono hF (by simp only [Chip.capacityCheck]; (repeat' split) <;> simp +decide)

@[simp] theorem Chip.dispatchCopy_outside (key tag many p) (c : Chip)
    {F : Foot} (hF : Foot.le Foot.packet F) : (Chip.dispatchCopy key tag many p c).outside F = c.outside F :=
  Chip.outside_mono hF (by
  simp only [Chip.dispatchCopy]
  split
  next e =>
    refine Eq.trans ?_ (Chip.outside_of_fst e (by simp +decide))
    simp +decide
  next e =>
    refine Eq.trans ?_ (Chip.outside_of_fst e (by simp +decide))
    simp +decide)

@[simp] theorem Chip.dispatchPart_outside (key g deal t part) (c : Chip)
    {F : Foot} (hF : Foot.le Foot.packet F) : (Chip.dispatchPart key g deal t part c).outside F = c.outside F :=
  Chip.outside_mono hF (by simp only [Chip.dispatchPart]; split <;> simp +decide)

@[simp] theorem Chip.dispatchToken_outside (key g deal t) (c : Chip)
    {F : Foot} (hF : Foot.le Foot.packet F) : (Chip.dispatchToken key g deal t c).outside F = c.outside F :=
  Chip.outside_mono hF (by simp +decide [Chip.dispatchToken])

@[simp] theorem Chip.dispatchBatch_outside (key g x) (c : Chip)
    {F : Foot} (hF : Foot.le { Foot.packet with gate := true } F) : (Chip.dispatchBatch key g x c).outside F = c.outside F :=
  Chip.outside_mono hF (by simp only [Chip.dispatchBatch]; split <;> simp +decide)

@[simp] theorem Chip.replyAt_outside (key g p) (c : Chip)
    {F : Foot} (hF : Foot.le { gate := true, ctr := true } F) : (Chip.replyAt key g p c).outside F = c.outside F :=
  Chip.outside_mono hF (by simp only [Chip.replyAt]; (repeat' split) <;> simp +decide)

@[simp] theorem Chip.reply_outside (h p) (c : Chip)
    {F : Foot} (hF : Foot.le { gate := true, ctr := true } F) : (Chip.reply h p c).outside F = c.outside F :=
  Chip.outside_mono hF (by simp only [Chip.reply]; split <;> simp +decide)

@[simp] theorem Chip.combineDeadline_outside (key) (c : Chip)
    {F : Foot} (hF : Foot.le { Foot.event with gate := true } F) : (Chip.combineDeadline key c).outside F = c.outside F :=
  Chip.outside_mono hF (by simp only [Chip.combineDeadline]; split <;> simp +decide)

@[simp] theorem Chip.writeCombine_outside (g x parity t) (c : Chip)
    {F : Foot} (hF : Foot.le { bench := true } F) : (Chip.writeCombine g x parity t c).outside F = c.outside F :=
  Chip.outside_mono hF (by simp +decide [Chip.writeCombine])

@[simp] theorem Chip.transferBatch_outside (key g x r) (c : Chip)
    {F : Foot} (hF : Foot.le { bench := true, gate := true } F) : (Chip.transferBatch key g x r c).outside F = c.outside F :=
  Chip.outside_mono hF (by simp +decide [Chip.transferBatch])

@[simp] theorem Chip.gateTransfers_outside (key) (c : Chip)
    {F : Foot} (hF : Foot.le { bench := true, gate := true } F) : (Chip.gateTransfers key c).outside F = c.outside F :=
  Chip.outside_mono hF (by
  simp only [Chip.gateTransfers]
  split
  · rfl
  · refine foldl_outside _ _ fun c x => ?_
    (repeat' split) <;> simp +decide)

@[simp] theorem Chip.fetchWeights_outside (g region bank) (c : Chip)
    {F : Foot} (hF : Foot.le { loom := true, lard := true } F) :
    (Chip.fetchWeights g region bank c).outside F = c.outside F :=
  Chip.outside_mono hF (by simp +decide [Chip.fetchWeights])

@[simp] theorem Chip.applyGateLoad_outside (key) (c : Chip)
    {F : Foot} (hF : Foot.le { kit := true, loom := true, gate := true, lard := true } F) :
    (Chip.applyGateLoad key c).outside F = c.outside F :=
  Chip.outside_mono hF (by simp only [Chip.applyGateLoad]; split <;> simp +decide)

@[simp] theorem Chip.applyGateUnload_outside (key) (c : Chip)
    {F : Foot} (hF : Foot.le { gate := true } F) : (Chip.applyGateUnload key c).outside F = c.outside F :=
  Chip.outside_mono hF (by unfold Chip.applyGateUnload; split <;> rfl)

@[simp] theorem Chip.applyGateMap_outside (key first experts) (c : Chip)
    {F : Foot} (hF : Foot.le { gate := true } F) : (Chip.applyGateMap key first experts c).outside F = c.outside F :=
  Chip.outside_mono hF (by unfold Chip.applyGateMap; split <;> rfl)

@[simp] theorem Chip.applyGateCap_outside (key first caps) (c : Chip)
    {F : Foot} (hF : Foot.le { gate := true } F) : (Chip.applyGateCap key first caps c).outside F = c.outside F :=
  Chip.outside_mono hF (by unfold Chip.applyGateCap; split <;> rfl)

@[simp] theorem Chip.loseReplica_outside (key q) (c : Chip)
    {F : Foot} (hF : Foot.le { Foot.event with gate := true } F) : (Chip.loseReplica key q c).outside F = c.outside F :=
  Chip.outside_mono hF (by simp only [Chip.loseReplica]; split <;> simp +decide)

@[simp] theorem Chip.loseLoomReplicas_outside (n) (c : Chip)
    {F : Foot} (hF : Foot.le { gate := true, events := true, ctr := true, sent := true } F) :
    (Chip.loseLoomReplicas n c).outside F = c.outside F :=
  Chip.outside_mono hF (by
  refine foldl_outside _ _ fun c x => ?_
  split <;> simp +decide)

@[simp] theorem Chip.gateBoundary_outside (key) (c : Chip)
    {F : Foot} (hF : Foot.le { ports := true, nest := true, xbar := true, sch := true, loom := true, bench := true, gate := true, lard := true, events := true, ctr := true, sent := true, free := true } F) :
    (Chip.gateBoundary key c).outside F = c.outside F :=
  Chip.outside_mono hF (by
  unfold Chip.gateBoundary
  split
  · rfl
  · extract_lets g1 g2 g3 g4 g5 c1 c2
    simp +decide
    simp only [c2]
    split <;> simp +decide [c1])

@[simp] theorem Chip.gatesBoundary_outside (c : Chip)
    {F : Foot} (hF : Foot.le { Foot.packet with loom := true, bench := true, gate := true, lard := true } F) :
    (Chip.gatesBoundary c).outside F = c.outside F :=
  Chip.outside_mono hF (by simp +decide [Chip.gatesBoundary])

/-! ### What the operations of Sieve leave -/

@[simp] theorem Chip.setSv_outside (v) (c : Chip)
    {F : Foot} (hF : Foot.le { sv := true } F) : (Chip.setSv v c).outside F = c.outside F :=
  Chip.outside_mono hF rfl

@[simp] theorem Chip.setSvBank_outside (b v) (c : Chip)
    {F : Foot} (hF : Foot.le { sv := true } F) : (Chip.setSvBank b v c).outside F = c.outside F :=
  Chip.outside_mono hF rfl

@[simp] theorem Chip.afterTrim_outside (b eff) (c : Chip)
    {F : Foot} (hF : Foot.le { Foot.event with sv := true } F) : (Chip.afterTrim b eff c).outside F = c.outside F :=
  Chip.outside_mono hF (by simp +decide [Chip.afterTrim])

@[simp] theorem Chip.beginWindow_outside (at_) (c : Chip)
    {F : Foot} (hF : Foot.le { sv := true } F) : (Chip.beginWindow at_ c).outside F = c.outside F :=
  Chip.outside_mono hF (by simp only [Chip.beginWindow]; split <;> simp +decide)

@[simp] theorem Chip.trimWindow_outside (c : Chip)
    {F : Foot} (hF : Foot.le { sv := true, ctr := true } F) : (Chip.trimWindow c).outside F = c.outside F :=
  Chip.outside_mono hF (by simp +decide [Chip.trimWindow])

@[simp] theorem Chip.trimEnd_outside (effs) (c : Chip)
    {F : Foot} (hF : Foot.le { Foot.event with sv := true } F) : (Chip.trimEnd effs c).outside F = c.outside F :=
  Chip.outside_mono hF (by simp only [Chip.trimEnd]; split <;> simp +decide)

@[simp] theorem Chip.calibrationDone_outside (b bits) (c : Chip)
    {F : Foot} (hF : Foot.le { Foot.event with sv := true } F) : (Chip.calibrationDone b bits c).outside F = c.outside F :=
  Chip.outside_mono hF (by simp +decide [Chip.calibrationDone])

@[simp] theorem Chip.applySieveLoad_outside (b p sigma) (c : Chip)
    {F : Foot} (hF : Foot.le { sv := true } F) : (Chip.applySieveLoad b p sigma c).outside F = c.outside F :=
  Chip.outside_mono hF (by unfold Chip.applySieveLoad; (repeat' split) <;> rfl)

@[simp] theorem Chip.clearBank_outside (b) (c : Chip)
    {F : Foot} (hF : Foot.le { sv := true } F) : (Chip.clearBank b c).outside F = c.outside F :=
  Chip.outside_mono hF rfl

@[simp] theorem Chip.applySieveClear_outside (b) (c : Chip)
    {F : Foot} (hF : Foot.le { sv := true } F) : (Chip.applySieveClear b c).outside F = c.outside F :=
  Chip.outside_mono hF (by unfold Chip.applySieveClear; (repeat' split) <;> rfl)

@[simp] theorem Chip.afterInstruction_outside (b) (c : Chip)
    {F : Foot} (hF : Foot.le { sv := true } F) : (Chip.afterInstruction b c).outside F = c.outside F :=
  Chip.outside_mono hF (by simp only [Chip.afterInstruction]; (repeat' split) <;> simp +decide)

@[simp] theorem Chip.sieveStart_outside (c : Chip)
    {F : Foot} (hF : Foot.le { Foot.event with kit := true, loom := true, gate := true, sv := true, lard := true } F) :
    (Chip.sieveStart c).outside F = c.outside F :=
  Chip.outside_mono hF (by simp only [Chip.sieveStart]; split <;> simp +decide)

@[simp] theorem Chip.sieveDone_outside (c : Chip)
    {F : Foot} (hF : Foot.le { loom := true, bench := true, sv := true, ctr := true, free := true } F) :
    (Chip.sieveDone c).outside F = c.outside F :=
  Chip.outside_mono hF (by simp only [Chip.sieveDone]; split <;> simp +decide)

@[simp] theorem Chip.combAction_outside (c : Chip)
    {F : Foot} (hF : Foot.le { Foot.event with sv := true, due := true } F) : (Chip.combAction c).outside F = c.outside F :=
  Chip.outside_mono hF (by simp +decide [Chip.combAction])

@[simp] theorem Chip.retireSieve_outside (c : Chip)
    {F : Foot} (hF : Foot.le { Foot.event with kit := true, loom := true, bench := true, gate := true, sv := true, lard := true, unrecorded := true, free := true } F) :
    (Chip.retireSieve c).outside F = c.outside F :=
  Chip.outside_mono hF (by simp only [Chip.retireSieve]; (repeat' split) <;> simp +decide)

@[simp] theorem Chip.sieveLoadReady_outside (b check) (c : Chip)
    {F : Foot} (hF : Foot.le
      { ports := true, nest := true, xbar := true, sch := true, lard := true, mbx := true, waiting := true, events := true, ctr := true, due := true, sent := true, free := true } F) :
    (Chip.sieveLoadReady b check c).outside F = c.outside F :=
  Chip.outside_mono hF (by
  unfold Chip.sieveLoadReady
  split
  · rfl
  · extract_lets x h off r bytes p c1 d
    have h1 : c1.outside { lard := true, events := true, ctr := true, sent := true, due := true } =
        c.outside { lard := true, events := true, ctr := true, sent := true, due := true } := by simp +decide [c1]
    clear_value c1 bytes p
    split
    · rfl
    · split
      · simp +decide
      · split
        · simp +decide
        · replace h1 := Chip.outside_mono (G := { ports := true, nest := true, xbar := true, sch := true, lard := true, mbx := true, waiting := true, events := true, ctr := true, due := true, sent := true, free := true }) (by decide) h1
          split
          · simp +decide [h1]
          · split
            next sigma c2 e =>
              have h2 : c2.outside { free := true } = c1.outside { free := true } := by
                split at e <;> cases e <;> simp [Chip.draw]
              replace h2 := Chip.outside_mono (G := { ports := true, nest := true, xbar := true, sch := true, lard := true, mbx := true, waiting := true, events := true, ctr := true, due := true, sent := true, free := true }) (by decide) h2
              simp +decide [h1, h2])

/-! ### What the operations of Twin leave -/

@[simp] theorem Chip.disableNow_outside (p) (c : Chip)
    {F : Foot} (hF : Foot.le { Foot.sending with xbar := true, due := true } F) :
    (Chip.disableNow p c).outside F = c.outside F :=
  Chip.outside_mono hF (by simp +decide [Chip.disableNow])

@[simp] theorem Chip.setTwin_outside (v) (c : Chip)
    {F : Foot} (hF : Foot.le { twin := true } F) : (Chip.setTwin v c).outside F = c.outside F :=
  Chip.outside_mono hF rfl

@[simp] theorem Chip.toPartner_outside (h seq resend payload) (c : Chip)
    {F : Foot} (hF : Foot.le Foot.sending F) : (Chip.toPartner h seq resend payload c).outside F = c.outside F :=
  Chip.outside_mono hF (by simp only [Chip.toPartner]; split <;> simp +decide)

@[simp] theorem Chip.sendMack_outside (h) (c : Chip)
    {F : Foot} (hF : Foot.le Foot.sending F) : (Chip.sendMack h c).outside F = c.outside F :=
  Chip.outside_mono hF (by exact Chip.toPartner_outside _ _ _ _ c rfl)

@[simp] theorem Chip.resendMirror_outside (h) (c : Chip)
    {F : Foot} (hF : Foot.le { Foot.sending with twin := true } F) : (Chip.resendMirror h c).outside F = c.outside F :=
  Chip.outside_mono hF (by simp +decide [Chip.resendMirror])

@[simp] theorem Chip.packMirror_outside (h) (n : Nat) (c : Chip)
    {F : Foot} (hF : Foot.le { stamps := true, ports := true, nest := true, sch := true, twin := true, events := true, ctr := true, sent := true } F) :
    (Chip.packMirror h n c).outside F = c.outside F :=
  Chip.outside_mono hF (by
  induction n generalizing c with
  | zero => rfl
  | succ n ih =>
    simp only [Chip.packMirror]
    split
    · rfl
    · rw [ih]; simp +decide)

@[simp] theorem Chip.mirrorJob_outside (bseq payload) (c : Chip)
    {F : Foot} (hF : Foot.le Foot.sending F) : (Chip.mirrorJob bseq payload c).outside F = c.outside F :=
  Chip.outside_mono hF (by simp only [Chip.mirrorJob]; split <;> simp +decide)

@[simp] theorem Chip.startResync_outside (h) (c : Chip)
    {F : Foot} (hF : Foot.le { Foot.sending with twin := true } F) : (Chip.startResync h c).outside F = c.outside F :=
  Chip.outside_mono hF (by simp +decide [Chip.startResync])

@[simp] theorem Chip.fromPartner_outside {f : Nat → Chip → Chip} (p xkind) (c : Chip) {F : Foot} (hF : Foot.le { twin := true, ctr := true } F)
    (hf : ∀ h c, (f h c).outside F = c.outside F) : (Chip.fromPartner p xkind f c).outside F = c.outside F := by
  have h1 : Foot.le { twin := true } F := Foot.le_trans rfl hF
  have h2 : Foot.le { ctr := true } F := Foot.le_trans rfl hF
  simp [Chip.fromPartner, hf, h1, h2]

@[simp] theorem Chip.takeMack_outside (p) (c : Chip)
    {F : Foot} (hF : Foot.le { twin := true, ctr := true } F) : (Chip.takeMack p c).outside F = c.outside F :=
  Chip.outside_mono hF (by simp +decide [Chip.takeMack])

@[simp] theorem Chip.applyRecord_outside (h r) (c : Chip)
    {F : Foot} (hF : Foot.le { Foot.event with roll := true, lard := true, twin := true } F) :
    (Chip.applyRecord h r c).outside F = c.outside F :=
  Chip.outside_mono hF (by simp +decide [Chip.applyRecord])

@[simp] theorem Chip.takeMirror_outside (p) (c : Chip)
    {F : Foot} (hF : Foot.le { roll := true, lard := true, twin := true, events := true, ctr := true, sent := true, free := true } F) :
    (Chip.takeMirror p c).outside F = c.outside F :=
  Chip.outside_mono hF (by
  refine Chip.fromPartner_outside _ _ c rfl fun h c => ?_
  simp only [Chip.draw]
  split
  · rfl
  · refine (foldl_outside _ _ fun c x => Chip.applyRecord_outside _ _ c rfl).trans ?_
    simp +decide)

@[simp] theorem Chip.mirrorRetry_outside (h) (c : Chip)
    {F : Foot} (hF : Foot.le { Foot.sending with twin := true } F) : (Chip.mirrorRetry h c).outside F = c.outside F :=
  Chip.outside_mono hF (by simp +decide [Chip.mirrorRetry])

@[simp] theorem Chip.copyPass_outside (h bad) (c : Chip)
    {F : Foot} (hF : Foot.le { Foot.event with roll := true, lard := true, twin := true, due := true } F) :
    (Chip.copyPass h bad c).outside F = c.outside F :=
  Chip.outside_mono hF (by simp +decide [Chip.copyPass])

@[simp] theorem Chip.lostMack_outside (h) (c : Chip)
    {F : Foot} (hF : Foot.le { Foot.sending with twin := true } F) : (Chip.lostMack h c).outside F = c.outside F :=
  Chip.outside_mono hF (by simp +decide [Chip.lostMack])

@[simp] theorem Chip.twinFaced_outside (c : Chip)
    {F : Foot} (hF : Foot.le { Foot.sending with twin := true } F) : (Chip.twinFaced c).outside F = c.outside F :=
  Chip.outside_mono hF (by simp +decide [Chip.twinFaced])

@[simp] theorem Chip.applyTwinPair_outside (partner r0 r1) (c : Chip)
    {F : Foot} (hF : Foot.le { Foot.sending with xbar := true, twin := true, due := true } F) :
    (Chip.applyTwinPair partner r0 r1 c).outside F = c.outside F :=
  Chip.outside_mono hF (by simp +decide [Chip.applyTwinPair])

@[simp] theorem Chip.applyTwinMirror_outside (h on full rate) (c : Chip)
    {F : Foot} (hF : Foot.le { Foot.sending with twin := true } F) :
    (Chip.applyTwinMirror h on full rate c).outside F = c.outside F :=
  Chip.outside_mono hF (by simp +decide [Chip.applyTwinMirror])

@[simp] theorem Chip.takeoverNotices_outside (c : Chip)
    {F : Foot} (hF : Foot.le { ports := true, sent := true } F) : (Chip.takeoverNotices c).outside F = c.outside F :=
  Chip.outside_mono hF (by simp +decide [Chip.takeoverNotices])

@[simp] theorem Chip.applyTakeover_outside (c : Chip)
    {F : Foot} (hF : Foot.le { Foot.sending with xbar := true, twin := true, due := true } F) :
    (Chip.applyTakeover c).outside F = c.outside F :=
  Chip.outside_mono hF (by simp +decide [Chip.applyTakeover])

@[simp] theorem Chip.mirrorBoundary_outside (h) (c : Chip)
    {F : Foot} (hF : Foot.le { Foot.sending with twin := true } F) : (Chip.mirrorBoundary h c).outside F = c.outside F :=
  Chip.outside_mono hF (by simp +decide [Chip.mirrorBoundary])

@[simp] theorem Chip.pairBoundary_outside (c : Chip)
    {F : Foot} (hF : Foot.le { Foot.sending with twin := true } F) : (Chip.pairBoundary c).outside F = c.outside F :=
  Chip.outside_mono hF (by simp only [Chip.pairBoundary]; split <;> simp +decide)

@[simp] theorem Chip.storeParity_outside (h g q t off bs) (c : Chip)
    {F : Foot} (hF : Foot.le { hbm := true } F) : (Chip.storeParity h g q t off bs c).outside F = c.outside F :=
  Chip.outside_mono hF (by simp only [Chip.storeParity]; split <;> simp +decide)

@[simp] theorem Chip.sendCoded_outside (h) (c : Chip)
    {F : Foot} (hF : Foot.le { Foot.packet with twin := true } F) : (Chip.sendCoded h c).outside F = c.outside F :=
  Chip.outside_mono hF (by simp +decide [Chip.sendCoded])

@[simp] theorem Chip.settleCoded_outside (h) (c : Chip)
    {F : Foot} (hF : Foot.le { Foot.packet with twin := true } F) : (Chip.settleCoded h c).outside F = c.outside F :=
  Chip.outside_mono hF (by simp +decide [Chip.settleCoded])

@[simp] theorem Chip.noteAdvance_outside (h j s) (c : Chip)
    {F : Foot} (hF : Foot.le { Foot.packet with twin := true } F) : (Chip.noteAdvance h j s c).outside F = c.outside F :=
  Chip.outside_mono hF (by simp +decide [Chip.noteAdvance])

@[simp] theorem Chip.endRebuildWait_outside (st words) (c : Chip)
    {F : Foot} (hF : Foot.le { Foot.packet with mbx := true, waiting := true } F) :
    (Chip.endRebuildWait st words c).outside F = c.outside F :=
  Chip.outside_mono hF (by simp only [Chip.endRebuildWait]; split <;> simp +decide)

@[simp] theorem Chip.loseTable_outside (c : Chip)
    {F : Foot} (hF : Foot.le { Foot.packet with twin := true, mbx := true, waiting := true } F) :
    (Chip.loseTable c).outside F = c.outside F :=
  Chip.outside_mono hF (by simp +decide [Chip.loseTable])

@[simp] theorem Chip.applyTableMember_outside (m lost name) (c : Chip)
    {F : Foot} (hF : Foot.le { Foot.packet with twin := true, mbx := true, waiting := true } F) :
    (Chip.applyTableMember m lost name c).outside F = c.outside F :=
  Chip.outside_mono hF (by simp +decide [Chip.applyTableMember])

@[simp] theorem Chip.fromMember_outside {f : Nat → Chip → Chip} (p kind xkind h) (c : Chip) {F : Foot} (hF : Foot.le { ctr := true } F)
    (hf : ∀ m c, (f m c).outside F = c.outside F) : (Chip.fromMember p kind xkind h f c).outside F = c.outside F := by
  simp [Chip.fromMember, hf, hF]

@[simp] theorem Chip.takeCode_outside {f : Chip → Chip} (h p kind xkind) (c : Chip) {F : Foot} (hF : Foot.le { twin := true, ctr := true } F)
    (hf : ∀ c, (f c).outside F = c.outside F) : (Chip.takeCode h p kind xkind f c).outside F = c.outside F := by
  have h1 : Foot.le { twin := true } F := Foot.le_trans rfl hF
  have h2 : Foot.le { ctr := true } F := Foot.le_trans rfl hF
  simp [Chip.takeCode, hf, h1, h2]

@[simp] theorem Chip.takeDelta_outside (h p) (c : Chip)
    {F : Foot} (hF : Foot.le { lard := true, hbm := true, twin := true, ctr := true } F) :
    (Chip.takeDelta h p c).outside F = c.outside F :=
  Chip.outside_mono hF (by simp +decide [Chip.takeDelta])

@[simp] theorem Chip.takePset_outside (h p) (c : Chip)
    {F : Foot} (hF : Foot.le { lard := true, hbm := true, twin := true, ctr := true } F) :
    (Chip.takePset h p c).outside F = c.outside F :=
  Chip.outside_mono hF (by simp +decide [Chip.takePset])

@[simp] theorem Chip.takeDack_outside (h p) (c : Chip)
    {F : Foot} (hF : Foot.le { ports := true, nest := true, xbar := true, sch := true, twin := true, events := true, ctr := true, sent := true, free := true } F) :
    (Chip.takeDack h p c).outside F = c.outside F :=
  Chip.outside_mono hF (by
  refine Chip.fromMember_outside _ _ _ _ c rfl fun m c => ?_
  refine (Chip.settleCoded_outside _ _ rfl).trans ((Chip.drainDeltas_outside _ _ _ rfl).trans ?_)
  exact Chip.setTable8_outside _ _ c rfl)

@[simp] theorem Chip.resendCode_outside (h) (c : Chip)
    {F : Foot} (hF : Foot.le { Foot.packet with twin := true } F) : (Chip.resendCode h c).outside F = c.outside F :=
  Chip.outside_mono hF (by simp +decide [Chip.resendCode])

@[simp] theorem Chip.dackBoundary_outside (h) (c : Chip)
    {F : Foot} (hF : Foot.le { ports := true, nest := true, xbar := true, sch := true, twin := true, events := true, ctr := true, sent := true, free := true } F) :
    (Chip.dackBoundary h c).outside F = c.outside F :=
  Chip.outside_mono hF (by
  refine (foldl_outside _ _ fun c m => ?_).trans (Chip.setTable8_outside _ _ c rfl)
  exact Chip.originate_outside _ _ _ _ _ _ c rfl)

@[simp] theorem Chip.startRebuild_outside (c : Chip)
    {F : Foot} (hF : Foot.le { Foot.event with twin := true } F) : (Chip.startRebuild c).outside F = c.outside F :=
  Chip.outside_mono hF (by simp +decide [Chip.startRebuild])

@[simp] theorem Chip.tryRebuild_outside (c : Chip)
    {F : Foot} (hF : Foot.le { Foot.packet with twin := true, mbx := true, waiting := true } F) :
    (Chip.tryRebuild c).outside F = c.outside F :=
  Chip.outside_mono hF (by simp +decide [Chip.tryRebuild])

@[simp] theorem Chip.sources_outside (c : Chip)
    {F : Foot} (hF : Foot.le { free := true } F) : (Chip.sources c).2.outside F = c.outside F :=
  Chip.outside_mono hF (by simp +decide [Chip.sources])

@[simp] theorem Chip.askUnit_outside (h g t tag m) (c : Chip)
    {F : Foot} (hF : Foot.le Foot.packet F) : (Chip.askUnit h g t tag m c).outside F = c.outside F :=
  Chip.outside_mono hF (by simp +decide [Chip.askUnit])

@[simp] theorem Chip.askMember_outside (h i m) (c : Chip)
    {F : Foot} (hF : Foot.le { Foot.packet with twin := true } F) : (Chip.askMember h i m c).outside F = c.outside F :=
  Chip.outside_mono hF (by simp +decide [Chip.askMember])

@[simp] theorem Chip.rebuildBoundary_outside (h) (c : Chip)
    {F : Foot} (hF : Foot.le { ports := true, nest := true, xbar := true, sch := true, twin := true, events := true, ctr := true, sent := true, free := true } F) :
    (Chip.rebuildBoundary h c).outside F = c.outside F :=
  Chip.outside_mono hF (by
  simp only [Chip.rebuildBoundary]
  split
  · rfl
  · refine (foldl_outside _ _ fun c i => ?_).trans (Chip.setTable8_outside _ _ c rfl)
    refine (foldl_outside _ _ fun c m => ?_).trans (Chip.sources_outside c rfl)
    exact Chip.askMember_outside _ _ _ c rfl)

@[simp] theorem Chip.takeUread_outside (h p) (c : Chip)
    {F : Foot} (hF : Foot.le { ports := true, nest := true, xbar := true, sch := true, lard := true, events := true, ctr := true, sent := true, free := true } F) :
    (Chip.takeUread h p c).outside F = c.outside F :=
  Chip.outside_mono hF (by
  refine Chip.fromMember_outside _ _ _ _ c rfl fun m c => ?_
  refine (foldl_outside _ _ fun c i => ?_).trans (Chip.chargeRecipe_outside _ _ c rfl)
  exact Chip.originate_outside _ _ _ _ _ _ c rfl)

@[simp] theorem Chip.takeUdata_outside (h p) (c : Chip)
    {F : Foot} (hF : Foot.le { twin := true, ctr := true } F) : (Chip.takeUdata h p c).outside F = c.outside F :=
  Chip.outside_mono hF (by simp +decide [Chip.takeUdata])

@[simp] theorem Chip.retryReads_outside (h) (c : Chip)
    {F : Foot} (hF : Foot.le { Foot.packet with twin := true } F) : (Chip.retryReads h c).outside F = c.outside F :=
  Chip.outside_mono hF (by simp +decide [Chip.retryReads])

@[simp] theorem Chip.sendPsets_outside (h g q t m unit) (c : Chip)
    {F : Foot} (hF : Foot.le { Foot.packet with twin := true } F) :
    (Chip.sendPsets h g q t m unit c).outside F = c.outside F :=
  Chip.outside_mono hF (by simp +decide [Chip.sendPsets])

@[simp] theorem Chip.storeRebuilt_outside (h u d) (c : Chip)
    {F : Foot} (hF : Foot.le { Foot.packet with lard := true, hbm := true, twin := true } F) :
    (Chip.storeRebuilt h u d c).outside F = c.outside F :=
  Chip.outside_mono hF (by simp only [Chip.storeRebuilt]; (repeat' split) <;> simp +decide)

@[simp] theorem Chip.psetRebuilt_outside (h u d q m) (c : Chip)
    {F : Foot} (hF : Foot.le { Foot.packet with twin := true } F) : (Chip.psetRebuilt h u d q m c).outside F = c.outside F :=
  Chip.outside_mono hF (by simp +decide [Chip.psetRebuilt])

@[simp] theorem Chip.rebuildStripe_outside (h) (c : Chip)
    {F : Foot} (hF : Foot.le { Foot.packet with lard := true, hbm := true, twin := true } F) :
    (Chip.rebuildStripe h c).outside F = c.outside F :=
  Chip.outside_mono hF (by simp +decide [Chip.rebuildStripe])

@[simp] theorem Chip.takeCoded_outside (h p) (c : Chip)
    {F : Foot} (hF : Foot.le { Foot.packet with twin := true, mbx := true, waiting := true } F) :
    (Chip.takeCoded h p c).outside F = c.outside F :=
  Chip.outside_mono hF (by simp +decide [Chip.takeCoded])

@[simp] theorem Chip.codedReport_outside (h) (c : Chip)
    {F : Foot} (hF : Foot.le { Foot.packet with twin := true } F) : (Chip.codedReport h c).outside F = c.outside F :=
  Chip.outside_mono hF (by simp +decide [Chip.codedReport])

@[simp] theorem Chip.fixImages_outside (j s) (c : Chip)
    {F : Foot} (hF : Foot.le { twin := true, waiting := true } F) : (Chip.fixImages j s c).outside F = c.outside F :=
  Chip.outside_mono hF rfl

@[simp] theorem Chip.ckptWritten_outside (c : Chip)
    {F : Foot} (hF : Foot.le { Foot.packet with lard := true, hbm := true, twin := true, mbx := true, waiting := true } F) :
    (Chip.ckptWritten c).outside F = c.outside F :=
  Chip.outside_mono hF (by simp only [Chip.ckptWritten]; (repeat' split) <;> simp +decide)

@[simp] theorem Chip.restoreRecord_outside (rs x) (c : Chip) {F : Foot}
    (hF : Foot.le { nest := true, sch := true, roll := true, lard := true, twin := true, events := true, ctr := true, due := true, sent := true } F) :
    (Chip.restoreRecord rs x c).outside F = c.outside F :=
  Chip.outside_mono hF (by
  unfold Chip.restoreRecord
  extract_lets h r b later e0 e c1 t key k bank deals bank' s
  have hl : ∀ y c, (later y c).outside { due := true } = c.outside { due := true } := fun y c => by simp +decide [later]
  replace hl : ∀ y c, (later y c).outside { nest := true, sch := true, roll := true, lard := true, twin := true, events := true, ctr := true, due := true, sent := true } = c.outside { nest := true, sch := true, roll := true, lard := true, twin := true, events := true, ctr := true, due := true, sent := true } := fun y c => Chip.outside_mono (by decide) (hl y c)
  clear_value b later bank' e
  split
  · split <;> simp +decide [c1]
  · simp +decide only [Chip.outside_ite, hl, ite_self, Chip.setTable_outside, Chip.setCal_outside, foldl_outside, implies_true])

@[simp] theorem Chip.restoreDone_outside (c : Chip)
    {F : Foot} (hF : Foot.le { Foot.packet with roll := true, lard := true, twin := true, mbx := true, waiting := true, due := true } F) :
    (Chip.restoreDone c).outside F = c.outside F :=
  Chip.outside_mono hF (by simp only [Chip.restoreDone]; (repeat' split) <;> simp +decide)

@[simp] theorem Chip.setBc_outside (v) (c : Chip)
    {F : Foot} (hF : Foot.le { twin := true } F) : (Chip.setBc v c).outside F = c.outside F :=
  Chip.outside_mono hF rfl

@[simp] theorem Chip.hold_outside (x) (c : Chip)
    {F : Foot} (hF : Foot.le { twin := true } F) : (Chip.hold x c).outside F = c.outside F :=
  Chip.outside_mono hF rfl

@[simp] theorem Chip.acceptJob_outside (bseq payload) (c : Chip)
    {F : Foot} (hF : Foot.le { Foot.sending with twin := true } F) :
    (Chip.acceptJob bseq payload c).outside F = c.outside F :=
  Chip.outside_mono hF (by simp +decide [Chip.acceptJob])

@[simp] theorem Chip.takeJob_outside (p) (c : Chip)
    {F : Foot} (hF : Foot.le { Foot.sending with twin := true } F) : (Chip.takeJob p c).outside F = c.outside F :=
  Chip.outside_mono hF (by simp +decide [Chip.takeJob])

@[simp] theorem Chip.takeAsk_outside (p) (c : Chip)
    {F : Foot} (hF : Foot.le Foot.packet F) : (Chip.takeAsk p c).outside F = c.outside F :=
  Chip.outside_mono hF (by
  refine Chip.intact_outside _ c rfl fun c => ?_
  split
  · rfl
  · split <;> simp +decide)

@[simp] theorem Chip.ask_outside (bseq) (c : Chip)
    {F : Foot} (hF : Foot.le { Foot.packet with twin := true } F) : (Chip.ask bseq c).outside F = c.outside F :=
  Chip.outside_mono hF (by simp +decide [Chip.ask])

@[simp] theorem Chip.bcastDeadline_outside (c : Chip)
    {F : Foot} (hF : Foot.le { Foot.packet with twin := true } F) : (Chip.bcastDeadline c).outside F = c.outside F :=
  Chip.outside_mono hF (by simp only [Chip.bcastDeadline]; split <;> simp +decide)

@[simp] theorem Chip.bcastRetry_outside (c : Chip)
    {F : Foot} (hF : Foot.le { Foot.packet with twin := true } F) : (Chip.bcastRetry c).outside F = c.outside F :=
  Chip.outside_mono hF (by simp only [Chip.bcastRetry]; split <;> simp +decide)

@[simp] theorem Chip.toGroup_outside (h g bseq payload) (c : Chip)
    {F : Foot} (hF : Foot.le Foot.packet F) : (Chip.toGroup h g bseq payload c).outside F = c.outside F :=
  Chip.outside_mono hF (by simp only [Chip.toGroup]; split <;> simp +decide)

@[simp] theorem Chip.bcastBoundary_outside (c : Chip)
    {F : Foot} (hF : Foot.le { ports := true, nest := true, xbar := true, sch := true, twin := true, events := true, ctr := true, sent := true, free := true } F) :
    (Chip.bcastBoundary c).outside F = c.outside F :=
  Chip.outside_mono hF (by
  refine (foldl_outside _ _ fun c bs => ?_).trans (Chip.setBc_outside _ c rfl)
  refine foldl_outside _ _ fun c h => ?_
  split <;> simp +decide)

@[simp] theorem Chip.setHealth_outside (v) (c : Chip)
    {F : Foot} (hF : Foot.le { twin := true } F) : (Chip.setHealth v c).outside F = c.outside F :=
  Chip.outside_mono hF rfl

@[simp] theorem Chip.suspect_outside (name s) (c : Chip)
    {F : Foot} (hF : Foot.le { Foot.event with twin := true } F) : (Chip.suspect name s c).outside F = c.outside F :=
  Chip.outside_mono hF (by simp +decide [Chip.suspect])

@[simp] theorem Chip.scoreName_outside (name lg) (c : Chip)
    {F : Foot} (hF : Foot.le { Foot.event with twin := true } F) : (Chip.scoreName name lg c).outside F = c.outside F :=
  Chip.outside_mono hF (by simp +decide [Chip.scoreName])

@[simp] theorem Chip.scoreStep_outside (j) (c : Chip)
    {F : Foot} (hF : Foot.le { Foot.event with twin := true } F) : (Chip.scoreStep j c).outside F = c.outside F :=
  Chip.outside_mono hF (by simp +decide [Chip.scoreStep])

@[simp] theorem Chip.stepClosed_outside (j s) (c : Chip)
    {F : Foot} (hF : Foot.le { Foot.event with twin := true, waiting := true } F) :
    (Chip.stepClosed j s c).outside F = c.outside F :=
  Chip.outside_mono hF (by simp +decide [Chip.stepClosed])

@[simp] theorem Chip.windowEnd_outside (c : Chip)
    {F : Foot} (hF : Foot.le { twin := true } F) : (Chip.windowEnd c).outside F = c.outside F :=
  Chip.outside_mono hF (by simp +decide [Chip.windowEnd])

@[simp] theorem Chip.twinBoundary_outside (c : Chip)
    {F : Foot} (hF : Foot.le { Foot.packet with stamps := true, twin := true } F) :
    (Chip.twinBoundary c).outside F = c.outside F :=
  Chip.outside_mono hF (by simp +decide [Chip.twinBoundary])

/-! ### What the operations of Firmware leave -/

@[simp] theorem Chip.recordRetired_outside (reason unit) (c : Chip)
    {F : Foot} (hF : Foot.le { Foot.event with caps := true, stew := true } F) :
    (Chip.recordRetired reason unit c).outside F = c.outside F :=
  Chip.outside_mono hF (by simp +decide [Chip.recordRetired])

@[simp] theorem Chip.recordRetirements_outside (c : Chip)
    {F : Foot} (hF : Foot.le { Foot.event with caps := true, unrecorded := true, stew := true } F) :
    (Chip.recordRetirements c).outside F = c.outside F :=
  Chip.outside_mono hF (by simp +decide [Chip.recordRetirements])

@[simp] theorem Chip.setFlash_outside (v) (c : Chip)
    {F : Foot} (hF : Foot.le { flash := true } F) : (Chip.setFlash v c).outside F = c.outside F :=
  Chip.outside_mono hF rfl

@[simp] theorem Chip.fwWorkDone_outside (k x) (c : Chip)
    {F : Foot} (hF : Foot.le { Foot.packet with fuses := true, flash := true, mbx := true, waiting := true } F) :
    (Chip.fwWorkDone k x c).outside F = c.outside F :=
  Chip.outside_mono hF (by simp only [Chip.fwWorkDone]; (repeat' split) <;> simp +decide)

@[simp] theorem Chip.setKeys_outside (v) (c : Chip)
    {F : Foot} (hF : Foot.le { stew := true } F) : (Chip.setKeys v c).outside F = c.outside F :=
  Chip.outside_mono hF rfl

@[simp] theorem Chip.deriveIdentity_outside (c : Chip)
    {F : Foot} (hF : Foot.le { stew := true } F) : (Chip.deriveIdentity c).outside F = c.outside F :=
  Chip.outside_mono hF rfl

@[simp] theorem Chip.deriveImageKey_outside (c : Chip)
    {F : Foot} (hF : Foot.le { stew := true } F) : (Chip.deriveImageKey c).outside F = c.outside F :=
  Chip.outside_mono hF rfl

@[simp] theorem Chip.eraseIdentity_outside (c : Chip)
    {F : Foot} (hF : Foot.le { stew := true } F) : (Chip.eraseIdentity c).outside F = c.outside F :=
  Chip.outside_mono hF rfl

@[simp] theorem Chip.romKeys_outside (c : Chip)
    {F : Foot} (hF : Foot.le { stew := true } F) : (Chip.romKeys c).outside F = c.outside F :=
  Chip.outside_mono hF (by simp +decide [Chip.romKeys])

@[simp] theorem Chip.startMoelo_outside (bank) (c : Chip)
    {F : Foot} (hF : Foot.le { firmware := true, stew := true, boot := true } F) :
    (Chip.startMoelo bank c).outside F = c.outside F :=
  Chip.outside_mono hF (by simp +decide [Chip.startMoelo])

@[simp] theorem Chip.bootCheck_outside (x) (c : Chip)
    {F : Foot} (hF : Foot.le { flash := true, firmware := true, stew := true, boot := true } F) :
    (Chip.bootCheck x c).outside F = c.outside F :=
  Chip.outside_mono hF (by simp +decide [Chip.bootCheck])

@[simp] theorem Chip.reportReady_outside (c : Chip)
    {F : Foot} (hF : Foot.le Foot.event F) : (Chip.reportReady c).outside F = c.outside F :=
  Chip.outside_mono hF (by simp +decide [Chip.reportReady])

@[simp] theorem Chip.bootDone_outside (c : Chip)
    {F : Foot} (hF : Foot.le { Foot.event with firmware := true, boot := true } F) :
    (Chip.bootDone c).outside F = c.outside F :=
  Chip.outside_mono hF (by simp +decide [Chip.bootDone])

@[simp] theorem Chip.liveDone_outside (c : Chip)
    {F : Foot} (hF : Foot.le { Foot.packet with flash := true, mbx := true, waiting := true, firmware := true, stew := true } F) :
    (Chip.liveDone c).outside F = c.outside F :=
  Chip.outside_mono hF (by simp only [Chip.liveDone]; (repeat' split) <;> simp +decide)

@[simp] theorem Chip.readyTimeout_outside (c : Chip)
    {F : Foot} (hF : Foot.le { Foot.packet with flash := true, mbx := true, waiting := true, firmware := true, stew := true, boot := true } F) :
    (Chip.readyTimeout c).outside F = c.outside F :=
  Chip.outside_mono hF (by simp only [Chip.readyTimeout]; (repeat' split) <;> simp +decide)

@[simp] theorem Chip.asSelfTest_outside (n) (c : Chip)
    {F : Foot} (hF : Foot.le { unrecorded := true } F) : (Chip.asSelfTest n c).outside F = c.outside F :=
  Chip.outside_mono hF rfl

@[simp] theorem Chip.failUnit_outside (cause unit) (c : Chip)
    {F : Foot} (hF : Foot.le { Foot.reach with roll := true, kit := true, loom := true, bench := true, gate := true, sv := true, lard := true, twin := true, free := true } F) :
    (Chip.failUnit cause unit c).outside F = c.outside F :=
  Chip.outside_mono hF (by simp only [Chip.failUnit]; split <;> simp +decide)

@[simp] theorem Chip.endTrain_outside (c : Chip)
    {F : Foot} (hF : Foot.le { lard := true } F) : (Chip.endTrain c).outside F = c.outside F :=
  Chip.outside_mono hF rfl

@[simp] theorem Chip.beginLamp_outside (c : Chip)
    {F : Foot} (hF : Foot.le { light := true } F) : (Chip.beginLamp c).outside F = c.outside F :=
  Chip.outside_mono hF (by simp +decide [Chip.beginLamp])

@[simp] theorem Chip.endLamp_outside (c : Chip)
    {F : Foot} (hF : Foot.le { Foot.event with flash := true, light := true, boot := true } F) :
    (Chip.endLamp c).outside F = c.outside F :=
  Chip.outside_mono hF (by simp +decide [Chip.endLamp])

@[simp] theorem Chip.endSieve_outside (c : Chip)
    {F : Foot} (hF : Foot.le { flash := true, light := true, sv := true, free := true } F) :
    (Chip.endSieve c).outside F = c.outside F :=
  Chip.outside_mono hF (by simp +decide [Chip.endSieve])

@[simp] theorem Chip.passStage_outside (stage failed) (c : Chip)
    {F : Foot} (hF : Foot.le { Foot.event with flash := true, light := true, sv := true, lard := true, boot := true, free := true } F) :
    (Chip.passStage stage failed c).outside F = c.outside F :=
  Chip.outside_mono hF (by simp +decide [Chip.passStage])

@[simp] theorem Chip.stageEnd_outside (failures) (c : Chip)
    {F : Foot} (hF : Foot.le { Foot.reach with flash := true, roll := true, kit := true, loom := true, bench := true, gate := true, sv := true, lard := true, twin := true, boot := true, free := true } F) :
    (Chip.stageEnd failures c).outside F = c.outside F :=
  Chip.outside_mono hF (by simp +decide [Chip.stageEnd])

@[simp] theorem Chip.declareDone_outside (c : Chip)
    {F : Foot} (hF : Foot.le { Foot.event with boot := true } F) : (Chip.declareDone c).outside F = c.outside F :=
  Chip.outside_mono hF (by simp +decide [Chip.declareDone])

@[simp] theorem Chip.doe_outside (bs) (c : Chip)
    {F : Foot} (hF : Foot.le { sent := true } F) : (Chip.doe bs c).outside F = c.outside F :=
  Chip.outside_mono hF rfl

@[simp] theorem Chip.spdm_outside {f : Chip → Chip} (ready) (c : Chip) {F : Foot} (hF : Foot.le { sent := true } F)
    (hf : ∀ c, (f c).outside F = c.outside F) : (Chip.spdm ready f c).outside F = c.outside F := by simp [Chip.spdm, hf, hF]

@[simp] theorem Chip.setSpdm_outside (v) (c : Chip)
    {F : Foot} (hF : Foot.le { stew := true } F) : (Chip.setSpdm v c).outside F = c.outside F :=
  Chip.outside_mono hF rfl

@[simp] theorem Chip.freeBytes_outside (n) (c : Chip)
    {F : Foot} (hF : Foot.le { free := true } F) : (Chip.freeBytes n c).2.outside F = c.outside F :=
  Chip.outside_mono hF (by exact foldl_snd_outside _ _ fun r x => Chip.draw_outside r.2 rfl)

@[simp] theorem Chip.ofSlot_outside {f : Chip → Chip} (slot) (c : Chip) {F : Foot} (hF : Foot.le { sent := true } F)
    (hf : ∀ c, (f c).outside F = c.outside F) : (Chip.ofSlot slot f c).outside F = c.outside F := by simp [Chip.ofSlot, hf, hF]

/-! ### What the operations of Package leave -/

@[simp] theorem Chip.clear_outside (straps held) (c : Chip)
    {F : Foot} (hF : Foot.le { Foot.change with fuses := true, pkg := true, hbm := true, rung := true, firmware := true, freeze := true } F) :
    (Chip.clear straps held c).outside F = c.outside F :=
  Chip.outside_mono hF rfl

@[simp] theorem Chip.release_outside (straps) (c : Chip)
    {F : Foot} (hF : Foot.le { Foot.change with fuses := true, pkg := true, hbm := true, rung := true, firmware := true, freeze := true } F) :
    (Chip.release straps c).outside F = c.outside F :=
  Chip.outside_mono hF rfl

@[simp] theorem Chip.losePower_outside (c : Chip)
    {F : Foot} (hF : Foot.le { Foot.change with fuses := true, pkg := true, hbm := true, rung := true, firmware := true, freeze := true } F) :
    (Chip.losePower c).outside F = c.outside F :=
  Chip.outside_mono hF rfl

@[simp] theorem Chip.freeze_outside (cause) (c : Chip)
    {F : Foot} (hF : Foot.le { Foot.packet with clock := true, mbx := true, waiting := true, freeze := true } F) :
    (Chip.freeze cause c).outside F = c.outside F :=
  Chip.outside_mono hF (by simp +decide [Chip.freeze])

@[simp] theorem Chip.recordFreeze_outside (cycle) (c : Chip)
    {F : Foot} (hF : Foot.le { Foot.event with freeze := true } F) : (Chip.recordFreeze cycle c).outside F = c.outside F :=
  Chip.outside_mono hF (by simp +decide [Chip.recordFreeze])

@[simp] theorem Chip.ibi_outside (byte) (c : Chip)
    {F : Foot} (hF : Foot.le { pkg := true, sent := true } F) : (Chip.ibi byte c).outside F = c.outside F :=
  Chip.outside_mono hF (by unfold Chip.ibi; split <;> rfl)

@[simp] theorem Chip.i3cRead_outside (x count) (c : Chip)
    {F : Foot} (hF : Foot.le { sent := true } F) : (Chip.i3cRead x count c).outside F = c.outside F :=
  Chip.outside_mono hF (by unfold Chip.i3cRead; split <;> rfl)

@[simp] theorem Chip.ccc_outside (x) (c : Chip)
    {F : Foot} (hF : Foot.le { pkg := true, sent := true } F) : (Chip.ccc x c).outside F = c.outside F :=
  Chip.outside_mono hF (by unfold Chip.ccc; split <;> rfl)

@[simp] theorem Chip.trip_outside (sensor reading) (c : Chip)
    {F : Foot} (hF : Foot.le { Foot.packet with clock := true, pkg := true, mbx := true, waiting := true, freeze := true } F) :
    (Chip.trip sensor reading c).outside F = c.outside F :=
  Chip.outside_mono hF (by simp +decide [Chip.trip])

@[simp] theorem Chip.compare_outside (sensor reading) (c : Chip)
    {F : Foot} (hF : Foot.le { Foot.packet with clock := true, pkg := true, mbx := true, waiting := true, freeze := true } F) :
    (Chip.compare sensor reading c).outside F = c.outside F :=
  Chip.outside_mono hF (by simp +decide [Chip.compare])

@[simp] theorem Chip.telemetry_outside (values) (c : Chip)
    {F : Foot} (hF : Foot.le { Foot.event with pkg := true } F) : (Chip.telemetry values c).outside F = c.outside F :=
  Chip.outside_mono hF (by simp +decide [Chip.telemetry])

/-! ### What the operations of Routes leave -/

@[simp] theorem Chip.flipHalf_outside (e) (c : Chip) (h)
    {F : Foot} (hF : Foot.le { nest := true } F) : (Chip.flipHalf e c h).outside F = c.outside F :=
  Chip.outside_mono hF (by simp +decide [Chip.flipHalf])

@[simp] theorem Chip.epochBoundary_outside (c : Chip)
    {F : Foot} (hF : Foot.le { Foot.event with nest := true } F) : (Chip.epochBoundary c).outside F = c.outside F :=
  Chip.outside_mono hF (by simp only [Chip.epochBoundary]; (repeat' split) <;> simp +decide)

@[simp] theorem Chip.applyFanSet_outside (f ms) (c : Chip)
    {F : Foot} (hF : Foot.le { nest := true } F) : (Chip.applyFanSet f ms c).outside F = c.outside F :=
  Chip.outside_mono hF rfl

@[simp] theorem Chip.applyFanWeight_outside (f ws) (c : Chip)
    {F : Foot} (hF : Foot.le { nest := true } F) : (Chip.applyFanWeight f ws c).outside F = c.outside F :=
  Chip.outside_mono hF rfl

@[simp] theorem Chip.applyRejoin_outside (p cancelled) (c : Chip)
    {F : Foot} (hF : Foot.le { Foot.event with nest := true, due := true } F) :
    (Chip.applyRejoin p cancelled c).outside F = c.outside F :=
  Chip.outside_mono hF (by simp +decide [Chip.applyRejoin])

@[simp] theorem Chip.closeTallies_outside (d) (c : Chip) (h)
    {F : Foot} (hF : Foot.le { nest := true } F) : (Chip.closeTallies d c h).outside F = c.outside F :=
  Chip.outside_mono hF rfl

@[simp] theorem Chip.sendTally_outside (d) (c : Chip) (h)
    {F : Foot} (hF : Foot.le Foot.packet F) : (Chip.sendTally d c h).outside F = c.outside F :=
  Chip.outside_mono hF (by simp +decide [Chip.sendTally])

@[simp] theorem Chip.checkHot_outside (c : Chip) (key)
    {F : Foot} (hF : Foot.le { Foot.event with nest := true } F) : (Chip.checkHot c key).outside F = c.outside F :=
  Chip.outside_mono hF (by simp +decide [Chip.checkHot])

@[simp] theorem Chip.tallyBoundary_outside (d) (c : Chip)
    {F : Foot} (hF : Foot.le Foot.packet F) : (Chip.tallyBoundary d c).outside F = c.outside F :=
  Chip.outside_mono hF (by simp +decide [Chip.tallyBoundary])

/-! ### What the operations of Registers leave -/

@[simp] theorem Chip.setSnap_outside (s v) (c : Chip)
    {F : Foot} (hF : Foot.le { regs := true } F) : (Chip.setSnap s v c).outside F = c.outside F :=
  Chip.outside_mono hF rfl

@[simp] theorem Chip.setProg_outside (b k v) (c : Chip)
    {F : Foot} (hF : Foot.le { ctr := true } F) : (Chip.setProg b k v c).outside F = c.outside F :=
  Chip.outside_mono hF rfl

@[simp] theorem Chip.busError_outside (req isBar2 write off kind) (c : Chip)
    {F : Foot} (hF : Foot.le { Foot.event with regs := true } F) :
    (Chip.busError req isBar2 write off kind c).outside F = c.outside F :=
  Chip.outside_mono hF (by simp +decide [Chip.busError])

@[simp] theorem Chip.clearBusErr_outside (c : Chip)
    {F : Foot} (hF : Foot.le { regs := true } F) : (Chip.clearBusErr c).outside F = c.outside F :=
  Chip.outside_mono hF (by unfold Chip.clearBusErr; (repeat' split) <;> rfl)

@[simp] theorem Chip.accessed_outside {f : Chip → Chip} (req isBar2 write off size) (c : Chip) {F : Foot}
    (hF : Foot.le { events := true, ctr := true, regs := true, sent := true } F)
    (hf : ∀ c, (f c).outside F = c.outside F) : (Chip.accessed req isBar2 write off size f c).outside F = c.outside F := by
  cases req <;> simp [Chip.accessed, hf, hF]

@[simp] theorem Chip.armSet_outside (s) (c : Chip)
    {F : Foot} (hF : Foot.le { regs := true } F) : (Chip.armSet s c).outside F = c.outside F :=
  Chip.outside_mono hF (by simp +decide [Chip.armSet])

@[simp] theorem Chip.writeSnapCtrl_outside (s v mask) (c : Chip)
    {F : Foot} (hF : Foot.le { regs := true } F) : (Chip.writeSnapCtrl s v mask c).outside F = c.outside F :=
  Chip.outside_mono hF (by simp +decide [Chip.writeSnapCtrl])

@[simp] theorem Chip.clearCaptured_outside (off) (c : Chip)
    {F : Foot} (hF : Foot.le { base := true, ctr := true, regs := true } F) :
    (Chip.clearCaptured off c).outside F = c.outside F :=
  Chip.outside_mono hF (by unfold Chip.clearCaptured; (repeat' split) <;> rfl)

@[simp] theorem Chip.capture_outside (clear offs) (c : Chip)
    {F : Foot} (hF : Foot.le { base := true, ctr := true, regs := true } F) :
    (Chip.capture clear offs c).2.outside F = c.outside F :=
  Chip.outside_mono hF (by simp +decide [Chip.capture])

@[simp] theorem Chip.snapCapture_outside (s) (c : Chip)
    {F : Foot} (hF : Foot.le { base := true, ctr := true, regs := true } F) :
    (Chip.snapCapture s c).outside F = c.outside F :=
  Chip.outside_mono hF (by simp +decide [Chip.snapCapture])

@[simp] theorem Chip.snapSwap_outside (s) (c : Chip)
    {F : Foot} (hF : Foot.le { regs := true } F) : (Chip.snapSwap s c).outside F = c.outside F :=
  Chip.outside_mono hF (by simp +decide [Chip.snapSwap])

@[simp] theorem Chip.applyCtSnap_outside (k ticket clear offs) (c : Chip)
    {F : Foot} (hF : Foot.le { Foot.packet with base := true, mbx := true, waiting := true, regs := true } F) :
    (Chip.applyCtSnap k ticket clear offs c).outside F = c.outside F :=
  Chip.outside_mono hF (by simp only [Chip.applyCtSnap]; split <;> simp +decide)

@[simp] theorem Chip.applyCtConfig_outside (b k en thrEn src filter classes thresh) (c : Chip)
    {F : Foot} (hF : Foot.le { ctr := true } F) :
    (Chip.applyCtConfig b k en thrEn src filter classes thresh c).outside F = c.outside F :=
  Chip.outside_mono hF rfl

@[simp] theorem Chip.counterReached_outside (b k) (c : Chip)
    {F : Foot} (hF : Foot.le Foot.event F) : (Chip.counterReached b k c).outside F = c.outside F :=
  Chip.outside_mono hF (by simp +decide [Chip.counterReached])

@[simp] theorem Chip.endBwWindow_outside (d) (c : Chip)
    {F : Foot} (hF : Foot.le { ctr := true, regs := true } F) : (Chip.endBwWindow d c).outside F = c.outside F :=
  Chip.outside_mono hF rfl

@[simp] theorem Chip.closeBwDeal_outside (c : Chip)
    {F : Foot} (hF : Foot.le { ctr := true } F) : (Chip.closeBwDeal c).outside F = c.outside F :=
  Chip.outside_mono hF rfl

@[simp] theorem Chip.writeReg_outside (req off v mask) (c : Chip)
    {F : Foot} (hF : Foot.le { base := true, roll := true, loom := true, ctr := true, regs := true } F) :
    (Chip.writeReg req off v mask c).outside F = c.outside F :=
  Chip.outside_mono hF (by simp only [Chip.writeReg]; (repeat' split) <;> simp +decide)

@[simp] theorem Chip.writeMsix_outside (off v) (c : Chip)
    {F : Foot} (hF : Foot.le { events := true, sent := true } F) : (Chip.writeMsix off v c).outside F = c.outside F :=
  Chip.outside_mono hF (by simp +decide [Chip.writeMsix])

@[simp] theorem Chip.writeBar2_outside (req off v) (c : Chip)
    {F : Foot} (hF : Foot.le { Foot.packet with mbx := true, rung := true, stew := true, regs := true } F) :
    (Chip.writeBar2 req off v c).outside F = c.outside F :=
  Chip.outside_mono hF (by simp only [Chip.writeBar2]; (repeat' split) <;> simp +decide)

@[simp] theorem Chip.hostReadReg_outside (off) (c : Chip)
    {F : Foot} (hF : Foot.le { base := true, stamps := true, sent := true } F) :
    (Chip.hostReadReg off c).outside F = c.outside F :=
  Chip.outside_mono hF (by simp only [Chip.hostReadReg]; split <;> simp +decide)

@[simp] theorem Chip.hostReadBar2_outside (off) (c : Chip)
    {F : Foot} (hF : Foot.le { base := true, stamps := true, mbx := true, sent := true } F) :
    (Chip.hostReadBar2 off c).outside F = c.outside F :=
  Chip.outside_mono hF (by simp only [Chip.hostReadBar2]; (repeat' split) <;> simp +decide)

@[simp] theorem Chip.jtagInstruction_outside (ir) (c : Chip)
    {F : Foot} (hF : Foot.le { stew := true, regs := true, sent := true } F) :
    (Chip.jtagInstruction ir c).outside F = c.outside F :=
  Chip.outside_mono hF (by
  unfold Chip.jtagInstruction
  extract_lets code r c2 s c3
  clear_value code
  have h3 : c3.outside { stew := true, regs := true, sent := true } = c.outside { stew := true, regs := true, sent := true } := by
    simp only [c3]; split <;> rfl
  split
  · simp +decide [h3]
  · split <;> simp +decide [h3])

@[simp] theorem Chip.jtagSelect_outside (v) (c : Chip)
    {F : Foot} (hF : Foot.le { regs := true } F) : (Chip.jtagSelect v c).outside F = c.outside F :=
  Chip.outside_mono hF (by unfold Chip.jtagSelect; split <;> rfl)

@[simp] theorem Chip.jtagCapture_outside (c : Chip)
    {F : Foot} (hF : Foot.le { regs := true, sent := true } F) : (Chip.jtagCapture c).outside F = c.outside F :=
  Chip.outside_mono hF (by unfold Chip.jtagCapture; split <;> rfl)

/-! ### What the operations of Boundary leave -/

@[simp] theorem Chip.refitAll_outside (c : Chip)
    {F : Foot} (hF : Foot.le { Foot.sending with xbar := true } F) : (Chip.refitAll c).outside F = c.outside F :=
  Chip.outside_mono hF (by simp +decide [Chip.refitAll])

@[simp] theorem Chip.guardWork_outside (c : Chip)
    {F : Foot} (hF : Foot.le { Foot.sending with base := true, xbar := true, loom := true, gate := true } F) :
    (Chip.guardWork c).outside F = c.outside F :=
  Chip.outside_mono hF (by simp +decide [Chip.guardWork])

@[simp] theorem Chip.guardStart_outside (c : Chip)
    {F : Foot} (hF : Foot.le { Foot.sending with clock := true, base := true, xbar := true, loom := true, gate := true } F) :
    (Chip.guardStart c).outside F = c.outside F :=
  Chip.outside_mono hF (by simp +decide [Chip.guardStart])

@[simp] theorem Chip.applyCtBw_outside (deals) (c : Chip)
    {F : Foot} (hF : Foot.le { ctr := true, regs := true } F) : (Chip.applyCtBw deals c).outside F = c.outside F :=
  Chip.outside_mono hF rfl

@[simp] theorem Chip.applyCalBind_outside (p cal en) (c : Chip)
    {F : Foot} (hF : Foot.le { sch := true } F) : (Chip.applyCalBind p cal en c).outside F = c.outside F :=
  Chip.outside_mono hF rfl

@[simp] theorem Chip.applySched_outside (p ovh rsvd weights) (c : Chip)
    {F : Foot} (hF : Foot.le { sch := true } F) : (Chip.applySched p ovh rsvd weights c).outside F = c.outside F :=
  Chip.outside_mono hF rfl

@[simp] theorem Chip.unlessRestarting_outside {f : Chip → Chip} (x) (c : Chip) {F : Foot} (hF : Foot.le { due := true } F)
    (hf : ∀ c, (f c).outside F = c.outside F) : (Chip.unlessRestarting x f c).outside F = c.outside F := by
  simp [Chip.unlessRestarting, hf, hF]

@[simp] theorem Chip.applyChange_outside (x) (c : Chip)
    {F : Foot} (hF : Foot.le { Foot.reach with flash := true, clock := true, base := true, roll := true, kit := true, loom := true, bench := true, gate := true, sv := true, lard := true, twin := true, mbx := true, waiting := true, regs := true, free := true } F) :
    (Chip.applyChange x c).outside F = c.outside F :=
  Chip.outside_mono hF (by simp only [Chip.applyChange]; split <;> simp +decide)

@[simp] theorem Chip.applyDue_outside (disputes) (c : Chip)
    {F : Foot} (hF : Foot.le { Foot.reach with flash := true, clock := true, base := true, roll := true, kit := true, loom := true, bench := true, gate := true, sv := true, lard := true, twin := true, mbx := true, waiting := true, regs := true, free := true } F) :
    (Chip.applyDue disputes c).outside F = c.outside F :=
  Chip.outside_mono hF (by simp +decide [Chip.applyDue])

@[simp] theorem Chip.fitHalf_outside (c : Chip) (h)
    {F : Foot} (hF : Foot.le { xbar := true, roll := true, kit := true, lard := true, twin := true } F) :
    (Chip.fitHalf c h).outside F = c.outside F :=
  Chip.outside_mono hF (by simp +decide [Chip.fitHalf])

@[simp] theorem Chip.periodBoundary_outside (c : Chip)
    {F : Foot} (hF : Foot.le { Foot.event with base := true, ports := true, nest := true, xbar := true, sch := true, roll := true, kit := true, loom := true, gate := true, lard := true, twin := true, unrecorded := true, regs := true, boot := true, due := true } F) :
    (Chip.periodBoundary c).outside F = c.outside F :=
  Chip.outside_mono hF (by simp only [Chip.periodBoundary]; split <;> simp +decide)

@[simp] theorem Chip.closeDeal_outside (old period) (c : Chip)
    {F : Foot} (hF : Foot.le { Foot.packet with roll := true, lard := true, regs := true } F) :
    (Chip.closeDeal old period c).outside F = c.outside F :=
  Chip.outside_mono hF (by simp +decide [Chip.closeDeal])

@[simp] theorem Chip.portNotices_outside (p) (c : Chip)
    {F : Foot} (hF : Foot.le { Foot.sending with xbar := true, due := true } F) :
    (Chip.portNotices p c).outside F = c.outside F :=
  Chip.outside_mono hF (by simp +decide [Chip.portNotices])

@[simp] theorem Chip.portUp_outside (p) (c : Chip)
    {F : Foot} (hF : Foot.le { Foot.sending with xbar := true, twin := true, due := true } F) :
    (Chip.portUp p c).outside F = c.outside F :=
  Chip.outside_mono hF (by simp +decide [Chip.portUp])

@[simp] theorem Chip.portBoundary_outside (p) (c : Chip)
    {F : Foot} (hF : Foot.le { Foot.sending with xbar := true, twin := true, due := true } F) :
    (Chip.portBoundary p c).outside F = c.outside F :=
  Chip.outside_mono hF (by simp +decide [Chip.portBoundary])

@[simp] theorem Chip.portsBoundary_outside (c : Chip)
    {F : Foot} (hF : Foot.le { Foot.sending with xbar := true, twin := true, due := true } F) :
    (Chip.portsBoundary c).outside F = c.outside F :=
  Chip.outside_mono hF (by simp +decide [Chip.portsBoundary])

@[simp] theorem Chip.ledgerStep_outside (key) (c : Chip)
    {F : Foot} (hF : Foot.le { Foot.packet with clock := true, base := true, kit := true, twin := true, waiting := true } F) :
    (Chip.ledgerStep key c).outside F = c.outside F :=
  Chip.outside_mono hF (by simp only [Chip.ledgerStep]; split <;> simp +decide)

@[simp] theorem Chip.ledgerBoundary_outside (c : Chip)
    {F : Foot} (hF : Foot.le { Foot.packet with clock := true, base := true, kit := true, twin := true, waiting := true } F) :
    (Chip.ledgerBoundary c).outside F = c.outside F :=
  Chip.outside_mono hF (by simp +decide [Chip.ledgerBoundary])

@[simp] theorem Chip.halfOverrun_outside (c : Chip) (h)
    {F : Foot} (hF : Foot.le { Foot.event with base := true } F) : (Chip.halfOverrun c h).outside F = c.outside F :=
  Chip.outside_mono hF (by simp only [Chip.halfOverrun]; (repeat' split) <;> simp +decide)

@[simp] theorem Chip.beginBoundary_outside (c : Chip)
    {F : Foot} (hF : Foot.le { Foot.event with base := true, ports := true, nest := true, xbar := true, sch := true, roll := true, kit := true, loom := true, gate := true, lard := true, twin := true, unrecorded := true, regs := true, boot := true, due := true } F) :
    (Chip.beginBoundary c).outside F = c.outside F :=
  Chip.outside_mono hF (by simp +decide [Chip.beginBoundary])

@[simp] theorem Chip.markerWindows_outside (c : Chip)
    {F : Foot} (hF : Foot.le { ports := true, nest := true, sch := true, ctr := true, sent := true } F) :
    (Chip.markerWindows c).outside F = c.outside F :=
  Chip.outside_mono hF (by simp +decide [Chip.markerWindows])

@[simp] theorem Chip.combBoundary_outside (c : Chip)
    {F : Foot} (hF : Foot.le { Foot.reach with sv := true } F) : (Chip.combBoundary c).outside F = c.outside F :=
  Chip.outside_mono hF (by simp +decide [Chip.combBoundary])

@[simp] theorem Chip.calsBoundary_outside (c : Chip)
    {F : Foot} (hF : Foot.le { sch := true } F) : (Chip.calsBoundary c).outside F = c.outside F :=
  Chip.outside_mono hF (by simp +decide [Chip.calsBoundary])

@[simp] theorem Chip.unitsBoundary_outside (c : Chip)
    {F : Foot} (hF : Foot.le { Foot.packet with clock := true, base := true, stamps := true, roll := true, kit := true, loom := true, bench := true, gate := true, lard := true, twin := true, waiting := true } F) :
    (Chip.unitsBoundary c).outside F = c.outside F :=
  Chip.outside_mono hF (by simp +decide [Chip.unitsBoundary])

@[simp] theorem Chip.boundaryWork_outside (c : Chip)
    {F : Foot} (hF : Foot.le Foot.change F) : (Chip.boundaryWork c).outside F = c.outside F :=
  Chip.outside_mono hF (by simp +decide [Chip.boundaryWork])

@[simp] theorem Chip.ownBoundary_outside (c : Chip)
    {F : Foot} (hF : Foot.le Foot.change F) : (Chip.ownBoundary c).outside F = c.outside F :=
  Chip.outside_mono hF (by simp +decide [Chip.ownBoundary])

@[simp] theorem Chip.dealBoundary_outside (c : Chip)
    {F : Foot} (hF : Foot.le Foot.change F) : (Chip.dealBoundary c).outside F = c.outside F :=
  Chip.outside_mono hF (by simp +decide [Chip.dealBoundary])

@[simp] theorem Chip.edgeBoundary_outside (n d jump) (c : Chip)
    {F : Foot} (hF : Foot.le Foot.change F) : (Chip.edgeBoundary n d jump c).outside F = c.outside F :=
  Chip.outside_mono hF (by simp +decide [Chip.edgeBoundary])

@[simp] theorem Chip.dealInMiss_outside (c : Chip)
    {F : Foot} (hF : Foot.le Foot.change F) : (Chip.dealInMiss c).outside F = c.outside F :=
  Chip.outside_mono hF (by simp only [Chip.dealInMiss]; split <;> simp +decide)

@[simp] theorem Chip.untilEdge_outside (n : Nat) (m : Nat) (c : Chip)
    {F : Foot} (hF : Foot.le Foot.change F) : (Chip.untilEdge n m c).2.outside F = c.outside F :=
  Chip.outside_mono hF (by
  induction n generalizing m c with
  | zero => rfl
  | succ n ih => simp only [Chip.untilEdge]; (repeat' split) <;> simp +decide [ih])

@[simp] theorem Chip.dealInEdge_outside (wait) (c : Chip)
    {F : Foot} (hF : Foot.le Foot.change F) : (Chip.dealInEdge wait c).outside F = c.outside F :=
  Chip.outside_mono hF (by simp only [Chip.dealInEdge]; (repeat' split) <;> simp +decide)

@[simp] theorem Chip.dueCaptures_outside (c : Chip)
    {F : Foot} (hF : Foot.le { base := true, ctr := true, regs := true } F) : (Chip.dueCaptures c).outside F = c.outside F :=
  Chip.outside_mono hF (by simp +decide [Chip.dueCaptures])

@[simp] theorem Chip.startSlots_outside (a) (c : Chip)
    {F : Foot} (hF : Foot.le { Foot.event with clock := true, kit := true, loom := true, gate := true, lard := true } F) :
    (Chip.startSlots a c).outside F = c.outside F :=
  Chip.outside_mono hF (by simp +decide [Chip.startSlots])

@[simp] theorem Chip.triggers_outside (c : Chip)
    {F : Foot} (hF : Foot.le { Foot.packet with clock := true, light := true, roll := true, kit := true, loom := true, gate := true, lard := true, twin := true } F) :
    (Chip.triggers c).outside F = c.outside F :=
  Chip.outside_mono hF (by simp +decide [Chip.triggers])

@[simp] theorem Chip.dealTriggers_outside (c : Chip)
    {F : Foot} (hF : Foot.le { Foot.packet with clock := true, base := true, stamps := true, roll := true, kit := true, loom := true, gate := true, sv := true, lard := true, twin := true, regs := true } F) :
    (Chip.dealTriggers c).outside F = c.outside F :=
  Chip.outside_mono hF (by simp +decide [Chip.dealTriggers])

@[simp] theorem Chip.tick_outside (c : Chip)
    {F : Foot} (hF : Foot.le Foot.change F) : (Chip.tick c).outside F = c.outside F :=
  Chip.outside_mono hF (by simp +decide [Chip.tick])

end Sys2Proof.Machine

/-! SUPPORT. Every command runs as one function of the part behind a check of its operands; what a held or frozen part makes of it. -/

namespace Sys2Proof.Machine

set_option Elab.async false

open Sys2Proof

/-- Every arm of `exec` is a function of the part behind the check of the operands. -/
theorem exec_eq_run (i : Instr) : ∃ f : Chip → Chip, ∀ s, exec i s = s.run i.wf f := by
  cases i <;> dsimp only [exec, Instr.wf] <;> exact ⟨_, fun _ => rfl⟩

theorem State.run_congr {ok : Bool} {f g : Chip → Chip} {s : State} (h : f s.chip = g s.chip) : s.run ok f = s.run ok g := by
  rw [State.run, State.run, h]

theorem State.run_of_ok {ok : Bool} (f : Chip → Chip) (s : State) (h : ok = true) :
    s.run ok f = .next { s with chip := f s.chip } := if_pos h

theorem State.run_of_not_ok {ok : Bool} (f : Chip → Chip) (s : State) (h : ok = false) : s.run ok f = .refused .illFormed :=
  if_neg (by rw [h]; exact Bool.false_ne_true)

/-- Settles O1: the front of the queue is what `step` matches on. -/
theorem stepRunsFrontCommand : Obligations.StepRunsFrontCommand := by
  intro c i q
  rfl

/-- Settles O3, from the one form of every arm of `exec`. -/
theorem everyWellFormedCommandRuns : Obligations.EveryWellFormedCommandRuns := by
  intro i s
  obtain ⟨f, hf⟩ := exec_eq_run i
  rw [hf]
  exact ⟨fun h => ⟨f s.chip, State.run_of_ok f s h⟩, fun h => State.run_of_not_ok f s h⟩

/-- A step of a well-fed state takes the front command and leaves the rest of the queue. -/
theorem step_of_wf (c : Chip) (i : Instr) (q : List Instr) (h : i.wf = true) : ∃ t, step ⟨c, i :: q⟩ = .next ⟨t, q⟩ := by
  obtain ⟨f, hf⟩ := exec_eq_run i
  exact ⟨f c, (hf ⟨c, q⟩).trans (State.run_of_ok f _ h)⟩

/-- Settles O4, by induction on the queue. -/
theorem wellFedQueueIsServed : Obligations.WellFedQueueIsServed := by
  intro ⟨c, q⟩ h
  induction q generalizing c with
  | nil => exact ⟨c, rfl⟩
  | cons i q ih =>
    obtain ⟨hi, hq⟩ := (Bool.and_eq_true _ _).mp (show (i.wf && q.all Instr.wf) = true from h)
    obtain ⟨t, ht⟩ := step_of_wf c i q hi
    obtain ⟨d, hd⟩ := ih t hq
    refine ⟨d, ?_⟩
    have hs : Sys2Proof.core.step (show Sys2Proof.core.State from (⟨c, i :: q⟩ : State)) =
      .next (show Sys2Proof.core.State from (⟨t, q⟩ : State)) := ht
    simp only [List.length_cons, Host.Core.run]
    rw [hs]
    exact hd

/-- Settles O6. -/
theorem resetMemoriesCanonical : Obligations.ResetMemoriesCanonical := by
  refine ⟨?_, ?_, ?_⟩ <;> decide

theorem exec_of_held (i : Instr) (s : State) (held : s.chip.pkg.held = true) (h1 : i ≠ .resetAccept)
    (h2 : ∀ straps, i ≠ .resetRelease straps) (h3 : i ≠ .railOutOfTolerance) : exec i s = s.run i.wf id := by
  have live : ∀ f, s.chip.live f = s.chip := fun f => if_pos held
  have fabric : ∀ f, s.chip.fabric f = s.chip := fun f => if_pos (by rw [held]; rfl)
  cases i
  case resetAccept => exact absurd rfl h1
  case resetRelease straps => exact absurd rfl (h2 straps)
  case railOutOfTolerance => exact absurd rfl h3
  all_goals dsimp only [exec, Instr.wf]; exact State.run_congr (by simp only [live, fabric, id])

/-- Settles O8: every arm but those of the reset pin and the rails is guarded by `live` or `fabric`. -/
theorem heldPartIgnoresCommands : Obligations.HeldPartIgnoresCommands := by
  intro i s held hw h1 h2 h3
  rw [exec_of_held i s held h1 h2 h3]
  exact State.run_of_ok id s hw

theorem exec_of_freeze (i : Instr) (s : State) (frozen : s.chip.regs.freeze.accepted = true) (stopped : stoppedByFreeze i = true) :
    exec i s = s.run i.wf id := by
  have fabric : ∀ f, s.chip.fabric f = s.chip := fun f => if_pos (by rw [frozen]; exact Bool.or_true _)
  have live : ∀ f, s.chip.live (Chip.fabric f) = s.chip := fun f => by rw [Chip.live, fabric, ite_self]
  cases i <;> cases stopped
  all_goals dsimp only [exec, Instr.wf]; exact State.run_congr (by simp only [live, fabric, id])

/-- Settles O9: every event of the stopped domains is guarded by `fabric`. -/
theorem frozenFabricStands : Obligations.FrozenFabricStands := by
  intro i s frozen stopped hw
  rw [exec_of_freeze i s frozen stopped]
  exact State.run_of_ok id s hw

end Sys2Proof.Machine

/-! SUPPORT. What each mailbox command changes outside of its own pieces: nothing. -/

namespace Sys2Proof.Machine

set_option Elab.async false

open Sys2Proof

@[simp] theorem answer_chip (c : Chip) (ws) : (answer c ws).chip = c := rfl
@[simp] theorem refuse_chip (c : Chip) (st ws) : (refuse c st ws).chip = c := rfl
@[simp] theorem atBoundary_chip (x : Change) (c : Chip) : (atBoundary x c).chip = c.schedule c.effectDeal x := rfl

theorem Chip.outside_with_tb_kit {F : Foot} (c : Chip) (x : TimeBase) (y) (hx : x.outside F = c.tb.outside F) (hy : F.kit) :
    ({ c with kit := y, tb := x } : Chip).outside F = c.outside F :=
  (Chip.outside_with_kit { c with tb := x } y hy).trans (Chip.outside_with_tb c x hx)

/-- What taking a command from the rings and answering it moves. -/
@[reducible] def Foot.taking : Foot :=
  { ports := true, nest := true, xbar := true, sch := true, mbx := true, rung := true, events := true, ctr := true, sent := true,
    free := true }

/-- The frame of a command from that of what it does, past the whole way a mailbox command takes. -/
@[simp] theorem Chip.live_accept_outside (op k) (cmd : Command) (c : Chip) {F : Foot} (hF : Foot.le Foot.taking F)
    (hf : ∀ r c, (cmd.act r c).chip.outside F = c.outside F) : (Chip.live (Chip.accept op k cmd) c).outside F = c.outside F :=
  Chip.live_outside c fun c => Chip.accept_outside op k cmd c hF hf

@[simp] theorem Chip.live_mirrored_accept_outside (op k) (cmd : Command) (c : Chip) {F : Foot}
    (hF : Foot.le { Foot.taking with twin := true } F) (hf : ∀ r c, (cmd.act r c).chip.outside F = c.outside F) :
    (Chip.live (Chip.mirrored (Chip.accept op k cmd)) c).outside F = c.outside F :=
  Chip.live_outside c fun c => Chip.mirrored_outside c (Foot.le_trans rfl hF) fun c =>
    Chip.accept_outside op k cmd c (Foot.le_trans rfl hF) hf

@[simp] theorem Answer.outside_ite {F : Foot} (p : Prop) [Decidable p] (a b : Answer) :
    (if p then a else b).chip.outside F = if p then a.chip.outside F else b.chip.outside F := by split <;> rfl

/-! ### Commands of Ports -/

@[simp] theorem portConfigCmd_outside (r) (c : Chip)
    {F : Foot} (hF : Foot.le { ports := true } F) : (portConfigCmd.act r c).chip.outside F = c.outside F :=
  Chip.outside_mono hF (by simp +decide [portConfigCmd])

@[simp] theorem portEnableCmd_outside (r) (c : Chip)
    {F : Foot} (hF : Foot.le { ports := true } F) : (portEnableCmd.act r c).chip.outside F = c.outside F :=
  Chip.outside_mono hF (by simp +decide [portEnableCmd])

@[simp] theorem portDisableCmd_outside (r) (c : Chip)
    {F : Foot} (hF : Foot.le { ports := true, due := true, sent := true } F) :
    (portDisableCmd.act r c).chip.outside F = c.outside F :=
  Chip.outside_mono hF (by simp +decide [portDisableCmd])

@[simp] theorem portStatusCmd_outside (r) (c : Chip) {F : Foot} : (portStatusCmd.act r c).chip.outside F = c.outside F := by simp +decide [portStatusCmd]

/-! ### Commands of Light -/

@[simp] theorem ocsSetCmd_outside (r) (c : Chip) {F : Foot} (hF : Foot.le { ports := true, due := true, sent := true } F) :
    (ocsSetCmd.act r c).chip.outside F = c.outside F :=
  Chip.outside_mono hF (by simp +decide [ocsSetCmd])

@[simp] theorem ocsClearCmd_outside (r) (c : Chip)
    {F : Foot} (hF : Foot.le { due := true } F) : (ocsClearCmd.act r c).chip.outside F = c.outside F :=
  Chip.outside_mono hF (by simp +decide [ocsClearCmd])

@[simp] theorem laneRetireCmd_outside (r) (c : Chip)
    {F : Foot} (hF : Foot.le { ports := true, due := true, sent := true } F) :
    (laneRetireCmd.act r c).chip.outside F = c.outside F :=
  Chip.outside_mono hF (by simp only [laneRetireCmd]; (repeat' split) <;> simp +decide)

@[simp] theorem lampSwapCmd_outside (r) (c : Chip)
    {F : Foot} (hF : Foot.le { light := true, events := true, ctr := true, sent := true } F) :
    (lampSwapCmd.act r c).chip.outside F = c.outside F :=
  Chip.outside_mono hF (by simp only [lampSwapCmd]; split <;> simp +decide)

@[simp] theorem lampAutoCmd_outside (r) (c : Chip)
    {F : Foot} (hF : Foot.le { light := true } F) : (lampAutoCmd.act r c).chip.outside F = c.outside F :=
  Chip.outside_mono hF (by simp +decide [lampAutoCmd])

@[simp] theorem lampNominalCmd_outside (r) (c : Chip)
    {F : Foot} (hF : Foot.le { due := true } F) : (lampNominalCmd.act r c).chip.outside F = c.outside F :=
  Chip.outside_mono hF (by simp +decide [lampNominalCmd])

/-! ### Commands of Steward -/

@[simp] theorem mgmtAllowCmd_outside (r) (c : Chip)
    {F : Foot} (hF : Foot.le { stew := true } F) : (mgmtAllowCmd.act r c).chip.outside F = c.outside F :=
  Chip.outside_mono hF (by simp +decide [mgmtAllowCmd])

@[simp] theorem pktSendCmd_outside (r) (c : Chip)
    {F : Foot} (hF : Foot.le Foot.packet F) : (pktSendCmd.act r c).chip.outside F = c.outside F :=
  Chip.outside_mono hF (by simp +decide [pktSendCmd])

@[simp] theorem pktRecvCmd_outside (r) (c : Chip)
    {F : Foot} (hF : Foot.le { stew := true, ctr := true } F) : (pktRecvCmd.act r c).chip.outside F = c.outside F :=
  Chip.outside_mono hF (by simp only [pktRecvCmd]; split <;> simp +decide)

@[simp] theorem evtRingCmd_outside (r) (c : Chip)
    {F : Foot} (hF : Foot.le { events := true, sent := true } F) : (evtRingCmd.act r c).chip.outside F = c.outside F :=
  Chip.outside_mono hF (by simp +decide [evtRingCmd])

@[simp] theorem evtForwardCmd_outside (r) (c : Chip)
    {F : Foot} (hF : Foot.le { events := true } F) : (evtForwardCmd.act r c).chip.outside F = c.outside F :=
  Chip.outside_mono hF (by simp +decide [evtForwardCmd])

@[simp] theorem sysCapsCmd_outside (r) (c : Chip) {F : Foot} : (sysCapsCmd.act r c).chip.outside F = c.outside F := by simp +decide [sysCapsCmd]

@[simp] theorem sysInfoCmd_outside (r) (c : Chip) {F : Foot} : (sysInfoCmd.act r c).chip.outside F = c.outside F := by simp +decide [sysInfoCmd]

@[simp] theorem mbAbortCmd_outside (r) (c : Chip)
    {F : Foot} (hF : Foot.le { ports := true, nest := true, xbar := true, sch := true, twin := true, mbx := true, waiting := true, events := true, ctr := true, sent := true, free := true } F) :
    (mbAbortCmd.act r c).chip.outside F = c.outside F :=
  Chip.outside_mono hF (by simp only [mbAbortCmd]; split <;> simp +decide)

/-! ### Commands of Larder -/

@[simp] theorem larderAllocCmd_outside (r) (c : Chip)
    {F : Foot} (hF : Foot.le { lard := true, waiting := true, ctr := true } F) :
    (larderAllocCmd.act r c).chip.outside F = c.outside F :=
  Chip.outside_mono hF (by
  simp only [larderAllocCmd]
  split
  · rfl
  · split
    · simp +decide
    · split
      next => simp +decide
      next => rfl
      next h => split <;> simp +decide [Chip.outside_of_made h])

@[simp] theorem larderFreeCmd_outside (r) (c : Chip)
    {F : Foot} (hF : Foot.le { due := true } F) : (larderFreeCmd.act r c).chip.outside F = c.outside F :=
  Chip.outside_mono hF (by simp +decide [larderFreeCmd])

@[simp] theorem larderStatusCmd_outside (r) (c : Chip) {F : Foot} : (larderStatusCmd.act r c).chip.outside F = c.outside F := by simp +decide [larderStatusCmd]

@[simp] theorem larderWriteCmd_outside (check) (r) (c : Chip)
    {F : Foot} (hF : Foot.le { ports := true, nest := true, xbar := true, sch := true, lard := true, hbm := true, twin := true, events := true, ctr := true, due := true, sent := true, free := true } F) :
    ((larderWriteCmd check).act r c).chip.outside F = c.outside F :=
  Chip.outside_mono hF (by
  simp only [larderWriteCmd]
  split
  next h => exact Chip.outside_of_accessFault h rfl
  next => simp +decide)

@[simp] theorem larderReadCmd_outside (check) (r) (c : Chip)
    {F : Foot} (hF : Foot.le { lard := true, events := true, ctr := true, due := true, sent := true } F) :
    ((larderReadCmd check).act r c).chip.outside F = c.outside F :=
  Chip.outside_mono hF (by
  simp only [larderReadCmd]
  split
  next h => exact Chip.outside_of_accessFault h rfl
  next => simp +decide)

@[simp] theorem larderConfigCmd_outside (r) (c : Chip)
    {F : Foot} (hF : Foot.le { due := true } F) : (larderConfigCmd.act r c).chip.outside F = c.outside F :=
  Chip.outside_mono hF (by simp +decide [larderConfigCmd])

@[simp] theorem larderReserveCmd_outside (r) (c : Chip)
    {F : Foot} (hF : Foot.le { lard := true } F) : (larderReserveCmd.act r c).chip.outside F = c.outside F :=
  Chip.outside_mono hF (by simp +decide [larderReserveCmd])

@[simp] theorem hbmRetireCmd_outside (r) (c : Chip)
    {F : Foot} (hF : Foot.le { due := true } F) : (hbmRetireCmd.act r c).chip.outside F = c.outside F :=
  Chip.outside_mono hF (by simp +decide [hbmRetireCmd])

@[simp] theorem xferCmd_outside (op) (r) (c : Chip)
    {F : Foot} (hF : Foot.le { lard := true, waiting := true } F) : ((xferCmd op).act r c).chip.outside F = c.outside F :=
  Chip.outside_mono hF (by simp only [xferCmd]; split <;> simp +decide)

/-! ### Commands of Roll -/

@[simp] theorem rollConfigCmd_outside (r) (c : Chip)
    {F : Foot} (hF : Foot.le { due := true } F) : (rollConfigCmd.act r c).chip.outside F = c.outside F :=
  Chip.outside_mono hF (by simp +decide [rollConfigCmd])

/-! ### Commands of Ledger -/

@[simp] theorem kittyOpenCmd_outside (r) (c : Chip)
    {F : Foot} (hF : Foot.le { kit := true, due := true } F) : (kittyOpenCmd.act r c).chip.outside F = c.outside F :=
  Chip.outside_mono hF (by simp +decide [kittyOpenCmd])

@[simp] theorem kittyCloseCmd_outside (r) (c : Chip)
    {F : Foot} (hF : Foot.le { kit := true, due := true } F) : (kittyCloseCmd.act r c).chip.outside F = c.outside F :=
  Chip.outside_mono hF (by simp only [kittyCloseCmd]; (repeat' split) <;> simp +decide)

@[simp] theorem kittyStatusCmd_outside (r) (c : Chip) {F : Foot} : (kittyStatusCmd.act r c).chip.outside F = c.outside F := by simp only [kittyStatusCmd]; split <;> simp +decide

@[simp] theorem kittyConfigCmd_outside (r) (c : Chip)
    {F : Foot} (hF : Foot.le { due := true } F) : (kittyConfigCmd.act r c).chip.outside F = c.outside F :=
  Chip.outside_mono hF (by simp +decide [kittyConfigCmd])

@[simp] theorem ledgerOpenCmd_outside (r) (c : Chip)
    {F : Foot} (hF : Foot.le { base := true, kit := true } F) : (ledgerOpenCmd.act r c).chip.outside F = c.outside F :=
  Chip.outside_mono hF (by
  simp only [ledgerOpenCmd]
  split
  · rfl
  · split
    · rfl
    · split
      · refine (Chip.outside_with_tb_kit _ _ _ ?_ rfl).trans ?_
        · rfl
        · simp +decide
      · simp +decide)

@[simp] theorem ledgerAbortCmd_outside (r) (c : Chip)
    {F : Foot} (hF : Foot.le { kit := true, due := true } F) : (ledgerAbortCmd.act r c).chip.outside F = c.outside F :=
  Chip.outside_mono hF (by simp only [ledgerAbortCmd]; split <;> simp +decide)

@[simp] theorem ledgerCloseCmd_outside (r) (c : Chip)
    {F : Foot} (hF : Foot.le { kit := true } F) : (ledgerCloseCmd.act r c).chip.outside F = c.outside F :=
  Chip.outside_mono hF (by simp +decide [ledgerCloseCmd])

@[simp] theorem ledgerStatusCmd_outside (r) (c : Chip) {F : Foot} : (ledgerStatusCmd.act r c).chip.outside F = c.outside F := by simp +decide [ledgerStatusCmd]

/-! ### Commands of Looms -/

@[simp] theorem loomStatusCmd_outside (r) (c : Chip) {F : Foot} : (loomStatusCmd.act r c).chip.outside F = c.outside F := by simp +decide [loomStatusCmd]

@[simp] theorem loomRetireCmd_outside (r) (c : Chip)
    {F : Foot} (hF : Foot.le { due := true } F) : (loomRetireCmd.act r c).chip.outside F = c.outside F :=
  Chip.outside_mono hF (by simp +decide [loomRetireCmd])

@[simp] theorem loomSeedCmd_outside (r) (c : Chip)
    {F : Foot} (hF : Foot.le { due := true } F) : (loomSeedCmd.act r c).chip.outside F = c.outside F :=
  Chip.outside_mono hF (by simp +decide [loomSeedCmd])

@[simp] theorem benchWriteCmd_outside (r) (c : Chip)
    {F : Foot} (hF : Foot.le { bench := true, ctr := true } F) : (benchWriteCmd.act r c).chip.outside F = c.outside F :=
  Chip.outside_mono hF (by simp +decide [benchWriteCmd])

@[simp] theorem benchReadCmd_outside (read) (r) (c : Chip)
    {F : Foot} (hF : Foot.le { loom := true, events := true, ctr := true, due := true, sent := true } F) :
    ((benchReadCmd read).act r c).chip.outside F = c.outside F :=
  Chip.outside_mono hF (by simp only [benchReadCmd]; (repeat' split) <;> simp +decide)

@[simp] theorem recipeCreateCmd_outside (r) (c : Chip)
    {F : Foot} (hF : Foot.le { loom := true } F) : (recipeCreateCmd.act r c).chip.outside F = c.outside F :=
  Chip.outside_mono hF (by simp +decide [recipeCreateCmd])

@[simp] theorem recipeLoadCmd_outside (r) (c : Chip)
    {F : Foot} (hF : Foot.le { loom := true } F) : (recipeLoadCmd.act r c).chip.outside F = c.outside F :=
  Chip.outside_mono hF (by simp only [recipeLoadCmd]; split <;> simp +decide)

@[simp] theorem recipeSealCmd_outside (r) (c : Chip)
    {F : Foot} (hF : Foot.le { loom := true } F) : (recipeSealCmd.act r c).chip.outside F = c.outside F :=
  Chip.outside_mono hF (by simp only [recipeSealCmd]; split <;> simp +decide)

@[simp] theorem recipeFreeCmd_outside (r) (c : Chip)
    {F : Foot} (hF : Foot.le { loom := true } F) : (recipeFreeCmd.act r c).chip.outside F = c.outside F :=
  Chip.outside_mono hF (by simp only [recipeFreeCmd]; split <;> simp +decide)

@[simp] theorem slotConfigCmd_outside (r) (c : Chip)
    {F : Foot} (hF : Foot.le { due := true } F) : (slotConfigCmd.act r c).chip.outside F = c.outside F :=
  Chip.outside_mono hF (by simp +decide [slotConfigCmd])

@[simp] theorem recipeParamCmd_outside (r) (c : Chip)
    {F : Foot} (hF : Foot.le { due := true } F) : (recipeParamCmd.act r c).chip.outside F = c.outside F :=
  Chip.outside_mono hF (by simp +decide [recipeParamCmd])

@[simp] theorem recipeRunCmd_outside (r) (c : Chip)
    {F : Foot} (hF : Foot.le { loom := true } F) : (recipeRunCmd.act r c).chip.outside F = c.outside F :=
  Chip.outside_mono hF (by simp +decide [recipeRunCmd])

@[simp] theorem sampleConfigCmd_outside (r) (c : Chip)
    {F : Foot} (hF : Foot.le { loom := true } F) : (sampleConfigCmd.act r c).chip.outside F = c.outside F :=
  Chip.outside_mono hF (by simp +decide [sampleConfigCmd])

/-! ### Commands of Crossing -/

@[simp] theorem portExpectCmd_outside (r) (c : Chip)
    {F : Foot} (hF : Foot.le { xbar := true, due := true } F) : (portExpectCmd.act r c).chip.outside F = c.outside F :=
  Chip.outside_mono hF (by simp +decide [portExpectCmd])

@[simp] theorem portResolveCmd_outside (r) (c : Chip)
    {F : Foot} (hF : Foot.le { ports := true, due := true, sent := true } F) :
    (portResolveCmd.act r c).chip.outside F = c.outside F :=
  Chip.outside_mono hF (by simp +decide [portResolveCmd])

@[simp] theorem bufConfigCmd_outside (r) (c : Chip)
    {F : Foot} (hF : Foot.le { due := true } F) : (bufConfigCmd.act r c).chip.outside F = c.outside F :=
  Chip.outside_mono hF (by simp +decide [bufConfigCmd])

@[simp] theorem queueConfigCmd_outside (r) (c : Chip)
    {F : Foot} (hF : Foot.le { due := true } F) : (queueConfigCmd.act r c).chip.outside F = c.outside F :=
  Chip.outside_mono hF (by simp +decide [queueConfigCmd])

@[simp] theorem spillRateCmd_outside (r) (c : Chip)
    {F : Foot} (hF : Foot.le { due := true } F) : (spillRateCmd.act r c).chip.outside F = c.outside F :=
  Chip.outside_mono hF (by simp +decide [spillRateCmd])

@[simp] theorem mcastSetCmd_outside (r) (c : Chip)
    {F : Foot} (hF : Foot.le { due := true } F) : (mcastSetCmd.act r c).chip.outside F = c.outside F :=
  Chip.outside_mono hF (by simp +decide [mcastSetCmd])

/-! ### Commands of Time -/

@[simp] theorem timeSetCmd_outside (r) (c : Chip)
    {F : Foot} (hF : Foot.le { base := true } F) : (timeSetCmd.act r c).chip.outside F = c.outside F :=
  Chip.outside_mono hF (by simp +decide [timeSetCmd])

@[simp] theorem timeStepCmd_outside (r) (c : Chip)
    {F : Foot} (hF : Foot.le { due := true } F) : (timeStepCmd.act r c).chip.outside F = c.outside F :=
  Chip.outside_mono hF (by simp +decide [timeStepCmd])

@[simp] theorem timeAsymCmd_outside (r) (c : Chip)
    {F : Foot} (hF : Foot.le { ports := true } F) : (timeAsymCmd.act r c).chip.outside F = c.outside F :=
  Chip.outside_mono hF (by simp +decide [timeAsymCmd])

@[simp] theorem timeRoleCmd_outside (r) (c : Chip)
    {F : Foot} (hF : Foot.le { clock := true, base := true, events := true, ctr := true, sent := true } F) :
    (timeRoleCmd.act r c).chip.outside F = c.outside F :=
  Chip.outside_mono hF (by simp +decide [timeRoleCmd])

@[simp] theorem timeStatusCmd_outside (r) (c : Chip) {F : Foot} : (timeStatusCmd.act r c).chip.outside F = c.outside F := by simp +decide [timeStatusCmd]

@[simp] theorem dealPeriodCmd_outside (r) (c : Chip)
    {F : Foot} (hF : Foot.le { base := true } F) : (dealPeriodCmd.act r c).chip.outside F = c.outside F :=
  Chip.outside_mono hF (by simp +decide [dealPeriodCmd])

@[simp] theorem ptpConfigCmd_outside (r) (c : Chip)
    {F : Foot} (hF : Foot.le { base := true, events := true, ctr := true, sent := true } F) :
    (ptpConfigCmd.act r c).chip.outside F = c.outside F :=
  Chip.outside_mono hF (by simp +decide [ptpConfigCmd])

/-! ### Commands of Calendars -/

@[simp] theorem calLoadCmd_outside (r) (c : Chip)
    {F : Foot} (hF : Foot.le { sch := true } F) : (calLoadCmd.act r c).chip.outside F = c.outside F :=
  Chip.outside_mono hF (by
  simp only [calLoadCmd]
  (repeat' split) <;> simp +decide only [answer_chip, refuse_chip, Chip.setCal_outside])

@[simp] theorem calStartCmd_outside (r) (c : Chip)
    {F : Foot} (hF : Foot.le { sch := true } F) : (calStartCmd.act r c).chip.outside F = c.outside F :=
  Chip.outside_mono hF (by simp +decide [calStartCmd])

@[simp] theorem calStopCmd_outside (r) (c : Chip)
    {F : Foot} (hF : Foot.le { sch := true } F) : (calStopCmd.act r c).chip.outside F = c.outside F :=
  Chip.outside_mono hF (by
  simp only [calStopCmd]
  (repeat' split) <;> simp +decide only [answer_chip, refuse_chip, Chip.setCal_outside])

@[simp] theorem calBindCmd_outside (r) (c : Chip)
    {F : Foot} (hF : Foot.le { due := true } F) : (calBindCmd.act r c).chip.outside F = c.outside F :=
  Chip.outside_mono hF (by
  simp only [calBindCmd]
  (repeat' split) <;> simp +decide only [answer_chip, refuse_chip, Chip.schedule_outside])

@[simp] theorem schedConfigCmd_outside (r) (c : Chip)
    {F : Foot} (hF : Foot.le { due := true } F) : (schedConfigCmd.act r c).chip.outside F = c.outside F :=
  Chip.outside_mono hF (by simp +decide [schedConfigCmd])

@[simp] theorem meterSetCmd_outside (r) (c : Chip)
    {F : Foot} (hF : Foot.le { due := true } F) : (meterSetCmd.act r c).chip.outside F = c.outside F :=
  Chip.outside_mono hF (by simp +decide [meterSetCmd])

@[simp] theorem meterBindCmd_outside (r) (c : Chip)
    {F : Foot} (hF : Foot.le { due := true } F) : (meterBindCmd.act r c).chip.outside F = c.outside F :=
  Chip.outside_mono hF (by simp +decide [meterBindCmd])

/-! ### Commands of Gates -/

@[simp] theorem gateLoadCmd_outside (r) (c : Chip)
    {F : Foot} (hF : Foot.le { gate := true, due := true } F) : (gateLoadCmd.act r c).chip.outside F = c.outside F :=
  Chip.outside_mono hF (by simp +decide [gateLoadCmd])

@[simp] theorem gateUnloadCmd_outside (r) (c : Chip)
    {F : Foot} (hF : Foot.le { due := true } F) : (gateUnloadCmd.act r c).chip.outside F = c.outside F :=
  Chip.outside_mono hF (by simp only [gateUnloadCmd]; split <;> simp +decide)

@[simp] theorem gateMapCmd_outside (r) (c : Chip)
    {F : Foot} (hF : Foot.le { due := true } F) : (gateMapCmd.act r c).chip.outside F = c.outside F :=
  Chip.outside_mono hF (by simp only [gateMapCmd]; split <;> simp +decide)

@[simp] theorem gateCapCmd_outside (r) (c : Chip)
    {F : Foot} (hF : Foot.le { due := true } F) : (gateCapCmd.act r c).chip.outside F = c.outside F :=
  Chip.outside_mono hF (by simp only [gateCapCmd]; split <;> simp +decide)

@[simp] theorem gateWeightsCmd_outside (r) (c : Chip)
    {F : Foot} (hF : Foot.le { gate := true } F) : (gateWeightsCmd.act r c).chip.outside F = c.outside F :=
  Chip.outside_mono hF (by simp only [gateWeightsCmd]; split <;> simp +decide)

@[simp] theorem gateStatusCmd_outside (r) (c : Chip) {F : Foot} : (gateStatusCmd.act r c).chip.outside F = c.outside F := by simp only [gateStatusCmd]; split <;> simp +decide

/-! ### Commands of Sieve -/

@[simp] theorem sieveLoadCmd_outside (r) (c : Chip)
    {F : Foot} (hF : Foot.le { lard := true, waiting := true } F) : (sieveLoadCmd.act r c).chip.outside F = c.outside F :=
  Chip.outside_mono hF (by simp +decide [sieveLoadCmd])

@[simp] theorem sieveClearCmd_outside (r) (c : Chip)
    {F : Foot} (hF : Foot.le { due := true } F) : (sieveClearCmd.act r c).chip.outside F = c.outside F :=
  Chip.outside_mono hF (by simp +decide [sieveClearCmd])

@[simp] theorem sieveTrimCmd_outside (r) (c : Chip)
    {F : Foot} (hF : Foot.le { due := true } F) : (sieveTrimCmd.act r c).chip.outside F = c.outside F :=
  Chip.outside_mono hF (by simp +decide [sieveTrimCmd])

@[simp] theorem sieveStatusCmd_outside (r) (c : Chip) {F : Foot} : (sieveStatusCmd.act r c).chip.outside F = c.outside F := by simp +decide [sieveStatusCmd]

/-! ### Commands of Twin -/

@[simp] theorem twinPairCmd_outside (r) (c : Chip)
    {F : Foot} (hF : Foot.le { due := true } F) : (twinPairCmd.act r c).chip.outside F = c.outside F :=
  Chip.outside_mono hF (by simp +decide [twinPairCmd])

@[simp] theorem twinLinkCmd_outside (r) (c : Chip)
    {F : Foot} (hF : Foot.le { stamps := true, ports := true, nest := true, xbar := true, sch := true, events := true, ctr := true, due := true, sent := true } F) :
    (twinLinkCmd.act r c).chip.outside F = c.outside F :=
  Chip.outside_mono hF (by simp +decide [twinLinkCmd])

@[simp] theorem twinMirrorCmd_outside (r) (c : Chip)
    {F : Foot} (hF : Foot.le { due := true } F) : (twinMirrorCmd.act r c).chip.outside F = c.outside F :=
  Chip.outside_mono hF (by simp +decide [twinMirrorCmd])

@[simp] theorem twinTakeoverCmd_outside (r) (c : Chip)
    {F : Foot} (hF : Foot.le { ports := true, due := true, sent := true } F) :
    (twinTakeoverCmd.act r c).chip.outside F = c.outside F :=
  Chip.outside_mono hF (by simp only [twinTakeoverCmd]; split <;> simp +decide)

@[simp] theorem twinExportCmd_outside (r) (c : Chip) {F : Foot} : (twinExportCmd.act r c).chip.outside F = c.outside F := by simp +decide [twinExportCmd]

@[simp] theorem tableJoinCmd_outside (r) (c : Chip)
    {F : Foot} (hF : Foot.le { twin := true } F) : (tableJoinCmd.act r c).chip.outside F = c.outside F :=
  Chip.outside_mono hF (by simp +decide [tableJoinCmd])

@[simp] theorem tableProtectCmd_outside (r) (c : Chip)
    {F : Foot} (hF : Foot.le { twin := true } F) : (tableProtectCmd.act r c).chip.outside F = c.outside F :=
  Chip.outside_mono hF (by simp only [tableProtectCmd]; split <;> simp +decide)

@[simp] theorem tableMemberCmd_outside (r) (c : Chip)
    {F : Foot} (hF : Foot.le { due := true } F) : (tableMemberCmd.act r c).chip.outside F = c.outside F :=
  Chip.outside_mono hF (by simp +decide [tableMemberCmd])

@[simp] theorem tableRebuildCmd_outside (r) (c : Chip)
    {F : Foot} (hF : Foot.le { twin := true, waiting := true, events := true, ctr := true, sent := true } F) :
    (tableRebuildCmd.act r c).chip.outside F = c.outside F :=
  Chip.outside_mono hF (by simp only [tableRebuildCmd]; (repeat' split) <;> simp +decide)

@[simp] theorem ckptTakeCmd_outside (r) (c : Chip)
    {F : Foot} (hF : Foot.le { twin := true, waiting := true } F) : (ckptTakeCmd.act r c).chip.outside F = c.outside F :=
  Chip.outside_mono hF (by simp only [ckptTakeCmd]; split <;> simp +decide)

@[simp] theorem ckptRestoreCmd_outside (r) (c : Chip)
    {F : Foot} (hF : Foot.le { waiting := true } F) : (ckptRestoreCmd.act r c).chip.outside F = c.outside F :=
  Chip.outside_mono hF (by simp +decide [ckptRestoreCmd])

@[simp] theorem bcastTreeCmd_outside (r) (c : Chip)
    {F : Foot} (hF : Foot.le { twin := true } F) : (bcastTreeCmd.act r c).chip.outside F = c.outside F :=
  Chip.outside_mono hF (by simp +decide [bcastTreeCmd])

@[simp] theorem dealExpectCmd_outside (r) (c : Chip)
    {F : Foot} (hF : Foot.le { twin := true } F) : (dealExpectCmd.act r c).chip.outside F = c.outside F :=
  Chip.outside_mono hF (by simp +decide [dealExpectCmd])

@[simp] theorem dealOpenCmd_outside (r) (c : Chip)
    {F : Foot} (hF : Foot.le { stamps := true, ports := true, nest := true, sch := true, twin := true, events := true, ctr := true, sent := true } F) :
    (dealOpenCmd.act r c).chip.outside F = c.outside F :=
  Chip.outside_mono hF (by simp +decide [dealOpenCmd])

@[simp] theorem healthBudgetCmd_outside (r) (c : Chip)
    {F : Foot} (hF : Foot.le { twin := true } F) : (healthBudgetCmd.act r c).chip.outside F = c.outside F :=
  Chip.outside_mono hF (by simp +decide [healthBudgetCmd])

@[simp] theorem healthClearCmd_outside (r) (c : Chip)
    {F : Foot} (hF : Foot.le { twin := true } F) : (healthClearCmd.act r c).chip.outside F = c.outside F :=
  Chip.outside_mono hF (by simp +decide [healthClearCmd])

/-! ### Commands of Firmware -/

@[simp] theorem fwStageCmd_outside (r) (c : Chip)
    {F : Foot} (hF : Foot.le { flash := true, waiting := true } F) : (fwStageCmd.act r c).chip.outside F = c.outside F :=
  Chip.outside_mono hF (by simp +decide [fwStageCmd])

@[simp] theorem fwVerifyCmd_outside (r) (c : Chip)
    {F : Foot} (hF : Foot.le { waiting := true } F) : (fwVerifyCmd.act r c).chip.outside F = c.outside F :=
  Chip.outside_mono hF (by simp +decide [fwVerifyCmd])

@[simp] theorem fwActivateCmd_outside (r) (c : Chip)
    {F : Foot} (hF : Foot.le { waiting := true, firmware := true, stew := true } F) :
    (fwActivateCmd.act r c).chip.outside F = c.outside F :=
  Chip.outside_mono hF (by simp +decide [fwActivateCmd])

@[simp] theorem fwCommitCmd_outside (r) (c : Chip)
    {F : Foot} (hF : Foot.le { waiting := true } F) : (fwCommitCmd.act r c).chip.outside F = c.outside F :=
  Chip.outside_mono hF (by simp +decide [fwCommitCmd])

@[simp] theorem fwStatusCmd_outside (r) (c : Chip) {F : Foot} : (fwStatusCmd.act r c).chip.outside F = c.outside F := by simp +decide [fwStatusCmd]

@[simp] theorem bringStatusCmd_outside (r) (c : Chip) {F : Foot} : (bringStatusCmd.act r c).chip.outside F = c.outside F := by simp +decide [bringStatusCmd]

/-! ### Commands of Package -/

@[simp] theorem powerCapCmd_outside (r) (c : Chip)
    {F : Foot} (hF : Foot.le { pkg := true } F) : (powerCapCmd.act r c).chip.outside F = c.outside F :=
  Chip.outside_mono hF (by simp +decide [powerCapCmd])

@[simp] theorem powerStatusCmd_outside (r) (c : Chip) {F : Foot} : (powerStatusCmd.act r c).chip.outside F = c.outside F := by simp +decide [powerStatusCmd]

/-! ### Commands of Routes -/

@[simp] theorem nestLoadCmd_outside (r) (c : Chip)
    {F : Foot} (hF : Foot.le { nest := true } F) : (nestLoadCmd.act r c).chip.outside F = c.outside F :=
  Chip.outside_mono hF (by simp +decide [nestLoadCmd])

@[simp] theorem routeLoadCmd_outside (r) (c : Chip)
    {F : Foot} (hF : Foot.le { nest := true } F) : (routeLoadCmd.act r c).chip.outside F = c.outside F :=
  Chip.outside_mono hF (by simp +decide [routeLoadCmd])

@[simp] theorem routeSealCmd_outside (r) (c : Chip)
    {F : Foot} (hF : Foot.le { nest := true } F) : (routeSealCmd.act r c).chip.outside F = c.outside F :=
  Chip.outside_mono hF (by simp only [routeSealCmd]; (repeat' split) <;> simp +decide)

@[simp] theorem routeFlipCmd_outside (r) (c : Chip)
    {F : Foot} (hF : Foot.le { nest := true } F) : (routeFlipCmd.act r c).chip.outside F = c.outside F :=
  Chip.outside_mono hF (by simp +decide [routeFlipCmd])

@[simp] theorem routeHorizonCmd_outside (r) (c : Chip)
    {F : Foot} (hF : Foot.le { nest := true } F) : (routeHorizonCmd.act r c).chip.outside F = c.outside F :=
  Chip.outside_mono hF (by simp +decide [routeHorizonCmd])

@[simp] theorem routeReadCmd_outside (r) (c : Chip) {F : Foot} : (routeReadCmd.act r c).chip.outside F = c.outside F := by simp +decide [routeReadCmd]

@[simp] theorem fanSetCmd_outside (r) (c : Chip)
    {F : Foot} (hF : Foot.le { due := true } F) : (fanSetCmd.act r c).chip.outside F = c.outside F :=
  Chip.outside_mono hF (by simp +decide [fanSetCmd])

@[simp] theorem fanWeightCmd_outside (r) (c : Chip)
    {F : Foot} (hF : Foot.le { due := true } F) : (fanWeightCmd.act r c).chip.outside F = c.outside F :=
  Chip.outside_mono hF (by simp +decide [fanWeightCmd])

@[simp] theorem fanRejoinCmd_outside (r) (c : Chip)
    {F : Foot} (hF : Foot.le { due := true } F) : (fanRejoinCmd.act r c).chip.outside F = c.outside F :=
  Chip.outside_mono hF (by simp +decide [fanRejoinCmd])

@[simp] theorem fanRemoveCmd_outside (r) (c : Chip)
    {F : Foot} (hF : Foot.le { nest := true, due := true } F) : (fanRemoveCmd.act r c).chip.outside F = c.outside F :=
  Chip.outside_mono hF (by simp +decide [fanRemoveCmd])

@[simp] theorem tallyStreamCmd_outside (r) (c : Chip)
    {F : Foot} (hF : Foot.le { nest := true } F) : (tallyStreamCmd.act r c).chip.outside F = c.outside F :=
  Chip.outside_mono hF (by simp +decide [tallyStreamCmd])

/-! ### Commands of Registers -/

@[simp] theorem ctSnapCmd_outside (r) (c : Chip)
    {F : Foot} (hF : Foot.le { waiting := true, due := true } F) : (ctSnapCmd.act r c).chip.outside F = c.outside F :=
  Chip.outside_mono hF (by simp +decide [ctSnapCmd])

@[simp] theorem ctConfigCmd_outside (r) (c : Chip)
    {F : Foot} (hF : Foot.le { due := true } F) : (ctConfigCmd.act r c).chip.outside F = c.outside F :=
  Chip.outside_mono hF (by simp +decide [ctConfigCmd])

@[simp] theorem ctBwCmd_outside (r) (c : Chip)
    {F : Foot} (hF : Foot.le { due := true } F) : (ctBwCmd.act r c).chip.outside F = c.outside F :=
  Chip.outside_mono hF (by simp +decide [ctBwCmd])

@[simp] theorem userMapCmd_outside (r) (c : Chip)
    {F : Foot} (hF : Foot.le { regs := true } F) : (userMapCmd.act r c).chip.outside F = c.outside F :=
  Chip.outside_mono hF (by simp +decide [userMapCmd])

@[simp] theorem frzNowCmd_outside (r) (c : Chip)
    {F : Foot} (hF : Foot.le { freeze := true } F) : (frzNowCmd.act r c).chip.outside F = c.outside F :=
  Chip.outside_mono hF (by simp +decide [frzNowCmd])

@[simp] theorem frzStatusCmd_outside (r) (c : Chip) {F : Foot} : (frzStatusCmd.act r c).chip.outside F = c.outside F := by simp +decide [frzStatusCmd]

@[simp] theorem frzReadCmd_outside (r) (c : Chip) {F : Foot} : (frzReadCmd.act r c).chip.outside F = c.outside F := by simp only [frzReadCmd]; (repeat' split) <;> simp +decide

end Sys2Proof.Machine

/-! SUPPORT. What the part is outlives every step: the fuses are written only where the part is cleared, which keeps them, and at the
end of firmware work, which only raises the security version. -/

namespace Sys2Proof.Machine

set_option Elab.async false

open Sys2Proof

/-- Everything but the fuses. -/
@[reducible] def Foot.notFuses : Foot :=
  { Foot.change with pkg := true, hbm := true, rung := true, firmware := true, freeze := true }

/-- The instructions whose meaning writes the fuses down again: those that clear the part and the end of firmware work. -/
def burnsFuses : Instr → Bool
  | .resetAccept | .resetRelease _ | .railOutOfTolerance | .fwWorkDone .. => true
  | _ => false

theorem exec_keeps_fuses (i : Instr) (hi : burnsFuses i = false) :
    ∃ f, (∀ s, exec i s = s.run i.wf f) ∧ ∀ c, (f c).outside Foot.notFuses = c.outside Foot.notFuses := by
  cases i
  case resetAccept => cases hi
  case resetRelease => cases hi
  case railOutOfTolerance => cases hi
  case fwWorkDone => cases hi
  case egressSchedule p =>
    refine ⟨_, fun _ => rfl, fun c => Chip.fabric_outside c fun c => ?_⟩
    split <;> simp +decide
  case rcFieldRead off =>
    refine ⟨_, fun _ => rfl, fun c => Chip.live_outside c fun c => ?_⟩
    cases off <;> simp +decide
  case spdmChallenge slot nonce =>
    refine ⟨_, fun _ => rfl, fun c => Chip.live_outside c fun c => Chip.spdm_outside _ c (by decide) fun c => ?_⟩
    simp +decide
  all_goals dsimp only [exec]
  all_goals refine ⟨_, fun _ => rfl, fun c => ?_⟩
  all_goals try with_reducible refine Chip.live_outside c fun c => ?_
  all_goals try with_reducible refine Chip.fabric_outside c fun c => ?_
  all_goals try with_reducible refine Chip.mirrored_outside c (by decide) fun c => ?_
  all_goals simp +decide

/-- The identity of R3, R205 and R458 is that of the first, and the security version (R455) no lower. -/
def Fuses.SameSelf (a b : Fuses) : Prop :=
  b.variant = a.variant ∧ b.stepping = a.stepping ∧ b.serial = a.serial ∧ b.seedId = a.seedId ∧ b.secret = a.secret ∧ a.svn ≤ b.svn

theorem Fuses.SameSelf.of_eq {a b : Fuses} (h : b = a) : a.SameSelf b := by
  subst h; exact ⟨rfl, rfl, rfl, rfl, rfl, Nat.le_refl _⟩

theorem Chip.fuses_outside {F : Foot} {c t : Chip} (hF : F.fuses = false) (h : t.outside F = c.outside F) : t.fuses = c.fuses := by
  have := congrArg Chip.fuses h
  simpa [Chip.outside, hF] using this

theorem Fuses.SameSelf.of_outside {c t : Chip} (h : t.outside Foot.notFuses = c.outside Foot.notFuses) : c.fuses.SameSelf t.fuses :=
  .of_eq (Chip.fuses_outside rfl h)

theorem Chip.fwWorkDone_sameSelf (k x) (c : Chip) : c.fuses.SameSelf (c.fwWorkDone k x).fuses := by
  have setFlash : ∀ f, (c.setFlash f).fuses = c.fuses := fun _ => rfl
  have finish : ∀ w st ws (d : Chip), (d.finish w st ws).fuses = d.fuses := fun w st ws d =>
    Chip.fuses_outside rfl (Chip.finish_outside (F := Foot.notFuses) w st ws d (by decide))
  simp only [Chip.fwWorkDone]
  split
  · exact .of_eq rfl
  · split
    · exact .of_eq (by rw [finish, setFlash])
    · split <;> exact .of_eq (by rw [finish, setFlash])
    · exact .of_eq (by rw [finish, setFlash])
    · rw [finish]
      exact ⟨rfl, rfl, rfl, rfl, rfl, Nat.le_max_left _ _⟩

theorem exec_sameSelf (i : Instr) : ∃ f, (∀ s, exec i s = s.run i.wf f) ∧ ∀ c : Chip, c.fuses.SameSelf (f c).fuses := by
  cases h : burnsFuses i
  case false =>
    obtain ⟨f, hf, hc⟩ := exec_keeps_fuses i h
    exact ⟨f, hf, fun c => .of_outside (hc c)⟩
  case true =>
    cases i <;> cases h <;> dsimp only [exec]
    case resetAccept => exact ⟨_, fun _ => rfl, fun c => .of_eq rfl⟩
    case resetRelease straps =>
      refine ⟨_, fun _ => rfl, fun c => .of_eq ?_⟩
      unfold Chip.release
      split <;> rfl
    case railOutOfTolerance => exact ⟨_, fun _ => rfl, fun c => .of_eq rfl⟩
    case fwWorkDone k x =>
      refine ⟨_, fun _ => rfl, fun c => ?_⟩
      unfold Chip.live
      split
      · exact .of_eq rfl
      · exact Chip.fwWorkDone_sameSelf k x c

/-- A property of every function behind an instruction, and of the passing of a cycle, is one of every step. -/
theorem step_induct {P : Chip → Chip → Prop} (exec_P : ∀ i, ∃ f, (∀ s, exec i s = s.run i.wf f) ∧ ∀ c, P c (f c))
    (tick_P : ∀ c, P c c.tick) {s t : State} (h : step s = .next t) : P s.chip t.chip := by
  obtain ⟨c, q⟩ := s
  cases q with
  | nil =>
    cases h
    exact tick_P c
  | cons i q =>
    obtain ⟨f, hf, hP⟩ := exec_P i
    have e : (⟨c, q⟩ : State).run i.wf f = .next t := (hf ⟨c, q⟩).symm.trans h
    unfold State.run at e
    split at e <;> cases e
    exact hP c

/-- Settles O7. -/
theorem identityOutlivesEveryStep : Obligations.IdentityOutlivesEveryStep := by
  intro s t h
  exact step_induct (P := fun c t => c.fuses.SameSelf t.fuses) exec_sameSelf
    (fun c => .of_outside (Chip.tick_outside c (by decide))) h

end Sys2Proof.Machine

/-! SUPPORT. HBM and the Benches keep their canonical form over every step: each place where the model writes them writes byte by byte
or drops entries, and what writes neither keeps them whole. -/

namespace Sys2Proof.Machine

set_option Elab.async false

open Sys2Proof

/-- Everything but the bytes of the Benches and of HBM. -/
@[reducible] def Foot.notMemories : Foot :=
  { fuses := true, flash := true, caps := true, clock := true, base := true, stamps := true, pkg := true, light := true, ports := true,
    nest := true, xbar := true, sch := true, roll := true, kit := true, loom := true, gate := true, sv := true, lard := true,
    twin := true, mbx := true, rung := true, waiting := true, firmware := true, events := true, unrecorded := true, stew := true,
    ctr := true, freeze := true, regs := true, boot := true, due := true, sent := true, free := true }

def Chip.Canonical (c : Chip) : Prop := Memory.wf c.loom.bench = true ∧ Memory.wf c.lard.hbm = true

/-- The memories are canonical, said of what the part shows of them alone: an operation that writes neither drops out by its frame. -/
abbrev Chip.Tidy (c : Chip) : Prop := (c.outside Foot.notMemories).Canonical

theorem Chip.tidy_iff (c : Chip) : c.Tidy ↔ Memory.wf c.loom.bench = true ∧ Memory.wf c.lard.hbm = true := Iff.rfl

theorem Chip.Tidy.of_outside {c t : Chip} (h : c.Tidy) (e : t.outside Foot.notMemories = c.outside Foot.notMemories) : t.Tidy := by
  rwa [Chip.Tidy, e]

@[simp] theorem Chip.canonical_ite (p : Prop) [Decidable p] (a b : Chip) :
    (if p then a else b).Canonical ↔ if p then a.Canonical else b.Canonical := by split <;> rfl

theorem Chip.Tidy.foldl {α : Type} {f : Chip → α → Chip} (hf : ∀ c x, c.Tidy → (f c x).Tidy) (l : List α) {c : Chip} (h : c.Tidy) :
    (l.foldl f c).Tidy := by
  induction l generalizing c with
  | nil => exact h
  | cons x l ih => exact ih (hf c x h)

/-! ### Where HBM is written -/

theorem Chip.storeRegion_tidy (h r off bs) {c : Chip} (hc : c.Tidy) : (Chip.storeRegion h r off bs c).Tidy := by
  induction bs generalizing off c with
  | nil => exact hc
  | cons b bs ih =>
    rw [Chip.storeRegion]
    exact ih (off + 1) ⟨hc.1, Memory.wf_write hc.2⟩

theorem Chip.writeRegion_tidy (x off bs) {c : Chip} (hc : c.Tidy) : (Chip.writeRegion x off bs c).Tidy := by
  unfold Chip.writeRegion
  extract_lets h r
  split
  · exact Chip.storeRegion_tidy h r off bs hc
  · refine Chip.Tidy.foldl (fun c e hc => ?_) _ hc
    have hs := Chip.storeRegion_tidy h r e.1 e.2 hc
    dsimp only
    split
    · split
      · exact hs.of_outside (Chip.sendDeltas_outside _ _ _ _ _ _ (by decide))
      · exact hs
    · exact hs

theorem Chip.zeroRegion_tidy (h r) {c : Chip} (hc : c.Tidy) : (Chip.zeroRegion h r c).Tidy := ⟨hc.1, Memory.wf_filter hc.2⟩

theorem Chip.finish_tidy (w st ws) {c : Chip} (hc : c.Tidy) : (c.finish w st ws).Tidy :=
  hc.of_outside (Chip.finish_outside w st ws c (by decide))

theorem Chip.zeroDone_tidy (k) {c : Chip} (hc : c.Tidy) : (Chip.zeroDone k c).Tidy := by
  unfold Chip.zeroDone
  split
  · exact hc
  · exact Chip.finish_tidy _ _ _ (Chip.zeroRegion_tidy _ _ hc)

theorem Chip.xferDone_tidy (k bytes check) {c : Chip} (hc : c.Tidy) : (Chip.xferDone k bytes check c).Tidy := by
  unfold Chip.xferDone
  split
  · exact hc
  · extract_lets x off n h r
    split
    · exact Chip.finish_tidy _ _ _ hc
    · split
      · exact Chip.finish_tidy _ _ _ (hc.of_outside (by simp +decide))
      · split
        · exact Chip.finish_tidy _ _ _ (hc.of_outside (by simp +decide))
        · split
          · exact Chip.finish_tidy _ _ _ (Chip.writeRegion_tidy _ _ _ hc)
          · exact hc

theorem larderWriteCmd_tidy (check r) {c : Chip} (hc : c.Tidy) : ((larderWriteCmd check).act r c).chip.Tidy := by
  simp only [larderWriteCmd]
  split
  next e => exact hc.of_outside (Chip.outside_of_accessFault e (by decide))
  next =>
    refine (Chip.writeRegion_tidy (r.w 0) (r.w 1) (r.bytes 3 (4 * r.w 2)) ?_).of_outside (Chip.chargeRecipe_outside _ _ _ (by decide))
    exact hc.of_outside (Chip.accessCe_outside _ _ _ _ _ (by decide))

theorem Chip.storeParity_tidy (h g q t off bs) {c : Chip} (hc : c.Tidy) : (Chip.storeParity h g q t off bs c).Tidy := by
  unfold Chip.storeParity
  split
  · exact hc
  · split
    · exact Chip.storeRegion_tidy _ _ _ _ hc
    · exact hc

theorem Chip.storeRebuilt_tidy (h u d) {c : Chip} (hc : c.Tidy) : (Chip.storeRebuilt h u d c).Tidy := by
  unfold Chip.storeRebuilt
  split
  · exact Chip.storeParity_tidy _ _ _ _ _ _ hc
  · split
    · exact hc
    · exact Chip.writeRegion_tidy _ _ _ hc

theorem Chip.intact_tidy {f : Chip → Chip} (hf : ∀ c, c.Tidy → (f c).Tidy) (p) {c : Chip} (hc : c.Tidy) : (Chip.intact p f c).Tidy := by
  unfold Chip.intact
  split
  · exact hf c hc
  · exact hc.of_outside (by simp +decide)

theorem Chip.takeCode_tidy {f : Chip → Chip} (hf : ∀ c, c.Tidy → (f c).Tidy) (h p kind xkind) {c : Chip} (hc : c.Tidy) :
    (Chip.takeCode h p kind xkind f c).Tidy := by
  unfold Chip.takeCode Chip.fromMember
  refine Chip.intact_tidy (fun c hc => ?_) p hc
  have stay : ∀ t, (c.setTable8 h t).Tidy := fun t => hc.of_outside (Chip.setTable8_outside h t c (by decide))
  dsimp only
  split
  · split
    · exact hf _ (stay _)
    · split
      · exact hc
      · exact stay _
  · exact hc

theorem Chip.takeDelta_tidy (h p) {c : Chip} (hc : c.Tidy) : (Chip.takeDelta h p c).Tidy :=
  Chip.takeCode_tidy (fun _ hc => (Chip.storeParity_tidy _ _ _ _ _ _ hc).of_outside (Chip.chargeRecipe_outside _ _ _ (by decide))) _ _ _ _ hc

theorem Chip.takePset_tidy (h p) {c : Chip} (hc : c.Tidy) : (Chip.takePset h p c).Tidy :=
  Chip.takeCode_tidy (fun _ hc => (Chip.storeParity_tidy _ _ _ _ _ _ hc).of_outside (Chip.chargeRecipe_outside _ _ _ (by decide))) _ _ _ _ hc

theorem Chip.rebuildStripe_tidy (h) {c : Chip} (hc : c.Tidy) : (Chip.rebuildStripe h c).Tidy := by
  unfold Chip.rebuildStripe
  extract_lets t mine u of_ d c1 c2 t'
  split
  · exact hc
  · have h1 : c1.Tidy := hc.of_outside (Chip.setTable8_outside _ _ _ (by decide))
    have h2 : c2.Tidy := (Chip.storeRebuilt_tidy h u d h1).of_outside (by simp +decide [c2])
    split
    · exact h2
    · exact h2.of_outside (by simp +decide)

theorem Chip.ckptWritten_tidy {c : Chip} (hc : c.Tidy) : (Chip.ckptWritten c).Tidy := by
  unfold Chip.ckptWritten
  split
  · exact hc
  next k _ =>
    extract_lets tw c1 bs done c2
    have h1 : c1.Tidy := hc.of_outside (Chip.setTwin_outside _ _ (by decide))
    have done_tidy : ∀ st ws {c : Chip}, c.Tidy → (done st ws c).Tidy := by
      intro st ws c hc
      simp only [done]
      split
      · exact hc
      · exact Chip.finish_tidy _ _ _ hc
    split
    · exact done_tidy _ _ h1
    · have h2 : c2.Tidy := (Chip.writeRegion_tidy k.region 0 bs h1).of_outside (Chip.chargeRecipe_outside _ _ _ (by decide))
      exact (done_tidy _ _ h2).of_outside (Chip.raise_outside _ _ _ _ (by decide))

/-! ### Where the Benches are written -/

theorem Chip.writeBench_tidy (n a bs) {c : Chip} (hc : c.Tidy) : (Chip.writeBench n a bs c).Tidy := ⟨Memory.wf_writeBytes hc.1, hc.2⟩

theorem benchWriteCmd_tidy (r) {c : Chip} (hc : c.Tidy) : (benchWriteCmd.act r c).chip.Tidy := by
  simp only [benchWriteCmd]
  split
  · exact hc
  · split
    · exact hc
    · exact Chip.Tidy.of_outside (Chip.writeBench_tidy _ _ _ hc) (Chip.occur_outside _ _ _ _ _ _ (by decide))

theorem Chip.transferPiece_tidy (key j x) {c : Chip} (hc : c.Tidy) : (Chip.transferPiece key j x c).Tidy := by
  unfold Chip.transferPiece
  extract_lets k h base n sb loom fill loom' l
  split
  extract_lets bench c1 c2 c3
  have h1 : c1.Tidy := ⟨Memory.wf_writeBytes (Memory.wf_writeBytes hc.1), hc.2⟩
  exact h1.of_outside (by simp +decide [c3, c2])

theorem Chip.kittyTransfer_tidy (key) {r : Chip × XferUse} (hc : r.1.Tidy) : (Chip.kittyTransfer key r).1.Tidy := by
  unfold Chip.kittyTransfer
  extract_lets c k h
  split
  · exact hc
  · extract_lets j
    split
    · exact hc
    · split
      · exact hc.of_outside (Chip.failRound_outside _ _ _ _ (by decide))
      · split
        · exact hc.of_outside (Chip.bump_outside _ _ _ (by decide))
        · split
          · exact hc.of_outside (Chip.failRound_outside _ _ _ _ (by decide))
          · exact Chip.transferPiece_tidy _ _ _ hc

theorem foldl_fst_tidy {α β : Type} {f : Chip × β → α → Chip × β} (hf : ∀ r x, r.1.Tidy → (f r x).1.Tidy) (l : List α) {r : Chip × β}
    (h : r.1.Tidy) : (l.foldl f r).1.Tidy := by
  induction l generalizing r with
  | nil => exact h
  | cons x l ih => exact ih (hf r x h)

theorem Chip.kittyBoundary_tidy (h) {c : Chip} (hc : c.Tidy) : (Chip.kittyBoundary h c).Tidy := by
  unfold Chip.kittyBoundary
  extract_lets send c1
  refine foldl_fst_tidy (fun r key hr => Chip.kittyTransfer_tidy key hr) _ (Chip.Tidy.foldl (fun c key hc => ?_) _ hc)
  refine hc.of_outside ?_
  simp only [send]
  (repeat' split) <;> simp +decide

theorem Chip.issueStore_tidy (n r w) {c : Chip} (hc : c.Tidy) : (Chip.issueStore n r w c).Tidy := by
  unfold Chip.issueStore
  extract_lets m bytes x c1 c2
  have h2 : c2.Tidy := hc.of_outside (by simp +decide [c2, c1])
  split
  · exact h2
  · exact (Chip.writeRegion_tidy _ _ _ h2).of_outside (Chip.chargeRecipe_outside _ _ _ (by decide))

theorem Chip.issueNow_tidy (n r w) {c : Chip} (hc : c.Tidy) : (Chip.issueNow n r w c).Tidy := by
  unfold Chip.issueNow
  extract_lets next x op c1 c2 sv
  have h2 : c2.outside Foot.notMemories = c.outside Foot.notMemories := by simp +decide [c2, c1]
  split
  case h_12 => exact Chip.writeBench_tidy _ _ _ (hc.of_outside (Chip.setRun_outside _ _ _ (by decide)))
  case h_16 => exact Chip.issueStore_tidy _ _ _ hc
  all_goals exact hc.of_outside (by simp +decide [h2])

theorem Chip.issueChecked_tidy (n r w check) {c : Chip} (hc : c.Tidy) : (Chip.issueChecked n r w check c).Tidy := by
  unfold Chip.issueChecked
  extract_lets m h pages
  split
  · exact Chip.issueNow_tidy _ _ _ hc
  · split
    · exact Chip.issueNow_tidy _ _ _ (hc.of_outside (Chip.hbmCe_outside _ _ _ _ (by decide)))
    · exact hc.of_outside (by simp +decide)

theorem Chip.issueRead_tidy (n r w read) {c : Chip} (hc : c.Tidy) : (Chip.issueRead n r w read c).Tidy := by
  unfold Chip.issueRead
  extract_lets hit c1
  have h1 : c1.Tidy := hc.of_outside (by simp +decide [c1])
  split
  · exact h1.of_outside (by simp +decide)
  · exact Chip.issueChecked_tidy _ _ _ _ h1

theorem Chip.tryIssue_tidy (n r w read) {c : Chip} (hc : c.Tidy) : (Chip.tryIssue n r w read c).Tidy := by
  unfold Chip.tryIssue
  extract_lets fault why late c1
  split
  · exact hc.of_outside (by simp +decide)
  · split
    · exact hc.of_outside (by simp +decide [c1])
    · exact Chip.issueRead_tidy _ _ _ _ hc

theorem Chip.issueRow_tidy (n row imem read) {c : Chip} (hc : c.Tidy) : (Chip.issueRow n row imem read c).Tidy := by
  unfold Chip.issueRow
  split
  · exact hc
  · extract_lets w
    split
    · exact hc
    · split
      · exact hc.of_outside (by simp +decide)
      · exact Chip.tryIssue_tidy _ _ _ _ hc

theorem Chip.waitEnd_tidy (n read) {c : Chip} (hc : c.Tidy) : (Chip.waitEnd n read c).Tidy := by
  unfold Chip.waitEnd
  split
  · exact hc
  · split
    · exact hc
    · extract_lets w c1
      split
      · exact hc
      · exact Chip.tryIssue_tidy _ _ _ _ (hc.of_outside (by simp +decide [c1]))

theorem Chip.finishFlight_tidy (n f v) {c : Chip} (hc : c.Tidy) : (Chip.finishFlight n f v c).Tidy := by
  unfold Chip.finishFlight
  extract_lets drawn c1 c2 x c3 empty
  have h1 : c1.Tidy := Chip.Tidy.foldl (fun c e hc => Chip.writeBench_tidy _ _ _ hc) _ hc
  exact h1.of_outside (by simp +decide [c3, c2])

theorem Chip.complete_tidy (n i recompute bad corrected) {c : Chip} (hc : c.Tidy) : (Chip.complete n i recompute bad corrected c).Tidy := by
  unfold Chip.complete
  extract_lets x
  split
  · exact hc
  · split
    · exact hc
    · extract_lets v c1 hit again c2
      have h1 : c1.Tidy := hc.of_outside (by simp +decide [c1])
      split
      · exact h1.of_outside (by simp +decide)
      · have h2 : c2.Tidy := h1.of_outside (by simp +decide [c2])
        exact (Chip.finishFlight_tidy _ _ _ h2).of_outside (Chip.refreshHold_outside _ _ (by decide))

theorem Chip.scramble_tidy (n writes) {c : Chip} (hc : c.Tidy) : (Chip.scramble n writes c).Tidy :=
  Chip.Tidy.foldl (fun _ _ hc => (Chip.writeBench_tidy _ _ _ hc).of_outside (Chip.outside_with_free _ _ rfl)) _ hc

theorem Chip.loomCheckFail_tidy (n array i) {c : Chip} (hc : c.Tidy) : (Chip.loomCheckFail n array i c).Tidy := by
  unfold Chip.loomCheckFail
  extract_lets x
  split
  · exact hc
  · split
    · exact hc
    · extract_lets c1 c2
      have h1 : c1.Tidy := hc.of_outside (by simp +decide [c1])
      have h2 : c2.Tidy := Chip.scramble_tidy _ _ h1
      exact h2.of_outside (by simp +decide)

theorem Chip.fillLanded_tidy (n granule check) {c : Chip} (hc : c.Tidy) : (Chip.fillLanded n granule check c).Tidy := by
  unfold Chip.fillLanded
  extract_lets x
  split
  · exact hc
  · extract_lets h r first len off f' fills c1 c2 c3 dead c4
    have h3 : c3.Tidy := hc.of_outside (by simp +decide [c3, c2, c1])
    split
    · exact Chip.writeBench_tidy _ _ _ (h3.of_outside (Chip.hbmCe_outside _ _ _ _ (by decide)))
    · have h4 : c4.Tidy := h3.of_outside (by simp +decide [c4])
      split
      · exact h4.of_outside (by simp +decide)
      · exact h4.of_outside (by simp +decide)

theorem Chip.writeToken_tidy (g x t part payload) {c : Chip} (hc : c.Tidy) : (Chip.writeToken g x t part payload c).Tidy :=
  Chip.Tidy.foldl (fun _ _ hc => Chip.writeBench_tidy _ _ _ (Chip.writeBench_tidy _ _ _ hc)) _ hc

theorem Chip.keepToken_tidy (key known g x t parts) {c : Chip} (hc : c.Tidy) : (Chip.keepToken key known g x t parts c).Tidy := by
  unfold Chip.keepToken
  extract_lets t' x' g' c1 c2
  have h2 : c2.Tidy := hc.of_outside (by simp +decide [c2, c1])
  split
  · exact Chip.Tidy.foldl (fun _ _ hc => Chip.writeToken_tidy _ _ _ _ _ hc) _ h2
  · exact h2

theorem Chip.writeKept_tidy (g) {c : Chip} (hc : c.Tidy) : (Chip.writeKept g c).Tidy := by
  unfold Chip.writeKept
  split
  · exact hc
  · exact Chip.Tidy.foldl (fun _ _ hc => Chip.Tidy.foldl (fun _ _ hc => Chip.writeToken_tidy _ _ _ _ _ hc) _ hc) _ hc

theorem Chip.tokenAt_tidy (key g p) {c : Chip} (hc : c.Tidy) : (Chip.tokenAt key g p c).Tidy := by
  unfold Chip.tokenAt
  extract_lets tseq mine x c1
  have h1 : c1.outside Foot.notMemories = c.outside Foot.notMemories := by simp +decide [c1]
  split
  · exact hc.of_outside (by simp +decide)
  · split
    · split
      · exact hc.of_outside (by simp +decide)
      · exact Chip.keepToken_tidy _ _ _ _ _ _ hc
    · split
      · exact hc.of_outside (by simp +decide)
      · split
        · exact Chip.keepToken_tidy _ _ _ _ _ _ hc
        · exact hc.of_outside (by simp +decide [h1])

theorem Chip.token_tidy (h p) {c : Chip} (hc : c.Tidy) : (Chip.token h p c).Tidy := by
  unfold Chip.token
  split
  · split
    · exact Chip.tokenAt_tidy _ _ _ hc
    · exact hc
  · exact hc

theorem Chip.transferBatch_tidy (key g x r) {c : Chip} (hc : c.Tidy) : (Chip.transferBatch key g x r c).Tidy := by
  unfold Chip.transferBatch
  refine Chip.Tidy.of_outside (Chip.Tidy.foldl (fun c t hc => ?_) _ hc) (Chip.setGate_outside _ _ _ (by decide))
  exact Chip.writeBench_tidy _ _ _ (Chip.writeBench_tidy _ _ _ (Chip.writeBench_tidy _ _ _ hc))

theorem Chip.gateTransfers_tidy (key) {c : Chip} (hc : c.Tidy) : (Chip.gateTransfers key c).Tidy := by
  unfold Chip.gateTransfers
  split
  · exact hc
  · refine Chip.Tidy.foldl (fun c q hc => ?_) _ hc
    split
    · exact hc
    · split
      · exact hc
      · split
        · exact Chip.transferBatch_tidy _ _ _ _ hc
        · exact hc

theorem Chip.gateBoundary_tidy (key) {c : Chip} (hc : c.Tidy) : (Chip.gateBoundary key c).Tidy := by
  unfold Chip.gateBoundary
  split
  · exact hc
  · extract_lets g1 g2 g3 g4 g5 c1 c2 ready
    have h1 : c1.Tidy := Chip.writeKept_tidy _ (hc.of_outside (Chip.setGate_outside _ _ _ (by decide)))
    have h2 : c2.Tidy := by
      simp only [c2]
      split
      · exact h1.of_outside (by simp +decide)
      · exact h1
    split
    · exact h2.of_outside (Chip.outside_with_gate _ _ rfl)
    · exact Chip.gateTransfers_tidy _ (h2.of_outside (by simp +decide))

theorem Chip.gatesBoundary_tidy {c : Chip} (hc : c.Tidy) : (Chip.gatesBoundary c).Tidy :=
  Chip.Tidy.foldl (fun _ _ hc => Chip.gateBoundary_tidy _ hc) _ hc

theorem Chip.sieveDone_tidy {c : Chip} (hc : c.Tidy) : (Chip.sieveDone c).Tidy := by
  unfold Chip.sieveDone
  split
  · exact hc
  · extract_lets w x b outs sv c1 c2 c3 c4
    have h3 : c3.Tidy := hc.of_outside (by simp +decide [c3, c2, c1])
    have h4 : c4.Tidy := by
      simp only [c4]
      split
      · exact Chip.Tidy.of_outside (Chip.writeBench_tidy _ _ _ h3) (Chip.loomFlags_outside _ _ _ _ (by decide))
      · exact h3
    exact h4.of_outside (Chip.afterInstruction_outside _ _ (by decide))

theorem Chip.retireSieve_tidy {c : Chip} (hc : c.Tidy) : (Chip.retireSieve c).Tidy := by
  unfold Chip.retireSieve
  split
  · exact hc
  · extract_lets ops run fade sv c1 c2 c3
    have h1 : c1.Tidy := hc.of_outside (Chip.setSv_outside _ _ (by decide))
    have h2 : c2.Tidy := by
      simp only [c2, run]
      split
      · exact Chip.Tidy.of_outside (Chip.scramble_tidy _ _ h1) (Chip.faultRun_outside _ _ _ _ _ (by decide))
      · exact h1
    exact h2.of_outside (by simp +decide [c3])

/-! ### The work of a boundary -/

theorem Chip.failUnit_tidy (cause unit) {c : Chip} (hc : c.Tidy) : (Chip.failUnit cause unit c).Tidy := by
  unfold Chip.failUnit
  extract_lets n stage go
  have go_tidy : ∀ f : Chip → Chip, (f c).Tidy → (go f c).Tidy := fun f h => h.of_outside (by simp +decide [go])
  clear_value go
  split
  case h_6 =>
    split
    · exact go_tidy _ (Chip.retireSieve_tidy hc)
    · exact hc
  case h_7 => exact hc
  all_goals
    split
    · exact go_tidy _ (hc.of_outside (by simp +decide))
    · exact hc

theorem Chip.stageEnd_tidy (failures) {c : Chip} (hc : c.Tidy) : (Chip.stageEnd failures c).Tidy := by
  unfold Chip.stageEnd
  extract_lets stage boot n found c1
  split
  · exact hc.of_outside (Chip.outside_with_boot _ _ rfl)
  · split
    · exact hc
    · have h1 : c1.Tidy := Chip.Tidy.foldl (fun _ _ hc => Chip.failUnit_tidy _ _ hc) _ hc
      exact h1.of_outside (by simp +decide)

theorem Chip.applyChange_tidy (x) {c : Chip} (hc : c.Tidy) : (Chip.applyChange x c).Tidy := by
  cases x
  case sieveRetire => exact Chip.retireSieve_tidy hc
  all_goals exact hc.of_outside (by simp +decide [Chip.applyChange])

theorem Chip.applyDue_tidy (disputes) {c : Chip} (hc : c.Tidy) : (Chip.applyDue disputes c).Tidy := by
  unfold Chip.applyDue
  extract_lets mine now c1
  have h1 : c1.Tidy := hc.of_outside (Chip.outside_with_due _ _ rfl)
  exact Chip.Tidy.foldl (fun _ _ hc => Chip.applyChange_tidy _ hc) _ h1

theorem Chip.unitsBoundary_tidy {c : Chip} (hc : c.Tidy) : (Chip.unitsBoundary c).Tidy := by
  unfold Chip.unitsBoundary
  have h1 : c.ledgerBoundary.kittyNewDeal.Tidy := hc.of_outside (by simp +decide)
  exact (Chip.gatesBoundary_tidy (Chip.kittyBoundary_tidy 1 (Chip.kittyBoundary_tidy 0 h1))).of_outside (by simp +decide)

theorem Chip.boundaryWork_tidy {c : Chip} (hc : c.Tidy) : (Chip.boundaryWork c).Tidy := by
  unfold Chip.boundaryWork
  extract_lets c1 c2 c3
  have h1 : c1.Tidy := Chip.applyDue_tidy _ (hc.of_outside (by simp +decide))
  have h1' : (c1.portsBoundary.combBoundary.applyDue true).Tidy := Chip.applyDue_tidy _ (h1.of_outside (by simp +decide))
  have h2 : c2.Tidy := h1'.of_outside (by simp +decide [c2])
  have h3 : c3.Tidy := Chip.unitsBoundary_tidy (h2.of_outside (by simp +decide))
  exact h3.of_outside (by simp +decide)

theorem Chip.ownBoundary_tidy {c : Chip} (hc : c.Tidy) : (Chip.ownBoundary c).Tidy :=
  Chip.boundaryWork_tidy (hc.of_outside (by simp +decide))

theorem Chip.dealBoundary_tidy {c : Chip} (hc : c.Tidy) : (Chip.dealBoundary c).Tidy := by
  unfold Chip.dealBoundary
  split
  · exact hc
  · exact Chip.ownBoundary_tidy hc

theorem Chip.edgeBoundary_tidy (n d jump) {c : Chip} (hc : c.Tidy) : (Chip.edgeBoundary n d jump c).Tidy := by
  unfold Chip.edgeBoundary
  refine Chip.boundaryWork_tidy (hc.of_outside ?_)
  simp +decide

theorem Chip.dealInMiss_tidy {c : Chip} (hc : c.Tidy) : (Chip.dealInMiss c).Tidy := by
  unfold Chip.dealInMiss
  split
  · exact hc
  · split
    · exact hc
    · extract_lets due c1 c2 i n tb c3 c4 c5
      have h4 : c4.outside Foot.notMemories = c.outside Foot.notMemories := by simp +decide [c4, c3, tb, c2, c1]
      have h5 : c5.Tidy := Chip.boundaryWork_tidy (hc.of_outside (by simp +decide [h4]))
      exact h5.of_outside (Chip.pass_outside _ _ _ (by decide))

theorem Chip.untilEdge_tidy (fuel n) {c : Chip} (hc : c.Tidy) : (Chip.untilEdge fuel n c).2.Tidy := by
  induction fuel generalizing n c with
  | zero => exact hc
  | succ fuel ih =>
    rw [Chip.untilEdge]
    split
    · split
      · exact ih _ (Chip.dealInMiss_tidy hc)
      · exact hc
    · split
      · exact ih _ (Chip.ownBoundary_tidy hc)
      · exact hc

theorem Chip.dealInEdge_tidy (wait) {c : Chip} (hc : c.Tidy) : (Chip.dealInEdge wait c).Tidy := by
  unfold Chip.dealInEdge
  split
  · exact hc
  · have hu := Chip.untilEdge_tidy 128 wait hc
    generalize c.untilEdge 128 wait = r at hu
    obtain ⟨n, c1⟩ := r
    dsimp only at hu ⊢
    split
    · split
      · exact Chip.edgeBoundary_tidy _ _ _ hu
      · exact hu.of_outside (by simp +decide)
    · split
      · exact Chip.edgeBoundary_tidy _ _ _ hu
      · exact hu.of_outside (by simp +decide)

/-! ### Every step -/

theorem Chip.mirrored_outside_of (f : Chip → Chip) (c : Chip) {F : Foot} (hF : Foot.le { Foot.event with twin := true } F) :
    (Chip.mirrored f c).outside F = (f c).outside F :=
  Chip.outside_mono hF (by simp +decide [Chip.mirrored])

theorem Chip.mirrored_tidy {f : Chip → Chip} {c : Chip} (hf : (f c).Tidy) : (Chip.mirrored f c).Tidy :=
  hf.of_outside (Chip.mirrored_outside_of f c (by decide))

theorem Chip.live_tidy {f : Chip → Chip} (hf : ∀ c, c.Tidy → (f c).Tidy) {c : Chip} (hc : c.Tidy) : (Chip.live f c).Tidy := by
  unfold Chip.live
  split
  · exact hc
  · exact hf c hc

theorem Chip.fabric_tidy {f : Chip → Chip} (hf : ∀ c, c.Tidy → (f c).Tidy) {c : Chip} (hc : c.Tidy) : (Chip.fabric f c).Tidy := by
  unfold Chip.fabric
  split
  · exact hc
  · exact hf c hc

theorem Chip.accept_tidy {cmd : Command} (hf : ∀ r c, c.Tidy → (cmd.act r c).chip.Tidy) (op k) {c : Chip} (hc : c.Tidy) :
    (Chip.accept op k cmd c).Tidy := by
  have taken : (c.taken k).Tidy := hc.of_outside (Chip.taken_outside k c (by decide))
  unfold Chip.accept
  extract_lets m
  split
  · exact hc
  · split
    · have served : (((c.taken k).serve op cmd (c.request k)).chip).Tidy := by
        unfold Chip.serve
        split
        · exact taken
        · split
          · exact taken
          · split
            · exact taken
            · split
              · exact taken
              · exact hf _ _ taken
      exact served.of_outside (by simp +decide)
    · exact hc

theorem Chip.clear_tidy (straps held) (c : Chip) : (Chip.clear straps held c).Tidy := ⟨rfl, rfl⟩

theorem exec_tidy (i : Instr) : ∃ f, (∀ s, exec i s = s.run i.wf f) ∧ ∀ c : Chip, c.Tidy → (f c).Tidy := by
  cases i <;> dsimp only [exec] <;> refine ⟨_, fun _ => rfl, fun c hc => ?_⟩
  case resetAccept => exact Chip.clear_tidy _ _ c
  case railOutOfTolerance => exact ⟨rfl, rfl⟩
  case resetRelease straps =>
    unfold Chip.release
    split
    · exact Chip.clear_tidy _ _ c
    · exact hc
  case dealInEdge => exact Chip.fabric_tidy (fun _ hc => Chip.mirrored_tidy (Chip.dealInEdge_tidy _ hc)) hc
  case dealInMiss => exact Chip.fabric_tidy (fun _ hc => Chip.mirrored_tidy (Chip.dealInMiss_tidy hc)) hc
  case dealBoundary => exact Chip.fabric_tidy (fun _ hc => Chip.mirrored_tidy (Chip.dealBoundary_tidy hc)) hc
  case nop | mm | vectorOp | vcvt | vredSum | vredMax | vredTopk | scalarReg | scalarImm | loadImmediate | ld | st | scalarFp | mfs |
      branch | jmp | copy | lfetch | lstore | emit | sieveOp | syncCycle | syncFills | syncDrain | syncYield | endRun =>
    exact Chip.fabric_tidy (fun _ hc => Chip.issueRow_tidy _ _ _ _ hc) hc
  case instructionWaitEnd => exact Chip.fabric_tidy (fun _ hc => Chip.waitEnd_tidy _ _ hc) hc
  case instructionComplete => exact Chip.fabric_tidy (fun _ hc => Chip.complete_tidy _ _ _ _ _ hc) hc
  case loomCheckFail => exact Chip.fabric_tidy (fun _ hc => Chip.loomCheckFail_tidy _ _ _ hc) hc
  case fillLanded =>
    exact Chip.fabric_tidy (fun _ hc => (Chip.fillLanded_tidy _ _ _ hc).of_outside (Chip.refreshHold_outside _ _ (by decide))) hc
  case sieveInstructionDone => exact Chip.fabric_tidy (fun _ hc => Chip.sieveDone_tidy hc) hc
  case token => exact Chip.fabric_tidy (fun _ hc => Chip.token_tidy _ _ hc) hc
  case delta => exact Chip.fabric_tidy (fun _ hc => Chip.takeDelta_tidy _ _ hc) hc
  case pset => exact Chip.fabric_tidy (fun _ hc => Chip.takePset_tidy _ _ hc) hc
  case rebuildStripe => exact Chip.fabric_tidy (fun _ hc => Chip.rebuildStripe_tidy _ hc) hc
  case ckptWritten => exact Chip.live_tidy (fun _ hc => Chip.fabric_tidy (fun _ hc => Chip.ckptWritten_tidy hc) hc) hc
  case bringupStageEnd => exact Chip.fabric_tidy (fun _ hc => Chip.stageEnd_tidy _ hc) hc
  case xferDone => exact Chip.fabric_tidy (fun _ hc => Chip.xferDone_tidy _ _ _ hc) hc
  case larderZeroDone => exact Chip.fabric_tidy (fun _ hc => Chip.zeroDone_tidy _ hc) hc
  case benchWrite => exact Chip.live_tidy (fun _ hc => Chip.accept_tidy (fun r _ hc => benchWriteCmd_tidy r hc) _ _ hc) hc
  case larderWrite => exact Chip.live_tidy (fun _ hc => Chip.accept_tidy (fun r _ hc => larderWriteCmd_tidy _ r hc) _ _ hc) hc
  all_goals refine hc.of_outside ?_
  case egressSchedule =>
    refine Chip.fabric_outside c fun c => ?_
    split <;> simp +decide
  case rcFieldRead off =>
    refine Chip.live_outside c fun c => ?_
    cases off <;> simp +decide
  case spdmChallenge =>
    refine Chip.live_outside c fun c => Chip.spdm_outside _ c (by decide) fun c => ?_
    simp +decide
  all_goals try with_reducible refine Chip.live_outside c fun c => ?_
  all_goals try with_reducible refine Chip.fabric_outside c fun c => ?_
  all_goals try with_reducible refine Chip.mirrored_outside c (by decide) fun c => ?_
  all_goals simp +decide

theorem Chip.tick_tidy {c : Chip} (hc : c.Tidy) : c.tick.Tidy := by
  unfold Chip.tick
  split
  · exact hc
  · split
    · exact hc.of_outside (Chip.advanceFrozen_outside _ _ (by decide))
    · split
      · split
        · split
          · exact (Chip.mirrored_tidy (Chip.dealInMiss_tidy hc)).of_outside (Chip.dealTriggers_outside _ (by decide))
          · exact hc.of_outside (Chip.pass_outside _ _ _ (by decide))
        · exact (Chip.mirrored_tidy (Chip.ownBoundary_tidy hc)).of_outside (Chip.dealTriggers_outside _ (by decide))
      · exact hc.of_outside (by simp +decide)

/-- Settles O5. -/
theorem memoriesStayCanonical : Obligations.MemoriesStayCanonical := by
  intro s t h hs
  exact step_induct (P := fun c t => c.Tidy → t.Tidy) exec_tidy (fun _ hc => Chip.tick_tidy hc) h hs

end Sys2Proof.Machine

/-! SUPPORT. A part whose next rung command is one of an in-band slot that firmware answers BAD_OPCODE: the answer is a packet, and the
packet brings the sending of the ports up to date (R144, R163, R439). So the answer of the command before it changes the scheduler, which
`Part.answer` leaves out for a mailbox. -/

namespace Sys2Proof.Machine

set_option Elab.async false

open Sys2Proof

/-- In-band slot 0 is bound to a name that the CURRENT table routes to port 0, which is not up and still counts a packet as being sent
from a queue that is empty. -/
structure Chip.Replies (c : Chip) : Prop where
  bound : (c.slot 0).bound = some 1
  thawed : c.regs.freeze.accepted = false
  desc : c.nest.desc = 385
  table : c.table 0 0 = { state := .current, entries := [(0, 0x1020, 2 ^ 60)] }
  link : (c.port 0).link = .disabled
  sched : c.sch.sched = [(0, { sending := some 1 })]
  queue : c.queue 0 0 1 = {}

/-- In-band slot 0 of such a part holds the oldest rung command, of an opcode that is not assigned, and nothing else is rung. -/
structure Chip.Crowded (c : Chip) : Prop extends c.Replies where
  rung : c.stew.rung = [16]
  pending : (c.mbx 16).pending = true
  opcode : (c.mbx 16).opcode = 0

/-- The pieces of which neither says anything. -/
@[reducible] def Foot.aside : Foot :=
  { fuses := true, flash := true, caps := true, clock := true, base := true, stamps := true, pkg := true, light := true, roll := true,
    kit := true, loom := true, bench := true, gate := true, sv := true, lard := true, hbm := true, twin := true, waiting := true,
    firmware := true, events := true, unrecorded := true, ctr := true, regs := true, boot := true, due := true, sent := true,
    free := true }

theorem Chip.Replies.of_outside {c t : Chip} (h : c.Replies) {F : Foot} (hF : F.le { Foot.aside with mbx := true, rung := true })
    (e : t.outside F = c.outside F) : t.Replies := by
  have h : (c.outside { Foot.aside with mbx := true, rung := true }).Replies :=
    ⟨h.bound, h.thawed, h.desc, h.table, h.link, h.sched, h.queue⟩
  rw [← Chip.outside_mono hF e] at h
  exact ⟨h.bound, h.thawed, h.desc, h.table, h.link, h.sched, h.queue⟩

theorem Chip.Crowded.of_outside {c t : Chip} (h : c.Crowded) {F : Foot} (hF : F.le Foot.aside) (e : t.outside F = c.outside F) :
    t.Crowded := by
  have h : (c.outside Foot.aside).Crowded := ⟨⟨h.bound, h.thawed, h.desc, h.table, h.link, h.sched, h.queue⟩, h.rung, h.pending, h.opcode⟩
  rw [← Chip.outside_mono hF e] at h
  exact ⟨⟨h.bound, h.thawed, h.desc, h.table, h.link, h.sched, h.queue⟩, h.rung, h.pending, h.opcode⟩

theorem Chip.settle_of_idle {c : Chip} (n : Nat) (h : c.stew.rung = []) : c.settle n = c := by
  cases n with
  | zero => rfl
  | succ n => simp only [Chip.settle, h]

theorem Chip.Replies.endSent {c : Chip} (h : c.Replies) : c.endSent = c.setSched 0 { sending := none } := by
  have hs : c.sched 0 = { sending := some 1 } := by simp only [Chip.sched, h.sched]; rfl
  simp only [Chip.endSent, h.sched, List.map, List.foldl, Chip.endSentAt, Chip.settlePort, hs, List.isEmpty_nil, if_true]
  rw [show c.queue (halfOf 0) (pointOf 0) 1 = {} from h.queue]

theorem Chip.Replies.takeIn {c : Chip} (h : c.Replies) (x : QPacket) : (((c.takeIn 0 0 1 x).1).sched 0).sending = none := by
  have hl : (c.endSent.port (portAt 0 0)).link = .disabled := by rw [h.endSent]; exact h.link
  have hd : c.endSent.decideAdmit 0 0 1 x = (c.endSent.dropAt 0 0 32, false) := by simp only [Chip.decideAdmit, hl]; rfl
  have hs : (c.takeIn 0 0 1 x).1.sch = c.endSent.sch := by simp only [Chip.takeIn, hd]; rfl
  simp only [Chip.sched, hs, h.endSent, Chip.setSched, h.sched]
  rfl

theorem Chip.Replies.route {c : Chip} (h : c.Replies) {p : Packet} (hp : p.epoch = 0) (hd : p.dest = 1) (hk : p.cls = 1) :
    c.route 0 p = (c, some (2 ^ 60)) := by
  have hn : c.nameOk 1 = true := by
    simp only [Chip.nameOk, Chip.isWild, Chip.levelValue, Chip.topBits, Chip.levelWidth, Chip.levels, h.desc]; decide
  have hw : c.winner { state := .current, entries := [(0, 0x1020, 2 ^ 60)] } 1 1 = some (0x1020, 2 ^ 60) := by
    have : c.candidate 0x1020 1 1 = true := by
      have : c.topBits (entryPlen 0x1020) = 0 := rfl
      simp only [Chip.candidate, this]; decide
    simp only [Chip.winner, List.foldl, this, if_true]
  have hs : c.noteSkew 0 0 = c := by simp only [Chip.noteSkew, h.table]; rfl
  simp only [Chip.route, hp, hd, hk, h.table, hn, hw, hs]
  rfl

theorem Chip.Replies.mgmtRespond {c : Chip} (h : c.Replies) : ((c.mgmtRespond 0).sched 0).sending = none := by
  have he : c.currentEpoch 0 = some 0 := by simp only [Chip.currentEpoch, h.table]; rfl
  have ht : c.newTag.2.Replies := ⟨h.bound, h.thawed, h.desc, h.table, h.link, h.sched, h.queue⟩
  simp only [Chip.mgmtRespond, h.bound, h.thawed, Bool.false_eq_true, if_false, Chip.originate, Chip.originateFrom, he, Chip.forward]
  rw [ht.route rfl rfl rfl]
  exact ht.takeIn _

theorem Chip.mbx_setMbx (j k : Nat) (v : Mailbox) (c : Chip) : (c.setMbx k v).mbx j = if j = k then v else c.mbx j :=
  Tab.get_set ..

theorem Chip.mbx_taken (j k : Nat) (c : Chip) :
    (c.taken k).mbx j = if j = k then { c.mbx k with accepted := true, resultDeal := c.deal } else c.mbx j :=
  (congrArg (fun x : Chip => x.mbx j) (Chip.occur_outside 4 0x01 none none 1 _ (F := { ctr := true }) rfl)).trans (Chip.mbx_setMbx ..)

theorem Chip.taken_rung (k : Nat) (c : Chip) : (c.taken k).stew.rung = c.stew.rung.tail :=
  congrArg (fun x : Chip => x.stew.rung) (Chip.occur_outside 4 0x01 none none 1 _ (F := { ctr := true }) rfl)

theorem Chip.Crowded.settle {c : Chip} (h : c.Crowded) : ((c.settle 32).sched 0).sending = none := by
  have hp : ((c.taken 16).mbx 16).pending = true ∧ ((c.taken 16).mbx 16).ticket = (c.mbx 16).ticket := by
    rw [Chip.mbx_taken, if_pos rfl]; exact ⟨h.pending, rfl⟩
  have hr : c.settle 32 = ((c.taken 16).post 16 (c.mbx 16).ticket .badOpcode []).settle 31 := by
    rw [Chip.settle, h.rung]
    simp only [h.opcode]
    rfl
  have idle : ((c.taken 16).post 16 (c.mbx 16).ticket .badOpcode []).stew.rung = [] := by
    have e := Chip.post_outside 16 (c.mbx 16).ticket .badOpcode [] (c.taken 16) (F := { Foot.packet with mbx := true }) rfl
    exact (congrArg (fun x : Chip => x.stew.rung) e).trans (Chip.taken_rung 16 c |>.trans (by rw [h.rung]; rfl))
  rw [hr, Chip.settle_of_idle 31 idle]
  simp only [Chip.post, hp, and_self, if_true, Nat.lt_irrefl, if_false]
  exact Chip.Replies.mgmtRespond (h.toReplies.of_outside (F := { mbx := true, rung := true, ctr := true }) rfl (Chip.taken_outside 16 c rfl))

theorem Chip.Crowded.setMbx {c : Chip} (h : c.Crowded) {k : Nat} (hk : k ≠ 16) (v : Mailbox) : (c.setMbx k v).Crowded := by
  have e : (c.setMbx k v).mbx 16 = c.mbx 16 := by rw [Chip.mbx_setMbx, if_neg (Ne.symm hk)]
  exact ⟨⟨h.bound, h.thawed, h.desc, h.table, h.link, h.sched, h.queue⟩, h.rung, e ▸ h.pending, e ▸ h.opcode⟩

theorem Chip.Crowded.post {c : Chip} (h : c.Crowded) {k : Nat} (hk : k < 16) (t st ws) : (c.post k t st ws).Crowded := by
  simp only [Chip.post, hk, if_true]
  have hs := fun v => h.setMbx (Nat.ne_of_lt hk) v
  split
  · split
    · exact (hs _).of_outside (F := { events := true, sent := true }) rfl (Chip.signal_outside k _ rfl)
    · exact hs _
  · exact h

/-- Request words from a list, as a mailbox keeps them and as they are read. -/
def requestTab (ws : List Nat) : Tab W32 := ws.mapIdx fun i w => (i, BitVec.ofNat 32 w)

@[reducible] def requestWords (ws : List Nat) : Nat → Nat := fun i => (Tab.get 0 i (requestTab ws)).toNat

/-- Mailbox 0 holds the oldest rung command of a part that runs, of these request words, and in-band slot 0 the next one, of
opcode 0. -/
def Chip.crowd (b : Chip) (op : Nat) (ws : List Nat) : Chip :=
  { b with
    stew := { b.stew with
      mbx := [(0, { opcode := op, words := ws.length, req := requestTab ws, pending := true }), (16, { pending := true })], rung := [0, 16]
      slots := [(0, { bound := some 1 })], bootReady := true, phase := .running }
    boot := { b.boot with ended := 255 }
    nest := { b.nest with desc := 385, tables := [(0, { state := .current, entries := [(0, 0x1020, 2 ^ 60)] })] }
    sch := { b.sch with sched := [(0, { sending := some 1 })] } }

/-- A part that can be given such commands: it runs, and port 0 and its queues are as reset leaves them. -/
structure Chip.Plain (b : Chip) : Prop where
  awake : b.pkg.held = false
  thawed : b.regs.freeze.accepted = false
  link : (b.port 0).link = .disabled
  queues : b.xbar.queues = []

theorem Chip.plain_reset : State.reset.chip.Plain := ⟨rfl, rfl, rfl, rfl⟩

theorem Chip.served_crowd {b : Chip} (hb : b.Plain) (op : Nat) (ws : List Nat) :
    Served op 0 ws.length (requestWords ws) (b.crowd op ws) where
  box := by decide
  inBand := fun h => absurd h (by decide)
  awake := hb.awake
  ready := rfl
  phase := nofun
  thawed := hb.thawed
  oldest := ⟨[16], rfl, by decide⟩
  rung := rfl
  opcode := rfl
  words := rfl
  request := rfl
  staged := fun h => by
    show bitAt 255 (stageOf op) = true
    unfold stageOf at h ⊢
    split at h <;> (try split) <;> decide

theorem Chip.Plain.crowded {b : Chip} (hb : b.Plain) (op : Nat) (ws : List Nat) : ((b.crowd op ws).taken 0).Crowded := by
  have hq : (b.crowd op ws).queue 0 0 1 = {} := by simp only [Chip.queue, Chip.crowd, hb.queues]; rfl
  refine Chip.Crowded.of_outside (F := { ctr := true }) ?_ rfl (Chip.occur_outside 4 0x01 none none 1 _ rfl)
  have hc : Chip.Crowded { b.crowd op ws with stew := { (b.crowd op ws).stew with rung := [16] } } :=
    ⟨⟨rfl, hb.thawed, rfl, rfl, hb.link, rfl, hq⟩, rfl, rfl, rfl⟩
  exact hc.setMbx (k := 0) (by decide) _

/-- The answer to the command in mailbox 0 leaves the scheduler another one. -/
theorem Chip.Plain.accept_sch {b : Chip} (hb : b.Plain) (op : Nat) (ws : List Nat) (cmd : Command)
    (hf : ∀ r c, (cmd.act r c).chip.outside Foot.aside = c.outside Foot.aside) :
    ((b.crowd op ws).accept op 0 cmd).sch ≠ (b.crowd op ws).sch := by
  intro e
  have hs := (hb.crowded op ws).of_outside (F := Foot.aside) rfl (Chip.serve_outside op cmd ((b.crowd op ws).request 0) _ hf)
  have hc : ((((b.crowd op ws).taken 0).serve op cmd ((b.crowd op ws).request 0)).conclude 0 0).Crowded := by
    unfold Answer.conclude
    split
    · exact hs
    · exact hs.post (by decide) ..
  have ha : (b.crowd op ws).accept op 0 cmd =
      ((((b.crowd op ws).taken 0).serve op cmd ((b.crowd op ws).request 0)).conclude 0 0).settle 32 :=
    if_pos ⟨rfl, rfl, .inl rfl, nofun⟩
  have hn : (((b.crowd op ws).accept op 0 cmd).sched 0).sending = none := ha ▸ hc.settle
  rw [Chip.sched, e] at hn
  cases hn

/-- So no clause holds that keeps the scheduler. -/
theorem Chip.Plain.refutes {b : Chip} (hb : b.Plain) {op : Nat} (ws : List Nat) {i : Instr} {p : Chip → Prop}
    (h : Served op 0 ws.length (requestWords ws) (b.crowd op ws) → Does i ⟨b.crowd op ws, []⟩ p) {cmd : Command}
    (hi : ∀ s, exec i s = s.run (okMbx 0) (Chip.live (Chip.accept op 0 cmd)))
    (hf : ∀ r c, (cmd.act r c).chip.outside Foot.aside = c.outside Foot.aside)
    (hp : ∀ t, p t → Part.sch.Same (b.crowd op ws) t) : False := by
  obtain ⟨t, ht, pt⟩ := h (Chip.served_crowd hb op ws)
  rw [hi, State.run_of_ok _ _ (by decide)] at ht
  have e : t = (b.crowd op ws).accept op 0 cmd := by
    cases ht
    exact if_neg (Bool.eq_false_iff.mp hb.awake)
  exact hb.accept_sch op ws cmd hf (e ▸ hp t pt)

end Sys2Proof.Machine

/-! SUPPORT. The statements about commands that the part of `Chip.crowd` refutes: each has a clause that keeps the scheduler, and the
answer to in-band slot 0 that follows the command's own changes it. -/

namespace Sys2Proof.Machine

set_option Elab.async false

open Sys2Proof

/-- Port 0 is the first of a Lot of one port. -/
def Chip.onePort : Chip := { State.reset.chip with ports := { lotMode := [(0, 0)] } }

def Chip.oneJob : Chip := { State.reset.chip with kit := { State.reset.chip.kit with jobs := [(0, {})] } }

def Chip.oneRegion : Chip := { State.reset.chip with lard := { State.reset.chip.lard with regions := [(4, { state := 1 })] } }

def Chip.oneGate : Chip := { State.reset.chip with gate := { State.reset.chip.gate with gate := [(3, { desc := [9 * 2 ^ 32], bindings := [] })] } }

def Chip.pairing : Chip := { State.reset.chip with twin := { State.reset.chip.twin with pairPending := true } }

/-- Refutes O10: a command of in-band slot 0 follows `time.step`, and its answer moves the scheduler on. -/
theorem not_timeCommandsComplete : ¬ Obligations.TimeCommandsComplete := by
  intro h
  obtain ⟨-, clause, -⟩ := h 0 (requestWords []) (State.reset.chip.crowd 0x0102 []) []
  exact Chip.Plain.refutes Chip.plain_reset [] (fun hs => clause hs) (fun _ => rfl)
    (fun r c => by simp +decide) fun t ht => ht.answers.frame _ (by decide)

/-- Refutes O17: a command of in-band slot 0 follows `power.status`, and its answer moves the scheduler on. -/
theorem not_powerAndThermalComplete : ¬ Obligations.PowerAndThermalComplete := by
  intro h
  obtain ⟨-, -, -, -, -, -, clause⟩ := h (State.reset.chip.crowd 0x0202 []) []
  exact Chip.Plain.refutes Chip.plain_reset [] (fun hs => clause 0 (requestWords []) hs) (fun _ => rfl)
    (fun r c => by simp +decide) fun t ht => ht.frame _ (by decide)

/-- Refutes O20: a command of in-band slot 0 follows `port.status`, and its answer moves the scheduler on. -/
theorem not_portCommandsComplete : ¬ Obligations.PortCommandsComplete := by
  intro h
  obtain ⟨-, -, -, clause⟩ := h 0 (requestWords [0]) (Chip.onePort.crowd 0x0404 [0]) []
  exact Chip.Plain.refutes ⟨rfl, rfl, rfl, rfl⟩ [0] (fun hs => clause hs (by decide)) (fun _ => rfl)
    (fun r c => by simp +decide) fun t ht => ht.frame _ (by decide)

/-- Refutes O23: a command of in-band slot 0 follows `lamp.auto`, and its answer moves the scheduler on. -/
theorem not_lightCommandsComplete : ¬ Obligations.LightCommandsComplete := by
  intro h
  obtain ⟨-, -, clause, -⟩ := h 0 (requestWords [0]) (State.reset.chip.crowd 0x0313 [0]) []
  exact Chip.Plain.refutes Chip.plain_reset [0] (fun hs => clause hs) (fun _ => rfl)
    (fun r c => by simp +decide) fun t ht => ht.1.frame _ (by decide)

/-- Refutes O24: a command of in-band slot 0 follows `route.read`, and its answer moves the scheduler on. -/
theorem not_routeTablesComplete : ¬ Obligations.RouteTablesComplete := by
  intro h
  obtain ⟨-, -, -, -, -, clause⟩ := h 0 (requestWords [0]) (State.reset.chip.crowd 0x0515 [0]) []
  exact Chip.Plain.refutes Chip.plain_reset [0] (fun hs => clause _ hs rfl) (fun _ => rfl)
    (fun r c => by simp +decide) fun t ht => ht.frame _ (by decide)

/-- Refutes O25: a command of in-band slot 0 follows `fan.rejoin`, and its answer moves the scheduler on. -/
theorem not_fansComplete : ¬ Obligations.FansComplete := by
  intro h
  obtain ⟨-, -, clause, -⟩ := h 0 (requestWords [0]) (Chip.onePort.crowd 0x0523 [0]) []
  exact Chip.Plain.refutes ⟨rfl, rfl, rfl, rfl⟩ [0] (fun hs => clause hs (by decide)) (fun _ => rfl)
    (fun r c => by simp +decide) fun t ht => ht.answers.frame _ (by decide)

/-- Refutes O27: a command of in-band slot 0 follows `spill.rate`, and its answer moves the scheduler on. -/
theorem not_crossingCommandsComplete : ¬ Obligations.CrossingCommandsComplete := by
  intro h
  obtain ⟨-, -, clause, -⟩ := h 0 (requestWords [0]) (State.reset.chip.crowd 0x0603 [0]) []
  exact Chip.Plain.refutes Chip.plain_reset [0] (fun hs => clause hs (by decide)) (fun _ => rfl)
    (fun r c => by simp +decide) fun t ht => ht.1.frame _ (by decide)

/-- Refutes O28: a command of in-band slot 0 follows `cal.bind`, and its answer moves the scheduler on. -/
theorem not_calendarsComplete : ¬ Obligations.CalendarsComplete := by
  intro h
  obtain ⟨-, -, -, -, clause, -⟩ := h 0 (requestWords [0]) (Chip.onePort.crowd 0x0704 [0]) [] _ rfl
  exact Chip.Plain.refutes ⟨rfl, rfl, rfl, rfl⟩ [0] (fun hs => clause _ _ hs rfl (by decide) rfl) (fun _ => rfl)
    (fun r c => by simp +decide) fun t ht => ht.1.frame _ (by decide)

/-- Refutes O29: a command of in-band slot 0 follows `sched.config`, and its answer moves the scheduler on. -/
theorem not_schedulingComplete : ¬ Obligations.SchedulingComplete := by
  intro h
  obtain ⟨-, -, clause, -⟩ := h (Chip.onePort.crowd 0x0705 [2 ^ 22, 0]) []
  exact Chip.Plain.refutes ⟨rfl, rfl, rfl, rfl⟩ [2 ^ 22, 0] (fun hs => clause 0 (requestWords [2 ^ 22, 0]) hs (by decide) (by decide)) (fun _ => rfl)
    (fun r c => by simp +decide) fun t ht => ht.answers.frame _ (by decide)

/-- Refutes O32: a command of in-band slot 0 follows `roll.config`, and its answer moves the scheduler on. -/
theorem not_rollSweepComplete : ¬ Obligations.RollSweepComplete := by
  intro h
  obtain ⟨-, -, clause⟩ := h (State.reset.chip.crowd 0x0801 [2 + 2 ^ 24, 0]) []
  exact Chip.Plain.refutes Chip.plain_reset [2 + 2 ^ 24, 0] (fun hs => clause 0 (requestWords [2 + 2 ^ 24, 0]) hs (by decide) (by decide) (by decide)) (fun _ => rfl)
    (fun r c => by simp +decide) fun t ht => ht.answers.frame _ (by decide)

/-- Refutes O35: a command of in-band slot 0 follows `kitty.config`, and its answer moves the scheduler on. -/
theorem not_kittyCommandsComplete : ¬ Obligations.KittyCommandsComplete := by
  intro h
  obtain ⟨-, -, -, clause⟩ := h 0 (requestWords [2 * 524288, 0, 0]) (State.reset.chip.crowd 0x0904 [2 * 524288, 0, 0]) []
  exact Chip.Plain.refutes Chip.plain_reset [2 * 524288, 0, 0] (fun hs => clause hs (by decide) (by decide) (by decide)) (fun _ => rfl)
    (fun r c => by simp +decide) fun t ht => ht.answers.frame _ (by decide)

/-- Refutes O36: a command of in-band slot 0 follows `ledger.status`, and its answer moves the scheduler on. -/
theorem not_ledgerCommandsComplete : ¬ Obligations.LedgerCommandsComplete := by
  intro h
  obtain ⟨-, -, -, clause⟩ := h 0 (requestWords [0]) (Chip.oneJob.crowd 0x0914 [0]) [] _ rfl
  exact Chip.Plain.refutes ⟨rfl, rfl, rfl, rfl⟩ [0] (fun hs => clause _ hs rfl (by decide)) (fun _ => rfl)
    (fun r c => by simp +decide) fun t ht => ht.frame _ (by decide)

/-- Refutes O37: a command of in-band slot 0 follows `larder.alloc`, and its answer moves the scheduler on. -/
theorem not_grantsComplete : ¬ Obligations.GrantsComplete := by
  intro h
  obtain ⟨-, clause, -⟩ := h (State.reset.chip.crowd 0x0E01 [0, 20971520, 9]) []
  exact Chip.Plain.refutes Chip.plain_reset [0, 20971520, 9] (fun hs => clause 0 (requestWords [0, 20971520, 9]) _ hs rfl (by decide) (by decide) (by decide) (by decide)) (fun _ => rfl)
    (fun r c => by simp +decide) fun t ht => ht.frame _ (by decide)

/-- Refutes O38: a command of in-band slot 0 follows `larder.status`, and its answer moves the scheduler on. -/
theorem not_regionAccessComplete : ¬ Obligations.RegionAccessComplete := by
  intro h
  obtain ⟨clause, -⟩ := h (Chip.oneRegion.crowd 0x0E03 [4]) []
  exact Chip.Plain.refutes ⟨rfl, rfl, rfl, rfl⟩ [4] (fun hs => clause 0 (requestWords [4]) _ hs rfl) (fun _ => rfl)
    (fun r c => by simp +decide) fun t ht => ht.frame _ (by decide)

/-- Refutes O39: a command of in-band slot 0 follows `larder.config`, and its answer moves the scheduler on. -/
theorem not_sharesAndStacksComplete : ¬ Obligations.SharesAndStacksComplete := by
  intro h
  obtain ⟨clause, -⟩ := h (State.reset.chip.crowd 0x0E06 [128, 0]) []
  exact Chip.Plain.refutes Chip.plain_reset [128, 0] (fun hs => clause 0 (requestWords [128, 0]) _ hs rfl (by decide) (by decide)) (fun _ => rfl)
    (fun r c => by simp +decide) fun t ht => ht.answers.frame _ (by decide)

/-- Refutes O40: a command of in-band slot 0 follows `loom.seed`, and its answer moves the scheduler on. -/
theorem not_loomCommandsComplete : ¬ Obligations.LoomCommandsComplete := by
  intro h
  obtain ⟨-, -, clause, -⟩ := h 0 (requestWords [64, 0, 0]) (State.reset.chip.crowd 0x0A03 [64, 0, 0]) [] _ _ rfl rfl
  exact Chip.Plain.refutes Chip.plain_reset [64, 0, 0] (fun hs => clause hs (by decide)) (fun _ => rfl)
    (fun r c => by simp +decide) fun t ht => ht.answers.frame _ (by decide)

/-- Refutes O42: a command of in-band slot 0 follows `recipe.create`, and its answer moves the scheduler on. -/
theorem not_recipeCommandsComplete : ¬ Obligations.RecipeCommandsComplete := by
  intro h
  obtain ⟨clause, -⟩ := h 0 (requestWords [7, 0, 0, 1]) (State.reset.chip.crowd 0x0B01 [7, 0, 0, 1]) [] _ (by decide) rfl
  exact Chip.Plain.refutes Chip.plain_reset [7, 0, 0, 1] (fun hs => clause _ _ hs rfl rfl (by decide) (by decide) (by decide) (by decide) (by decide) (by decide)) (fun _ => rfl)
    (fun r c => by simp +decide) fun t ht => ht.1.frame _ (by decide)

/-- Refutes O47: a command of in-band slot 0 follows `gate.status`, and its answer moves the scheduler on. -/
theorem not_gateCommandsComplete : ¬ Obligations.GateCommandsComplete := by
  intro h
  obtain ⟨-, -, -, -, -, clause⟩ := h 0 (requestWords [9]) (Chip.oneGate.crowd 0x0C06 [9]) [] _ _ (by decide)
  exact Chip.Plain.refutes ⟨rfl, rfl, rfl, rfl⟩ [9] (fun hs => clause hs rfl) (fun _ => rfl)
    (fun r c => by simp +decide) fun t ht => ht.frame _ (by decide)

/-- Refutes O48: a command of in-band slot 0 follows `sieve.clear`, and its answer moves the scheduler on. -/
theorem not_sieveComplete : ¬ Obligations.SieveComplete := by
  intro h
  obtain ⟨-, -, -, -, -, -, -, clause, -⟩ := h (State.reset.chip.crowd 0x0D02 [0]) [] 0 (requestWords [0])
  exact Chip.Plain.refutes Chip.plain_reset [0] (fun hs => clause hs (by decide)) (fun _ => rfl)
    (fun r c => by simp +decide) fun t ht => ht.answers.frame _ (by decide)

/-- Refutes O50: a command of in-band slot 0 follows `twin.export`, and its answer moves the scheduler on. -/
theorem not_twinCommandsComplete : ¬ Obligations.TwinCommandsComplete := by
  intro h
  obtain ⟨-, -, -, -, clause, -⟩ := h 0 (requestWords [0, 0]) (Chip.pairing.crowd 0x0F05 [0, 0]) [] 0
  exact Chip.Plain.refutes ⟨rfl, rfl, rfl, rfl⟩ [0, 0] (fun hs => clause _ hs (by decide) rfl) (fun _ => rfl)
    (fun r c => by simp +decide) fun t ht => ht.frame _ (by decide)

/-- Refutes O52: a command of in-band slot 0 follows `health.budget`, and its answer moves the scheduler on. -/
theorem not_replayComplete : ¬ Obligations.ReplayComplete := by
  intro h
  obtain ⟨-, -, -, -, -, -, -, -, -, -, -, -, clause, -⟩ := h 0 (requestWords [256, 192]) (State.reset.chip.crowd 0x0F41 [256, 192]) [] _ (mkPacket 0 0 0 0 0 0 false []) rfl
  exact Chip.Plain.refutes Chip.plain_reset [256, 192] (fun hs => clause hs (by decide)) (fun _ => rfl)
    (fun r c => by simp +decide) fun t ht => ht.1.frame _ (by decide)

/-- Refutes O54: a command of in-band slot 0 follows `fw.status`, and its answer moves the scheduler on. -/
theorem not_firmwareCompletes : ¬ Obligations.FirmwareCompletes := by
  intro h
  obtain ⟨-, -, -, -, -, clause, -⟩ := h 0 (requestWords []) (State.reset.chip.crowd 0x1045 []) [] ⟨false, false, false, false, 0, 0, 0, false, false⟩ _ rfl
  exact Chip.Plain.refutes Chip.plain_reset [] (fun hs => clause hs) (fun _ => rfl)
    (fun r c => by simp +decide) fun t ht => ht.frame _ (by decide)

/-- Refutes O56: a command of in-band slot 0 follows `sys.info`, and its answer moves the scheduler on. -/
theorem not_stewardCommandsComplete : ¬ Obligations.StewardCommandsComplete := by
  intro h
  obtain ⟨-, clause, -⟩ := h 0 (requestWords []) (State.reset.chip.crowd 0x1002 []) [] (mkPacket 0 0 0 0 0 0 false []) 0 0
  exact Chip.Plain.refutes Chip.plain_reset [] (fun hs => clause hs) (fun _ => rfl)
    (fun r c => by simp +decide) fun t ht => ht.frame _ (by decide)

/-- Refutes O58: a command of in-band slot 0 follows `ct.bw`, and its answer moves the scheduler on. -/
theorem not_countersAndFreezeComplete : ¬ Obligations.CountersAndFreezeComplete := by
  intro h
  obtain ⟨-, -, -, -, -, -, -, clause, -⟩ := h 0 (requestWords [0]) (State.reset.chip.crowd 0x1103 [0]) [] 0 _ rfl
  exact Chip.Plain.refutes Chip.plain_reset [0] (fun hs => clause hs (by decide)) (fun _ => rfl)
    (fun r c => by simp +decide) fun t ht => ht.answers.frame _ (by decide)

end Sys2Proof.Machine

/-! SUPPORT. From what an operation shows outside of its footprint to the kinds of state that a statement says it keeps. -/

namespace Sys2Proof.Machine

set_option Elab.async false

open Sys2Proof

/-- A footprint leaves a kind of state as it was. -/
def Foot.keeps (F : Foot) : Part → Bool
  | .fuses => !F.fuses
  | .flash => !F.flash
  | .caps => !F.caps
  | .tb => !F.clock && !F.base
  | .pkg => !F.pkg
  | .light => !F.light
  | .ports => !F.ports
  | .nest => !F.nest
  | .xbar => !F.xbar
  | .sch => !F.sch
  | .roll => !F.roll
  | .kit => !F.kit
  | .loom => !F.loom && !F.bench
  | .gate => !F.gate
  | .sv => !F.sv
  | .lard => !F.lard && !F.hbm
  | .twin => !F.twin
  | .stew => !F.mbx && !F.rung && !F.waiting && !F.firmware && !F.events && !F.unrecorded && !F.stew
  | .regs => !F.ctr && !F.freeze && !F.regs
  | .boot => !F.boot
  | .due => !F.due
  | .sent => !F.sent
  | .free => !F.free
  | .waiting => !F.waiting
  | .firmware => !F.firmware
  | .freeze => !F.freeze
  | .stamps => !F.stamps

theorem unblot {b : Bool} (h : b = false) {α : Type} {d x y : α} (e : (if b then d else x) = if b then d else y) : x = y := by
  subst h; exact e

theorem Part.Same.of_outside {F : Foot} {c t : Chip} (e : t.outside F = c.outside F) {p : Part} (h : F.keeps p) : p.Same c t := by
  cases p <;> simp only [Foot.keeps, Bool.and_eq_true, Bool.not_eq_true'] at h
  case fuses => exact unblot h (congrArg Chip.fuses e)
  case flash => exact unblot h (congrArg Chip.flash e)
  case caps => exact unblot h (congrArg Chip.caps e)
  case pkg => exact unblot h (congrArg Chip.pkg e)
  case light => exact unblot h (congrArg Chip.light e)
  case ports => exact unblot h (congrArg Chip.ports e)
  case nest => exact unblot h (congrArg Chip.nest e)
  case xbar => exact unblot h (congrArg Chip.xbar e)
  case sch => exact unblot h (congrArg Chip.sch e)
  case roll => exact unblot h (congrArg Chip.roll e)
  case kit => exact unblot h (congrArg Chip.kit e)
  case gate => exact unblot h (congrArg Chip.gate e)
  case sv => exact unblot h (congrArg Chip.sv e)
  case twin => exact unblot h (congrArg Chip.twin e)
  case boot => exact unblot h (congrArg Chip.boot e)
  case due => exact unblot h (congrArg Chip.due e)
  case sent => exact unblot h (congrArg Chip.sent e)
  case free => exact unblot h (congrArg Chip.free e)
  case waiting => exact unblot h (congrArg (fun x : Chip => x.stew.waiting) e)
  case firmware => exact ⟨unblot h (congrArg (fun x : Chip => x.stew.phase) e), unblot h (congrArg (fun x : Chip => x.stew.bootReady) e)⟩
  case freeze => exact unblot h (congrArg (fun x : Chip => x.regs.freeze) e)
  case stamps => exact unblot h (congrArg (fun x : Chip => x.tb.tsq) e)
  case tb =>
    have e := congrArg (fun x : Chip => { x.tb with tsq := c.tb.tsq }) e
    simp only [Chip.outside, TimeBase.outside, h, Bool.false_eq_true, if_false] at e
    exact e
  case loom =>
    have e := congrArg Chip.loom e
    simp only [Chip.outside, Looms.outside, h, Bool.false_eq_true, if_false] at e
    exact e
  case lard =>
    have e := congrArg Chip.lard e
    simp only [Chip.outside, Larder.outside, h, Bool.false_eq_true, if_false] at e
    exact e
  case stew =>
    have e := congrArg Chip.stew e
    simp only [Chip.outside, Steward.outside, h, Bool.false_eq_true, if_false] at e
    exact e
  case regs =>
    have e := congrArg Chip.regs e
    simp only [Chip.outside, Regs.outside, h, Bool.false_eq_true, if_false] at e
    exact e

theorem Chip.tb_of_outside {F : Foot} {c t : Chip} (e : t.outside F = c.outside F) (h : F.keeps .tb && F.keeps .stamps) :
    t.tb = c.tb := by
  obtain ⟨hb, hs⟩ := (Bool.and_eq_true _ _).mp h
  have b : { t.tb with tsq := c.tb.tsq } = c.tb := Part.Same.of_outside (p := .tb) e hb
  have s : t.tb.tsq = c.tb.tsq := Part.Same.of_outside (p := .stamps) e hs
  rwa [← s] at b

/-- Every kind of state. -/
def Part.all : List Part :=
  [.fuses, .flash, .caps, .tb, .pkg, .light, .ports, .nest, .xbar, .sch, .roll, .kit, .loom, .gate, .sv, .lard, .twin, .stew, .regs,
    .boot, .due, .sent, .free, .waiting, .firmware, .freeze, .stamps]

theorem Part.mem_all (p : Part) : p ∈ Part.all := by cases p <;> decide

/-- Outside of the named kinds of state a footprint changes nothing. -/
def Foot.within (F : Foot) (l : List Part) : Bool := Part.all.all fun p => decide (p ∈ l) || F.keeps p

theorem SameBut.of_outside {F : Foot} {l : List Part} {c t : Chip} (e : t.outside F = c.outside F) (h : F.within l) : SameBut l c t :=
  fun p hp => Part.Same.of_outside e (by simpa [hp] using List.all_eq_true.mp h p p.mem_all)

theorem SameBut.refl (l : List Part) (c : Chip) : SameBut l c c := fun p _ =>
  Part.Same.of_outside (F := {}) rfl (by cases p <;> rfl)

/-! ### What a command does to a part that runs -/

theorem Does.of_fabric {i : Instr} {ok : Bool} {f : Chip → Chip} {c : Chip} {q : List Instr} {p : Chip → Prop}
    (hi : ∀ s, exec i s = s.run ok (Chip.fabric f)) (hok : ok = true) (up : c.Up) (h : p (f c)) : Does i ⟨c, q⟩ p := by
  refine ⟨f c, ?_, h⟩
  rw [hi, State.run_of_ok _ _ hok]
  simp only [Chip.fabric, up.awake, up.thawed, Bool.or_self, Bool.false_eq_true, if_false]

theorem Does.of_live {i : Instr} {ok : Bool} {f : Chip → Chip} {c : Chip} {q : List Instr} {p : Chip → Prop}
    (hi : ∀ s, exec i s = s.run ok (Chip.live f)) (hok : ok = true) (up : c.pkg.held = false) (h : p (f c)) : Does i ⟨c, q⟩ p := by
  refine ⟨f c, ?_, h⟩
  rw [hi, State.run_of_ok _ _ hok]
  simp only [Chip.live, up, Bool.false_eq_true, if_false]

theorem Does.of_run {i : Instr} {ok : Bool} {f : Chip → Chip} {c : Chip} {q : List Instr} {p : Chip → Prop}
    (hi : ∀ s, exec i s = s.run ok f) (hok : ok = true) (h : p (f c)) : Does i ⟨c, q⟩ p :=
  ⟨f c, by rw [hi, State.run_of_ok _ _ hok], h⟩

end Sys2Proof.Machine

/-! SUPPORT. Time that passes, and one core cycle with no command waiting, away from the guard, the boundary and the triggers of R41. -/

namespace Sys2Proof.Machine

set_option Elab.async false

open Sys2Proof

/-! ### Time passing -/

@[simp] theorem TimeBase.runPt_ft (n : Nat) (t : TimeBase) : (t.runPt n).ft = t.ft := by unfold TimeBase.runPt; split <;> rfl
@[simp] theorem TimeBase.runPt_lt (n : Nat) (t : TimeBase) : (t.runPt n).lt = t.lt := by unfold TimeBase.runPt; split <;> rfl
@[simp] theorem TimeBase.runPt_age (n : Nat) (t : TimeBase) : (t.runPt n).age = t.age := by unfold TimeBase.runPt; split <;> rfl
@[simp] theorem TimeBase.runPt_period (n : Nat) (t : TimeBase) : (t.runPt n).period = t.period := by
  unfold TimeBase.runPt; split <;> rfl

theorem Chip.pass_tb (ft lt : Nat) (c : Chip) : (c.pass ft lt).tb = TimeBase.runPt lt { c.tb with
    ft := c.tb.ft + ft, lt := (c.tb.lt + lt) % 2 ^ 64, st := c.tb.st + ft, age := c.tb.age + lt } := by
  have e : ((c.countClocks lt lt).pulse ft).tb = c.tb := by
    have e : ((c.countClocks lt lt).pulse ft).outside { ctr := true, sent := true } = c.outside { ctr := true, sent := true } := by
      simp +decide
    exact Chip.tb_of_outside e rfl
  simp only [Chip.pass, e]

@[simp] theorem Chip.pass_ft (ft lt : Nat) (c : Chip) : (c.pass ft lt).tb.ft = c.tb.ft + ft := by rw [Chip.pass_tb, TimeBase.runPt_ft]
@[simp] theorem Chip.pass_lt (ft lt : Nat) (c : Chip) : (c.pass ft lt).tb.lt = (c.tb.lt + lt) % 2 ^ 64 := by
  rw [Chip.pass_tb, TimeBase.runPt_lt]
@[simp] theorem Chip.pass_age (ft lt : Nat) (c : Chip) : (c.pass ft lt).tb.age = c.tb.age + lt := by rw [Chip.pass_tb, TimeBase.runPt_age]
@[simp] theorem Chip.pass_period (ft lt : Nat) (c : Chip) : (c.pass ft lt).tb.period = c.tb.period := by
  rw [Chip.pass_tb, TimeBase.runPt_period]

@[simp] theorem Chip.advance_ft (n : Nat) (c : Chip) : (c.advance n).tb.ft = c.tb.ft + n := Chip.pass_ft ..
@[simp] theorem Chip.advance_lt (n : Nat) (c : Chip) : (c.advance n).tb.lt = (c.tb.lt + c.ltFor n) % 2 ^ 64 := Chip.pass_lt ..
@[simp] theorem Chip.advance_age (n : Nat) (c : Chip) : (c.advance n).tb.age = c.tb.age + c.ltFor n := Chip.pass_age ..
@[simp] theorem Chip.advance_period (n : Nat) (c : Chip) : (c.advance n).tb.period = c.tb.period := Chip.pass_period ..

theorem Chip.dealCycles_pos (c : Chip) : 0 < c.dealCycles := Nat.mul_pos (by decide) (Nat.two_pow_pos _)

theorem Chip.dealCycles_advance (n : Nat) (c : Chip) : (c.advance n).dealCycles = c.dealCycles := by
  simp only [Chip.dealCycles, Chip.advance_period]

/-- Fabric time that moves on within a Deal stays in it. -/
theorem Nat.div_mod_add_of_lt {a n d : Nat} (h : a % d + n < d) : (a + n) / d = a / d ∧ (a + n) % d = a % d + n := by
  have hd : 0 < d := Nat.lt_of_le_of_lt (Nat.zero_le _) h
  have e : a + n = a % d + n + d * (a / d) := by have := Nat.mod_add_div a d; omega
  rw [e, Nat.add_mul_div_left _ _ hd, Nat.add_mul_mod_self_left, Nat.div_eq_of_lt h, Nat.mod_eq_of_lt h]
  exact ⟨Nat.zero_add _, rfl⟩

theorem Chip.advance_within {n : Nat} {c : Chip} (h : n < c.toBoundary) :
    (c.advance n).deal = c.deal ∧ (c.advance n).cycle = c.cycle + n := by
  obtain ⟨hd, hm⟩ := Nat.div_mod_add_of_lt (show c.tb.ft % c.dealCycles + n < c.dealCycles from by
    unfold Chip.toBoundary Chip.cycle at h; omega)
  simp only [Chip.deal, Chip.cycle, Chip.advance_ft, Chip.dealCycles_advance, hd, hm, and_self]

theorem Chip.ltFor_nominal {c : Chip} (hr : c.tb.ftRate = 0) (hf : c.tb.ftFrac = 0) (n : Nat) : c.ltFor n = n := by
  simp [Chip.ltFor, gained, hr, hf]

/-! ### The idle step -/

theorem Chip.serveIngest_of_empty {c : Chip} {h : Nat} (e : (c.kit.half.get h).ingest = []) : c.serveIngest h = c := by
  simp only [Chip.serveIngest, e, List.length_nil, Nat.min_zero, Chip.drainIngest]

theorem Chip.startSlots_of_disabled {c : Chip} (h : ∀ e ∈ c.loom.slots, e.2.en = false) (a : Nat) : c.startSlots a = c := by
  have e : c.loom.slots.filter (fun e => e.2.en && decide (a ≤ c.slotCycle e.2.offset) && decide (c.slotCycle e.2.offset ≤ c.cycle)) = [] :=
    List.filter_eq_nil_iff.mpr fun e he => by simp [h e he]
  simp only [Chip.startSlots, e, List.foldl_nil]

/-- Nothing is set off in a core cycle that is not the middle of the Deal, with no slot enabled and no packet waiting. -/
theorem Chip.triggers_of_quiet {c : Chip} (hm : c.cycle ≠ c.dealCycles / 2) (hs : ∀ e ∈ c.loom.slots, e.2.en = false)
    (h0 : (c.kit.half.get 0).ingest = []) (h1 : (c.kit.half.get 1).ingest = []) : c.triggers = c := by
  simp only [Chip.triggers, Chip.serveIngest_of_empty h0, Chip.serveIngest_of_empty h1, if_neg hm, Chip.startSlots_of_disabled hs]

/-- Settles O2. -/
theorem idleStepIsOneCycle : Obligations.IdleStepIsOneCycle := by
  intro c up far mid slots in0 in1
  have frame : (c.advance 1).outside { clock := true, ctr := true, sent := true } = c.outside { clock := true, ctr := true, sent := true } :=
    Chip.advance_outside 1 c rfl
  obtain ⟨hdeal, hcycle⟩ := Chip.advance_within (n := 1) (c := c) (by omega)
  have quiet : (c.advance 1).triggers = c.advance 1 := by
    have hk : (c.advance 1).kit = c.kit := Part.Same.of_outside (p := .kit) frame rfl
    have hl : (c.advance 1).loom = c.loom := Part.Same.of_outside (p := .loom) frame rfl
    exact Chip.triggers_of_quiet (by rw [hcycle, Chip.dealCycles_advance]; exact mid) (hl ▸ slots) (hk ▸ in0) (hk ▸ in1)
  have tick : c.tick = c.advance 1 := by
    rw [Chip.tick, up.awake, up.thawed]
    simp only [Bool.false_eq_true, if_false]
    rw [if_neg (by omega), if_neg (by omega), quiet]
  refine ⟨c.advance 1, by simp only [step, tick], c.advance_ft 1, c.advance_lt 1, c.advance_age 1,
    fun hr hf => Chip.ltFor_nominal hr hf 1, hdeal, hcycle, SameBut.of_outside frame (by decide)⟩

end Sys2Proof.Machine

/-! SUPPORT. The exchange of fabric time with the parent (R23 to R26): what it sends, what an answer sets, and the load of FT. -/

namespace Sys2Proof.Machine

set_option Elab.async false

open Sys2Proof

/-! ### A packet behind those that leave on a port -/

theorem Chip.sched_setSched (j k : Nat) (v : Sched) (c : Chip) : (c.setSched k v).sched j = if j = k then v else c.sched j :=
  Tab.get_set ..

/-- What a departure records leaves the scheduler, and without timestamps the time base. -/
theorem Chip.stampAll_outside (p : Nat) (l : List Leaving) (c : Chip) {F : Foot} (hF : Foot.le { Foot.event with stamps := true } F) :
    (l.foldl (fun c x => (c.log (.packet p x.onWire)).stampDeparture p x.since x.pkt x.stamp) c).outside F = c.outside F :=
  foldl_outside _ _ fun c x => Chip.outside_mono hF (by simp +decide)

theorem Chip.depart_leaving (p : Nat) (c : Chip) : ((c.depart p).sched p).leaving =
    (c.sched p).leaving.map (fun x => if 0 < x.lanes then { x with gone := true } else x) := by
  have hs : (c.depart p).sch = (c.setSched p { c.sched p with
      leaving := (c.sched p).leaving.map (fun x => if 0 < x.lanes then { x with gone := true } else x) }).sch :=
    Part.Same.of_outside (p := .sch) (Chip.stampAll_outside p _ _ (F := { Foot.event with stamps := true }) rfl) rfl
  simp only [Chip.sched, hs]
  exact congrArg Sched.leaving ((Chip.sched_setSched p p _ c).trans (if_pos rfl))

theorem Chip.putOut_last (p : Nat) (x : Leaving) (c : Chip) :
    ∃ y, ((c.putOut p x).sched p).leaving.getLast? = some y ∧ y.pkt = x.pkt ∧ y.writes = x.writes := by
  unfold Chip.putOut
  extract_lets s w t x' stop
  rw [Chip.depart_leaving, Chip.sched_setSched, if_pos rfl, List.map_append, List.map_singleton, List.getLast?_concat]
  refine ⟨_, rfl, ?_⟩
  split <;> exact ⟨rfl, rfl⟩

theorem Chip.sendOnPort_sendsOn (p dest cls id seq : Nat) (resend : Bool) (payload : List Byte) (writes : Option Nat) (c : Chip) :
    SendsOn p (mkPacket dest cls ((c.currentEpoch (halfOf p)).getD 0) c.nest.self id seq resend payload) writes c
      (c.sendOnPort p dest cls id seq resend payload writes) where
  last := Chip.putOut_last ..
  frame := SameBut.of_outside (Chip.sendOnPort_outside p dest cls id seq resend payload writes c (F := Foot.sending) rfl) (by decide)

theorem Chip.stampAll_unstamped (p : Nat) (l : List Leaving) (c : Chip) (h : ∀ x ∈ l, x.stamp = none) :
    (l.foldl (fun c x => (c.log (.packet p x.onWire)).stampDeparture p x.since x.pkt x.stamp) c).tb = c.tb := by
  induction l generalizing c with
  | nil => rfl
  | cons x l ih =>
    have hx : (c.log (.packet p x.onWire)).stampDeparture p x.since x.pkt x.stamp = c.log (.packet p x.onWire) := by
      rw [h x (List.mem_cons_self ..)]; rfl
    rw [List.foldl_cons, hx]
    exact ih _ fun y hy => h y (List.mem_cons_of_mem _ hy)

theorem Chip.putOut_tb {p : Nat} {x : Leaving} {c : Chip} (h : (c.sched p).leaving = []) (hx : x.stamp = none) : (c.putOut p x).tb = c.tb := by
  unfold Chip.putOut
  extract_lets s w t x' stop
  unfold Chip.depart
  refine Chip.stampAll_unstamped _ _ _ fun y hy => ?_
  rw [Chip.sched_setSched, if_pos rfl, show s.leaving = [] from h] at hy
  obtain rfl := List.mem_singleton.mp (List.mem_of_mem_filter hy)
  exact hx

theorem Chip.sendOnPort_tb {p : Nat} {c : Chip} (h : (c.sched p).leaving = []) (dest cls id seq resend payload writes) :
    (c.sendOnPort p dest cls id seq resend payload writes).tb = c.tb := by
  have e : c.settlePort p = c := by simp only [Chip.settlePort, h, List.isEmpty_nil, if_true]
  simp only [Chip.sendOnPort, e]
  exact Chip.putOut_tb h rfl

/-- Timestamps of packets that wait are all that a packet sent adds to the time base. -/
theorem SendsOn.tb {p pkt writes} {c t : Chip} (h : SendsOn p pkt writes c t) : t.tb = { c.tb with tsq := t.tb.tsq } := by
  have e : { t.tb with tsq := c.tb.tsq } = c.tb := h.frame .tb (by decide)
  rw [← e]

theorem Chip.sendOnPort_exchange (p dest cls id seq : Nat) (resend : Bool) (payload : List Byte) (writes : Option Nat) (c : Chip) :
    (c.sendOnPort p dest cls id seq resend payload writes).tb =
        { c.tb with tsq := (c.sendOnPort p dest cls id seq resend payload writes).tb.tsq } ∧
      ((c.sched p).leaving = [] → (c.sendOnPort p dest cls id seq resend payload writes).tb.tsq = c.tb.tsq) ∧
      SendsOn p (mkPacket dest cls ((c.currentEpoch (halfOf p)).getD 0) c.nest.self id seq resend payload) writes c
        (c.sendOnPort p dest cls id seq resend payload writes) :=
  have h := Chip.sendOnPort_sendsOn p dest cls id seq resend payload writes c
  ⟨h.tb, fun he => by rw [Chip.sendOnPort_tb he], h⟩

/-! ### The exchange -/

theorem Chip.timePayload_setServo (c : Chip) (s : Servo) (kind deal t1 t2 t3 : Nat) :
    (c.setServo s).timePayload kind deal t1 t2 t3 = c.timePayload kind deal t1 t2 t3 := rfl

theorem Chip.sendExchange_request {c : Chip} (hm : c.ftMaster = false) (hd : c.deal % 16 = 0) (ho : c.tb.servo.outstanding = none)
    (hl : (c.port c.parentPort).link.live = true) (hw : c.inWindow c.parentPort = true) :
    c.sendExchange = (c.setServo { c.tb.servo with outstanding := some c.deal }).sendOnPort c.parentPort (c.port c.parentPort).farName 0 0
      c.deal false (c.timePayload 1 c.deal 0 0 0) (some 1) := by
  simp only [Chip.sendExchange, hm, hd, ho, hw, hl, bne_self_eq_false, Bool.false_or, Bool.not_true, Bool.or_false, Option.isSome_none,
    Bool.false_eq_true, if_false, if_true]
  rfl

theorem Chip.draw_free (c : Chip) : c.draw.2 = { c with free := c.free + 1 } := rfl

theorem Chip.slewFt_eq (c : Chip) : ∃ rate : Int, rate.natAbs ≤ 10000 ∧
    c.slewFt = { c with free := c.free + 1, tb := { c.tb with ftRate := rate } } := by
  refine ⟨Int.ofNat (c.draw.1 % 20001) - 10000, ?_, rfl⟩
  have := Nat.mod_lt c.draw.1 (show 0 < 20001 by decide)
  generalize c.draw.1 % 20001 = v at this ⊢
  rw [Int.ofNat_eq_natCast]
  omega

/-- The servo after a good exchange in TRACK (R24, R25). -/
@[reducible] def Chip.servoAfter (p : Nat) (pkt : Packet) (t4 : Nat) (c : Chip) : Servo := { c.tb.servo with
  goodRun := if ((timeDiff (pkt.word 2) (pkt.word 1) - timeDiff t4 (pkt.word 3)) * 500 - (c.port p).asymPs / 2).natAbs ≤ 4000
    then c.tb.servo.goodRun + 1 else 0
  missRun := 0, outstanding := none, exchanged := true
  offsetNs := ((timeDiff (pkt.word 2) (pkt.word 1) - timeDiff t4 (pkt.word 3)) * 500 - (c.port p).asymPs / 2) / 1000
  delayNs := ((timeDiff t4 (pkt.word 1) - timeDiff (pkt.word 3) (pkt.word 2)) * 500 - (c.port p).asymPs / 2) / 1000 }

theorem Chip.takeExchange_tracks {p : Nat} {pkt : Packet} {t4 : Nat} {c : Chip} (hm : c.ftMaster = false) (hp : p = c.parentPort)
    (hg : pkt.crcGood = true) (hk : bitsAt (pkt.word 0) 60 4 = 2) (hr : c.recentDeal (bitsAt (pkt.word 0) 0 48) = true)
    (ho : c.tb.servo.outstanding = some (bitsAt (pkt.word 0) 0 48)) (hs : c.tb.ftState = .track) :
    c.takeExchange p pkt t4 = Chip.slewFt (c.setServo (c.servoAfter p pkt t4)) := by
  have hc : (!c.ftMaster && p == c.parentPort && pkt.crcGood && bitsAt (pkt.word 0) 60 4 == 2 && c.recentDeal (bitsAt (pkt.word 0) 0 48) &&
      c.tb.servo.outstanding == some (bitsAt (pkt.word 0) 0 48)) = true := by
    rw [hm, hg, hk, hr, ho, beq_iff_eq.mpr hp]; simp
  unfold Chip.takeExchange
  extract_lets d t1 t2 t3 a m off
  rw [if_pos hc]
  unfold Chip.servoUpdate
  rw [show ∀ s, (c.setServo s).tb.ftState = .track from fun _ => hs]
  rfl

theorem Chip.setAligned_of_eq {b : Bool} {c : Chip} (h : c.tb.aligned = true → b = true) :
    c.setAligned b = { c with tb := { c.tb with aligned := b } } := by
  cases b <;> simp_all [Chip.setAligned]

theorem Chip.setAligned_tb (b : Bool) (c : Chip) : (c.setAligned b).tb = { c.tb with aligned := b } := by
  simp only [Chip.setAligned]
  split
  · exact Chip.tb_of_outside (Chip.raiseUnaligned_outside { c with tb := { c.tb with aligned := b } } (F := Foot.event) rfl) rfl
  · rfl

theorem Chip.loadTime_of_master {c : Chip} {v : Nat} (hv : c.tb.timeSet = some v) (hd : c.tb.dealSrc = false) :
    c.loadTime.tb.ft = v ∧ c.loadTime.tb.ftState = .track ∧ c.loadTime.tb.aligned = true ∧ c.loadTime.tb.timeSet = none ∧
      c.loadTime.tb.lt = c.tb.lt := by
  have e : c.loadTime.tb = { c.tb with
      ft := v, guarded := false, timeSet := none, ftState := .track, aligned := true, dealIn := c.loadTime.tb.dealIn } := by
    simp only [Chip.loadTime, hv]
    rw [if_neg (by rw [show (c.jumpFt v).tb.dealSrc = false from hd]; exact Bool.false_ne_true)]
    simp only [Chip.setAligned_tb]
    rfl
  rw [e]
  exact ⟨rfl, rfl, rfl, rfl, rfl⟩

theorem does_timeExchangeSend {c : Chip} (q : List Instr) (up : c.Up) (hm : c.ftMaster = false) (hd : c.deal % 16 = 0)
    (ho : c.tb.servo.outstanding = none) (hl : (c.port c.parentPort).link.live = true) (hw : c.inWindow c.parentPort = true) :
    Does .timeExchangeSend ⟨c, q⟩ fun t =>
      t.tb = { c.tb with servo := { c.tb.servo with outstanding := some c.deal }, tsq := t.tb.tsq } ∧
      ((c.sched c.parentPort).leaving = [] → t.tb.tsq = c.tb.tsq) ∧
      SendsOn c.parentPort (mkPacket (c.port c.parentPort).farName 0 ((c.currentEpoch (halfOf c.parentPort)).getD 0) c.nest.self 0 c.deal
        false (c.timePayload 1 c.deal 0 0 0)) (some 1) (c.setServo { c.tb.servo with outstanding := some c.deal }) t := by
  refine Does.of_fabric (fun _ => rfl) rfl up ?_
  rw [Chip.sendExchange_request hm hd ho hl hw]
  exact Chip.sendOnPort_exchange c.parentPort (c.port c.parentPort).farName 0 0 c.deal false (c.timePayload 1 c.deal 0 0 0) (some 1)
    (c.setServo { c.tb.servo with outstanding := some c.deal })

theorem does_timeReq {c : Chip} (q : List Instr) (up : c.Up) {p : Nat} {pkt : Packet} {t2 : Nat} (hp : okPort p = true)
    (hk : okPacket pkt = true) (ht : t2 < 2 ^ 64) {P : Chip → Prop} (h : P (c.answerExchange p pkt t2)) : Does (.timeReq p pkt t2) ⟨c, q⟩ P :=
  Does.of_fabric (fun _ => rfl) (by rw [hp, hk, decide_eq_true ht]; rfl) up h

theorem Chip.answerExchange_of_good {c : Chip} {p : Nat} {pkt : Packet} {t2 : Nat} (hg : pkt.crcGood = true)
    (hw : bitsAt (pkt.word 0) 60 4 = 1) (hr : c.recentDeal (bitsAt (pkt.word 0) 0 48) = true) (hl : (c.port p).link.live = true) :
    c.answerExchange p pkt t2 = c.sendOnPort p (c.port p).farName 0 0 (bitsAt (pkt.word 0) 0 48) false
      (c.timePayload 2 (bitsAt (pkt.word 0) 0 48) (pkt.word 1) t2 0) (some 3) :=
  if_pos (by rw [hg, hw, hr, hl]; rfl)

theorem Chip.answerExchange_of_bad {c : Chip} {p : Nat} {pkt : Packet} {t2 : Nat} (h : pkt.crcGood = false ∨
    bitsAt (pkt.word 0) 60 4 ≠ 1 ∨ c.recentDeal (bitsAt (pkt.word 0) 0 48) = false ∨ (c.port p).link.live = false) :
    c.answerExchange p pkt t2 = c := by
  refine if_neg ?_
  simp only [Bool.and_eq_true, beq_iff_eq, not_and, Bool.not_eq_true]
  rintro ⟨⟨hg, hw⟩, hr⟩
  simpa [hg, hw, hr] using h

theorem does_timeRsp {c : Chip} (q : List Instr) (up : c.Up) {p : Nat} {pkt : Packet} {t4 : Nat} (hp : okPort p = true)
    (hk : okPacket pkt = true) (ht : t4 < 2 ^ 64) {P : Chip → Prop} (h : P (c.takeExchange p pkt t4)) : Does (.timeRsp p pkt t4) ⟨c, q⟩ P :=
  Does.of_fabric (fun _ => rfl) (by rw [hp, hk, decide_eq_true ht]; rfl) up h

theorem Chip.slewFt_setServo (c : Chip) (v : Servo) : ∃ rate : Int, rate.natAbs ≤ 10000 ∧
    ((c.setServo v).slewFt).tb = { c.tb with ftRate := rate, servo := v } ∧ SameBut [.tb, .free] c (c.setServo v).slewFt := by
  obtain ⟨rate, hrate, e⟩ := Chip.slewFt_eq (c.setServo v)
  rw [e]
  exact ⟨rate, hrate, rfl, SameBut.of_outside (F := { base := true, free := true }) rfl (by decide)⟩

/-- Settles O11. -/
theorem timeExchangesComplete : Obligations.TimeExchangesComplete := by
  intro c q up
  refine ⟨does_timeExchangeSend q up, fun p pkt t2 hp hk ht hg hw hr hl => ?_, fun p pkt t2 hp hk ht hn => ?_,
    fun p pkt t4 hp hk ht hm hpp hg hw hr ho hs => ?_, fun hs => ?_, fun v hv hd => ?_⟩
  · refine does_timeReq q up hp hk ht ?_
    rw [Chip.answerExchange_of_good hg hw hr hl]
    exact Chip.sendOnPort_exchange ..
  · exact does_timeReq q up hp hk ht (Chip.answerExchange_of_bad hn)
  · refine does_timeRsp q up hp hk ht ?_
    rw [Chip.takeExchange_tracks hm hpp hg hw hr ho hs]
    exact Chip.slewFt_setServo c (c.servoAfter p pkt t4)
  · refine Does.of_fabric (fun _ => rfl) rfl up ?_
    have e : c.expireHoldover = c.setAligned false := if_pos hs
    rw [e]
    exact ⟨Chip.setAligned_tb .., SameBut.of_outside (Chip.setAligned_outside false c (F := { Foot.event with base := true }) rfl) (by decide)⟩
  · exact Does.of_fabric (fun _ => rfl) rfl up (Chip.loadTime_of_master hv hd)

end Sys2Proof.Machine

/-! SUPPORT. The IEEE 1588 follower (R31, R32), and the captures of TIME_CAP (R43 to R51). -/

namespace Sys2Proof.Machine

set_option Elab.async false

open Sys2Proof

theorem Chip.tb_raise (code cls args) (c : Chip) : (c.raise code cls args).tb = c.tb :=
  Chip.tb_of_outside (Chip.raise_outside code cls args c (F := Foot.event) rfl) rfl

/-- A change of the time base and no more. -/
theorem SameBut.tb (c : Chip) (x : TimeBase) (h : x.tsq = c.tb.tsq) : SameBut [.tb] c { c with tb := x } :=
  SameBut.of_outside (F := { clock := true, base := true }) (Chip.outside_with_tb c x (by simp [h])) (by decide)

theorem SameBut.tb_free (c : Chip) (x : TimeBase) (n : Nat) (h : x.tsq = c.tb.tsq) : SameBut [.tb, .free] c { c with tb := x, free := n } :=
  SameBut.of_outside (F := { clock := true, base := true, free := true })
    (Chip.outside_with_tb { c with free := n } x (by simp [h])) (by decide)

/-! ### The follower -/

theorem Chip.takeAnnounce_first {c : Chip} {a : Announce} (hp : c.tb.ptEn = true) (hf : c.stew.phase ≠ .restarting)
    (hd : a.domain = c.tb.ptp.domain) (ht : a.transport = c.tb.ptp.transport) (hm : c.tb.ptp.master = none) (hs : c.tb.ptState ≠ .slave) :
    c.takeAnnounce a = { c with tb := { c.tb with
      ptState := .uncalibrated, ptp := { c.tb.ptp with master := some a, utcOffset := a.utcOffset, t1 := none } } } := by
  simp [Chip.takeAnnounce, hp, hf, hd, ht, hm, hs]

theorem Chip.takeSync_of_master {c : Chip} {m : PtpHeader} (h : c.fromMaster (-4) 1 m = true) (s : Nat) (two : Bool) (t1 t2 : Nat) :
    c.takeSync m s two t1 t2 = { c with tb := { c.tb with ptp := { c.tb.ptp with
      syncSeq := s, awaitFollowUp := two, t1 := if two then none else some (Int.ofNat t1), t2 := Int.ofNat (t2 / 8 * 8) } } } :=
  if_neg (by rw [h]; exact Bool.false_ne_true)

theorem Chip.takeFollowUp_of_master {c : Chip} {m : PtpHeader} {s : Nat} (h : c.fromMaster (-4) 1 m = true) (hs : c.tb.ptp.syncSeq = s)
    (ha : c.tb.ptp.awaitFollowUp = true) (t1 : Nat) :
    c.takeFollowUp m s t1 = { c with tb := { c.tb with ptp := { c.tb.ptp with awaitFollowUp := false, t1 := some (Int.ofNat t1) } } } :=
  if_pos (by rw [h, ha, hs]; simp)

theorem Chip.sendDelayReq_of_sync {c : Chip} {t1 : Int} (hp : c.tb.ptEn = true) (hf : c.stew.phase ≠ .restarting)
    (h : c.tb.ptp.t1 = some t1) : c.sendDelayReq = Chip.log (.ptpDelayReq ((c.tb.ptp.delaySeq + 1) % 65536))
      { c with tb := { c.tb with ptp := { c.tb.ptp with
        delaySeq := (c.tb.ptp.delaySeq + 1) % 65536, t3 := some (Int.ofNat (c.tb.pt / 2 / 8 * 8)) } } } :=
  if_pos (by simp [hp, hf, h])

/-- What stepping or slewing PT leaves (R32). -/
theorem Chip.adjustPt_eq (off : Int) (c : Chip) : ∃ x n, c.adjustPt off = { c with tb := x, free := n } ∧ x.tsq = c.tb.tsq ∧
    x.ptState = c.tb.ptState ∧ x.ptRunning = true ∧ x.ptp = c.tb.ptp ∧ (1000 < off.natAbs → x.pt = Int.toNat (Int.ofNat c.tb.pt - 2 * off)) := by
  unfold Chip.adjustPt
  split
  · exact ⟨_, _, rfl, rfl, rfl, rfl, rfl, fun _ => rfl⟩
  next h => exact ⟨_, _, rfl, rfl, rfl, rfl, rfl, fun h' => absurd h' h⟩

/-- Steering FT sets its frequency alone (R33). -/
theorem Chip.steerFt_eq (c : Chip) : ∃ rate n, c.steerFt = { c with tb := { c.tb with ftRate := rate }, free := n } := by
  unfold Chip.steerFt
  split <;> exact ⟨_, _, rfl⟩

theorem Chip.takeDelayResp_of_master {c : Chip} {m : PtpHeader} {s : Nat} {t1 t3 : Int} (h : c.fromMaster (-4) 2 m = true)
    (hs : c.tb.ptp.delaySeq = s) (h1 : c.tb.ptp.t1 = some t1) (h3 : c.tb.ptp.t3 = some t3) (t4 : Nat) :
    c.takeDelayResp m s t4 = (Chip.adjustPt (((c.tb.ptp.t2 - t1) - (Int.ofNat t4 - t3)) / 2) { c with tb := { c.tb with
      ptState := .slave, ptp := { c.tb.ptp with offsetNs := ((c.tb.ptp.t2 - t1) - (Int.ofNat t4 - t3)) / 2, t3 := none } } }).steerFt := by
  simp only [Chip.takeDelayResp, h1, h3]
  exact if_pos (by rw [h, hs]; simp)

theorem Chip.loseMaster_tb {c : Chip} (hp : c.tb.ptEn = true) (hf : c.stew.phase ≠ .restarting) : c.loseMaster.tb = { c.tb with
    ptState := .listening, ptp := { c.tb.ptp with master := none, t1 := none, t3 := none, awaitFollowUp := false } } := by
  have e : (!c.tb.ptEn || c.stew.phase == .restarting) = false := by simp [hp, hf]
  simp only [Chip.loseMaster, e, Bool.false_eq_true, if_false]
  split
  · exact Chip.tb_raise ..
  · rfl

/-- Settles O12. -/
theorem ptpFollowerComplete : Obligations.PtpFollowerComplete := by
  intro c q up en run
  refine ⟨fun a ha hd ht hm hs => ?_, fun m s two t1 t2 hm hs h => ?_, fun m s t1 hm hs h hq ha => ?_, fun t1 h => ?_,
    fun m s t1 t3 t4 hm hs h hq h1 h3 => ?_, ?_⟩
  · refine Does.of_live (fun _ => rfl) ha up ?_
    rw [Chip.takeAnnounce_first en run hd ht hm hs]
    exact ⟨SameBut.tb _ _ rfl, rfl⟩
  · refine Does.of_live (fun _ => rfl) (by rw [hm, decide_eq_true hs]; rfl) up ?_
    rw [Chip.takeSync_of_master h]
    exact ⟨SameBut.tb _ _ rfl, rfl⟩
  · refine Does.of_live (fun _ => rfl) (by rw [hm, decide_eq_true hs]; rfl) up ?_
    rw [Chip.takeFollowUp_of_master h hq ha]
    exact ⟨SameBut.tb _ _ rfl, rfl⟩
  · refine Does.of_live (fun _ => rfl) rfl up ?_
    rw [Chip.sendDelayReq_of_sync en run h]
    exact ⟨SameBut.of_outside (F := { base := true, sent := true }) rfl (by decide), rfl, rfl⟩
  · refine Does.of_live (fun _ => rfl) (by rw [hm, decide_eq_true hs]; rfl) up ?_
    rw [Chip.takeDelayResp_of_master h hq h1 h3]
    generalize ((c.tb.ptp.t2 - t1) - (Int.ofNat t4 - t3)) / 2 = off
    obtain ⟨x, n, e, hq, hst, hr, hp, hpt⟩ := Chip.adjustPt_eq off { c with tb := { c.tb with
      ptState := .slave, ptp := { c.tb.ptp with offsetNs := off, t3 := none } } }
    obtain ⟨rate, n', e'⟩ := Chip.steerFt_eq { c with tb := x, free := n }
    rw [e, e']
    refine ⟨?_, hst, hr, congrArg Ptp.t3 hp, congrArg Ptp.offsetNs hp, fun h => ?_⟩
    · exact SameBut.tb_free c { x with ftRate := rate } n' hq
    · have ho : x.ptp.offsetNs = off := congrArg Ptp.offsetNs hp
      rw [ho] at h ⊢
      exact hpt h
  · refine Does.of_live (fun _ => rfl) rfl up ⟨?_, Chip.loseMaster_tb en run⟩
    exact SameBut.of_outside (Chip.loseMaster_outside c (F := { Foot.event with base := true }) rfl) (by decide)

/-! ### Captures -/

theorem Chip.cap_setCap (m n : Nat) (hm : m < 2) (hn : n < 2) (v : Capture) (c : Chip) :
    (c.setCap n v).cap m = if m = n then v else c.cap m := by
  have hm' : m = 0 ∨ m = 1 := by omega
  have hn' : n = 0 ∨ n = 1 := by omega
  rcases hm' with rfl | rfl <;> rcases hn' with rfl | rfl <;> rfl

theorem Chip.cap_of_tb {c t : Chip} (h : t.tb = c.tb) (n : Nat) : t.cap n = c.cap n := by rw [Chip.cap, Chip.cap, h]

theorem Chip.captureEdge_cap {c : Chip} {n : Nat} {rising : Bool} (hn : n < 2) (h : c.capSelects n rising = true) (m : Nat) (hm : m < 2) :
    (c.captureEdge n rising).cap m = if m ≠ n then c.cap m
      else if (c.cap n).valid || (c.cap n).waiting then { c.cap n with missed := ((c.cap n).missed + 1) % 2 ^ 14 }
      else { c.cap n with sec := c.ftSec, ns := c.ftSubNs, aligned := c.tb.aligned, waiting := true } := by
  simp only [Chip.captureEdge, h, Bool.not_true, Bool.false_eq_true, if_false, ne_eq, ite_not]
  split
  · exact Chip.cap_setCap m n hm hn _ c
  · exact Chip.cap_setCap m n hm hn _ c

theorem Chip.readCap_eq (n : Nat) (c : Chip) : c.readCap n = Chip.setCap n
    (if (c.cap n).valid then { c.cap n with valid := false, missed := 0, latchedNs := (c.cap n).ns } else { c.cap n with latchedNs := 0 })
    (c.log (.readData (c.cap n).word)) := by
  simp only [Chip.readCap]
  split <;> rfl

/-- Settles O13. -/
theorem capturesAndStampsComplete : Obligations.CapturesAndStampsComplete := by
  intro c q up
  refine ⟨fun n rising hn h => ?_, fun n hn h => ?_, fun n hn => ?_, ?_⟩
  · refine Does.of_fabric (fun _ => rfl) (decide_eq_true hn) up ⟨?_, fun m hm => Chip.captureEdge_cap hn h m hm⟩
    exact SameBut.of_outside (Chip.captureEdge_outside n rising c (F := { base := true, ctr := true }) rfl) (by decide)
  · refine Does.of_fabric (fun _ => rfl) (decide_eq_true hn) up ⟨?_, ?_⟩
    · exact SameBut.of_outside (Chip.captureReady_outside n c (F := { Foot.event with base := true }) rfl) (by decide)
    · simp only [Chip.captureReady, h, if_true]
      rw [Chip.cap_of_tb (Chip.tb_raise ..), Chip.cap_setCap n n hn hn, if_pos rfl]
  · refine Does.of_fabric (fun _ => rfl) (decide_eq_true hn) up ⟨?_, ?_, ?_⟩
    · exact SameBut.of_outside (Chip.readCap_outside n c (F := { base := true, sent := true }) rfl) (by decide)
    · rw [Chip.readCap_eq]; unfold Chip.setCap; split <;> rfl
    · rw [Chip.readCap_eq, Chip.cap_setCap n n hn hn, if_pos rfl]
  · exact Does.of_fabric (fun _ => rfl) rfl up
      ⟨rfl, rfl, SameBut.of_outside (F := { base := true, sent := true }) rfl (by decide)⟩

end Sys2Proof.Machine

/-! SUPPORT. Reset, loss of power and freeze (R487, R495, R497, R510). -/

namespace Sys2Proof.Machine

set_option Elab.async false

open Sys2Proof

/-- A freeze is accepted and fabric time has run on; the commands that wait have not ended yet (R487). -/
def Chip.freezing (cause : Nat) (c : Chip) : Chip :=
  let d := c.draw.2.advance (8 + c.draw.1 % 24)
  { d with regs := { d.regs with freeze := { d.regs.freeze with
    accepted := true, cause := cause, commanded := false, ftStop := 8 + c.draw.1 % 24 } } }

theorem Chip.freeze_of_thawed {c : Chip} (h : c.regs.freeze.accepted = false) (cause : Nat) :
    c.freeze cause = (c.freezing cause).stew.waiting.foldl (fun c w => c.finish w .frozen []) (c.freezing cause) := by
  simp only [Chip.freeze, h, Bool.false_eq_true, if_false]
  rfl

/-- The commands that wait end with FROZEN, which leaves the time base and the freeze alone (R442). -/
theorem Chip.freeze_rest {c : Chip} (h : c.regs.freeze.accepted = false) (cause : Nat) :
    (c.freeze cause).outside { Foot.packet with mbx := true, waiting := true } =
      (c.freezing cause).outside { Foot.packet with mbx := true, waiting := true } := by
  rw [Chip.freeze_of_thawed h]
  exact foldl_outside _ _ fun c w => Chip.finish_outside w _ _ c rfl

theorem Chip.freeze_tb {c : Chip} (h : c.regs.freeze.accepted = false) (cause : Nat) :
    (c.freeze cause).tb = (c.draw.2.advance (8 + c.draw.1 % 24)).tb :=
  Chip.tb_of_outside (t := c.freeze cause) (c := c.freezing cause) (Chip.freeze_rest h cause) rfl

theorem Chip.freeze_freeze {c : Chip} (h : c.regs.freeze.accepted = false) (cause : Nat) :
    (c.freeze cause).regs.freeze = (c.freezing cause).regs.freeze := Part.Same.of_outside (p := .freeze) (Chip.freeze_rest h cause) rfl

/-- What a freeze leaves: its cause, and fabric time 8 to 31 core cycles on. -/
theorem Chip.freeze_stops {c : Chip} (h : c.regs.freeze.accepted = false) (cause : Nat) :
    (c.freeze cause).regs.freeze.accepted = true ∧ (c.freeze cause).regs.freeze.cause = cause ∧
      8 ≤ (c.freeze cause).regs.freeze.ftStop ∧ (c.freeze cause).regs.freeze.ftStop ≤ 31 ∧
      (c.freeze cause).tb.ft = c.tb.ft + (c.freeze cause).regs.freeze.ftStop ∧
      (c.freeze cause).tb.lt = (c.tb.lt + c.ltFor (c.freeze cause).regs.freeze.ftStop) % 2 ^ 64 := by
  have hv : c.draw.1 % 24 < 24 := Nat.mod_lt _ (by decide)
  rw [Chip.freeze_freeze h, Chip.freeze_tb h, Chip.advance_ft, Chip.advance_lt]
  refine ⟨rfl, rfl, Nat.le_add_right .., ?_, rfl, rfl⟩
  show 8 + c.draw.1 % 24 ≤ 31
  omega

theorem Chip.freeze_frame (cause : Nat) (c : Chip) : SameBut (.tb :: .waiting :: .freeze :: Part.packet) c (c.freeze cause) :=
  SameBut.of_outside (Chip.freeze_outside cause c (F := { Foot.packet with clock := true, mbx := true, waiting := true, freeze := true }) rfl)
    (by decide)

theorem Chip.recordFreeze_freeze {c : Chip} (ha : c.regs.freeze.accepted = true) (hf : c.regs.freeze.frozen = false) {n : Nat} (hn : n ≤ 63) :
    (c.recordFreeze n).regs.freeze = { c.regs.freeze with
      frozen := true, deal := c.deal, stopCycle := n, ft := field c.ftSubNs 0 32 + field c.ftSec 32 32 } := by
  have e : ∀ d : Chip, Part.freeze.Same d (((d.coalesce).raise 0x1103 4 [(2, c.regs.freeze.cause)]).signal 19) := fun d =>
    Part.Same.of_outside (F := Foot.event) (by simp +decide) rfl
  simp only [Chip.recordFreeze, ha, hf, Bool.not_false, Bool.and_self, if_true]
  rw [show ((_ : Chip).signal 19).regs.freeze = _ from e _, Nat.mod_eq_of_lt (Nat.lt_succ_of_le hn)]

/-- Settles O16. -/
theorem resetAndFreezeComplete : Obligations.ResetAndFreezeComplete := by
  intro c q
  refine ⟨?_, fun straps hs hh => ?_, fun straps hs hh => ?_, ?_, fun up => ?_, fun n hn up ha hf => ?_⟩
  · refine Does.of_run (f := fun c => c.clear c.pkg.straps true) (fun _ => rfl) rfl ?_
    exact ⟨rfl, rfl, rfl, rfl, rfl, rfl, rfl, rfl, rfl, rfl, rfl⟩
  · refine Does.of_run (fun _ => rfl) (decide_eq_true hs) ?_
    rw [show c.release straps = c.clear straps false from if_pos hh]
    exact ⟨congrArg (fun x => ({ straps := x } : Pkg)) (Nat.mod_eq_of_lt hs), rfl, rfl, rfl, rfl, rfl⟩
  · exact Does.of_run (fun _ => rfl) (decide_eq_true hs) (if_neg (Bool.eq_false_iff.mp hh))
  · refine Does.of_run (fun _ => rfl) rfl ?_
    exact ⟨rfl, rfl, rfl, rfl, rfl, rfl⟩
  · obtain ⟨accepted, cause, low, high, ft, lt⟩ := Chip.freeze_stops up.thawed 1
    exact Does.of_live (fun _ => rfl) rfl up.awake ⟨accepted, cause, low, high, ft, lt, Chip.freeze_frame 1 c⟩
  · refine Does.of_live (fun _ => rfl) (decide_eq_true hn) up ⟨Chip.recordFreeze_freeze ha hf hn, ?_⟩
    exact SameBut.of_outside (Chip.recordFreeze_outside n c (F := { Foot.event with freeze := true }) rfl) (by decide)

end Sys2Proof.Machine

/-! SUPPORT. The sending of the ports: it adds to what has left the part, and of a port it moves the BSEQ of the next data block alone
(R115, R156). -/

namespace Sys2Proof.Machine

set_option Elab.async false

open Sys2Proof

/-! ### What has left only grows -/

theorem Chip.sent_log (x : Sent) (c : Chip) : c.sent <:+ (c.log x).sent := List.suffix_cons ..

theorem Chip.sent_of_eq {c t : Chip} (h : t.sent = c.sent) : c.sent <:+ t.sent := h ▸ List.suffix_rfl

theorem Chip.sent_foldl {α : Type} {f : Chip → α → Chip} (l : List α) (c : Chip) (hf : ∀ c x, c.sent <:+ (f c x).sent) :
    c.sent <:+ (l.foldl f c).sent := by
  induction l generalizing c with
  | nil => exact List.suffix_rfl
  | cons x l ih => exact (hf c x).trans (ih _)

theorem Chip.sent_signal (v : Nat) (c : Chip) : c.sent <:+ (c.signal v).sent := by
  unfold Chip.signal
  split
  · exact List.suffix_rfl
  · exact Chip.sent_log ..

theorem Chip.sent_writeRing (r : EventRecord) (c : Chip) : c.sent <:+ (c.writeRing r).sent := by
  unfold Chip.writeRing
  extract_lets e r fires d
  have hd : c.sent <:+ d.sent := Chip.sent_log ..
  split
  · exact hd.trans (Chip.sent_signal ..)
  · exact hd

theorem Chip.sent_occur (block src filt cls n) (c : Chip) : (c.occur block src filt cls n).sent = c.sent :=
  Part.Same.of_outside (p := .sent) (Chip.occur_outside block src filt cls n c (F := { ctr := true }) rfl) rfl

theorem Chip.sent_bump (f n) (c : Chip) : (c.bump f n).sent = c.sent :=
  Part.Same.of_outside (p := .sent) (Chip.bump_outside f n c (F := { ctr := true }) rfl) rfl

theorem Chip.sent_storeRecord (r : EventRecord) (c : Chip) : c.sent <:+ (c.storeRecord r).sent := by
  simp only [Chip.storeRecord]
  split
  · exact Chip.sent_writeRing ..
  · split
    · exact List.suffix_rfl
    · exact Chip.sent_of_eq ((Chip.sent_bump ..).trans (Chip.sent_occur ..))

theorem Chip.sent_record (code cls args) (c : Chip) : c.sent <:+ (c.record code cls args).sent := by
  unfold Chip.record
  extract_lets e r fwd
  generalize hd : Chip.setEvents _ c = d
  have hs : d.sent = c.sent := hd ▸ rfl
  exact hs ▸ Chip.sent_storeRecord r d

theorem Chip.sent_raise (code cls args) (c : Chip) : c.sent <:+ (c.raise code cls args).sent := by
  have ite {p : Prop} [Decidable p] {b d : Chip} (h : b.sent <:+ d.sent) : b.sent <:+ (if p then d else b).sent := by
    split
    · exact h
    · exact List.suffix_rfl
  refine List.IsSuffix.trans ?_ (ite (Chip.sent_signal ..))
  refine List.IsSuffix.trans ?_ (ite (Chip.sent_signal ..))
  refine List.IsSuffix.trans ?_ (ite (Chip.sent_record ..))
  exact Chip.sent_of_eq (Chip.sent_occur ..)

theorem Chip.sent_stampDeparture (p t pkt stamp) (c : Chip) : c.sent <:+ (c.stampDeparture p t pkt stamp).sent := by
  simp only [Chip.stampDeparture]
  split
  · exact List.suffix_rfl
  · split
    · exact List.suffix_rfl
    · unfold Chip.pushStamp
      extract_lets q d was d
      have hd : c.sent <:+ d.sent := Chip.sent_of_eq (Chip.sent_bump ..)
      split
      · exact List.suffix_rfl
      · split
        · exact hd
        · exact hd.trans (Chip.sent_raise ..)

/-! ### The sending of ports -/

theorem Chip.port_setPort (j k : Nat) (v : Port) (c : Chip) : (c.setPort k v).port j = if j = k then v else c.port j := Tab.get_set ..

/-- Ports that `P` picks send what they have, and nothing else of the ports changes. -/
structure Chip.Sends (P : Nat → Prop) (c t : Chip) : Prop where
  unsent : ∀ x, (t.port x).unsent = (c.port x).unsent
  others : ∀ x, ¬P x → t.port x = c.port x
  lotMode : t.ports.lotMode = c.ports.lotMode
  twinConfigured : t.ports.twinConfigured = c.ports.twinConfigured
  sent : c.sent <:+ t.sent

theorem Chip.Sends.of_ports {P : Nat → Prop} {c t : Chip} (h : t.ports = c.ports) (hs : c.sent <:+ t.sent) : Chip.Sends P c t where
  unsent x := by simp only [Chip.port, h]
  others x _ := by simp only [Chip.port, h]
  lotMode := by rw [h]
  twinConfigured := by rw [h]
  sent := hs

theorem Chip.Sends.rfl {P : Nat → Prop} {c : Chip} : Chip.Sends P c c := .of_ports (Eq.refl _) List.suffix_rfl

theorem Chip.Sends.of_outside {P : Nat → Prop} {F : Foot} {c t : Chip} (e : t.outside F = c.outside F) (h : F.keeps .ports && F.keeps .sent) :
    Chip.Sends P c t := by
  obtain ⟨hp, hs⟩ := (Bool.and_eq_true _ _).mp h
  exact .of_ports (Part.Same.of_outside (p := .ports) e hp) (Chip.sent_of_eq (Part.Same.of_outside (p := .sent) e hs))

theorem Chip.Sends.trans {P : Nat → Prop} {c d t : Chip} (h : Chip.Sends P c d) (h' : Chip.Sends P d t) : Chip.Sends P c t where
  unsent x := (h'.unsent x).trans (h.unsent x)
  others x hx := (h'.others x hx).trans (h.others x hx)
  lotMode := h'.lotMode.trans h.lotMode
  twinConfigured := h'.twinConfigured.trans h.twinConfigured
  sent := h.sent.trans h'.sent

theorem Chip.Sends.mono {P Q : Nat → Prop} {c t : Chip} (h : Chip.Sends P c t) (hPQ : ∀ x, P x → Q x) : Chip.Sends Q c t :=
  { h with others := fun x hx => h.others x fun hp => hx (hPQ x hp) }

theorem Chip.Sends.foldl {P : Nat → Prop} {α : Type} {f : Chip → α → Chip} (l : List α) (c : Chip) (hf : ∀ c x, Chip.Sends P c (f c x)) :
    Chip.Sends P c (l.foldl f c) := by
  induction l generalizing c with
  | nil => exact .rfl
  | cons x l ih => exact (hf c x).trans (ih _)

theorem Chip.Sends.setPort {p : Nat} {v : Port} {c : Chip} (hv : v.unsent = (c.port p).unsent) : Chip.Sends (· = p) c (c.setPort p v) where
  unsent x := by
    rw [Chip.port_setPort]
    split
    next h => rw [hv, h]
    next => rfl
  others x hx := by rw [Chip.port_setPort, if_neg hx]
  lotMode := Eq.refl _
  twinConfigured := Eq.refl _
  sent := List.suffix_rfl

theorem Chip.Sends.setSched {P : Nat → Prop} (p : Nat) (v : Sched) (c : Chip) : Chip.Sends P c (c.setSched p v) :=
  .of_ports (Eq.refl _) List.suffix_rfl

theorem Chip.Sends.log {P : Nat → Prop} (x : Sent) (c : Chip) : Chip.Sends P c (c.log x) := .of_ports (Eq.refl _) (Chip.sent_log ..)

theorem Chip.countSent_sends (p n : Nat) (pkt : Packet) (c : Chip) : Chip.Sends (· = p) c (c.countSent p n pkt) := by
  unfold Chip.countSent
  split
  · exact .rfl
  · extract_lets y d
    have hd : Chip.Sends (· = p) c (d.countTx p n) := .of_ports (Eq.refl _) List.suffix_rfl
    have hs : Chip.Sends (· = p) (d.countTx p n) ((d.countTx p n).setPort p { d.port p with nextBseqTx := ((d.port p).nextBseqTx + n) % 4096 }) :=
      .setPort (Eq.refl _)
    exact (hd.trans hs).trans (.of_outside (Chip.occur_outside _ _ _ _ _ _ (F := { ctr := true }) (Eq.refl _)) (Eq.refl _))

theorem Chip.sendCells_sends (p n : Nat) (x : Leaving) (c : Chip) : Chip.Sends (· = p) c (c.sendCells p n x) := by
  unfold Chip.sendCells
  split
  · exact .rfl
  · exact (Chip.Sends.log _ c).trans (Chip.countSent_sends ..)

theorem Chip.settlePort_sends (p : Nat) (c : Chip) : Chip.Sends (· = p) c (c.settlePort p) := by
  unfold Chip.settlePort
  extract_lets s now a rs d
  split
  · exact .rfl
  · exact (Chip.Sends.foldl rs c fun c r => Chip.sendCells_sends p r.1 r.2 c).trans (.setSched ..)

theorem Chip.stampAll_sends {P : Nat → Prop} (p : Nat) (l : List Leaving) (c : Chip) :
    Chip.Sends P c (l.foldl (fun c x => (c.log (.packet p x.onWire)).stampDeparture p x.since x.pkt x.stamp) c) :=
  .of_ports (Part.Same.of_outside (p := .ports) (Chip.stampAll_outside p l c (F := { Foot.event with stamps := true }) (Eq.refl _)) (Eq.refl _))
    (Chip.sent_foldl _ _ fun c _ => (Chip.sent_log _ c).trans (Chip.sent_stampDeparture ..))

theorem Chip.depart_sends {P : Nat → Prop} (p : Nat) (c : Chip) : Chip.Sends P c (c.depart p) :=
  (Chip.Sends.setSched p _ c).trans (Chip.stampAll_sends ..)

theorem Chip.refit_sends (p : Nat) (c : Chip) : Chip.Sends (· = p) c (c.refit p) := by
  unfold Chip.refit
  extract_lets d s r follows
  have hd : Chip.Sends (· = p) c d := Chip.settlePort_sends p c
  split
  · exact hd
  · exact (hd.trans (.setSched p _ d)).trans (Chip.depart_sends ..)

theorem Chip.cutSending_sends (p : Nat) (c : Chip) : Chip.Sends (· = p) c (c.cutSending p) := by
  unfold Chip.cutSending
  extract_lets d s now
  have hd : Chip.Sends (· = p) c d := Chip.settlePort_sends p c
  split
  · exact hd.trans (.setSched ..)
  · extract_lets t stop rest e f
    have he : Chip.Sends (· = p) c e := hd.trans (.setSched ..)
    have hf : Chip.Sends (· = p) c f := by
      unfold f
      split
      · exact (he.trans (.log ..)).trans (Chip.countSent_sends ..)
      · exact he
    exact hf.trans (Chip.refit_sends ..)

theorem Chip.abandonIn_sends (tag : Nat) (c : Chip) (key : Nat) : Chip.Sends (fun _ => True) c (c.abandonIn tag key) := by
  unfold Chip.abandonIn
  extract_lets h q k p qu mine gone started d e f
  have hd : Chip.Sends (fun _ => True) c d := by
    unfold d
    split
    · exact (Chip.settlePort_sends p c).mono fun _ _ => trivial
    · exact .rfl
  have hf : Chip.Sends (fun _ => True) c f :=
    hd.trans (.of_outside (F := { xbar := true, sch := true }) (by simp +decide [f, e]) (Eq.refl _))
  split
  · exact .rfl
  · split
    · exact hf
    · split
      · exact hf.trans (.setSched ..)
      · exact hf.trans ((Chip.cutSending_sends p f).mono fun _ _ => trivial)

theorem Chip.abandon_sends (tag : Nat) (c : Chip) : Chip.Sends (fun _ => True) c (c.abandon tag) := by
  unfold Chip.abandon
  split
  · exact .rfl
  · exact .foldl _ c fun c key => Chip.abandonIn_sends tag c key

/-! ### One port takes a value -/

/-- A port that takes a value and whose data blocks then go on. -/
theorem PortTakes.of_refit {c d : Chip} {p : Nat} (v : Port) (h : ∀ x, x ≠ p → d.port x = c.port x)
    (hl : d.ports.lotMode = c.ports.lotMode) (ht : d.ports.twinConfigured = c.ports.twinConfigured)
    (hd : d.outside Foot.sending = c.outside Foot.sending) : PortTakes p v c ((d.setPort p v).refit p) := by
  have hs := Chip.refit_sends p (d.setPort p v)
  refine ⟨?_, fun x hx => ?_, hs.lotMode.trans hl, hs.twinConfigured.trans ht, SameBut.of_outside (F := Foot.sending) ?_ (by decide)⟩
  · rw [hs.unsent, Chip.port_setPort, if_pos (Eq.refl p)]
  · rw [hs.others x hx, Chip.port_setPort, if_neg hx, h x hx]
  · exact (Chip.refit_outside p _ rfl).trans ((Chip.setPort_outside p v d rfl).trans hd)

theorem PortBecomes.of_setPort {c : Chip} (p : Nat) (v : Port) : PortBecomes p v [] c (c.setPort p v) :=
  ⟨fun x => Chip.port_setPort x p v c, rfl, rfl, SameBut.of_outside (Chip.setPort_outside p v c (F := { ports := true }) rfl) (by decide)⟩

end Sys2Proof.Machine

/-! SUPPORT. NOTICEs, their echoes and repeats, and the end of a receive drain (R110 to R113, R119, R505). -/

namespace Sys2Proof.Machine

set_option Elab.async false

open Sys2Proof

/-- A fresh NOTICE at a live port is echoed and acts. -/
theorem Chip.echoNotice_of_fresh {c : Chip} {p : Nat} {n : Notice} (hl : (c.port p).link.live = true) (hf : n.nseq ∉ (c.port p).echoed)
    (kind : NoticeKind) (act : Chip → Chip) :
    c.echoNotice p kind n act =
      act ((c.log (.notice p kind true n)).setPort p { c.port p with echoed := n.nseq :: (c.port p).echoed }) := by
  simp only [Chip.echoNotice, hl, Bool.not_true, Bool.false_eq_true, if_false]
  exact if_neg (by simpa using hf)

/-- A part that has echoed a NOTICE and whose port takes a value. -/
theorem PortTakes.of_notice {c : Chip} {p : Nat} {kind : NoticeKind} {n : Notice} (w v : Port) :
    (∃ l, ((((c.log (.notice p kind true n)).setPort p w).setPort p v).refit p).sent = l ++ .notice p kind true n :: c.sent) ∧
      PortTakes p v c ((((c.log (.notice p kind true n)).setPort p w).setPort p v).refit p) := by
  obtain ⟨l, hl⟩ := (Chip.refit_sends p (((c.log (.notice p kind true n)).setPort p w).setPort p v)).sent
  refine ⟨⟨l, hl.symm⟩, PortTakes.of_refit v (fun x hx => ?_) rfl rfl ?_⟩
  · rw [Chip.port_setPort, if_neg hx]; rfl
  · exact (Chip.setPort_outside p w _ rfl).trans (Chip.log_outside _ c rfl)

theorem Chip.port_echoed (p : Nat) (x : Sent) (w : Port) (c : Chip) : ((c.log x).setPort p w).port p = w := by
  rw [Chip.port_setPort, if_pos rfl]

/-! ### The end of a receive drain -/

theorem Chip.lane_setLane (j k : Nat) (v : Lane) (c : Chip) : (c.setLane k v).lane j = if j = k then v else c.lane j := Tab.get_set ..

/-- The receive side of a lane that has left goes with it (R111). -/
def Chip.drainLane (c : Chip) (l : Nat) : Chip :=
  if (c.lane l).tx.state = .retired ∧ (c.lane l).rx.state ≠ .retired then c.setLane l ((c.lane l).retire (c.lane l).reason) else c

theorem Chip.drainLane_lane (c : Chip) (l j : Nat) : (c.drainLane l).lane j =
    if j = l ∧ (c.lane j).tx.state = .retired ∧ (c.lane j).rx.state ≠ .retired then (c.lane j).retire (c.lane j).reason else c.lane j := by
  unfold Chip.drainLane
  split
  next h =>
    rw [Chip.lane_setLane]
    by_cases hj : j = l
    · subst hj; simp [h]
    · simp [hj]
  next h =>
    by_cases hj : j = l
    · subst hj; simp [h]
    · simp [hj]

theorem Side.retire_retire (x : Side) : x.retire.retire = x.retire := by
  unfold Side.retire
  split <;> simp [*]

theorem Lane.retire_retire (r : Nat) (x : Lane) : (x.retire r).retire (x.retire r).reason = x.retire r := by
  simp only [Lane.retire, Side.retire_retire]

theorem Chip.drainLanes_lane (ls : List (Nat × Nat)) (c : Chip) (j : Nat) :
    (ls.foldl (fun c e => c.drainLane e.1) c).lane j =
      if ls.any (fun e => e.1 == j) ∧ (c.lane j).tx.state = .retired ∧ (c.lane j).rx.state ≠ .retired
      then (c.lane j).retire (c.lane j).reason else c.lane j := by
  induction ls generalizing c with
  | nil => simp
  | cons e ls ih =>
    rw [List.foldl_cons, ih, List.any_cons]
    by_cases hj : j = e.1
    · by_cases h : (c.lane j).tx.state = .retired ∧ (c.lane j).rx.state ≠ .retired
      · have first := (Chip.drainLane_lane c e.1 j).trans (if_pos ⟨hj, h⟩)
        rw [first, Lane.retire_retire, ite_self, if_pos ⟨by simp [hj], h⟩]
      · have first := (Chip.drainLane_lane c e.1 j).trans (if_neg fun x => h x.2)
        rw [first, if_neg (fun x => h x.2), if_neg (fun x => h x.2)]
    · have first := (Chip.drainLane_lane c e.1 j).trans (if_neg fun x => hj x.1)
      have any : (e.1 == j || ls.any fun e => e.1 == j) = ls.any fun e => e.1 == j := by simp [Ne.symm hj]
      rw [first, any]

def Chip.drained (p : Nat) (c : Chip) : Chip := (c.portLanes p).foldl (fun c e => c.drainLane e.1) c

theorem Chip.drained_outside (p : Nat) (c : Chip) : (c.drained p).outside { light := true } = c.outside { light := true } :=
  foldl_outside _ _ fun c e => by unfold Chip.drainLane; split <;> rfl

theorem Chip.drained_port (p : Nat) (c : Chip) : (c.drained p).ports = c.ports :=
  Part.Same.of_outside (p := .ports) (Chip.drained_outside p c) rfl

/-- What a port that is no longer live was receiving is cut short. -/
def Chip.cutShort (x : Port) (c : Chip) : Chip :=
  match x.ingress with
  | some i => if x.link.live then c else c.abandon i.tag
  | none => c

theorem Chip.cutShort_sends (x : Port) (c : Chip) : Chip.Sends (fun _ => True) c (c.cutShort x) := by
  unfold Chip.cutShort
  split
  · split
    · exact .rfl
    · exact Chip.abandon_sends ..
  · exact .rfl

theorem Chip.cutShort_of_live {x : Port} {c : Chip} (h : x.link.live = true) : c.cutShort x = c := by
  unfold Chip.cutShort
  split
  · exact if_pos h
  · rfl

theorem Chip.cutShort_light (x : Port) (c : Chip) : (c.cutShort x).light = c.light := by
  unfold Chip.cutShort
  split
  · split
    · rfl
    · exact Part.Same.of_outside (p := .light) (Chip.abandon_outside _ c (F := { Foot.sending with xbar := true }) rfl) rfl
  · rfl

theorem Chip.endDrain_eq {c : Chip} {p : Nat} (h : (c.port p).draining = true) :
    c.endDrain p = ((c.drained p).cutShort (c.port p)).setPort p { ((c.drained p).cutShort (c.port p)).port p with
      draining := false, ingress := if (c.port p).link.live then (c.port p).ingress else none } := by
  simp only [Chip.endDrain, h, Bool.not_true, Bool.false_eq_true, if_false]
  rfl

theorem Chip.endDrain_lane {c : Chip} {p : Nat} (h : (c.port p).draining = true) (l : Nat) : (c.endDrain p).lane l =
    if (c.portLanes p).any (fun e => e.1 == l) ∧ (c.lane l).tx.state = .retired ∧ (c.lane l).rx.state ≠ .retired
      then (c.lane l).retire (c.lane l).reason else c.lane l := by
  have e : (c.endDrain p).light = (c.drained p).light := by
    rw [Chip.endDrain_eq h]; exact Chip.cutShort_light ..
  rw [← Chip.drainLanes_lane, Chip.lane, e]
  rfl

theorem Chip.endDrain_port {c : Chip} {p : Nat} (h : (c.port p).draining = true) (x : Nat) :
    ((c.endDrain p).port x).unsent = if x = p then { (c.port p).unsent with
      draining := false, ingress := if (c.port p).link.live then (c.port p).ingress else none } else (c.port x).unsent := by
  have hs : ∀ x, (((c.drained p).cutShort (c.port p)).port x).unsent = (c.port x).unsent := fun x => by
    rw [(Chip.cutShort_sends (c.port p) (c.drained p)).unsent, Chip.port, Chip.drained_port]; rfl
  rw [Chip.endDrain_eq h, Chip.port_setPort]
  split
  · exact congrArg (fun y : Port => { y with
      draining := false, ingress := if (c.port p).link.live then (c.port p).ingress else none }) (hs p)
  · exact hs x

theorem Chip.endDrain_of_live {c : Chip} {p : Nat} (h : (c.port p).draining = true) (hl : (c.port p).link.live = true) :
    c.endDrain p = (c.drained p).setPort p { c.port p with draining := false } := by
  have e : (c.drained p).port p = c.port p := by rw [Chip.port, Chip.drained_port]; rfl
  rw [Chip.endDrain_eq h, Chip.cutShort_of_live hl, e]
  simp only [hl, if_true]

theorem Chip.logAll_eq {α : Type} (f : α → Sent) (l : List α) (c : Chip) :
    ∃ sent, l.foldl (fun c x => c.log (f x)) c = { c with sent := sent } := by
  induction l generalizing c with
  | nil => exact ⟨c.sent, rfl⟩
  | cons x l ih =>
    obtain ⟨sent, e⟩ := ih (c.log (f x))
    exact ⟨sent, e⟩

theorem Chip.repeatNotices_eq (p : Nat) (c : Chip) : ∃ sent, c.repeatNotices p = { c.setPort p { c.port p with
    notices := (c.port p).notices.filter (fun o => !c.reached o.target) } with sent := sent } := Chip.logAll_eq ..

/-- Settles O18. -/
theorem noticesComplete : Obligations.NoticesComplete := by
  intro c q p n up hp hn
  have ok : (okPort p && okNotice n) = true := by rw [hp, hn]; rfl
  refine ⟨fun hl hf => ⟨?_, ?_, ?_, ?_⟩, fun kind => ?_, ?_, fun hd => ?_⟩
  · refine Does.of_fabric (fun _ => rfl) ok up ?_
    rw [Chip.takeResize, Chip.echoNotice_of_fresh hl hf, Chip.port_echoed]
    exact PortTakes.of_notice ..
  · refine Does.of_fabric (fun _ => rfl) ok up ?_
    rw [Chip.takeLeave, Chip.echoNotice_of_fresh hl hf, Chip.port_echoed]
    exact PortTakes.of_notice ..
  · refine Does.of_fabric (fun _ => rfl) ok up ?_
    rw [Chip.takeJoin, Chip.echoNotice_of_fresh hl hf, Chip.port_echoed]
    refine ⟨rfl, fun x => ?_, rfl, rfl, SameBut.of_outside (F := { ports := true, sent := true }) rfl (by decide)⟩
    rw [Chip.port_setPort, Chip.port_setPort]
    split <;> rfl
  · refine Does.of_fabric (fun _ => rfl) ok up ?_
    rw [Chip.takeFarDisable, Chip.echoNotice_of_fresh hl hf, Chip.port_echoed]
    exact PortTakes.of_notice ..
  · exact Does.of_fabric (fun _ => rfl) ok up (PortBecomes.of_setPort ..)
  · refine Does.of_fabric (fun _ => rfl) hp up ?_
    obtain ⟨l, e⟩ := Chip.repeatNotices_eq p c
    rw [e]
    exact ⟨fun x => Chip.port_setPort x p _ c, rfl, rfl, SameBut.of_outside (F := { ports := true, sent := true }) rfl (by decide)⟩
  · refine Does.of_fabric (fun _ => rfl) hp up ⟨Chip.endDrain_lane hd, fun hl => ?_, ?_, fun hl => ?_, fun x => ?_, ?_⟩
    · rw [Chip.endDrain_of_live hd hl]
      refine ⟨fun x => ?_, ?_, ?_, ?_⟩
      · rw [Chip.port_setPort]; split
        · rfl
        · rw [Chip.port, Chip.drained_port]; rfl
      · show (c.drained p).ports.lotMode = _; rw [Chip.drained_port]
      · show (c.drained p).ports.twinConfigured = _; rw [Chip.drained_port]
      · exact SameBut.of_outside (F := { ports := true, light := true })
          ((Chip.setPort_outside p _ _ rfl).trans (Chip.outside_mono rfl (Chip.drained_outside p c))) (by decide)
    · have := congrArg Port.draining ((Chip.endDrain_port hd p).trans (if_pos rfl))
      exact this
    · have := congrArg Port.ingress ((Chip.endDrain_port hd p).trans (if_pos rfl))
      exact this.trans (if_neg (Bool.eq_false_iff.mp hl))
    · have e := Chip.endDrain_port hd x
      split at e
      next h =>
        subst h
        have l := congrArg Port.link e
        have n := congrArg Port.lanes e
        exact ⟨l, n⟩
      next =>
        have l := congrArg Port.link e
        have n := congrArg Port.lanes e
        exact ⟨l, n⟩
    · exact SameBut.of_outside (Chip.endDrain_outside p c (F := { Foot.sending with light := true, xbar := true }) rfl) (by decide)

end Sys2Proof.Machine

/-! SUPPORT. Firmware takes the oldest rung command, and a frozen part answers FROZEN to one that does not act then (R433, R441): what the
answers of a frozen part change is mailboxes, counters and what leaves toward the host. -/

namespace Sys2Proof.Machine

set_option Elab.async false

open Sys2Proof

/-- What the answers of a frozen part touch. -/
@[reducible] def Foot.toHost : Foot := { mbx := true, rung := true, events := true, ctr := true, sent := true }

theorem Chip.signal_mbx (v j : Nat) (c : Chip) : (c.signal v).mbx j = c.mbx j := by
  unfold Chip.signal
  split <;> rfl

/-- A mailbox that holds a result. -/
def Mailbox.holding (m : Mailbox) (st : Status) (ws : List Nat) : Mailbox :=
  { m with
    pending := false, ready := true, status := st.code, hdrWords := ws.length, readCount := 0, res := ws.map (BitVec.ofNat 32) }

theorem Chip.post_of_held {k t : Nat} {c : Chip} (h : (c.mbx k).pending = true ∧ (c.mbx k).ticket = t) (st : Status) (ws : List Nat) :
    c.post k t st ws = if k < 16 then
        if (c.mbx k).irq then (c.setMbx k ((c.mbx k).holding st ws)).signal k else c.setMbx k ((c.mbx k).holding st ws)
      else (c.setMbx k ((c.mbx k).holding st ws)).mgmtRespond (k - 16) := if_pos h

theorem Chip.post_of_cleared {k t : Nat} {c : Chip} (h : ¬((c.mbx k).pending = true ∧ (c.mbx k).ticket = t)) (st : Status)
    (ws : List Nat) : c.post k t st ws = c := if_neg h

/-- A frozen part answers no in-band slot (R441). -/
theorem Chip.mgmtRespond_frozen (s : Nat) {c : Chip} (h : c.regs.freeze.accepted = true) : c.mgmtRespond s = c := by
  unfold Chip.mgmtRespond
  split
  · rfl
  · rw [if_pos h]

section
variable {c : Chip} (hc : c.regs.freeze.accepted = true) (k t : Nat) (st : Status) (ws : List Nat)
include hc

theorem Chip.post_frozen_outside : (c.post k t st ws).outside Foot.toHost = c.outside Foot.toHost := by
  by_cases h : (c.mbx k).pending = true ∧ (c.mbx k).ticket = t
  · rw [Chip.post_of_held h]
    split
    · split <;> simp +decide
    · rw [Chip.mgmtRespond_frozen _ (c := c.setMbx k _) hc]
      exact Chip.setMbx_outside _ _ c rfl
  · rw [Chip.post_of_cleared h]

theorem Chip.mbx_post_frozen (h : (c.mbx k).pending = true ∧ (c.mbx k).ticket = t) (j : Nat) :
    (c.post k t st ws).mbx j = if j = k then (c.mbx k).holding st ws else c.mbx j := by
  rw [Chip.post_of_held h, ← Chip.mbx_setMbx]
  split
  · split
    · exact Chip.signal_mbx ..
    · rfl
  · rw [Chip.mgmtRespond_frozen _ (c := c.setMbx k _) hc]

theorem Chip.mbx_post_frozen_other {j : Nat} (hj : j ≠ k) : (c.post k t st ws).mbx j = c.mbx j := by
  by_cases h : (c.mbx k).pending = true ∧ (c.mbx k).ticket = t
  · rw [Chip.mbx_post_frozen hc k t st ws h, if_neg hj]
  · rw [Chip.post_of_cleared h]

end

theorem Chip.taken_frozen {c : Chip} (hc : c.regs.freeze.accepted = true) (k : Nat) : (c.taken k).regs.freeze.accepted = true :=
  (congrArg (fun x : Chip => x.regs.freeze.accepted) (Chip.taken_outside k c (F := Foot.toHost) rfl)).trans hc

theorem Chip.settle_frozen (n : Nat) {c : Chip} (hc : c.regs.freeze.accepted = true) :
    (c.settle n).outside Foot.toHost = c.outside Foot.toHost ∧ ∀ j, j ∉ c.stew.rung → (c.settle n).mbx j = c.mbx j := by
  induction n generalizing c with
  | zero => exact ⟨rfl, fun _ _ => rfl⟩
  | succ n ih =>
    unfold Chip.settle
    split
    · exact ⟨rfl, fun _ _ => rfl⟩
    next k rest hr =>
      dsimp only
      split
      · generalize (if (!opcodes.contains (c.mbx k).opcode) = true then Status.badOpcode else .denied) = st
        have ht := Chip.taken_frozen hc k
        have e := (Chip.post_frozen_outside ht k (c.mbx k).ticket st []).trans (Chip.taken_outside k c rfl)
        have hp : ((c.taken k).post k (c.mbx k).ticket st []).regs.freeze.accepted = true :=
          (congrArg (fun x : Chip => x.regs.freeze.accepted) e).trans hc
        obtain ⟨out, box⟩ := ih hp
        refine ⟨out.trans e, fun j hj => ?_⟩
        obtain ⟨hk, hj⟩ := not_or.mp (fun x => hj (hr ▸ List.mem_cons.mpr x))
        have hrest : ((c.taken k).post k (c.mbx k).ticket st []).stew.rung = rest := by
          have p := Chip.post_outside k (c.mbx k).ticket st [] (c.taken k) (F := { Foot.packet with mbx := true, events := true }) rfl
          exact (congrArg (fun x : Chip => x.stew.rung) p).trans ((Chip.taken_rung k c).trans (by rw [hr]; rfl))
        rw [box j (hrest ▸ hj), Chip.mbx_post_frozen_other ht _ _ _ _ hk, Chip.mbx_taken, if_neg hk]
      · exact ⟨rfl, fun _ _ => rfl⟩

/-! ### The mirror's items do not speak of mailboxes -/

theorem recordsFrom_self (l : List MirrorItem) : recordsFrom l l = [] := by
  have gone : ∀ (f : MirrorItem → MirrorItem → Bool), (∀ x, f x x = true) → l.filter (fun x => !l.any (f x)) = [] := fun f hf =>
    List.filter_eq_nil_iff.mpr fun x hx => by
      simp only [Bool.not_eq_true', Bool.not_eq_false, List.any_eq_true]
      exact ⟨x, hx, hf x⟩
  simp only [recordsFrom, List.append_eq_nil_iff, List.map_eq_nil_iff]
  exact ⟨gone _ fun x => by simp, List.filter_eq_nil_iff.mpr fun x hx => by
    simp only [Bool.not_eq_true', Bool.not_eq_false, List.any_eq_true]
    exact ⟨x, hx, by simp⟩⟩

theorem Chip.mirrorItems_outside (h : Nat) (c : Chip) : (c.outside Foot.toHost).mirrorItems h = c.mirrorItems h := rfl

theorem Chip.table_of_outside {F : Foot} (hF : F.nest = false) {c t : Chip} (e : t.outside F = c.outside F) (h x : Nat) :
    t.table h x = c.table h x := by
  have : t.nest = c.nest := unblot hF (congrArg Chip.nest e)
  simp only [Chip.table, this]

/-- What changes no mirrored item adds nothing to the streams. -/
theorem Chip.mirrored_of_outside {f : Chip → Chip} {c : Chip} (e : (f c).outside Foot.toHost = c.outside Foot.toHost) :
    Chip.mirrored f c = f c := by
  have items : ∀ h, (f c).mirrorItems h = c.mirrorItems h := fun h => by
    rw [← Chip.mirrorItems_outside, e, Chip.mirrorItems_outside]
  have noSeal : ∀ (s : TableState), (s == .loading && s == .loaded) = false := fun s => by cases s <;> rfl
  simp only [Chip.mirrored, items, recordsFrom_self, Chip.table_of_outside (F := Foot.toHost) rfl e, noSeal, List.filter_false,
    List.flatMap_nil, List.append_nil, List.foldl_nil, List.foldl_cons, ite_self]

/-! ### Every mailbox command is the acceptance of its opcode -/

/-- An instruction is the acceptance of a command, of this opcode and mailbox; that of a mirrored item, and `frz.now`, do more. -/
def TakesCommand (i : Instr) (e : Nat × Nat) : Prop :=
  ∃ cmd f, (∀ s, exec i s = s.run (okMbx e.2) (Chip.live f)) ∧
    (f = Chip.accept e.1 e.2 cmd ∨ f = Chip.mirrored (Chip.accept e.1 e.2 cmd) ∨ f = fun c => if (c.accept e.1 e.2 cmd).regs.freeze.commanded then (c.accept e.1 e.2 cmd).freeze 3 else c.accept e.1 e.2 cmd)

theorem TakesCommand.plain {i : Instr} {e : Nat × Nat} (cmd : Command) 
    (h : ∀ s, exec i s = s.run (okMbx e.2) (Chip.live (Chip.accept e.1 e.2 cmd))) : TakesCommand i e :=
  ⟨cmd, _, h, .inl rfl⟩
theorem TakesCommand.shown {i : Instr} {e : Nat × Nat} (cmd : Command) 
    (h : ∀ s, exec i s = s.run (okMbx e.2) (Chip.live (Chip.mirrored (Chip.accept e.1 e.2 cmd)))) : TakesCommand i e :=
  ⟨cmd, _, h, .inr (.inl rfl)⟩

theorem TakesCommand.none {i : Instr} (e : Nat × Nat) (h : e ∈ (Option.none : Option (Nat × Nat))) : TakesCommand i e := nomatch h

theorem takesCommand_of_commandOf (i : Instr) : ∀ e ∈ commandOf i, TakesCommand i e := by
  cases i
  case frzNow => exact fun e h => Option.some.inj h ▸ ⟨_, _, fun _ => rfl, .inr (.inr rfl)⟩
  case ledgerOpen => exact fun e h => Option.some.inj h ▸ .shown _ fun _ => rfl
  case ledgerAbort => exact fun e h => Option.some.inj h ▸ .shown _ fun _ => rfl
  case ledgerClose => exact fun e h => Option.some.inj h ▸ .shown _ fun _ => rfl
  case portExpect => exact fun e h => Option.some.inj h ▸ .shown _ fun _ => rfl
  case portResolve => exact fun e h => Option.some.inj h ▸ .shown _ fun _ => rfl
  case calLoad => exact fun e h => Option.some.inj h ▸ .shown _ fun _ => rfl
  case nestLoad => exact fun e h => Option.some.inj h ▸ .shown _ fun _ => rfl
  case routeLoad => exact fun e h => Option.some.inj h ▸ .shown _ fun _ => rfl
  case routeSeal => exact fun e h => Option.some.inj h ▸ .shown _ fun _ => rfl
  case routeFlip => exact fun e h => Option.some.inj h ▸ .shown _ fun _ => rfl
  all_goals dsimp only [commandOf]
  all_goals with_reducible first
    | exact TakesCommand.none
    | refine fun e h => Option.some.inj h ▸ ?_
  all_goals exact .plain _ fun _ => rfl
/-- A mailbox command of a part that no `frz.now` has frozen does what the acceptance of its opcode does, where that touches
mailboxes and counters alone. -/
theorem does_of_commandOf {i : Instr} {op k : Nat} {c : Chip} (h : commandOf i = some (op, k)) (hk : k < 32)
    (hn : c.regs.freeze.commanded = false) (q : List Instr) : ∃ cmd, (c.accept op k cmd).outside Foot.toHost = c.outside Foot.toHost →
      exec i ⟨c, q⟩ = .next ⟨if c.pkg.held then c else c.accept op k cmd, q⟩ := by
  obtain ⟨cmd, f, hi, hf⟩ := takesCommand_of_commandOf i _ h
  refine ⟨cmd, fun e => ?_⟩
  have : f c = c.accept op k cmd := by
    obtain rfl | rfl | rfl := hf
    · rfl
    · exact Chip.mirrored_of_outside e
    · have : (c.accept op k cmd).regs.freeze.commanded = false :=
        (congrArg (fun x : Chip => x.regs.freeze.commanded) e).trans hn
      simp only [this, Bool.false_eq_true, if_false]
  rw [hi, State.run_of_ok (ok := okMbx k) _ _ (decide_eq_true hk), ← this]
  rfl

theorem Chip.accept_of_other {op k : Nat} (cmd : Command) {c : Chip} (h : c.stew.rung.head? ≠ some k ∨ (c.mbx k).opcode ≠ op) :
    c.accept op k cmd = c := by
  unfold Chip.accept
  split
  · rfl
  next j rest hr =>
    refine if_neg fun ⟨hj, ho, _⟩ => ?_
    rcases h with h | h
    · exact h (by rw [hr, hj]; rfl)
    · exact h ho

theorem Chip.accept_frozen {op k : Nat} (cmd : Command) {c : Chip} (hb : c.stew.bootReady = true) (hp : c.stew.phase ≠ .restarting)
    (hc : c.regs.freeze.accepted = true) (ho : op ∉ actsFrozen) (hr : ∃ rest, c.stew.rung = k :: rest ∧ k ∉ rest)
    (hm : (c.mbx k).pending = true) (he : (c.mbx k).opcode = op) :
    (c.accept op k cmd).outside Foot.toHost = c.outside Foot.toHost ∧ Answered k .frozen [] c.deal (c.accept op k cmd) := by
  obtain ⟨rest, hr, hk⟩ := hr
  have ht := Chip.taken_frozen hc k
  have e := (Chip.post_frozen_outside ht k (c.mbx k).ticket .frozen []).trans (Chip.taken_outside k c rfl)
  have ha : c.accept op k cmd = ((c.taken k).post k (c.mbx k).ticket .frozen []).settle 32 := by
    simp only [Chip.accept, hr]
    rw [if_pos ⟨trivial, he, .inl hb, hp⟩]
    simp only [Chip.serve, ht, Bool.true_and, List.contains_eq_mem, ho, decide_false, Bool.not_false, if_true]
    rfl
  have hf : ((c.taken k).post k (c.mbx k).ticket .frozen []).regs.freeze.accepted = true :=
    (congrArg (fun x : Chip => x.regs.freeze.accepted) e).trans hc
  obtain ⟨out, box⟩ := Chip.settle_frozen 32 hf
  have hrest : ((c.taken k).post k (c.mbx k).ticket .frozen []).stew.rung = rest := by
    have p := Chip.post_outside k (c.mbx k).ticket .frozen [] (c.taken k) (F := { Foot.packet with mbx := true, events := true }) rfl
    exact (congrArg (fun x : Chip => x.stew.rung) p).trans ((Chip.taken_rung k c).trans (by rw [hr]; rfl))
  have hbox := box k (hrest ▸ hk)
  have own : (c.taken k).mbx k = { c.mbx k with accepted := true, resultDeal := c.deal } := (Chip.mbx_taken k k c).trans (if_pos rfl)
  rw [Chip.mbx_post_frozen ht k _ _ _ (by rw [own]; exact ⟨hm, rfl⟩), if_pos rfl, own] at hbox
  rw [ha]
  exact ⟨out.trans e, by constructor <;> rw [hbox] <;> rfl⟩

/-- Settles O60: every mailbox command is an acceptance, which takes the head of the rings alone; a frozen part answers before it looks
at the command's table. -/
theorem commandsAreTakenInRingOrder : Obligations.CommandsAreTakenInRingOrder := by
  intro i op k c q hi hk hn
  obtain ⟨cmd, hd⟩ := does_of_commandOf hi hk hn q
  refine ⟨fun h => ?_, fun up hb hp hc ho hr hm he => ?_⟩
  · have e := Chip.accept_of_other cmd h
    rw [hd (by rw [e]), e, ite_self]
  · obtain ⟨out, ans⟩ := Chip.accept_frozen cmd hb hp hc ho hr hm he
    refine ⟨_, (hd out).trans ?_, ⟨ans, SameBut.of_outside out ?_⟩⟩
    · rw [if_neg (Bool.eq_false_iff.mp up)]
    · exact List.all_eq_true.mpr fun p _ => by cases p <;> simp [Part.answer, Foot.keeps]

end Sys2Proof.Machine

/-! SUPPORT. The guard and the Deal boundary: what they keep of the time base, and where FT comes to stand (R12, R21, R34 to R36). -/

namespace Sys2Proof.Machine

set_option Elab.async false

open Sys2Proof

/-! ### What a boundary keeps of the time base -/

/-- The time base but for step time, the transmit timestamps, the counts of missed captures and the record of an overrun: what a
boundary's work leaves as it was. -/
def TimeBase.kept (t : TimeBase) : TimeBase :=
  { t with st := 0, stStep := 0, tsq := ⟨{}, {}⟩, cap0 := {}, cap1 := {}, overrunDeal := 0, overrunUnit := 0, overrunOver := 0 }

theorem TimeBase.kept_ft (t : TimeBase) : t.kept.ft = t.ft := rfl

theorem TimeBase.kept_lt (t : TimeBase) : t.kept.lt = t.lt := rfl

/-- An operation whose footprint holds neither the clocks nor the rest of the time base keeps it. -/
theorem Chip.kept_of_outside {F : Foot} {c t : Chip} (e : t.outside F = c.outside F) (h : F.keeps .tb) : t.tb.kept = c.tb.kept :=
  have same : { t.tb with tsq := c.tb.tsq } = c.tb := Part.Same.of_outside (p := .tb) e h
  calc t.tb.kept = { t.tb with tsq := c.tb.tsq }.kept := rfl
    _ = c.tb.kept := by rw [same]

theorem foldl_kept {α : Type} {f : Chip → α → Chip} (hf : ∀ c x, (f c x).tb.kept = c.tb.kept) (l : List α) (c : Chip) :
    (l.foldl f c).tb.kept = c.tb.kept := by
  induction l generalizing c with
  | nil => rfl
  | cons x l ih => exact (ih _).trans (hf c x)

/-- What a change of the boundary moves beside the time base. -/
@[reducible] def Foot.still : Foot := { Foot.change with clock := false, base := false }

theorem Chip.kept_still {c t : Chip} (e : t.outside Foot.still = c.outside Foot.still) : t.tb.kept = c.tb.kept :=
  Chip.kept_of_outside e rfl

theorem Chip.clearCaptured_kept (o : Nat) (c : Chip) : (c.clearCaptured o).tb.kept = c.tb.kept := by
  unfold Chip.clearCaptured
  dsimp only
  split
  · refine Chip.kept_still (c := c) ?_
    (repeat' split) <;> simp +decide
  · split
    · rfl
    · split <;> rfl

theorem Chip.applyCtSnap_kept (k t : Nat) (clear : Bool) (l : List Nat) (c : Chip) : (c.applyCtSnap k t clear l).tb.kept = c.tb.kept := by
  unfold Chip.applyCtSnap
  split
  · rfl
  · refine (Chip.kept_still (Chip.finish_outside _ _ _ _ rfl)).trans ?_
    unfold Chip.capture
    dsimp only
    split
    · exact foldl_kept (fun c o => Chip.clearCaptured_kept o c) _ c
    · rfl

theorem Chip.applyLedgerAbort_kept (j s : Nat) (c : Chip) : (c.applyLedgerAbort j s).tb.kept = c.tb.kept := by
  unfold Chip.applyLedgerAbort
  split
  · rfl
  · have e : ([0, 1].foldl (Chip.abortHalf j s) c).tb.kept = c.tb.kept := Chip.kept_still (by simp +decide)
    refine (Chip.kept_still (Chip.raise_outside _ _ _ _ rfl)).trans ?_
    split
    · exact e
    · exact e

theorem Chip.applyChange_kept (x : Change) (c : Chip) : (c.applyChange x).tb.kept = c.tb.kept := by
  cases x
  case stepTime => rfl
  case ledgerAbort => exact Chip.applyLedgerAbort_kept ..
  case ctSnap => exact Chip.applyCtSnap_kept ..
  all_goals refine Chip.kept_still ?_
  all_goals simp +decide [Chip.applyChange]

theorem Chip.applyDue_kept (b : Bool) (c : Chip) : (c.applyDue b).tb.kept = c.tb.kept := by
  unfold Chip.applyDue
  exact foldl_kept (fun c (e : Nat × Change) => Chip.applyChange_kept e.2 c) _ _

theorem Chip.ledgerStep_kept (key : Nat) (c : Chip) : (c.ledgerStep key).tb.kept = c.tb.kept := by
  unfold Chip.ledgerStep
  dsimp only
  split
  · rfl
  · have e : ∀ h j s, ((c.advanceJob h j).noteAdvance h j s).tb.kept = c.tb.kept := fun h j s => Chip.kept_still (by simp +decide)
    split
    · rfl
    · split
      · refine (Chip.kept_still (Chip.stepClosed_outside _ _ _ rfl)).trans ?_
        split <;> exact e _ _ _
      · exact e _ _ _

@[simp] theorem Chip.overrun_kept (u d n : Nat) (c : Chip) : (c.overrun u d n).tb.kept = c.tb.kept :=
  Chip.kept_still (c := c.noteOverrun u d n) (by simp +decide [Chip.overrun])

theorem Chip.halfOverrun_kept (c : Chip) (h : Nat) : (c.halfOverrun h).tb.kept = c.tb.kept := by
  simp only [Chip.halfOverrun]
  (repeat' split) <;> simp only [Chip.overrun_kept]

theorem Chip.loomOverrun_kept (n : Nat) (c : Chip) : (c.loomOverrun n).tb.kept = c.tb.kept := by
  have set : ∀ v (c : Chip), (c.setLoom n v).tb.kept = c.tb.kept := fun _ _ => rfl
  have late : ∀ c : Chip, (c.prefetchLate n).tb.kept = c.tb.kept := fun c => Chip.kept_still (by simp +decide)
  have ends : ∀ f pc (c : Chip), (c.endRun n f pc).tb.kept = c.tb.kept := fun _ _ c => Chip.kept_still (by simp +decide)
  simp only [Chip.loomOverrun]
  (repeat' split) <;> simp only [set, late, ends, Chip.overrun_kept]

theorem Chip.loomBoundary_kept (c : Chip) : c.loomBoundary.tb.kept = c.tb.kept := by
  unfold Chip.loomBoundary
  refine Eq.trans (Chip.kept_still ?_) (foldl_kept (fun c n => Chip.loomOverrun_kept n c) c.loomKeys c)
  simp +decide

theorem Chip.unitsBoundary_kept (c : Chip) : c.unitsBoundary.tb.kept = c.tb.kept := by
  have emits : ∀ c : Chip, ((c.drainEmits 0).drainEmits 1).tb.kept = c.tb.kept := fun c => Chip.kept_still (by simp +decide)
  have units : ∀ c : Chip, ((c.kittyNewDeal.kittyBoundary 0).kittyBoundary 1).gatesBoundary.twinBoundary.tb.kept = c.tb.kept :=
    fun c => Chip.kept_still (by simp +decide)
  have ledger : c.ledgerBoundary.tb.kept = c.tb.kept := foldl_kept (fun c key => Chip.ledgerStep_kept key c) _ c
  exact (emits _).trans ((foldl_kept Chip.halfOverrun_kept _ _).trans ((Chip.loomBoundary_kept _).trans ((units _).trans ledger)))

theorem Chip.boundaryWork_kept (c : Chip) : c.boundaryWork.tb.kept = c.beginBoundary.tb.kept := by
  have ends : ∀ c : Chip, c.returnPages.recordRetirements.declareDone.tb.kept = c.tb.kept := fun c => Chip.kept_still (by simp +decide)
  have spans : ∀ c : Chip, ([0, 1].foldl (fun c h => (c.spanBoundary h).lowerXfer h) c.markerWindows).refitAll.calsBoundary.tb.kept =
      c.tb.kept := fun c => Chip.kept_still (by simp +decide)
  have ports : ∀ c : Chip, c.portsBoundary.combBoundary.tb.kept = c.tb.kept := fun c => Chip.kept_still (by simp +decide)
  have close : ∀ (c : Chip) d b, (c.epochBoundary.closeDeal d b).tb.kept = c.tb.kept := fun c d b => Chip.kept_still (by simp +decide)
  calc c.boundaryWork.tb.kept
    _ = _ := (ends _).trans ((Chip.unitsBoundary_kept _).trans ((spans _).trans (Chip.applyDue_kept true _)))
    _ = _ := (ports _).trans ((Chip.applyDue_kept false _).trans (close ..))

theorem Chip.periodBoundary_of_none {c : Chip} (h : c.tb.periodChange = none) : c.periodBoundary = c := by
  simp only [Chip.periodBoundary, Chip.periodDue, h]

/-- The boundary's own count rises and its guard is over. -/
def TimeBase.begun (t : TimeBase) : TimeBase := { t with guarded := false, boundaries := t.boundaries + 1 }

theorem Chip.beginBoundary_kept {c : Chip} (h : c.tb.periodChange = none) : c.beginBoundary.tb.kept = c.tb.begun.kept := by
  have e : c.endSent.tb = c.tb := Chip.tb_of_outside (F := Foot.packet) (Chip.endSent_outside c rfl) rfl
  have p : ({ c.endSent with tb := c.endSent.tb.begun } : Chip).periodBoundary = { c.endSent with tb := c.endSent.tb.begun } :=
    Chip.periodBoundary_of_none (by rw [← h, e]; rfl)
  have out : ∀ d : Chip, (if d.tb.dealOutEn ∧ d.tb.dealOutAdvance = 0 then d.log (.dealOut d.deal 0) else d).tb = d.tb := fun d => by
    split <;> rfl
  calc c.beginBoundary.tb.kept
    _ = ({ c.endSent with tb := c.endSent.tb.begun } : Chip).periodBoundary.tb.kept := congrArg TimeBase.kept (out _)
    _ = c.tb.begun.kept := by rw [p, e]

theorem Chip.boundaryWork_begun {c : Chip} (h : c.tb.periodChange = none) : c.boundaryWork.tb.kept = c.tb.begun.kept :=
  c.boundaryWork_kept.trans (Chip.beginBoundary_kept h)

/-! ### What time that passes keeps of it -/

/-- What is kept of the time base while time passes: all but the clocks. -/
def TimeBase.frame (t : TimeBase) : TimeBase := { t.kept with ft := 0, lt := 0, age := 0, pt := 0, ftFrac := 0, ptFrac := 0 }

theorem TimeBase.runPt_frame (n : Nat) (t : TimeBase) : (t.runPt n).frame = t.frame := by unfold TimeBase.runPt; split <;> rfl

theorem Chip.pass_frame (ft lt : Nat) (c : Chip) : (c.pass ft lt).tb.frame = c.tb.frame := by
  rw [Chip.pass_tb, TimeBase.runPt_frame]; rfl

theorem Chip.advance_frame (n : Nat) (c : Chip) : (c.advance n).tb.frame = c.tb.frame := Chip.pass_frame n _ c

/-- What a step of the part adds to the streams of its mirrors is of the time base nothing. -/
theorem Chip.mirrored_tb (f : Chip → Chip) (c : Chip) : (Chip.mirrored f c).tb = (f c).tb := by
  refine Chip.tb_of_outside (F := { Foot.event with twin := true }) ?_ rfl
  simp +decide [Chip.mirrored]

theorem Chip.mirrored_of_eq {f : Chip → Chip} {c : Chip} (h : f c = c) : Chip.mirrored f c = c :=
  (Chip.mirrored_of_outside (by rw [h])).trans h

/-! ### The guard -/

theorem Chip.guardWork_kept (c : Chip) : c.guardWork.tb.kept = { c.tb with guarded := true }.kept := by
  unfold Chip.guardWork
  exact Chip.kept_still (c := { c with tb := { c.tb with guarded := true } }) (by simp +decide)

/-- From where fabric time stands to where its Deal has 64 core cycles left. -/
theorem Nat.to_guard (a d e : Nat) :
    (if a % d < e then a + (e - a % d) else a) = max a (a / d * d + e) := by
  have h := Nat.div_add_mod' a d
  split <;> omega

theorem Chip.advanceTo_ft (e : Nat) (c : Chip) :
    (c.advanceTo e).tb.ft = max c.tb.ft (c.tb.ft / c.dealCycles * c.dealCycles + e) := by
  rw [← Nat.to_guard]
  unfold Chip.advanceTo
  exact (apply_ite (fun x : Chip => x.tb.ft) ..).trans (by simp only [Chip.advance_ft]; rfl)

theorem Chip.advanceTo_frame (e : Nat) (c : Chip) : (c.advanceTo e).tb.frame = c.tb.frame := by
  unfold Chip.advanceTo
  split
  · exact Chip.advance_frame ..
  · rfl

theorem TimeBase.frame_of_kept {a b : TimeBase} (h : a.kept = b.kept) : a.frame = b.frame :=
  congrArg (fun t : TimeBase => { t with ft := 0, lt := 0, age := 0, pt := 0, ftFrac := 0, ptFrac := 0 }) h

theorem TimeBase.frame_set_guarded {a b : TimeBase} (h : a.frame = b.frame) (g : Bool) :
    { a with guarded := g }.frame = { b with guarded := g }.frame :=
  congrArg (fun t : TimeBase => { t with guarded := g }) h

theorem Chip.guardStart_frame (c : Chip) : c.guardStart.tb.frame = { c.tb with guarded := true }.frame := by
  unfold Chip.guardStart
  split
  next h => rw [← h]
  next => exact (TimeBase.frame_of_kept (Chip.guardWork_kept _)).trans (TimeBase.frame_set_guarded (Chip.advanceTo_frame ..) true)

theorem Chip.guardStart_ft {c : Chip} (h : c.tb.guarded = false) :
    c.guardStart.tb.ft = max c.tb.ft (c.tb.ft / c.dealCycles * c.dealCycles + (c.dealCycles - 64)) := by
  rw [← Chip.advanceTo_ft]
  simp only [Chip.guardStart, h, Bool.false_eq_true, if_false]
  rw [← TimeBase.kept_ft, Chip.guardWork_kept]
  rfl

theorem Chip.dealCycles_of_frame {c t : Chip} (h : t.tb.frame = c.tb.frame) : t.dealCycles = c.dealCycles :=
  have cycles := congrArg (fun x : TimeBase => 1024 * 2 ^ x.period) h
  cycles

/-- The guard keeps fabric time within its Deal. -/
theorem Chip.guardStart_div (c : Chip) : c.guardStart.tb.ft / c.dealCycles = c.tb.ft / c.dealCycles := by
  by_cases h : c.tb.guarded = true
  · rw [show c.guardStart = c from if_pos h]
  · rw [Chip.guardStart_ft (Bool.eq_false_iff.mpr h)]
    have hd : 1024 ≤ c.dealCycles := Nat.le_mul_of_pos_right _ (Nat.two_pow_pos _)
    have hm := Nat.div_add_mod' c.tb.ft c.dealCycles
    have hl := Nat.mod_lt c.tb.ft c.dealCycles_pos
    rw [Nat.div_eq_iff c.dealCycles_pos]
    omega

/-- Partly filled pages are closed in the guard, and of the Crossing nothing else but the Span's share of a half. -/
theorem Chip.guardWork_xbar (c : Chip) : ∃ b, c.guardWork.xbar =
    { c.xbar with queues := c.xbar.queues.map (fun e => (e.1, { e.2 with pages := closePage e.2.pages })), buf := b } := by
  have span : ∀ (h : Nat) (d : Chip), ∃ b, (d.refitSpan h).xbar = { d.xbar with buf := b } := fun h d => by
    unfold Chip.refitSpan
    dsimp only
    split
    · exact ⟨_, rfl⟩
    · exact ⟨_, rfl⟩
  have refit : ∀ (l : List Nat) (d : Chip), (l.foldl (fun c p => c.refit p) d).xbar = d.xbar := fun l d =>
    Part.Same.of_outside (p := .xbar) (F := Foot.sending) (by simp +decide) rfl
  have guards : (({ c with tb := { c.tb with guarded := true } } : Chip).loomGuard.gateGuard).xbar = c.xbar :=
    Part.Same.of_outside (p := .xbar) (F := { base := true, loom := true, gate := true, ctr := true })
      (by simp +decide) rfl
  obtain ⟨b, h0⟩ := span 0 ((_ : List Nat).foldl (fun c p => c.refit p) ({ c with tb := { c.tb with guarded := true } } : Chip).loomGuard.gateGuard.spillGuard)
  obtain ⟨b', h1⟩ := span 1 (Chip.refitSpan 0 _)
  refine ⟨b', h1.trans ?_⟩
  rw [h0, refit]
  simp only [Chip.spillGuard, guards]

end Sys2Proof.Machine

/-! SUPPORT. The Deal boundary and the edges of DEAL_IN (R21, R34 to R36). -/

namespace Sys2Proof.Machine

set_option Elab.async false

open Sys2Proof

theorem TimeBase.frame_fields {a b : TimeBase} (h : a.frame = b.frame) : a.aligned = b.aligned ∧ a.dealIn = b.dealIn ∧
    a.dealInOk = b.dealInOk ∧ a.boundaries = b.boundaries ∧ a.guarded = b.guarded ∧ a.periodChange = b.periodChange ∧ a.period = b.period := by
  have h1 := congrArg TimeBase.aligned h
  have h2 := congrArg TimeBase.dealIn h
  have h3 := congrArg TimeBase.dealInOk h
  have h4 := congrArg TimeBase.boundaries h
  have h5 := congrArg TimeBase.guarded h
  have h6 := congrArg TimeBase.periodChange h
  have h7 := congrArg TimeBase.period h
  exact ⟨h1, h2, h3, h4, h5, h6, h7⟩

theorem TimeBase.frame_begun {a b : TimeBase} {g : Bool} (h : a.frame = { b with guarded := g }.frame) : a.begun.frame = b.begun.frame := by
  have e := congrArg TimeBase.begun h
  exact e

theorem TimeBase.frame_set {a b : TimeBase} (h : a.frame = b.frame) (o : Bool) (i : DealIn) (l : Bool) :
    { a with dealInOk := o, dealIn := i, aligned := l }.frame = { b with dealInOk := o, dealIn := i, aligned := l }.frame := by
  have e := congrArg (fun t : TimeBase => { t with dealInOk := o, dealIn := i, aligned := l }) h
  exact e

theorem Chip.dealCycles_of_period {c t : Chip} (h : t.tb.period = c.tb.period) : t.dealCycles = c.dealCycles := by
  unfold Chip.dealCycles; rw [h]

/-- The work of a boundary: FT stands, and of what is kept the count of boundaries rises and the guard is over. -/
theorem Chip.boundaryWork_stands {c : Chip} (h : c.tb.periodChange = none) :
    c.boundaryWork.tb.ft = c.tb.ft ∧ c.boundaryWork.tb.frame = c.tb.begun.frame := by
  have k := Chip.boundaryWork_begun h
  refine ⟨?_, TimeBase.frame_of_kept k⟩
  rw [← TimeBase.kept_ft, k]
  rfl

/-- From any instant to the next boundary. -/
theorem Nat.to_boundary (a : Nat) {d : Nat} (hd : 0 < d) : a + (d - a % d) = (a / d + 1) * d := by
  have h := Nat.div_add_mod' a d
  have l := Nat.mod_lt a hd
  rw [Nat.add_mul, Nat.one_mul]
  omega

/-- The guard, and then the rest of the Deal. -/
theorem Chip.guardStart_toBoundary (c : Chip) : c.guardStart.tb.ft + c.guardStart.toBoundary = (c.tb.ft / c.dealCycles + 1) * c.dealCycles := by
  have hp : c.guardStart.dealCycles = c.dealCycles := Chip.dealCycles_of_period (TimeBase.frame_fields c.guardStart_frame).2.2.2.2.2.2
  rw [← c.guardStart_div]
  simp only [Chip.toBoundary, Chip.cycle, hp]
  exact Nat.to_boundary _ c.dealCycles_pos

theorem Chip.ownBoundary_stands {c : Chip} (h : c.tb.periodChange = none) :
    c.ownBoundary.tb.ft = (c.tb.ft / c.dealCycles + 1) * c.dealCycles ∧ c.ownBoundary.tb.frame = c.tb.begun.frame := by
  have a : (c.guardStart.advance c.guardStart.toBoundary).tb.frame = { c.tb with guarded := true }.frame :=
    (Chip.advance_frame ..).trans c.guardStart_frame
  obtain ⟨-, -, -, -, -, hn, -⟩ := TimeBase.frame_fields a
  obtain ⟨ft, fr⟩ := Chip.boundaryWork_stands (hn.trans h)
  have e : c.ownBoundary = (c.guardStart.advance c.guardStart.toBoundary).boundaryWork := rfl
  rw [e]
  exact ⟨ft.trans ((Chip.advance_ft ..).trans c.guardStart_toBoundary), fr.trans (TimeBase.frame_begun a)⟩

theorem Chip.stands_at_boundary {c t : Chip} (hp : t.tb.period = c.tb.period) (h : t.tb.ft = (c.tb.ft / c.dealCycles + 1) * c.dealCycles) :
    t.deal = (c.deal + 1) % 2 ^ 48 ∧ t.cycle = 0 := by
  simp only [Chip.deal, Chip.cycle, Chip.dealCycles_of_period hp, h, Nat.mul_mod_left, Nat.mul_div_cancel _ c.dealCycles_pos, and_true]
  omega

/-! ### An edge missed -/

/-- The fault of a window that closes with no edge (R35, R36). -/
def Chip.edgeMissed (due n : Nat) (c : Chip) : Chip :=
  let c := { c with tb := { c.tb with dealInOk := false, dealIn := { c.tb.dealIn with last := some due, faultRun := n, goodRun := 0 } } }
  let c := c.raise 0x0106 2 [(16, n)]
  if 16 ≤ n then c.setAligned false else c

theorem Chip.edgeMissed_tb (due n : Nat) (c : Chip) : (c.edgeMissed due n).tb = { c.tb with
    dealInOk := false, dealIn := { c.tb.dealIn with last := some due, faultRun := n, goodRun := 0 }
    aligned := c.tb.aligned && decide (n < 16) } := by
  unfold Chip.edgeMissed
  dsimp only
  split
  next h => rw [Chip.setAligned_tb, Chip.tb_raise, decide_eq_false (Nat.not_lt.mpr h), Bool.and_false]
  next h => rw [Chip.tb_raise, decide_eq_true (Nat.not_le.mp h), Bool.and_true]

/-- The boundary of a window that closes with no edge after the one of LT `l` (R35). -/
def Chip.missBoundary (l : Nat) (c : Chip) : Chip :=
  let g := c.guardStart
  let g := g.pass g.toBoundary (l + c.dealCycles - g.tb.lt)
  let m := (g.edgeMissed (l + c.dealCycles) (min 0xFFFF (g.tb.dealIn.faultRun + 1))).boundaryWork
  m.pass 16 (l + c.dealCycles + 16 - m.tb.lt)

theorem Chip.dealInMiss_of_last {c : Chip} {l : Nat} (hl : c.tb.dealIn.last = some l) :
    c.dealInMiss = if !c.tb.dealSrc then c else c.missBoundary l := by
  simp only [Chip.dealInMiss, hl, Chip.missBoundary, Chip.edgeMissed]

theorem Chip.missBoundary_stands {c : Chip} (l : Nat) (h : c.tb.periodChange = none) :
    (c.missBoundary l).tb.ft = (c.tb.ft / c.dealCycles + 1) * c.dealCycles + 16 ∧
      (c.missBoundary l).tb.frame = { c.tb.begun with
        dealInOk := false
        dealIn := { c.tb.dealIn with last := some (l + c.dealCycles), faultRun := min 0xFFFF (c.tb.dealIn.faultRun + 1), goodRun := 0 }
        aligned := c.tb.aligned && decide (min 0xFFFF (c.tb.dealIn.faultRun + 1) < 16) }.frame := by
  generalize hg : c.guardStart.pass c.guardStart.toBoundary (l + c.dealCycles - c.guardStart.tb.lt) = g
  have gf : g.tb.frame = { c.tb with guarded := true }.frame := by rw [← hg]; exact (Chip.pass_frame ..).trans c.guardStart_frame
  have gt : g.tb.ft = (c.tb.ft / c.dealCycles + 1) * c.dealCycles := by rw [← hg, Chip.pass_ft, Chip.guardStart_toBoundary]
  obtain ⟨ga, gi, -, -, -, gn, -⟩ := TimeBase.frame_fields gf
  simp only [Chip.missBoundary, hg, Chip.pass_ft, Chip.pass_frame]
  obtain ⟨ft, fr⟩ := Chip.boundaryWork_stands (c := g.edgeMissed (l + c.dealCycles) (min 0xFFFF (g.tb.dealIn.faultRun + 1)))
    (by rw [Chip.edgeMissed_tb]; exact gn.trans h)
  rw [ft, fr, Chip.edgeMissed_tb]
  refine ⟨congrArg (· + 16) gt, ?_⟩
  rw [gi, ga]
  exact TimeBase.frame_begun (a := { g.tb with dealInOk := _, dealIn := _, aligned := _ })
    (b := { c.tb with dealInOk := _, dealIn := _, aligned := _ }) (g := true) (TimeBase.frame_set gf _ _ _)

/-! ### An edge accepted, or refused -/

/-- An edge is accepted (R35, R36). -/
def Chip.edgeTaken (c : Chip) : Chip :=
  let i := c.tb.dealIn
  let c := { c with tb := { c.tb with dealInOk := true, dealIn := { i with last := some c.tb.lt, goodRun := i.goodRun + 1, faultRun := 0 } } }
  if 16 ≤ i.goodRun + 1 then c.setAligned true else c

theorem Chip.edgeTaken_tb (c : Chip) : c.edgeTaken.tb = { c.tb with
    dealInOk := true, dealIn := { c.tb.dealIn with last := some c.tb.lt, goodRun := c.tb.dealIn.goodRun + 1, faultRun := 0 }
    aligned := c.tb.aligned || decide (16 ≤ c.tb.dealIn.goodRun + 1) } := by
  unfold Chip.edgeTaken
  dsimp only
  split
  next h => rw [Chip.setAligned_tb, decide_eq_true h, Bool.or_true]
  next h => rw [decide_eq_false h, Bool.or_false]

/-- FT is placed by an edge, with or without a jump. -/
def Chip.placed (ft : Nat) (jump : Bool) (c : Chip) : Chip :=
  if jump then c.jumpFt ft else
    let c := c.shiftFt ft
    { c with tb := { c.tb with ft := ft, st := (Int.ofNat c.tb.st + Int.ofNat ft - Int.ofNat c.tb.ft).toNat } }

theorem Chip.placed_tb (ft : Nat) (jump : Bool) (c : Chip) : (c.placed ft jump).tb.ft = ft ∧ (c.placed ft jump).tb.lt = c.tb.lt ∧
    { (c.placed ft jump).tb with guarded := true }.frame = { c.tb with guarded := true }.frame := by
  cases jump <;> exact ⟨rfl, rfl, rfl⟩

theorem Chip.edgeBoundary_stands {c : Chip} (n d : Nat) (jump : Bool) (h : c.tb.periodChange = none) :
    (c.edgeBoundary n d jump).tb.ft = d * c.dealCycles ∧ (c.edgeBoundary n d jump).tb.frame = { c.tb.begun with
      dealInOk := true
      dealIn := { c.tb.dealIn with
        last := some ((c.tb.lt + n) % 2 ^ 64), goodRun := c.tb.dealIn.goodRun + 1, faultRun := 0 }
      aligned := c.tb.aligned || decide (16 ≤ c.tb.dealIn.goodRun + 1) }.frame := by
  let g := if c.tb.guarded then c else c.guardWork
  have gf : g.tb.kept = { c.tb with guarded := true }.kept := by
    by_cases hg : c.tb.guarded = true
    · rw [show g = c from if_pos hg, ← hg]
    · rw [show g = c.guardWork from if_neg hg]; exact c.guardWork_kept
  have gd : g.dealCycles = c.dealCycles := Chip.dealCycles_of_period (TimeBase.frame_fields (TimeBase.frame_of_kept gf)).2.2.2.2.2.2
  have gl : g.tb.lt = c.tb.lt := by rw [← TimeBase.kept_lt, gf]; rfl
  let a := (g.pass n n).placed (d * g.dealCycles) jump
  obtain ⟨aft, alt, afr⟩ := Chip.placed_tb (d * g.dealCycles) jump (g.pass n n)
  have af : { a.tb with guarded := true }.frame = { c.tb with guarded := true }.frame :=
    afr.trans (TimeBase.frame_set_guarded ((Chip.pass_frame n n g).trans (TimeBase.frame_of_kept gf)) true)
  obtain ⟨aa, ai, -, -, -, an, -⟩ := TimeBase.frame_fields af
  have e : c.edgeBoundary n d jump = a.edgeTaken.boundaryWork := rfl
  obtain ⟨ft, fr⟩ := Chip.boundaryWork_stands (c := a.edgeTaken) (by rw [Chip.edgeTaken_tb]; exact an.trans h)
  have al : a.tb.lt = (c.tb.lt + n) % 2 ^ 64 := by rw [alt, Chip.pass_lt, gl]
  rw [e, ft, fr, Chip.edgeTaken_tb]
  refine ⟨aft.trans (by rw [gd]), ?_⟩
  have ai : a.tb.dealIn = c.tb.dealIn := ai
  have aa : a.tb.aligned = c.tb.aligned := aa
  rw [ai, aa, al]
  exact TimeBase.frame_begun (a := { a.tb with dealInOk := _, dealIn := _, aligned := _, guarded := true })
    (b := { c.tb with dealInOk := _, dealIn := _, aligned := _ }) (g := true) (TimeBase.frame_set af _ _ _)

theorem Chip.untilEdge_within {c : Chip} {w l : Nat} (hl : c.tb.dealIn.last = some l) (h : c.tb.lt + w ≤ l + c.dealCycles + 16) :
    c.untilEdge 128 w = (w, c) := by
  rw [show (128 : Nat) = 127 + 1 from rfl, Chip.untilEdge, hl]
  exact if_neg (Nat.not_lt.mpr h)

theorem Chip.untilEdge_first {c : Chip} {w : Nat} (hl : c.tb.dealIn.last = none) (h : w < c.toBoundary) : c.untilEdge 128 w = (w, c) := by
  rw [show (128 : Nat) = 127 + 1 from rfl, Chip.untilEdge, hl]
  exact if_neg (Nat.not_le.mpr h)

/-- An edge is refused: DEAL_IN_OK clears, and time passes. -/
def Chip.edgeRefused (n : Nat) (c : Chip) : Chip := ({ c with tb := { c.tb with dealInOk := false } } : Chip).advance n

theorem Chip.edgeRefused_stands (n : Nat) (c : Chip) : (c.edgeRefused n).tb.dealInOk = false ∧ (c.edgeRefused n).tb.dealIn = c.tb.dealIn ∧
    (c.edgeRefused n).tb.boundaries = c.tb.boundaries ∧ (c.edgeRefused n).tb.ft = c.tb.ft + n := by
  obtain ⟨-, hi, ho, hb, -⟩ := TimeBase.frame_fields (Chip.advance_frame n { c with tb := { c.tb with dealInOk := false } })
  exact ⟨ho, hi, hb, Chip.advance_ft ..⟩

theorem Chip.dealInEdge_expected {c : Chip} {w l : Nat} (hs : c.tb.dealSrc = true) (hl : c.tb.dealIn.last = some l)
    (h : c.tb.lt + w ≤ l + c.dealCycles + 16) : c.dealInEdge w = if l + c.dealCycles ≤ c.tb.lt + w + 16
      then c.edgeBoundary w ((c.tb.ft + w + c.dealCycles / 2) / c.dealCycles) false else c.edgeRefused w := by
  unfold Chip.dealInEdge
  rw [if_neg (by rw [hs]; decide)]
  simp only [Chip.untilEdge_within hl h, hl]
  rfl

theorem Chip.dealInEdge_first {c : Chip} {w : Nat} (hs : c.tb.dealSrc = true) (hl : c.tb.dealIn.last = none) (h : w < c.toBoundary) :
    c.dealInEdge w = if c.tb.dealIn.edgesFrom ≤ c.tb.lt + w
      then c.edgeBoundary w (c.tb.dealIn.loadedDeal.getD (c.tb.ft / c.dealCycles + 1)) true else c.edgeRefused w := by
  unfold Chip.dealInEdge
  rw [if_neg (by rw [hs]; decide)]
  simp only [Chip.untilEdge_first hl h, hl]
  rfl

/-- Settles O59: the guard's and the boundary's work keep what the time base says of the Deal, and each edge of DEAL_IN places FT once. -/
theorem boundariesComplete : Obligations.BoundariesComplete := by
  intro c q D n w i up hD hi hn hw
  subst hD hi hn
  have does : ∀ {f : Chip → Chip} {j : Instr} {ok : Bool} {P : Chip → Prop}, (∀ s, exec j s = s.run ok (Chip.fabric (Chip.mirrored f))) → ok = true →
      (∀ t, t.tb = (f c).tb → P t) → Does j ⟨c, q⟩ P := fun hj hok h =>
    Does.of_fabric hj hok up (h _ (Chip.mirrored_tb ..))
  have stays : ∀ {f : Chip → Chip} {j : Instr} {ok : Bool}, (∀ s, exec j s = s.run ok (Chip.fabric (Chip.mirrored f))) → ok = true →
      f c = c → Does j ⟨c, q⟩ fun t => t = c := fun hj hok h =>
    Does.of_fabric hj hok up (Chip.mirrored_of_eq h)
  have ok : decide (w ≤ 65536) = true := decide_eq_true hw
  refine ⟨fun h => ?_, fun h => ?_, fun h => ?_, fun he h => ?_, fun h => ?_, fun l hs hl h => ?_, fun h => ?_,
    fun l hs hl lo hi h => ?_, fun l hs hl lo => ?_, fun hs hl hw' hf h => ?_, fun hs hl hw' hf => ?_⟩
  · exact Does.of_fabric (f := Chip.guardStart) (fun _ => rfl) rfl up (if_pos h)
  · refine Does.of_fabric (fun _ => rfl) rfl up ⟨SameBut.of_outside (Chip.guardStart_outside c (F := { Foot.sending with
      clock := true, base := true, xbar := true, loom := true, gate := true }) rfl) (by decide), ?_⟩
    obtain ⟨-, -, -, hb, hg, -, -⟩ := TimeBase.frame_fields c.guardStart_frame
    refine ⟨hg, Chip.guardStart_ft h, hb, ?_⟩
    obtain ⟨b, hx⟩ := Chip.guardWork_xbar (c.advanceTo (c.dealCycles - 64))
    have e : c.guardStart = (c.advanceTo (c.dealCycles - 64)).guardWork := by
      rw [Chip.guardStart, if_neg (Bool.eq_false_iff.mp h)]
    have hq : (c.advanceTo (c.dealCycles - 64)).xbar = c.xbar :=
      Part.Same.of_outside (p := .xbar) (Chip.advanceTo_outside _ c (F := { clock := true, ctr := true, sent := true }) rfl) rfl
    rw [e, hx, hq]
  · exact stays (f := Chip.dealBoundary) (fun _ => rfl) rfl (if_pos h)
  · obtain ⟨ft, fr⟩ := Chip.ownBoundary_stands h
    obtain ⟨ha, hi, -, hb, hg, -, hp⟩ := TimeBase.frame_fields fr
    refine does (fun _ => rfl) rfl fun t ht => ?_
    rw [show c.dealBoundary = c.ownBoundary from if_neg (Bool.eq_false_iff.mp he)] at ht
    obtain ⟨hd, hc⟩ := Chip.stands_at_boundary (c := c) (t := t) (by rw [ht]; exact hp) (by rw [ht]; exact ft)
    rw [ht]
    exact ⟨ft, hd, hc, hb, hg, ha, hi⟩
  · refine stays (fun _ => rfl) rfl ?_
    unfold Chip.dealInMiss
    rcases h with h | h
    · split
      · rfl
      · rw [h]; rfl
    · rw [h]
  · obtain ⟨ft, fr⟩ := Chip.missBoundary_stands l h
    obtain ⟨ha, hi, ho, hb, -⟩ := TimeBase.frame_fields fr
    refine does (fun _ => rfl) rfl fun t ht => ?_
    rw [ht, Chip.dealInMiss_of_last hl, hs]
    exact ⟨ho, hi, ha, hb, ft⟩
  · exact stays (fun _ => rfl) ok (by simp only [Chip.dealInEdge, h, Bool.not_false, if_true])
  · obtain ⟨ft, fr⟩ := Chip.edgeBoundary_stands w ((c.tb.ft + w + c.dealCycles / 2) / c.dealCycles) false h
    obtain ⟨ha, hi', ho, hb, -⟩ := TimeBase.frame_fields fr
    refine does (fun _ => rfl) ok fun t ht => ?_
    rw [ht, Chip.dealInEdge_expected hs hl hi, if_pos lo]
    exact ⟨ho, hi', ha, hb, ft⟩
  · refine does (fun _ => rfl) ok fun t ht => ?_
    rw [ht, Chip.dealInEdge_expected hs hl (by omega), if_neg (Nat.not_le.mpr lo)]
    exact Chip.edgeRefused_stands w c
  · obtain ⟨ft, fr⟩ := Chip.edgeBoundary_stands w (c.tb.dealIn.loadedDeal.getD (c.tb.ft / c.dealCycles + 1)) true h
    obtain ⟨-, hi, ho, hb, -⟩ := TimeBase.frame_fields fr
    refine does (fun _ => rfl) ok fun t ht => ?_
    rw [ht, Chip.dealInEdge_first hs hl hw', if_pos hf]
    exact ⟨ho, hi, hb, ft⟩
  · refine does (fun _ => rfl) ok fun t ht => ?_
    rw [ht, Chip.dealInEdge_first hs hl hw', if_neg (Nat.not_le.mpr hf)]
    exact Chip.edgeRefused_stands w c

end Sys2Proof.Machine

/-! SUPPORT. Accesses to the register map (R464 to R467, R470, R482). -/

namespace Sys2Proof.Machine

set_option Elab.async false

open Sys2Proof

/-! ### Fields of a register written -/

/-- A whole register written: the bits of the old word that stay are beyond it. -/
theorem merge_full (old : Nat) {v : Nat} (h : v < 2 ^ 64) : ∃ k, merge old v (2 ^ 64 - 1) = 2 ^ 64 * k + v := by
  refine ⟨old / 2 ^ 64, ?_⟩
  have e : old - old % 2 ^ 64 = 2 ^ 64 * (old / 2 ^ 64) := by omega
  rw [merge, maskDiff, Nat.and_two_pow_sub_one_eq_mod, Nat.and_two_pow_sub_one_eq_mod, Nat.mod_eq_of_lt h, e, ← Nat.two_pow_add_eq_or_of_lt h]

theorem bitsAt_merge_full (old : Nat) {v : Nat} (h : v < 2 ^ 64) {lo len : Nat} (hl : lo + len ≤ 64) :
    bitsAt (merge old v (2 ^ 64 - 1)) lo len = bitsAt v lo len := by
  obtain ⟨k, e⟩ := merge_full old h
  have p : 2 ^ 64 * k = 2 ^ lo * (2 ^ len * (2 ^ (64 - lo - len) * k)) := by
    rw [← Nat.mul_assoc, ← Nat.mul_assoc, ← Nat.pow_add, ← Nat.pow_add]
    congr 2
    omega
  rw [e, bitsAt, bitsAt, p, Nat.mul_add_div (Nat.two_pow_pos lo), Nat.mul_add_mod]

theorem bitAt_merge_full (old : Nat) {v : Nat} (h : v < 2 ^ 64) {b : Nat} (hb : b < 64) :
    bitAt (merge old v (2 ^ 64 - 1)) b = bitAt v b :=
  congrArg (· == 1) (bitsAt_merge_full old h (len := 1) hb)

theorem and_full {v : Nat} (h : v < 2 ^ 64) : v &&& (2 ^ 64 - 1) = v := by
  rw [Nat.and_two_pow_sub_one_eq_mod, Nat.mod_eq_of_lt h]

theorem block_below {base off : Nat} (stride n : Nat) (h : off < base) : block base stride n off = none :=
  if_neg fun x => absurd h (Nat.not_lt.mpr x.1)

/-! ### Accesses -/

theorem Chip.accessed_of_reached {c : Chip} {req : Requester} (h : c.reachedBy req) (b2 wr : Bool) (off n : Nat) (f : Chip → Chip) :
    c.accessed req b2 wr off n f = if c.accessError req b2 wr off n = 0 then f c else c.busError req b2 wr off (c.accessError req b2 wr off n) := by
  rcases h with rfl | ⟨rfl, up⟩
  · rfl
  · exact if_pos up

theorem Chip.reachedBy_host {c : Chip} (h : c.hostUp = true) : c.reachedBy .host := .inr ⟨rfl, h⟩

/-- What a bus error latches (R467). -/
theorem Chip.busError_regs (req : Requester) (b2 wr : Bool) (off e : Nat) (c : Chip) :
    (c.busError req b2 wr off e).regs.busErrValid = true ∧ (c.busError req b2 wr off e).regs.busErrRaised = true ∧
      (c.busError req b2 wr off e).regs.busErr = if c.regs.busErrValid then c.regs.busErr else
        field off 0 27 + field (b2n b2) 27 1 + field e 28 3 + field (b2n wr) 31 1 + field (reqCode req) 32 2 := by
  have counted : ((c.bump busErrCount 1).occur 4 0x07 none none 1).outside { ctr := true } = c.outside { ctr := true } := by simp +decide
  have hv : ((c.bump busErrCount 1).occur 4 0x07 none none 1).regs.busErrValid = c.regs.busErrValid := by
    have e := congrArg (fun x : Chip => x.regs.busErrValid) counted
    exact e
  have hw : ((c.bump busErrCount 1).occur 4 0x07 none none 1).regs.busErr = c.regs.busErr := by
    have e := congrArg (fun x : Chip => x.regs.busErr) counted
    exact e
  have raised : ∀ code cls args (d : Chip), (d.raise code cls args).regs.busErrValid = d.regs.busErrValid ∧
      (d.raise code cls args).regs.busErrRaised = d.regs.busErrRaised ∧ (d.raise code cls args).regs.busErr = d.regs.busErr :=
    fun code cls args d => by
      have e := Chip.raise_outside code cls args d (F := Foot.event) rfl
      have e1 := congrArg (fun x : Chip => x.regs.busErrValid) e
      have e2 := congrArg (fun x : Chip => x.regs.busErrRaised) e
      have e3 := congrArg (fun x : Chip => x.regs.busErr) e
      exact ⟨e1, e2, e3⟩
  rw [← hv, ← hw]
  unfold Chip.busError
  generalize (c.bump busErrCount 1).occur 4 0x07 none none 1 = d
  cases valid : d.regs.busErrValid <;> cases told : d.regs.busErrRaised <;>
    simp [valid, told, raised, Chip.log]

/-! ### Registers that a write changes -/

theorem Chip.writeReg_dealOut (req : Requester) {v : Nat} (hv : v < 2 ^ 64) (c : Chip) :
    c.writeReg req 0x10058 v (2 ^ 64 - 1) = { c with tb := { c.tb with dealOutEn := bitAt v 0, dealOutAdvance := bitsAt v 1 6 } } := by
  rw [Chip.writeReg, if_pos rfl]
  dsimp only
  rw [bitAt_merge_full _ hv (by decide), bitsAt_merge_full _ hv (by decide)]

theorem Chip.writeReg_capCtrl (req : Requester) {v : Nat} (hv : v < 2 ^ 64) (c : Chip) :
    c.writeReg req 0x10080 v (2 ^ 64 - 1) = { c with tb := { c.tb with capEdge0 := bitsAt v 0 2, capEdge1 := bitsAt v 2 2 } } := by
  rw [Chip.writeReg, if_neg (by decide), if_pos rfl]
  dsimp only
  rw [bitsAt_merge_full _ hv (by decide), bitsAt_merge_full _ hv (by decide)]

theorem Chip.writeReg_alias {c : Chip} {req : Requester} (h : c.reachedBy req) {v : Nat} (hv : v < 2 ^ 64) :
    c.writeReg req 0x3C00018 v (2 ^ 64 - 1) = { c with regs :=
      if req = .steward then { c.regs with aliasSteward := bitsAt v 0 8 } else { c.regs with aliasHost := bitsAt v 0 8 } } := by
  rw [Chip.writeReg, if_neg (by decide), if_neg (by decide), if_pos rfl]
  dsimp only
  rw [bitsAt_merge_full _ hv (by decide)]
  rcases h with rfl | ⟨rfl, -⟩ <;> rfl

/-- The PN_ registers hold no field that a write sets. -/
theorem Chip.writeReg_fixed (req : Requester) {off : Nat} (h : off < 0x1000) (v mask : Nat) (c : Chip) :
    c.writeReg req off v mask = c.clearSticky off (v &&& mask) := by
  have hs : startsWork off = false := by
    simp only [startsWork, Bool.or_eq_false_iff, List.contains_eq_mem, List.mem_cons, List.not_mem_nil, or_false, decide_eq_false_iff_not,
      Bool.and_eq_false_iff]
    omega
  rw [Chip.writeReg, if_neg (by omega), if_neg (by omega), if_neg (by omega), if_neg (by omega), block_below _ _ (by omega),
    block_below _ _ (by omega), block_below _ _ (by omega), block_below _ _ (by omega), block_below _ _ (by omega)]
  simp only [hs, Bool.false_eq_true, if_false]

/-- One bit of TB_DEAL_OUT (R482). -/
theorem Chip.writeReg_dealOutEn (req : Requester) (d : Bool) (c : Chip) :
    c.writeReg req 0x10058 (2 ^ 0 * b2n d) (2 ^ 0) =
      { c with tb := { c.tb with dealOutEn := d, dealOutAdvance := c.tb.dealOutAdvance % 64 } } := by
  have old : c.tbDealOut = 2 * (c.tb.dealOutAdvance % 64) + b2n c.tb.dealOutEn := by
    cases hb : c.tb.dealOutEn <;> simp only [Chip.tbDealOut, field, b2n, hb] <;> simp <;> omega
  have new : merge c.tbDealOut (2 ^ 0 * b2n d) (2 ^ 0) = 2 * (c.tb.dealOutAdvance % 64) + b2n d := by
    have hl : ∀ b, b2n b < 2 := fun b => by cases b <;> decide
    have e : ∀ (a : Nat) (b : Bool), (2 * a + b2n b) - (2 * a + b2n b) % 2 = 2 ^ 1 * a := fun a b => by have := hl b; omega
    have ds : 2 ^ 0 * b2n d &&& 2 ^ 0 = b2n d := by cases d <;> rfl
    rw [merge, maskDiff, old, ds, show (2 : Nat) ^ 0 = 2 ^ 1 - 1 from rfl, Nat.and_two_pow_sub_one_eq_mod, Nat.pow_one, e,
      ← Nat.two_pow_add_eq_or_of_lt (hl d)]
  rw [Chip.writeReg, if_pos rfl]
  dsimp only
  rw [new]
  have hb : bitAt (2 * (c.tb.dealOutAdvance % 64) + b2n d) 0 = d := by
    cases d <;> simp only [bitAt, b2n] <;> simp <;> omega
  have ha : bitsAt (2 * (c.tb.dealOutAdvance % 64) + b2n d) 1 6 = c.tb.dealOutAdvance % 64 := by
    cases d <;> simp only [bitsAt, b2n] <;> simp <;> omega
  rw [hb, ha]

/-! ### Snapshot sets -/

theorem Chip.snap_setSnap (s j : Nat) (v : SnapSet) (c : Chip) : (c.setSnap s v).snap j = if j = s then v else c.snap j := Tab.get_put ..

theorem Chip.armSet_snap (s j : Nat) (c : Chip) : (c.armSet s).snap j =
    if j = s ∧ (c.snap s).arm = false then { c.snap s with arm := true, armDeal := c.armedFrom (c.snap s).mode } else c.snap j := by
  unfold Chip.armSet
  dsimp only
  split
  next h => rw [if_neg fun x => by rw [x.2] at h; cases h]
  next h => rw [Chip.snap_setSnap]; simp [h]

theorem Chip.writeSnapCtrl_snap (s j : Nat) {v : Nat} (hv : v < 2 ^ 64) (c : Chip) :
    (c.writeSnapCtrl s v (2 ^ 64 - 1)).snap j = if j = s then { c.snap s with
      count := bitsAt v 0 9, clear := bitAt v 9, mode := bitsAt v 10 2, period := bitsAt v 12 16
      arm := ((c.snap s).arm && (c.snap s).mode != 1) || bitAt v 28
      armDeal := if bitAt v 28 && !((c.snap s).arm && (c.snap s).mode != 1) then c.armedFrom (bitsAt v 10 2) else (c.snap s).armDeal }
    else c.snap j := by
  unfold Chip.writeSnapCtrl
  simp only [bitsAt_merge_full _ hv (show (0 : Nat) + 9 ≤ 64 by decide), bitsAt_merge_full _ hv (show (10 : Nat) + 2 ≤ 64 by decide),
    bitsAt_merge_full _ hv (show (12 : Nat) + 16 ≤ 64 by decide), bitAt_merge_full _ hv (show (9 : Nat) < 64 by decide), and_full hv]
  have hm : decide ((c.snap s).mode = 1 ∧ (2 ^ 64 - 1) &&& 0xFFFFDFF ≠ 0) = ((c.snap s).mode == 1) := by
    rw [show ((2 ^ 64 - 1) &&& 0xFFFFDFF : Nat) = 0xFFFFDFF from rfl]
    simp only [ne_eq, OfNat.ofNat_ne_zero, not_false_eq_true, and_true]
    rfl
  rw [hm]
  split
  next h =>
    rw [Chip.armSet_snap, Chip.snap_setSnap, if_pos rfl, Chip.snap_setSnap, h]
    by_cases hj : j = s
    · subst hj
      cases ha : (c.snap j).arm <;> cases hn : (c.snap j).mode == 1 <;> simp [bne, ha, hn] <;> rfl
    · simp [hj]
  next h =>
    rw [Chip.snap_setSnap, Bool.eq_false_iff.mpr h]
    simp [bne]

/-! ### What an access does -/

section
variable {c : Chip} (up : c.pkg.held = false) (q : List Instr) {req : Requester} {b2 : Bool} {off v : Nat}
include up

theorem does_registerWrite (h : c.reachedBy req) (hoff : off < 2 ^ 27) (ha : off % 8 = 0) (hv : v < 2 ^ 64) {P : Chip → Prop}
    (hp : P (if c.accessError req b2 true off 8 = 0 then
        if b2 then c.writeBar2 req off v else if 0x4000000 ≤ off then
          c.writeReg req (c.aliasTarget req off).1 (2 ^ (c.aliasTarget req off).2 * (v % 2)) (2 ^ (c.aliasTarget req off).2)
        else c.writeReg req off v (2 ^ 64 - 1)
      else c.busError req b2 true off (c.accessError req b2 true off 8))) : Does (.registerWrite req b2 off v) ⟨c, q⟩ P := by
  refine Does.of_live (fun _ => rfl) ?_ up ?_
  · rw [decide_eq_true hoff, decide_eq_true hv, ha]; rfl
  · rw [Chip.accessed_of_reached h]; exact hp

theorem does_rcFieldRead_bar0 (h : c.hostUp = true) (hoff : off < 2 ^ 27) (ha : off % 8 = 0) {P : Chip → Prop}
    (hp : P (if c.accessError .host false false off 8 = 0 then c.hostReadReg off
      else c.busError .host false false off (c.accessError .host false false off 8))) : Does (.rcFieldRead (.bar0 off)) ⟨c, q⟩ P := by
  refine Does.of_live (fun _ => rfl) ?_ up ?_
  · simp only [okOffset]; rw [decide_eq_true hoff, ha]; rfl
  · dsimp only; rw [Chip.accessed_of_reached (Chip.reachedBy_host h)]; exact hp

theorem does_rcFieldRead_bar2 (h : c.hostUp = true) (hoff : off < 2 ^ 27) (ha : off % 8 = 0) (he : c.accessError .host true false off 8 = 0)
    {P : Chip → Prop} (hp : P (c.hostReadBar2 off)) : Does (.rcFieldRead (.bar2 off)) ⟨c, q⟩ P := by
  refine Does.of_live (fun _ => rfl) ?_ up ?_
  · simp only [okOffset]; rw [decide_eq_true hoff, ha]; rfl
  · dsimp only; rw [Chip.accessed_of_reached (Chip.reachedBy_host h), if_pos he]; exact hp

end

theorem Chip.hostReadReg_plain {off : Nat} (h : off ∉ [0x10018, 0x10038, 0x10060, 0x10070, 0x10100, 0x10120]) (c : Chip) :
    c.hostReadReg off = { c with sent := .readData (c.readWord .host off) :: c.sent } := by
  simp only [List.mem_cons, List.not_mem_nil, or_false, not_or] at h
  obtain ⟨h1, h2, h3, h4, h5, h6⟩ := h
  unfold Chip.hostReadReg
  split
  · exact absurd rfl h1
  · exact absurd rfl h2
  · exact absurd rfl h3
  · exact absurd rfl h4
  · exact absurd rfl h5
  · exact absurd rfl h6
  · rfl

theorem Chip.hostReadBar2_header {off : Nat} (h : off < 0x40000) (hr : off % 0x4000 = 0x2010) (c : Chip) :
    SameBut [.stew, .sent] c (c.hostReadBar2 off) ∧
      (c.hostReadBar2 off).sent = .readData (bitsAt (c.mbx (off / 0x4000)).header 0 64) :: c.sent := by
  rw [Chip.hostReadBar2, if_pos ⟨h, hr⟩]
  exact ⟨SameBut.of_outside (F := { mbx := true, sent := true }) (Chip.hostReadHeader_outside _ _ _ c rfl) (by decide), rfl⟩

theorem Chip.hostReadBar2_plain {off : Nat} (h : ¬(off < 0x40000 ∧ off % 0x4000 = 0x2010)) (hu : ¬(0x100000 ≤ off ∧ off < 0x200000)) (c : Chip) :
    c.hostReadBar2 off = { c with sent := .readData (c.bar2Word .host off) :: c.sent } := by
  rw [Chip.hostReadBar2, if_neg h]
  split
  · rw [if_neg hu]; rfl
  · rfl

theorem Chip.writeBar2_ring (req : Requester) {off : Nat} (h : off < 0x40000) (hr : off % 0x4000 = 0x2008) (v : Nat) (c : Chip) :
    c.writeBar2 req off v = if bitAt v 0 then c.hostRing (off / 0x4000) else c := by
  unfold Chip.writeBar2
  rw [if_pos h]
  dsimp only
  rw [hr, if_neg (by omega), if_neg (by omega), if_pos rfl]

theorem Chip.writeBar2_frzSel (v : Nat) (c : Chip) : c.writeBar2 .host 0x300000 v =
    { c with regs := { c.regs with frzHost := ⟨bitsAt v 0 4, bitsAt v 4 6, bitsAt v 22 14⟩ } } := by
  unfold Chip.writeBar2
  rw [if_neg (by decide), if_neg (by decide), if_neg (by decide), if_neg (by decide), if_pos rfl]; rfl

/-- Settles O57: an access is a bus error or what its register's field types make of it. -/
theorem registerAccessesComplete : Obligations.RegisterAccessesComplete := by
  intro c q req off n v e b2 wr up
  refine ⟨fun ho h0 hn => ?_, fun hr ho h0 hn he => ?_, fun hh ho ha he => ?_, fun hh ho ha he => ⟨fun hb hx => ?_, fun hb hx => ?_⟩,
    fun hr ho ha hv he => ?_, fun d a k hr ho ha he hak => ?_, fun s x hr hs hv he hx => ?_⟩
  · exact Does.of_live (fun _ => rfl) (by rw [decide_eq_true ho, decide_eq_true h0, decide_eq_true hn]; rfl) up rfl
  · subst he
    have does : ∀ {P : Chip → Prop}, P (if c.accessError req b2 wr off n = 0 then c else
        c.busError req b2 wr off (c.accessError req b2 wr off n)) → Does (.badAccess req b2 wr off n) ⟨c, q⟩ P := fun hp =>
      Does.of_live (fun _ => rfl) (by rw [decide_eq_true ho, decide_eq_true h0, decide_eq_true hn]; rfl) up
        (by rw [Chip.accessed_of_reached hr]; exact hp)
    refine ⟨fun he => does ?_, fun he => does (if_pos he)⟩
    rw [if_neg he]
    exact ⟨SameBut.of_outside (Chip.busError_outside _ _ _ _ _ c (F := { Foot.event with regs := true }) rfl) (by decide), rfl,
      Chip.busError_regs ..⟩
  · subst he
    refine ⟨fun he => does_rcFieldRead_bar0 up q hh ho ha (if_neg he), fun he hl => does_rcFieldRead_bar0 up q hh ho ha ?_⟩
    rw [if_pos he, Chip.hostReadReg_plain hl]
  · exact does_rcFieldRead_bar2 up q hh ho ha he (Chip.hostReadBar2_header hb hx c)
  · exact does_rcFieldRead_bar2 up q hh ho ha he (Chip.hostReadBar2_plain hb hx c)
  · subst he
    refine ⟨fun he => does_registerWrite up q hr ho ha hv (if_neg he), fun he hb hx => ?_, fun he hb hx => ?_, fun he hb hx => ?_,
      fun he hb hx => ?_, fun he hb hx hq => ?_, fun he hb hx hm => ?_⟩
    all_goals refine does_registerWrite up q hr ho ha hv ?_
    all_goals rw [if_pos he]
    · subst hb hx
      rw [if_neg Bool.false_ne_true, if_neg (by decide), Chip.writeReg_dealOut req hv c]
    · subst hb hx
      rw [if_neg Bool.false_ne_true, if_neg (by decide), Chip.writeReg_capCtrl req hv c]
    · subst hb hx
      rw [if_neg Bool.false_ne_true, if_neg (by decide), Chip.writeReg_alias hr hv]
    · subst hb
      rw [if_neg Bool.false_ne_true, if_neg (by omega), Chip.writeReg_fixed req hx]
      exact ⟨SameBut.of_outside (F := { ctr := true }) rfl (by decide), rfl⟩
    · subst hb hx hq
      rw [if_pos rfl, Chip.writeBar2_frzSel]
    · subst hb
      rw [if_pos rfl, Chip.writeBar2_ring req hx hm]
  · obtain ⟨rfl, rfl⟩ := Prod.mk.inj hak
    subst he
    have hx : 0x4000000 + off - 0x4000000 = off := by omega
    have does : ∀ {P : Chip → Prop}, P (if c.accessError req false true (0x4000000 + off) 8 = 0 then
        c.writeReg req (c.aliasBase req * 0x80000 + off / 512 * 8) (2 ^ (off % 512 / 8) * b2n d) (2 ^ (off % 512 / 8))
        else c.busError req false true (0x4000000 + off) (c.accessError req false true (0x4000000 + off) 8)) →
        Does (.aliasWrite req off d) ⟨c, q⟩ P := fun hp =>
      Does.of_live (fun _ => rfl) (by rw [decide_eq_true ho, ha]; rfl) up (by
        rw [Chip.accessed_of_reached hr]; simp only [Chip.aliasTarget, hx]; exact hp)
    refine ⟨fun he => does (if_neg he), fun he => does ?_⟩
    rw [if_pos he]
    refine ⟨rfl, fun h1 h2 => ?_⟩
    rw [h1, h2]
    exact Chip.writeReg_dealOutEn req d c
  · subst hx
    have hw : (decide (s < 8) && decide (v < 2 ^ 64)) = true := by rw [decide_eq_true hs, decide_eq_true hv]; rfl
    refine ⟨fun own => ⟨?_, ?_⟩, fun own => ?_, fun own => ?_⟩
    · refine Does.of_live (fun _ => rfl) (decide_eq_true hs) up ?_
      rw [Chip.accessed_of_reached hr, if_pos he, own]; rfl
    · refine Does.of_live (fun _ => rfl) hw up ?_
      rw [Chip.accessed_of_reached hr, if_pos he, own]; rfl
    · refine Does.of_live (fun _ => rfl) (decide_eq_true hs) up ?_
      rw [Chip.accessed_of_reached hr, if_pos he, own, if_pos rfl]
      refine ⟨SameBut.of_outside (Chip.armSet_outside s c (F := { regs := true }) rfl) (by decide), fun y hy => ?_, ?_⟩
      · rw [Chip.armSet_snap, if_neg fun x => hy x.1]
      · rw [Chip.armSet_snap]
        cases h : (c.snap s).arm <;> simp
    · refine Does.of_live (fun _ => rfl) hw up ?_
      rw [Chip.accessed_of_reached hr, if_pos he, own, if_pos rfl]
      refine ⟨SameBut.of_outside (Chip.writeSnapCtrl_outside s v _ c (F := { regs := true }) rfl) (by decide), fun y hy => ?_, ?_⟩
      · rw [Chip.writeSnapCtrl_snap s y hv, if_neg hy]
      · rw [Chip.writeSnapCtrl_snap s s hv, if_pos rfl]

end Sys2Proof.Machine

/-! SUPPORT. PCIe resets and the host's accesses to mailboxes, event ring and vectors (R428 to R436, R449 to R451). -/

namespace Sys2Proof.Machine

set_option Elab.async false

open Sys2Proof

/-! ### Masks and bytes -/

theorem maskDiff_div_two (a b : Nat) : maskDiff a b / 2 = maskDiff (a / 2) (b / 2) ∧ (maskDiff a b % 2 = 1 ↔ a % 2 = 1 ∧ b % 2 ≠ 1) := by
  have hx : (a &&& b) % 2 = 1 ↔ a % 2 = 1 ∧ b % 2 = 1 := Nat.and_mod_two_eq_one
  have hd : (a &&& b) / 2 = a / 2 &&& b / 2 := Nat.and_div_two
  have hl : a &&& b ≤ a := Nat.and_le_left
  unfold maskDiff
  rw [← hd]
  omega

/-- A bit of a mask from which another is taken away. -/
theorem bitAt_maskDiff (v : Nat) : ∀ a b, bitAt (maskDiff a b) v = (bitAt a v && !bitAt b v) := by
  induction v with
  | zero =>
    intro a b
    simp only [bitAt, Nat.pow_zero, Nat.div_one]
    rw [Bool.eq_iff_iff]
    simpa using (maskDiff_div_two a b).2
  | succ v ih =>
    intro a b
    have h : ∀ n, bitAt n (v + 1) = bitAt (n / 2) v := fun n => by rw [bitAt, bitAt, Nat.pow_succ', Nat.div_div_eq_div_mul]
    rw [h, h, h, (maskDiff_div_two a b).1, ih]

/-- A shifted mask picks the bits above the shift. -/
theorem Nat.and_mul_two_pow (a b n : Nat) : a &&& b * 2 ^ n = (a / 2 ^ n &&& b) * 2 ^ n := by
  refine Nat.eq_of_testBit_eq fun j => ?_
  simp only [Nat.testBit_and, Nat.testBit_mul_two_pow, Nat.testBit_div_two_pow]
  by_cases h : n ≤ j
  · simp [h, Nat.sub_add_cancel h]
  · simp [h]

/-- A digit of base 256 replaced, at `q`, the weight of its place. -/
def digitSet (n q m : Nat) : Nat := n / q / 256 * 256 * q + m * q + n % q

theorem digitSet_eq (n m : Nat) {q : Nat} : digitSet n q m = n - n / q % 256 * q + m * q := by
  have h1 := Nat.div_add_mod' n q
  have h2 := Nat.div_add_mod' (n / q) 256
  have h3 : n / q / 256 * 256 * q + n / q % 256 * q = n / q * q := by rw [← Nat.add_mul, h2]
  unfold digitSet
  omega

theorem digitSet_div {n q m : Nat} (hq : 0 < q) : digitSet n q m / q = n / q / 256 * 256 + m := by
  rw [digitSet, ← Nat.add_mul, Nat.add_comm, Nat.add_mul_div_right _ _ hq, Nat.div_eq_of_lt (Nat.mod_lt n hq), Nat.zero_add]

theorem digitSet_same {n q m : Nat} (hq : 0 < q) (hm : m < 256) : digitSet n q m / q % 256 = m := by
  rw [digitSet_div hq, Nat.mul_add_mod_self_right, Nat.mod_eq_of_lt hm]

theorem digitSet_above {n q m : Nat} (hq : 0 < q) (hm : m < 256) (r : Nat) : digitSet n q m / (q * 256 * r) = n / (q * 256 * r) := by
  rw [← Nat.div_div_eq_div_mul, ← Nat.div_div_eq_div_mul, digitSet_div hq, Nat.add_comm, Nat.add_mul_div_right _ _ (by decide),
    Nat.div_eq_of_lt hm, Nat.zero_add, Nat.div_div_eq_div_mul, Nat.div_div_eq_div_mul, Nat.mul_assoc]

theorem digitSet_below {n p r m : Nat} (hp : 0 < p) : digitSet n (p * 256 * r) m / p % 256 = n / p % 256 := by
  have e : digitSet n (p * 256 * r) m = p * (256 * ((n / (p * 256 * r) / 256 * 256 + m) * r)) + n % (p * (256 * r)) := by
    rw [digitSet, ← Nat.add_mul, Nat.mul_assoc p]
    congr 1
    ring
  rw [e, Nat.mul_add_div hp, Nat.mul_add_mod, Nat.mod_mul_right_div_self, Nat.mod_mul_right_mod]

/-- Byte `j` of a word in which byte `i` is replaced. -/
theorem bitsAt_setByte (w : W32) (b : Byte) {i j : Nat} (hi : i < 4) (hj : j < 4) :
    bitsAt (setByte w i b).toNat (8 * j) 8 = if j = i then b.toNat else bitsAt w.toNat (8 * j) 8 := by
  have hb : b.toNat < 256 := b.isLt
  have up : ∀ {i j : Nat}, i < j → (2 : Nat) ^ (8 * j) = 2 ^ (8 * i) * 256 * 2 ^ (8 * (j - i - 1)) := fun {i j} h => by
    rw [show (256 : Nat) = 2 ^ 8 from rfl, ← Nat.pow_add, ← Nat.pow_add]; congr 1; omega
  have q : ∀ i, 0 < 2 ^ (8 * i) := fun i => Nat.two_pow_pos _
  have e : maskDiff w.toNat (0xFF * 256 ^ i) + b.toNat * 256 ^ i = digitSet w.toNat (2 ^ (8 * i)) b.toNat := by
    rw [digitSet_eq, maskDiff, show (256 : Nat) ^ i = 2 ^ (8 * i) from (Nat.pow_mul 2 8 i).symm, Nat.and_mul_two_pow,
      show (0xFF : Nat) = 2 ^ 8 - 1 from rfl, Nat.and_two_pow_sub_one_eq_mod]
  have small : digitSet w.toNat (2 ^ (8 * i)) b.toNat < 2 ^ 32 := by
    rw [← Nat.div_eq_zero_iff_lt (by decide), show (2 : Nat) ^ 32 = 2 ^ (8 * i) * 256 * 2 ^ (8 * (4 - i - 1)) from up hi,
      digitSet_above (q i) hb, ← up hi]
    exact Nat.div_eq_of_lt w.isLt
  rw [setByte, e, BitVec.toNat_ofNat, Nat.mod_eq_of_lt small, bitsAt, bitsAt, show (2 : Nat) ^ 8 = 256 from rfl]
  rcases Nat.lt_trichotomy j i with h | rfl | h
  · rw [if_neg (Nat.ne_of_lt h), up h, digitSet_below (q j)]
  · rw [if_pos rfl]
    exact digitSet_same (q j) hb
  · rw [if_neg (Nat.ne_of_gt h), up h, digitSet_above (q i) hb]

/-- Byte `i` of request words. -/
def byteOf (t : Tab W32) (i : Nat) : Nat := bitsAt (Tab.get 0 (i / 4) t).toNat (8 * (i % 4)) 8

theorem byteOf_set (t : Tab W32) (off i : Nat) (b : Byte) :
    byteOf (Tab.set 0 (off / 4) (setByte (Tab.get 0 (off / 4) t) (off % 4) b) t) i = if i = off then b.toNat else byteOf t i := by
  have hi := Nat.mod_lt i (show 0 < 4 by decide)
  have ho := Nat.mod_lt off (show 0 < 4 by decide)
  unfold byteOf
  rw [Tab.get_set]
  by_cases hq : i / 4 = off / 4
  · rw [if_pos hq, bitsAt_setByte _ _ ho hi, hq]
    exact if_congr (by omega) rfl rfl
  · rw [if_neg hq, if_neg (by rintro rfl; exact hq rfl)]

theorem byteOf_writeReq (bs : List Byte) : ∀ (off : Nat) (t : Tab W32) (i : Nat), byteOf (writeReq off bs t) i =
    if off ≤ i ∧ i < off + bs.length then (bs.getD (i - off) 0).toNat else byteOf t i := by
  induction bs with
  | nil => intro off t i; rw [if_neg (by simp only [List.length_nil]; omega)]; rfl
  | cons b bs ih =>
    intro off t i
    rw [writeReq, ih, byteOf_set]
    simp only [List.length_cons]
    by_cases h : i = off
    · subst h
      rw [if_neg (by omega), if_pos rfl, if_pos (by omega), Nat.sub_self]; rfl
    · rw [if_neg h]
      by_cases hr : off + 1 ≤ i ∧ i < off + 1 + bs.length
      · rw [if_pos hr, if_pos (by omega), show i - off = (i - (off + 1)) + 1 by omega]; rfl
      · rw [if_neg hr, if_neg (by omega)]

/-- MB_CTRL written whole. -/
theorem setCtrl_patchBytes (m : Mailbox) {bs : List Byte} (h : bs.length = 8) : m.setCtrl (patchBytes m.ctrl 0 bs) = { m with
    opcode := bitsAt (leNat bs) 0 16, words := bitsAt (leNat bs) 16 11, seq := bitsAt (leNat bs) 27 16, irq := bitAt (leNat bs) 43 } := by
  have e : patchBytes m.ctrl 0 bs = leNat bs := by
    have hc : m.ctrl < 2 ^ 64 := by
      have := Nat.mod_lt m.opcode (show 0 < 2 ^ 16 by decide)
      have := Nat.mod_lt m.words (show 0 < 2 ^ 11 by decide)
      have := Nat.mod_lt m.seq (show 0 < 2 ^ 16 by decide)
      have hb : b2n m.irq % 2 ^ 1 < 2 := Nat.mod_lt _ (by decide)
      simp only [Mailbox.ctrl, field]
      omega
    have hk : maskDiff m.ctrl ((256 ^ 8 - 1) * 256 ^ 0) = 0 := by
      rw [maskDiff, show ((256 : Nat) ^ 8 - 1) * 256 ^ 0 = 2 ^ 64 - 1 from rfl, Nat.and_two_pow_sub_one_eq_mod, Nat.mod_eq_of_lt hc, Nat.sub_self]
    rw [patchBytes, h, hk, Nat.pow_zero, Nat.mul_one, Nat.zero_add]
  rw [e, Mailbox.setCtrl]

theorem Tab.get_filter {α : Type} (d : α) (p : Nat → Bool) (j : Nat) (t : Tab α) :
    Tab.get d j (t.filter (fun e => p e.1)) = if p j then Tab.get d j t else d := by
  induction t with
  | nil => simp [Tab.get]
  | cons e t ih =>
    obtain ⟨i, w⟩ := e
    rw [List.filter_cons]
    dsimp only
    by_cases hi : i = j
    · subst hi
      cases hp : p i <;> simp [Tab.get, ih, hp]
    · split <;> simp [Tab.get, ih, hi]

/-! ### PCIe -/

theorem Chip.resetPcie_stew (b : Bool) (c : Chip) : (c.resetPcie b).stew = { c.stew with
    pcie := { perst := b }, events := { c.stew.events with ringSet := false, ring := [] }
    mbx := c.stew.mbx.filter (fun e => decide (16 ≤ e.1)), rung := c.stew.rung.filter (fun k => decide (16 ≤ k)) } := by
  have e : ∀ d : Chip, ((List.range 16).foldl (fun c k => c.clearCounters (mbStat k)) d).stew = d.stew := fun d =>
    Part.Same.of_outside (p := .stew) (F := { ctr := true }) (by simp +decide) rfl
  unfold Chip.resetPcie
  dsimp only
  rw [e]
  rfl

theorem Chip.mbx_resetPcie (b : Bool) (j : Nat) (c : Chip) : (c.resetPcie b).mbx j = if 16 ≤ j then c.mbx j else {} := by
  have e : (c.resetPcie b).stew.mbx = c.stew.mbx.filter (fun e => decide (16 ≤ e.1)) := congrArg Steward.mbx (c.resetPcie_stew b)
  have f := Tab.get_filter {} (fun k => decide (16 ≤ k)) j c.stew.mbx
  rw [Chip.mbx, e, f]
  exact if_congr decide_eq_true_iff rfl rfl

theorem Chip.resetPcie_clears (b : Bool) (c : Chip) : SameBut [.stew, .regs] c (c.resetPcie b) ∧
    (c.resetPcie b).stew.pcie = { perst := b } ∧ (c.resetPcie b).stew.events = { c.stew.events with ringSet := false, ring := [] } ∧
    (∀ j, j < 16 → (c.resetPcie b).mbx j = {}) ∧ (∀ j, 16 ≤ j → (c.resetPcie b).mbx j = c.mbx j) ∧
    (c.resetPcie b).stew.rung = c.stew.rung.filter (fun j => decide (16 ≤ j)) := by
  have e := c.resetPcie_stew b
  exact ⟨SameBut.of_outside (Chip.resetPcie_outside b c (F := { mbx := true, rung := true, events := true, ctr := true }) rfl) (by decide),
    by rw [e], by rw [e], fun j hj => (c.mbx_resetPcie b j).trans (if_neg (Nat.not_le.mpr hj)),
    fun j hj => (c.mbx_resetPcie b j).trans (if_pos hj), by rw [e]⟩

theorem foldl_log {α : Type} (f : α → Sent) (l : List α) (c : Chip) :
    l.foldl (fun c x => c.log (f x)) c = { c with sent := (l.map f).reverse ++ c.sent } := by
  induction l generalizing c with
  | nil => rfl
  | cons x l ih =>
    rw [List.foldl_cons, ih, List.map_cons, List.reverse_cons, List.append_assoc]
    rfl

theorem Chip.releaseVectors_up {c : Chip} (h : c.hostUp = true) : c.releaseVectors = { c with
    stew := { c.stew with pcie := { c.stew.pcie with vecPending := c.stew.pcie.vecPending &&& c.stew.pcie.vecMasked } }
    sent := ((bitsSet 64 (maskDiff c.stew.pcie.vecPending c.stew.pcie.vecMasked)).map Sent.msix).reverse ++ c.sent } := by
  rw [Chip.releaseVectors, h]
  exact foldl_log Sent.msix _ _

theorem Chip.releaseVectors_down {c : Chip} (h : c.hostUp = false) : c.releaseVectors = c := by
  rw [Chip.releaseVectors, h]; rfl

/-! ### A ring -/

theorem Chip.drainDie_empty {c : Chip} (h : c.stew.events.die = []) (n : Nat) : c.drainDie n = c := by
  cases n with
  | zero => rfl
  | succ n => rw [Chip.drainDie, h]

/-- Records that move to the ring leave EV_CONS where it stands. -/
theorem Chip.drainDie_cons (n : Nat) (c : Chip) : (c.drainDie n).stew.events.cons = c.stew.events.cons := by
  induction n generalizing c with
  | zero => rfl
  | succ n ih =>
    rw [Chip.drainDie]
    split
    · rfl
    · split
      · rw [ih]
        unfold Chip.writeRing
        dsimp only
        split
        · unfold Chip.signal
          split <;> rfl
        · rfl
      · rfl

/-- The mailbox that a ring submits (R432). -/
def Mailbox.rungWith (m : Mailbox) (t : Nat) : Mailbox :=
  { m with
    hdrSeq := m.seq, status := Status.pending.code, ready := false, hdrWords := 0, readCount := 0
    accepted := false, resultDeal := 0, res := [], pending := true, ticket := t }

/-- A part whose mailbox `k` has been rung, before firmware looks at it. -/
def Chip.submitted (k : Nat) (c : Chip) : Chip :=
  ({ c with stew := { c.stew with nextTicket := c.stew.nextTicket + 1 } } : Chip).setMbx k ((c.mbx k).rungWith c.stew.nextTicket)

theorem Chip.mbx_submitted (k j : Nat) (c : Chip) :
    (c.submitted k).mbx j = if j = k then (c.mbx k).rungWith c.stew.nextTicket else c.mbx j := Chip.mbx_setMbx ..

theorem Chip.submitted_outside (k : Nat) (c : Chip) {F : Foot} (hF : Foot.le { mbx := true, stew := true } F) :
    (c.submitted k).outside F = c.outside F := Chip.outside_mono hF rfl

theorem Chip.ringBox_eq (k : Nat) (c : Chip) : c.ringBox k =
    if c.stew.phase = .restarting then (c.submitted k).post k c.stew.nextTicket .restarting []
    else if !c.stew.bootReady && !c.earlyCommand k (c.mbx k).opcode then (c.submitted k).post k c.stew.nextTicket .notReady []
    else Chip.settle 32 { c.submitted k with stew := { (c.submitted k).stew with rung := c.stew.rung ++ [k] } } := rfl

/-- What is posted to a host mailbox that a command holds. -/
theorem Chip.post_host {k t : Nat} (hk : k < 16) {c : Chip} (h : (c.mbx k).pending = true ∧ (c.mbx k).ticket = t) (st : Status)
    (ws : List Nat) : (c.post k t st ws).mbx k = (c.mbx k).holding st ws ∧
      (c.post k t st ws).outside { mbx := true, events := true, sent := true } = c.outside { mbx := true, events := true, sent := true } := by
  rw [Chip.post_of_held h, if_pos hk]
  split
  · refine ⟨(Chip.signal_mbx ..).trans ((Chip.mbx_setMbx ..).trans (if_pos rfl)), ?_⟩
    simp +decide
  · exact ⟨(Chip.mbx_setMbx ..).trans (if_pos rfl), Chip.setMbx_outside _ _ c rfl⟩

/-- A command that waits its turn. -/
def Chip.queued (k : Nat) (c : Chip) : Chip :=
  { c.submitted k with stew := { (c.submitted k).stew with rung := c.stew.rung ++ [k] } }

theorem Chip.mbx_queued (k j : Nat) (c : Chip) : (c.queued k).mbx j = if j = k then (c.mbx k).rungWith c.stew.nextTicket else c.mbx j :=
  Chip.mbx_setMbx ..

section
variable {c : Chip} {k : Nat} (hp : c.stew.phase ≠ .restarting)
include hp

theorem Chip.ringBox_ready (hb : c.stew.bootReady = true) : c.ringBox k = (c.queued k).settle 32 := by
  rw [Chip.ringBox_eq, if_neg hp, hb]; rfl

/-- A ring of a part whose oldest rung command is one that firmware serves. -/
theorem Chip.ringBox_serves (hb : c.stew.bootReady = true) {j : Nat} (hj : j = (c.stew.rung ++ [k]).headD 0) (ho : (c.mbx j).opcode ∈ opcodes)
    (hd : 16 ≤ j → (c.mbx j).opcode ∉ deniedInBand) : c.ringBox k = c.queued k := by
  rw [Chip.ringBox_ready hp hb]
  obtain ⟨rest, hr⟩ : ∃ rest, (c.queued k).stew.rung = j :: rest := by
    have : c.stew.rung ++ [k] = (c.stew.rung ++ [k]).headD 0 :: (c.stew.rung ++ [k]).tail := by cases c.stew.rung <;> rfl
    exact ⟨_, this.trans (by rw [← hj])⟩
  have op : ((c.queued k).mbx j).opcode = (c.mbx j).opcode := by
    rw [Chip.mbx_queued]; split
    · next h => rw [h]; rfl
    · rfl
  rw [show (32 : Nat) = 31 + 1 from rfl, Chip.settle, hr]
  dsimp only
  rw [op, if_neg]
  simp only [Bool.or_eq_true, Bool.not_eq_true', Bool.and_eq_true, decide_eq_true_eq, List.contains_eq_mem, not_or, not_and,
    Bool.not_eq_false]
  exact ⟨by simpa using ho, fun h => by simpa using hd h⟩

end

theorem Chip.submitted_held (k : Nat) (c : Chip) :
    ((c.submitted k).mbx k).pending = true ∧ ((c.submitted k).mbx k).ticket = c.stew.nextTicket := by
  rw [Chip.mbx_submitted, if_pos rfl]; exact ⟨rfl, rfl⟩

/-- A host's command of an opcode that is not assigned, with none rung before it, is answered at once. -/
theorem Chip.queued_bad {c : Chip} {k : Nat} (hk : k < 16) (hr : c.stew.rung = []) (ho : (c.mbx k).opcode ∉ opcodes) :
    Answers k .badOpcode [] [] c ((c.queued k).settle 32) := by
  have own : (c.queued k).mbx k = (c.mbx k).rungWith c.stew.nextTicket := (Chip.mbx_queued ..).trans (if_pos rfl)
  have rung : (c.queued k).stew.rung = [k] := show c.stew.rung ++ [k] = [k] by rw [hr]; rfl
  have held : ((c.queued k).taken k).mbx k = { (c.mbx k).rungWith c.stew.nextTicket with accepted := true, resultDeal := c.deal } := by
    rw [Chip.mbx_taken, if_pos rfl, own]; rfl
  obtain ⟨box, out⟩ := Chip.post_host hk (t := c.stew.nextTicket) (by rw [held]; exact ⟨rfl, rfl⟩) .badOpcode [] (c := (c.queued k).taken k)
  have idle : (((c.queued k).taken k).post k c.stew.nextTicket .badOpcode []).stew.rung = [] := by
    have r := congrArg (fun x : Chip => x.stew.rung) out
    exact Eq.trans r ((Chip.taken_rung ..).trans (by rw [rung]; rfl))
  have e : (c.queued k).settle 32 = ((c.queued k).taken k).post k c.stew.nextTicket .badOpcode [] := by
    rw [show (32 : Nat) = 31 + 1 from rfl, Chip.settle, rung]
    dsimp only
    rw [own, show ((c.mbx k).rungWith c.stew.nextTicket).opcode = (c.mbx k).opcode from rfl, List.contains_eq_mem, decide_eq_false ho]
    exact Chip.settle_of_idle 31 idle
  rw [e]
  refine ⟨by constructor <;> rw [box, held] <;> rfl, SameBut.of_outside
    (F := { mbx := true, rung := true, stew := true, events := true, ctr := true, sent := true }) ?_ ?_⟩
  · exact (Chip.outside_mono rfl out).trans ((Chip.taken_outside k _ rfl).trans rfl)
  · exact List.all_eq_true.mpr fun p _ => by cases p <;> simp [Part.answer, Foot.keeps]

theorem Chip.signal_events (v : Nat) (c : Chip) : (c.signal v).stew.events = c.stew.events := by
  unfold Chip.signal
  split <;> rfl

theorem Chip.writeCons_eq {v n : Nat} {c : Chip} (hn : n = if (c.stew.events.prod + 2 ^ 32 - c.stew.events.cons) % 2 ^ 32 <
      (v + 2 ^ 32 - c.stew.events.cons) % 2 ^ 32 then c.stew.events.prod else v) : c.writeCons v = (c.setEvents { c.stew.events with
    cons := n, ring := c.stew.events.ring.drop ((n + 2 ^ 32 - c.stew.events.cons) % 2 ^ 32) }).drainDie 1024 := by
  rw [hn, Chip.writeCons]

/-- Settles O55: a host's access is what its register makes of it, while PCIe carries it. -/
theorem hostAccessesComplete : Obligations.HostAccessesComplete := by
  intro k c q m e up hm he
  subst hm he
  have hosted : ∀ {f : Chip → Chip} {i : Instr} {ok : Bool} {P : Chip → Prop}, c.hostUp = true →
      (∀ s, exec i s = s.run ok (Chip.live (Chip.hosted f))) → ok = true → P (f c) → Does i ⟨c, q⟩ P := fun hh hi hok hp =>
    Does.of_live hi hok up (by rw [Chip.hosted, hh]; exact hp)
  refine ⟨?_, ?_, fun h => ?_, fun h => ?_, fun hh hk => ⟨fun hp => ?_, fun j hp hb hs hj ho hd => ?_, fun hp hb hs hr ho => ?_,
    fun hp hs => ?_, fun off bs hw => ⟨fun hp => ?_, fun hp ho => ?_, fun hp ho hl => ?_⟩, fun off size hw => ?_⟩,
    fun v n hh hv hn => ?_, fun hu hs => ?_, fun h => ?_⟩
  · rintro i b (⟨rfl, rfl⟩ | ⟨rfl, rfl, hh⟩)
    · exact Does.of_live (fun _ => rfl) rfl up (c.resetPcie_clears true)
    · exact hosted hh (fun _ => rfl) rfl (c.resetPcie_clears false)
  · exact Does.of_live (fun _ => rfl) rfl up rfl
  · refine Does.of_live (fun _ => rfl) rfl up ?_
    rw [h]
    exact Chip.releaseVectors_down (c := c.setPcie _) (Bool.and_false _)
  · refine Does.of_live (fun _ => rfl) rfl up ?_
    rw [h, if_neg Bool.false_ne_true, Chip.releaseVectors_up (c := c.setPcie _) (by rw [Chip.hostUp]; exact congrArg (!· && true) h)]
    refine ⟨SameBut.of_outside (F := { events := true, sent := true }) rfl (by decide), by rw [← h]; rfl, fun v hv hpend hmask => ?_⟩
    refine List.mem_append_left _ (List.mem_reverse.mpr (List.mem_map.mpr ⟨v, List.mem_filter.mpr ⟨List.mem_range.mpr hv, ?_⟩, rfl⟩))
    rw [bitAt_maskDiff]
    exact (Bool.and_eq_true _ _).mpr ⟨hpend, by rw [Bool.not_eq_true']; exact hmask⟩
  · exact hosted hh (fun _ => rfl) (decide_eq_true hk) (if_pos hp)
  · refine hosted hh (fun _ => rfl) (decide_eq_true hk) ?_
    rw [Chip.hostRing, if_neg (by rw [hp]; decide), Chip.ringBox_serves hs hb hj ho hd]
    exact ⟨SameBut.of_outside (F := { mbx := true, rung := true, stew := true }) rfl (by decide), rfl,
      fun x hx => (Chip.mbx_queued ..).trans (if_neg hx), (Chip.mbx_queued ..).trans (if_pos rfl)⟩
  · refine hosted hh (fun _ => rfl) (decide_eq_true hk) ?_
    rw [Chip.hostRing, if_neg (by rw [hp]; decide), Chip.ringBox_ready hs hb]
    exact Chip.queued_bad hk hr ho
  · refine hosted hh (fun _ => rfl) (decide_eq_true hk) ?_
    rw [Chip.hostRing, if_neg (by rw [hp]; decide), Chip.ringBox_eq]
    have posted : ∀ st, SameBut [.stew, .sent] c ((c.submitted k).post k c.stew.nextTicket st []) ∧
        (((c.submitted k).post k c.stew.nextTicket st []).mbx k).ready = true ∧
        (((c.submitted k).post k c.stew.nextTicket st []).mbx k).pending = false ∧
        (((c.submitted k).post k c.stew.nextTicket st []).mbx k).status = st.code ∧
        ((c.submitted k).post k c.stew.nextTicket st []).stew.rung = c.stew.rung := fun st => by
      obtain ⟨box, out⟩ := Chip.post_host hk (c.submitted_held k) st []
      refine ⟨SameBut.of_outside (F := { mbx := true, events := true, sent := true, stew := true })
        ((Chip.outside_mono rfl out).trans (c.submitted_outside k rfl)) (by decide), by rw [box]; rfl, by rw [box]; rfl, by rw [box]; rfl, ?_⟩
      have r := congrArg (fun x : Chip => x.stew.rung) out
      exact r
    by_cases h : c.stew.phase = .restarting
    · rw [if_pos h, if_pos h]
      exact posted .restarting
    · rw [if_neg h, if_neg h]
      obtain ⟨hb, he⟩ := hs.resolve_left h
      rw [hb, he]
      exact posted .notReady
  · exact hosted hh (fun _ => rfl) (by rw [decide_eq_true hk, hw]; rfl) (if_pos hp)
  · refine hosted hh (fun _ => rfl) (by rw [decide_eq_true hk, hw]; rfl) ?_
    rw [Chip.hostWriteBox, if_neg (by rw [hp]; decide), if_pos ho]
    refine ⟨SameBut.of_outside (Chip.setMbx_outside _ _ c (F := { mbx := true }) rfl) (by decide),
      fun x hx => (Chip.mbx_setMbx ..).trans (if_neg hx), ?_, fun i _ => ?_⟩
    all_goals rw [Chip.mbx_setMbx, if_pos rfl]
    exact byteOf_writeReq bs off (c.mbx k).req i
  · refine hosted hh (fun _ => rfl) (by rw [decide_eq_true hk, hw]; rfl) ?_
    subst ho
    rw [Chip.hostWriteBox, if_neg (by rw [hp]; decide), if_neg (by decide), Nat.sub_self, setCtrl_patchBytes _ hl]
    exact ⟨SameBut.of_outside (Chip.setMbx_outside _ _ c (F := { mbx := true }) rfl) (by decide),
      fun x hx => (Chip.mbx_setMbx ..).trans (if_neg hx), (Chip.mbx_setMbx ..).trans (if_pos rfl)⟩
  · refine hosted hh (fun _ => rfl) (by rw [decide_eq_true hk, hw]; rfl) ?_
    refine ⟨SameBut.of_outside (Chip.hostReadHeader_outside _ _ _ c (F := { mbx := true, sent := true }) rfl) (by decide), rfl,
      fun x hx => (Chip.mbx_setMbx ..).trans (if_neg hx), (Chip.mbx_setMbx ..).trans ?_⟩
    rw [if_pos rfl]
    split <;> rfl
  · refine hosted hh (fun _ => rfl) (decide_eq_true hv) ?_
    refine ⟨SameBut.of_outside (Chip.writeCons_outside v c (F := { events := true, sent := true }) rfl) (by decide), ?_, fun hd => ?_⟩
    all_goals rw [Chip.writeCons_eq hn]
    · exact Chip.drainDie_cons ..
    · refine Chip.drainDie_empty ?_ _
      exact hd
  · refine Does.of_live (fun _ => rfl) rfl up ?_
    rw [show c.moderate = (c.setEvents { c.stew.events with unsignalled := false, lastVec16 := some c.tb.age }).signal 16 from
      if_pos (by rw [hu, hs]; rfl)]
    refine ⟨?_, ?_, fun hm hh => ?_⟩
    · refine SameBut.of_outside (F := { events := true, sent := true }) ?_ (by decide)
      exact Chip.signal_outside 16 (c.setEvents _) rfl
    · exact Chip.signal_events ..
    · obtain ⟨h1, h2⟩ := (Bool.and_eq_true _ _).mp hh
      rw [Bool.not_eq_true'] at h1 h2
      rw [Chip.signal, if_neg]
      · rfl
      · show ¬(bitAt c.stew.pcie.vecMasked 16 || c.stew.pcie.d3hot || c.stew.pcie.perst) = true
        rw [hm, h1, h2]; decide
  · refine Does.of_live (f := Chip.moderate) (fun _ => rfl) rfl up (if_neg ?_)
    rcases h with h | h <;> rw [h] <;> simp

end Sys2Proof.Machine

/-! SUPPORT. The command sets of the Roll and what its operations leave (R203, R205, R208, R216, R221, R222). -/

namespace Sys2Proof.Machine

set_option Elab.async false

open Sys2Proof

/-! ### The half of a Roll that an operation touches -/

theorem Chip.rl_setRl (h : Nat) (v : RollHalf) (c : Chip) : (c.setRl h v).rl h = v := Halves.get_set_same ..

theorem Chip.rl_setRl_other {h : Nat} (hh : h < 2) (v : RollHalf) (c : Chip) : (c.setRl h v).rl (1 - h) = c.rl (1 - h) :=
  Halves.get_set_other hh ..

theorem Chip.rset_setRset (h s : Nat) (v : RollSet) (c : Chip) : (c.setRset h s v).rset h s = v := by
  rw [Chip.rset, Chip.setRset, Chip.rl_setRl]; exact Halves.get_set_same ..

theorem Chip.rset_setRset_other (h : Nat) {s : Nat} (hs : s < 2) (v : RollSet) (c : Chip) :
    (c.setRset h s v).rset h (1 - s) = c.rset h (1 - s) := by
  rw [Chip.rset, Chip.setRset, Chip.rl_setRl]; exact Halves.get_set_other hs ..

theorem Chip.rl_setRset_entries (h s : Nat) (v : RollSet) (c : Chip) : ((c.setRset h s v).rl h).entries = (c.rl h).entries := by
  rw [Chip.setRset, Chip.rl_setRl]

theorem Chip.rl_setRset_other {h : Nat} (hh : h < 2) (s : Nat) (v : RollSet) (c : Chip) :
    (c.setRset h s v).rl (1 - h) = c.rl (1 - h) := Chip.rl_setRl_other hh ..

theorem Chip.rl_of_outside {F : Foot} {c t : Chip} (e : t.outside F = c.outside F) (hF : F.keeps .roll) (h : Nat) : t.rl h = c.rl h := by
  have : t.roll = c.roll := Part.Same.of_outside (p := .roll) e hF
  rw [Chip.rl, Chip.rl, this]

/-! ### RL_CMD and the registers of a set -/

theorem Chip.setAccess_of_up {r : Nat} {c : Chip} (h : r = 0 → c.hostUp = true) (f : Chip → Chip) : c.setAccess r f = f c := by
  unfold Chip.setAccess
  split
  next hr => exact if_pos (h hr)
  next => rfl

theorem Chip.rollStart_busy {h r : Nat} {c : Chip} (hb : (c.rset h r).op ≠ none) (op : RollOp) :
    c.rollStart h r op = c.stick (rollReg h r 0x38) 4 := if_pos (Option.isSome_iff_ne_none.mpr hb)

theorem Chip.rollStart_starts {h r : Nat} {c : Chip} (hh : h < 2) (hr : r < 2) (hf : (c.rset h r).op = none) (op : RollOp) :
    RollStarts h r op c (c.rollStart h r op) := by
  have e : c.rollStart h r op = (c.setRset h r { c.rset h r with op := some op }).setRl h
      { (c.setRset h r { c.rset h r with op := some op }).rl h with
        ops := ((c.setRset h r { c.rset h r with op := some op }).rl h).ops ++ [r] } := by
    rw [Chip.rollStart, hf]; rfl
  rw [e]
  constructor
  · rw [Chip.rset, Chip.rl_setRl]; exact Chip.rset_setRset ..
  · rw [Chip.rl_setRl, Chip.setRset, Chip.rl_setRl]
  · rw [Chip.rset, Chip.rl_setRl]; exact Chip.rset_setRset_other h hr ..
  · rw [Chip.rl_setRl]; exact Chip.rl_setRset_entries ..
  · exact (Chip.rl_setRl_other hh ..).trans (Chip.rl_setRset_other hh ..)
  · exact SameBut.of_outside (F := { roll := true }) rfl (by decide)

/-- Settles O30: a command set takes an operation or a register write while it has none, and neither while it has. -/
theorem rollCommandsStart : Obligations.RollCommandsStart := by
  intro c q h r up hh hr hu
  have ok : (okHalf h && decide (r < 2)) = true := by rw [okHalf, decide_eq_true hh, decide_eq_true hr]; rfl
  have does : ∀ {f : Chip → Chip} {i : Instr} {b : Bool} {P : Chip → Prop}, (∀ s, exec i s = s.run b (Chip.fabric (Chip.setAccess r f))) →
      b = true → P (f c) → Does i ⟨c, q⟩ P := fun hi hb hp =>
    Does.of_fabric hi hb up (by rw [Chip.setAccess_of_up hu]; exact hp)
  refine ⟨fun hf => ?_, fun hb => ⟨?_, fun v hv => ?_⟩⟩
  · have starts := fun op => Chip.rollStart_starts hh hr hf op
    refine ⟨does (fun _ => rfl) ok (starts _), fun m keep hm => does (fun _ => rfl) (by rw [ok, decide_eq_true hm]; rfl) (starts _),
      does (fun _ => rfl) ok (starts _), fun i hi => does (fun _ => rfl) (by rw [ok, decide_eq_true hi]; rfl) (starts _),
      does (fun _ => rfl) ok (starts _), does (fun _ => rfl) ok (starts _),
      fun op m ho hm hl => does (fun _ => rfl) ?_ (starts _), fun g v hg hv => does (fun _ => rfl) ?_ ?_⟩
    · rw [ok, decide_eq_true ho, decide_eq_true hm]
      simp only [Bool.true_and, Bool.or_eq_true, decide_eq_true_eq, Bool.and_eq_true, beq_iff_eq]
      tauto
    · rw [ok, decide_eq_true hg, decide_eq_true hv]; rfl
    · have e : ∃ y, c.rollSetWrite h r g v = c.setRset h r y ∧ y = (if g = 0 then { c.rset h r with key0 := v % 2 ^ 48 }
          else if g = 1 then { c.rset h r with key1 := v % 2 ^ 32 } else { c.rset h r with data := (c.rset h r).data.set (g - 2) v }) := by
        unfold Chip.rollSetWrite
        rw [if_neg (by rw [hf]; exact Bool.false_ne_true)]
        split
        · exact ⟨_, rfl, rfl⟩
        · split <;> exact ⟨_, rfl, rfl⟩
      obtain ⟨y, e, hy⟩ := e
      rw [e, ← hy]
      exact ⟨Chip.rset_setRset .., Chip.rset_setRset_other h hr .., Chip.rl_setRset_other hh ..,
        SameBut.of_outside (F := { roll := true }) rfl (by decide)⟩
  · refine does (fun _ => rfl) ok ?_
    rw [Chip.rollStart_busy hb]
    exact ⟨rfl, SameBut.of_outside (F := { ctr := true }) (Chip.stick_outside _ _ c rfl) (by decide)⟩
  · refine does (fun _ => rfl) (by rw [ok, decide_eq_true hv]; rfl) ?_
    rw [show c.rollSetWrite h r 0 v = c.stick (rollReg h r 0x38) 4 from if_pos (Option.isSome_iff_ne_none.mpr hb)]
    exact ⟨rfl, SameBut.of_outside (F := { ctr := true }) (Chip.stick_outside _ _ c rfl) (by decide)⟩

/-! ### Lookups -/

/-- A lookup changes the cache of its half and no more of the Roll. -/
theorem Chip.rollAccess_rl {h : Nat} (hh : h < 2) (kitty src : Nat) (c : Chip) :
    (∃ x, (c.rollAccess h kitty src).rl h = { c.rl h with cache := x }) ∧ (c.rollAccess h kitty src).rl (1 - h) = c.rl (1 - h) := by
  have miss : ∀ g, (((c.bump (rlCount h 1 32) 1).occur h 0x0C none none 1).chargeRoll h 256).rl g = c.rl g := fun g =>
    Chip.rl_of_outside (F := { lard := true, ctr := true }) (by simp +decide) rfl g
  have cached : ∀ d : Chip, (∃ x, (d.rollCache h kitty src).rl h = { d.rl h with cache := x }) ∧ (d.rollCache h kitty src).rl (1 - h) = d.rl (1 - h) :=
    fun d => ⟨⟨_, Chip.rl_setRl ..⟩, Chip.rl_setRl_other hh ..⟩
  have key : ∀ d : Chip, (∀ g, d.rl g = c.rl g) → (∃ x, (if (d.rollFind h kitty src).isSome then d.rollCache h kitty src else d).rl h =
      { c.rl h with cache := x }) ∧ (if (d.rollFind h kitty src).isSome then d.rollCache h kitty src else d).rl (1 - h) = c.rl (1 - h) := fun d hd => by
    split
    · obtain ⟨⟨x, hx⟩, ho⟩ := cached d
      exact ⟨⟨x, hx.trans (by rw [hd])⟩, ho.trans (hd _)⟩
    · exact ⟨⟨_, hd h⟩, hd _⟩
  unfold Chip.rollAccess
  dsimp only
  split
  · exact key c fun _ => rfl
  · exact key _ miss

/-- Where a key is found depends on the entries and the purge list. -/
theorem Chip.rollFind_of_rl {h : Nat} {c d : Chip} (hf : d.fuses = c.fuses) (he : (d.rl h).entries = (c.rl h).entries)
    (hp : (d.rl h).purges = (c.rl h).purges) (kitty src : Nat) : d.rollFind h kitty src = c.rollFind h kitty src := by
  have slots : d.rollSlots kitty src = c.rollSlots kitty src := by
    unfold Chip.rollSlots Chip.rollSlot
    rw [hf]
  rw [Chip.rollFind, Chip.rollFind, Chip.purging, Chip.purging, he, hp, slots]

/-- An entry that is removed leaves its key's slot, and nothing else of the entries. -/
theorem Chip.rollRemove_rl {h : Nat} (hh : h < 2) (a : Nat) (c : Chip) : ((c.rollRemove h a).rl h).entries = Tab.erase a (c.rl h).entries ∧
    (c.rollRemove h a).rl (1 - h) = c.rl (1 - h) := by
  have level : ∀ d : Chip, ((d.rollLevel h).rl h).entries = (d.rl h).entries ∧ (d.rollLevel h).rl (1 - h) = d.rl (1 - h) := fun d => by
    unfold Chip.rollLevel
    dsimp only
    split
    · have e : ∀ g x, ((d.setRl h x).raise 0x0804 2 [(1, h), (24, (d.rl h).entries.length)]).rl g = (d.setRl h x).rl g := fun g x =>
        Chip.rl_of_outside (Chip.raise_outside _ _ _ _ (F := Foot.event) rfl) rfl g
      rw [e, e, Chip.rl_setRl, Chip.rl_setRl_other hh]
      exact ⟨rfl, rfl⟩
    · split
      · rw [Chip.rl_setRl, Chip.rl_setRl_other hh]; exact ⟨rfl, rfl⟩
      · exact ⟨rfl, rfl⟩
  have mirror : ∀ e (d : Chip) g, (d.mirrorRemoval h e).rl g = d.rl g := fun e d g =>
    Chip.rl_of_outside (Chip.mirrorRemoval_outside h e d (F := { Foot.event with twin := true }) rfl) rfl g
  unfold Chip.rollRemove
  dsimp only
  rw [mirror, mirror]
  unfold Chip.rollErase
  dsimp only
  rw [(level _).1, (level _).2, Chip.rl_setRl, Chip.rl_setRl_other hh]
  exact ⟨rfl, rfl⟩

/-! ### Operations -/

/-- The operation at the head leaves the engine's queue. -/
def Chip.rollTaken (h : Nat) (c : Chip) : Chip := c.setRl h { c.rl h with ops := (c.rl h).ops.drop 1 }

theorem Chip.rollTaken_same (h : Nat) (c : Chip) : (c.rollTaken h).rset h = c.rset h ∧ (c.rollTaken h).purging h = c.purging h ∧
    (c.rollTaken h).rollFind h = c.rollFind h ∧ (c.rollTaken h).rollHit h = c.rollHit h ∧
    ((c.rollTaken h).rl h).entries = (c.rl h).entries ∧ ((c.rollTaken h).rl h).purges = (c.rl h).purges ∧
    (c.rollTaken h).kittyIsOpen = c.kittyIsOpen := by
  have e : (c.rollTaken h).rl h = { c.rl h with ops := (c.rl h).ops.drop 1 } := Chip.rl_setRl ..
  have he : ((c.rollTaken h).rl h).entries = (c.rl h).entries := by rw [e]
  have hp : ((c.rollTaken h).rl h).purges = (c.rl h).purges := by rw [e]
  refine ⟨?_, ?_, ?_, ?_, he, hp, rfl⟩
  · funext s; rw [Chip.rset, e, Chip.rset]
  · funext x; rw [Chip.purging, hp, Chip.purging]
  · funext k s; exact Chip.rollFind_of_rl (h := h) (c := c) (d := c.rollTaken h) rfl he hp k s
  · funext k s; rw [Chip.rollHit, e, Chip.rollHit]; rfl

theorem Chip.rollOpDone_eq {h r : Nat} {c : Chip} {op : RollOp} (ho : (c.rset h r).op = some op) (hq : (c.rl h).ops.head? = some r)
    (bad : List Nat) : c.rollOpDone h r bad = match op.op with
      | 1 => (c.rollTaken h).rollKeyed h r 1 bad
      | 3 => (c.rollTaken h).rollKeyed h r 3 bad
      | 6 => (c.rollTaken h).rollKeyed h r 6 bad
      | 2 => if op.mode = 3 then (c.rollTaken h).setRset h r ((c.rset h r).finish 7 none false) else (c.rollTaken h).rollWrite h r op bad
      | 4 => (c.rollTaken h).rollReadIndex h r op.index bad
      | 5 => (c.rollTaken h).rollPurge h r
      | _ => (c.rollTaken h).setRset h r ((c.rset h r).finish 7 none false) := by
  rw [Chip.rollOpDone, ho, hq]
  exact if_neg (fun x => x rfl)

theorem Chip.rset_of_rl {h : Nat} {c d : Chip} (e : d.rl h = c.rl h) (s : Nat) : d.rset h s = c.rset h s := by rw [Chip.rset, e, Chip.rset]

/-- READ, TOUCH and DELETE of a key whose slots read without an error: by what the lookup finds. -/
theorem Chip.rollKeyed_eq {h s op : Nat} {c : Chip} (hh : h < 2) (hp : c.purging h (c.rset h s).key1 = false) : c.rollKeyed h s op [] =
    match c.rollFind h (c.rset h s).key1 (c.rset h s).key0 with
    | none => (c.rollAccess h (c.rset h s).key1 (c.rset h s).key0).setRset h s ((c.rset h s).finish 1 none false)
    | some (a, e) =>
      if op = 3 then ((c.rollAccess h (c.rset h s).key1 (c.rset h s).key0).rollRemove h a).setRset h s
        ((c.rset h s).finish 0 (some a) (c.rollHit h (c.rset h s).key1 (c.rset h s).key0))
      else (c.rollAccess h (c.rset h s).key1 (c.rset h s).key0).setRset h s
        ((if op = 1 then { c.rset h s with data := e.words } else c.rset h s).finish 0 (some a)
          (c.rollHit h (c.rset h s).key1 (c.rset h s).key0)) := by
  have read : c.rollRead h (c.rset h s).key1 (c.rset h s).key0 [] = c.rollAccess h (c.rset h s).key1 (c.rset h s).key0 := by
    unfold Chip.rollRead
    dsimp only [List.foldl_nil]
    rw [ite_self]
  have find : (c.rollAccess h (c.rset h s).key1 (c.rset h s).key0).rollFind h (c.rset h s).key1 (c.rset h s).key0 =
      c.rollFind h (c.rset h s).key1 (c.rset h s).key0 := by
    have out := Chip.rollAccess_outside h (c.rset h s).key1 (c.rset h s).key0 c (F := { roll := true, lard := true, ctr := true }) rfl
    obtain ⟨x, hx⟩ := (Chip.rollAccess_rl hh (c.rset h s).key1 (c.rset h s).key0 c).1
    exact Chip.rollFind_of_rl (Part.Same.of_outside (p := .fuses) out rfl) (by rw [hx]) (by rw [hx]) _ _
  unfold Chip.rollKeyed
  dsimp only
  rw [if_neg (by rw [hp]; exact Bool.false_ne_true), read, find]
  rfl

/-- What the set and the entries of a half hold after an operation of a lookup. -/
theorem Chip.setRset_after {h : Nat} (hh : h < 2) (s : Nat) (v : RollSet) (c : Chip) : (c.setRset h s v).rset h s = v ∧
    ((c.setRset h s v).rl h).entries = (c.rl h).entries ∧ (c.setRset h s v).rl (1 - h) = c.rl (1 - h) :=
  ⟨Chip.rset_setRset .., Chip.rl_setRset_entries .., Chip.rl_setRset_other hh ..⟩

/-- A lookup whose outcome is noted in the set leaves the entries and the other half. -/
theorem Chip.rollAccess_noted {h : Nat} (hh : h < 2) (s k0 k1 : Nat) (v : RollSet) (c : Chip) :
    (((c.rollTaken h).rollAccess h k0 k1).setRset h s v).rset h s = v ∧
    ((((c.rollTaken h).rollAccess h k0 k1).setRset h s v).rl h).entries = (c.rl h).entries ∧
    (((c.rollTaken h).rollAccess h k0 k1).setRset h s v).rl (1 - h) = c.rl (1 - h) ∧
    SameBut [.roll, .lard, .regs] c (((c.rollTaken h).rollAccess h k0 k1).setRset h s v) := by
  obtain ⟨hv, he, ho⟩ := Chip.setRset_after hh s v ((c.rollTaken h).rollAccess h k0 k1)
  obtain ⟨⟨x, hx⟩, hy⟩ := Chip.rollAccess_rl hh k0 k1 (c.rollTaken h)
  refine ⟨hv, he.trans ?_, ho.trans (hy.trans (Chip.rl_setRl_other hh ..)), SameBut.of_outside (F := { roll := true, lard := true, ctr := true }) ?_ (by decide)⟩
  · rw [hx, Chip.rollTaken, Chip.rl_setRl]
  · rw [Chip.setRset_outside _ _ _ _ rfl, Chip.rollAccess_outside _ _ _ _ rfl]; rfl

/-- An entry that a lookup found is removed. -/
theorem Chip.rollRemove_noted {h : Nat} (hh : h < 2) (s k0 k1 a : Nat) (v : RollSet) (c : Chip) :
    ((((c.rollTaken h).rollAccess h k0 k1).rollRemove h a).setRset h s v).rset h s = v ∧
    (((((c.rollTaken h).rollAccess h k0 k1).rollRemove h a).setRset h s v).rl h).entries = Tab.erase a (c.rl h).entries ∧
    ((((c.rollTaken h).rollAccess h k0 k1).rollRemove h a).setRset h s v).rl (1 - h) = c.rl (1 - h) ∧
    SameBut [.roll, .lard, .twin, .stew, .regs, .sent] c ((((c.rollTaken h).rollAccess h k0 k1).rollRemove h a).setRset h s v) := by
  obtain ⟨hv, he, ho⟩ := Chip.setRset_after hh s v (((c.rollTaken h).rollAccess h k0 k1).rollRemove h a)
  obtain ⟨he', ho'⟩ := Chip.rollRemove_rl hh a ((c.rollTaken h).rollAccess h k0 k1)
  obtain ⟨⟨x, hx⟩, hy⟩ := Chip.rollAccess_rl hh k0 k1 (c.rollTaken h)
  refine ⟨hv, he.trans (he'.trans ?_), ho.trans (ho'.trans (hy.trans (Chip.rl_setRl_other hh ..))),
    SameBut.of_outside (F := { Foot.event with roll := true, twin := true, lard := true }) ?_ (by decide)⟩
  · rw [hx, Chip.rollTaken, Chip.rl_setRl]
  · rw [Chip.setRset_outside _ _ _ _ rfl, Chip.rollRemove_outside _ _ _ rfl, Chip.rollAccess_outside _ _ _ _ rfl]; rfl

/-- Settles O31: by what the operation at the head is, and by what its lookup finds. -/
theorem rollOperationsComplete : Obligations.RollOperationsComplete := by
  rintro c q h r x up hh hr rfl hq
  have ok : (okHalf h && decide (r < 2) && ([] : List Nat).all fun w => decide (w < 4)) = true := by
    rw [okHalf, decide_eq_true hh, decide_eq_true hr]; rfl
  have does : ∀ {P : Chip → Prop}, P (c.rollOpDone h r []) → Does (.rollOpDone h r []) ⟨c, q⟩ P := fun hp =>
    Does.of_fabric (fun _ => rfl) ok up hp
  obtain ⟨hs, hpu, hfi, hhi, hen, hpl, hk⟩ := Chip.rollTaken_same h c
  have done : ∀ {op : RollOp} {t : Chip} {P : Chip → Prop}, (c.rset h r).op = some op → c.rollOpDone h r [] = t → P t →
      Does (.rollOpDone h r []) ⟨c, q⟩ P := fun _ e hp => does (e ▸ hp)
  have keyed := fun op => Chip.rollKeyed_eq (s := r) (op := op) (c := c.rollTaken h) hh
  rw [hs, hpu, hfi, hhi] at keyed
  refine ⟨fun a e ho hp hf => ?_, fun ho hp hf => ?_, fun a e ho hp hf => ?_, fun ho hk' hp hl => ?_, fun o ho hr' => ?_⟩
  · exact done ho ((Chip.rollOpDone_eq ho hq []).trans ((keyed 1 hp).trans (by rw [hf]; rfl))) (Chip.rollAccess_noted hh ..)
  · exact done ho ((Chip.rollOpDone_eq ho hq []).trans ((keyed 1 hp).trans (by rw [hf]; rfl))) (Chip.rollAccess_noted hh ..)
  · obtain ⟨hv, rest⟩ := Chip.rollRemove_noted hh r (c.rset h r).key1 (c.rset h r).key0 a
      ((c.rset h r).finish 0 (some a) (c.rollHit h (c.rset h r).key1 (c.rset h r).key0)) c
    exact done ho ((Chip.rollOpDone_eq ho hq []).trans ((keyed 3 hp).trans (by rw [hf]; rfl)))
      ⟨congrArg RollSet.op hv, congrArg RollSet.err hv, rest⟩
  · have e : (c.rollTaken h).rollPurge h r = ((c.rollTaken h).setRl h { (c.rollTaken h).rl h with purges := Tab.put 0 ((c.rset h r).key1, 2 ^ 23) [] }).setRset h r
        ((c.rset h r).finish 0 none false) := by
      unfold Chip.rollPurge
      dsimp only
      rw [hs, hk, hpu, hpl, hl, if_neg (by rw [hk']; exact Bool.false_ne_true), if_neg (by rw [hp]; exact Bool.false_ne_true)]
      rfl
    obtain ⟨hv, he, -⟩ := Chip.setRset_after hh r ((c.rset h r).finish 0 none false)
      ((c.rollTaken h).setRl h { (c.rollTaken h).rl h with purges := Tab.put 0 ((c.rset h r).key1, 2 ^ 23) [] })
    refine done ho ((Chip.rollOpDone_eq ho hq []).trans e) ⟨hv, ?_, he.trans ?_, SameBut.of_outside (F := { roll := true }) rfl (by decide)⟩
    · rw [Chip.setRset, Chip.rl_setRl, Chip.rl_setRl]; rfl
    · rw [Chip.rl_setRl]; exact hen
  · have e : c.rollOpDone h r [] = (c.rollTaken h).setRset h r ((c.rset h r).finish 7 none false) := by
      obtain rfl | ⟨n, rfl⟩ : o = 0 ∨ ∃ n, o = n + 7 := hr'.imp_right fun hl => ⟨o - 7, by omega⟩
      · exact Chip.rollOpDone_eq ho hq []
      · exact Chip.rollOpDone_eq ho hq []
    obtain ⟨hv, he, -⟩ := Chip.setRset_after hh r ((c.rset h r).finish 7 none false) (c.rollTaken h)
    exact done ho e ⟨hv, he.trans hen, SameBut.of_outside (F := { roll := true }) rfl (by decide)⟩

end Sys2Proof.Machine

/-! SUPPORT. Training, Deal markers and silence of a port (R29, R30, R106 to R109, R114). -/

namespace Sys2Proof.Machine

set_option Elab.async false

open Sys2Proof

/-! ### A port that goes down -/

theorem Chip.endSentAt_sends (p : Nat) (c : Chip) : Chip.Sends (· = p) c (c.endSentAt p) := by
  have hd : Chip.Sends (· = p) c (c.settlePort p) := Chip.settlePort_sends p c
  unfold Chip.endSentAt
  extract_lets d s
  split
  · exact hd
  · extract_lets h q qu over_
    split
    · exact hd.trans (.setSched ..)
    · split
      · refine hd.trans (.of_outside (F := { nest := true, xbar := true, sch := true, ctr := true }) ?_ (Eq.refl _))
        split <;> simp +decide [d]
      · exact hd

theorem Chip.flushPort_sends (p : Nat) (c : Chip) : Chip.Sends (· = p) c (c.flushPort p) := by
  unfold Chip.flushPort
  extract_lets d s e f
  have he : Chip.Sends (· = p) c e := (Chip.settlePort_sends p c).trans
    (.foldl _ d fun c k => .of_outside (Chip.flushQueue_outside _ _ k c (F := { nest := true, xbar := true, ctr := true }) (Eq.refl _)) (Eq.refl _))
  refine Chip.Sends.trans ?_ (.setSched ..)
  unfold f
  split
  · exact (he.trans (.log ..)).trans (Chip.countSent_sends ..)
  · exact he

theorem Chip.Sends.raise {P : Nat → Prop} (code cls args) (c : Chip) : Chip.Sends P c (c.raise code cls args) :=
  .of_ports (Part.Same.of_outside (p := .ports) (Chip.raise_outside code cls args c (F := Foot.event) (Eq.refl _)) (Eq.refl _)) (Chip.sent_raise ..)

/-- A port that is taken down has the new state and no lane; of every other port only the BSEQ of the next data block may have moved. -/
theorem Chip.takeDown_port (p : Nat) (new : LinkState) (drain : Bool) (c : Chip) :
    ((c.takeDown p new drain).port p).link = new ∧ ((c.takeDown p new drain).port p).lanes = 0 ∧
      ∀ x, x ≠ p → ((c.takeDown p new drain).port x).unsent = (c.port x).unsent := by
  unfold Chip.takeDown
  extract_lets d x e f
  have he : Chip.Sends (fun _ => True) c e := by
    refine ((Chip.endSentAt_sends p c).mono fun _ _ => trivial).trans ?_
    unfold e
    split
    · split
      · exact .rfl
      · exact Chip.abandon_sends ..
    · exact .rfl
  have key : ∀ t, Chip.Sends (fun _ => True) f t → (t.port p).link = new ∧ (t.port p).lanes = 0 ∧ ∀ x, x ≠ p → (t.port x).unsent = (c.port x).unsent := by
    intro t h
    have hp : (t.port p).unsent = (f.port p).unsent := h.unsent p
    rw [show f.port p = _ from (Chip.port_setPort p p _ e).trans (if_pos (Eq.refl p))] at hp
    refine ⟨congrArg Port.link hp, congrArg Port.lanes hp, fun x hx => ?_⟩
    rw [h.unsent, show f.port x = e.port x from (Chip.port_setPort x p _ e).trans (if_neg hx), he.unsent]
  split
  · exact key _ ((((Chip.Sends.of_outside (Chip.setFanActive_outside p false f (F := { nest := true, due := true }) (Eq.refl _)) (Eq.refl _)).trans
      ((Chip.flushPort_sends p _).mono fun _ _ => trivial)).trans (.raise ..)))
  · exact key f .rfl

/-! ### What a good marker tells -/

/-- The mask of the far end that a good block gives, as a port that keeps a lane takes it. -/
def Port.heard (m : Nat) (x : Port) : Port :=
  { x with
    farLanes := m
    newFar := if x.farLanes = m then x.newFar
      else if x.link.live = true then (x.newFar &&& m) ||| maskDiff m (x.joinAt.foldl (fun a e => a ||| e.2.2) x.farLanes) else 0 }

theorem Chip.bothMask_setPort (p : Nat) (v : Port) (c : Chip) : (c.setPort p v).bothMask p = runMask (c.cfgWidth p) (c.hereMask p &&& v.farLanes) := by
  have e : (c.setPort p v).port p = v := (Chip.port_setPort ..).trans (if_pos rfl)
  rw [Chip.bothMask, e]
  rfl

/-- A port that hears of the lanes it knows, or that keeps a usable lane, stays what it is. -/
theorem Chip.hearLanes_kept {c : Chip} {p m : Nat} {y : Port} (h : y.farLanes = m ∨ runMask (c.cfgWidth p) (c.hereMask p &&& m) ≠ 0) :
    (c.setPort p y).hearLanes p m = (c.setPort p (y.heard m)) ∨
      (c.setPort p y).hearLanes p m = ((c.setPort p y).setPort p (y.heard m)) := by
  have e : (c.setPort p y).port p = y := (Chip.port_setPort ..).trans (if_pos rfl)
  unfold Chip.hearLanes
  rw [e]
  dsimp only
  by_cases hm : y.farLanes = m
  · left
    subst hm
    rw [if_pos rfl, Port.heard, if_pos rfl]
  · right
    have nz := h.resolve_left hm
    rw [if_neg hm, if_neg, Port.heard, if_neg hm]
    rw [Chip.bothMask_setPort]
    simpa using fun _ => (show runMask ((c.setPort p y).cfgWidth p) ((c.setPort p y).hereMask p &&& m) ≠ 0 from nz)

/-- A port that checks markers and hears of no lane in common goes DOWN. -/
theorem Chip.hearLanes_lost {c : Chip} {p m : Nat} {y : Port} (hm : y.farLanes ≠ m) (marks : y.link.marks = true)
    (h : runMask (c.cfgWidth p) (c.hereMask p &&& m) = 0) : ∃ d : Chip, (c.setPort p y).hearLanes p m = d.takeDown p .down false := by
  have e : (c.setPort p y).port p = y := (Chip.port_setPort ..).trans (if_pos rfl)
  have on : (y.link.live || y.link == .train) = true := by
    revert marks; cases y.link <;> decide
  unfold Chip.hearLanes
  rw [e]
  dsimp only
  rw [if_neg hm, if_pos]
  · exact ⟨_, rfl⟩
  · rw [Chip.bothMask_setPort, on]
    exact beq_iff_eq.mpr h

/-- The lanes of a port follow from the light and the ports. -/
theorem Chip.masks_of_eq {c d : Chip} (hl : d.light = c.light) (hp : d.ports = c.ports) (p : Nat) :
    d.port p = c.port p ∧ d.cfgWidth p = c.cfgWidth p ∧ d.hereMask p = c.hereMask p := by
  have w : d.cfgWidth p = c.cfgWidth p := by rw [Chip.cfgWidth, Chip.cfgWidth, Chip.lotMode, Chip.lotMode, hp]
  refine ⟨by rw [Chip.port, Chip.port, hp], w, ?_⟩
  unfold Chip.hereMask Chip.portLanes Chip.lane
  rw [w, hl]

/-- The port of a good marker, but for what it tells of the far end's lanes. -/
def Port.marked (m : Marker) (x : Port) : Port :=
  { x with
    goodRun := x.goodRun + 1, missRun := 0
    train := { x.train with
      farAligned := m.aligned, goodMarkers := if x.train.hereDone then x.train.goodMarkers + 1 else 0 }
    aligned := x.aligned || (x.link.live && decide (16 ≤ x.goodRun + 1)) }

theorem Chip.takeMarker_good {c : Chip} {p : Nat} {m : Marker} (marks : (c.port p).link.marks = true) (hm : Marker.good m = true) :
    c.takeMarker p m = ((c.noteFec p m.fec).setPort p ((c.port p).marked m)).hearLanes p m.lanes := by
  unfold Chip.takeMarker
  dsimp only
  rw [if_pos marks, marks, hm]
  rfl

/-- The codewords that come with a block change counters alone. -/
theorem Chip.noteFec_masks (p : Nat) (f : Fec) (c : Chip) : (∀ x, (c.noteFec p f).port x = c.port x) ∧
    (c.noteFec p f).cfgWidth p = c.cfgWidth p ∧ (c.noteFec p f).hereMask p = c.hereMask p ∧ (c.noteFec p f).ports = c.ports := by
  have out := Chip.noteFec_outside p f c (F := { ctr := true }) rfl
  have hl : (c.noteFec p f).light = c.light := Part.Same.of_outside (p := .light) out rfl
  have hp : (c.noteFec p f).ports = c.ports := Part.Same.of_outside (p := .ports) out rfl
  exact ⟨fun x => (Chip.masks_of_eq hl hp x).1, (Chip.masks_of_eq hl hp p).2.1, (Chip.masks_of_eq hl hp p).2.2, hp⟩

theorem Chip.takeMarker_becomes {c : Chip} {p : Nat} {m : Marker} (marks : (c.port p).link.marks = true) (hm : Marker.good m = true)
    (h : (c.port p).farLanes = m.lanes ∨ runMask (c.cfgWidth p) (c.hereMask p &&& m.lanes) ≠ 0) :
    PortBecomes p (((c.port p).marked m).heard m.lanes) [.regs] c (c.takeMarker p m) := by
  obtain ⟨ports, width, here, hp⟩ := Chip.noteFec_masks p m.fec c
  have lotMode : (c.noteFec p m.fec).ports.lotMode = c.ports.lotMode := by rw [hp]
  have twin : (c.noteFec p m.fec).ports.twinConfigured = c.ports.twinConfigured := by rw [hp]
  have key : ∀ t, t = (c.noteFec p m.fec).setPort p (((c.port p).marked m).heard m.lanes) ∨
      t = ((c.noteFec p m.fec).setPort p ((c.port p).marked m)).setPort p (((c.port p).marked m).heard m.lanes) →
      PortBecomes p (((c.port p).marked m).heard m.lanes) [.regs] c t := by
    rintro t (rfl | rfl)
    · refine ⟨fun x => ?_, lotMode, twin,
        SameBut.of_outside (F := { ports := true, ctr := true }) (by simp +decide) (by decide)⟩
      rw [Chip.port_setPort, ports]
    · refine ⟨fun x => ?_, lotMode, twin,
        SameBut.of_outside (F := { ports := true, ctr := true }) (by simp +decide) (by decide)⟩
      rw [Chip.port_setPort, Chip.port_setPort, ports]
      split <;> rfl
  exact key _ ((Chip.takeMarker_good marks hm).symm ▸ Chip.hearLanes_kept (by rw [width, here]; exact h))

/-! ### A window that closes with no marker -/

/-- The port of a missed marker. -/
def Port.missed (x : Port) : Port :=
  { x with
    missRun := x.missRun + 1, goodRun := 0, train := { x.train with goodMarkers := 0 }
    aligned := x.aligned && !(x.link.live && x.missRun == 1) }

theorem Chip.missMarker_becomes {c : Chip} {p : Nat} (marks : (c.port p).link.marks = true) :
    PortBecomes p (c.port p).missed [.nest, .stew, .regs, .due, .sent] c (c.missMarker p) := by
  have key : ∀ d t : Chip, d = c.setPort p (c.port p).missed → t.outside { Foot.event with nest := true, due := true } = d.outside { Foot.event with nest := true, due := true } →
      PortBecomes p (c.port p).missed [.nest, .stew, .regs, .due, .sent] c t := by
    rintro d t rfl e
    have hp : t.ports = (c.setPort p (c.port p).missed).ports := Part.Same.of_outside (p := .ports) e rfl
    refine ⟨fun x => ?_, by rw [hp]; rfl, by rw [hp]; rfl,
      SameBut.of_outside (F := { Foot.event with ports := true, nest := true, due := true })
        ((Chip.outside_mono rfl e).trans (Chip.setPort_outside p _ c rfl)) (by decide)⟩
    rw [Chip.port, hp]
    exact Chip.port_setPort ..
  unfold Chip.missMarker
  dsimp only
  rw [if_neg (by rw [marks]; decide)]
  split
  next h =>
    refine key (c.setPort p { (c.port p) with
      missRun := (c.port p).missRun + 1, goodRun := 0, train := { (c.port p).train with goodMarkers := 0 }, aligned := false }) _ ?_ (by simp +decide)
    rw [Port.missed, h.1, show ((c.port p).missRun == 1) = true from beq_iff_eq.mpr (by omega)]
    simp
  next h =>
    refine key _ _ ?_ rfl
    have : ((c.port p).link.live && (c.port p).missRun == 1) = false := by
      rw [Bool.eq_false_iff]
      intro b
      obtain ⟨hl, hn⟩ := (Bool.and_eq_true _ _).mp b
      exact h ⟨hl, by have := beq_iff_eq.mp hn; omega⟩
    rw [Port.missed, this]
    simp

/-! ### Training -/

/-- What a TRAINING block tells of the far end. -/
structure Port.ToldBy (b : TrainingBlock) (x y : Port) : Prop where
  link : y.link = x.link
  locked : y.train.locked = if b.pattern then x.train.locked ||| 2 ^ b.lane else x.train.locked
  farDone : y.train.farDone = b.done
  farName : y.farName = b.nest
  farPort : y.farPort = b.port
  farLanes : y.farLanes = b.lanes

/-- A good TRAINING block sets the port, and raises a mismatch where it is news. -/
theorem Chip.trainStep_told (p : Nat) (b : TrainingBlock) (c : Chip) : ∃ y, Port.ToldBy b (c.port p) y ∧
    (c.trainStep p b = c.setPort p y ∨ ∃ code cls args, c.trainStep p b = (c.setPort p y).raise code cls args) := by
  unfold Chip.trainStep
  extract_lets x t ex xs samples done bad same t' d
  let y : Port := { x with train := t', farLanes := b.lanes, farPort := b.port, farName := b.nest, meanPs := if done then meanOf samples else x.meanPs }
  have hd : d = c.setPort p y := rfl
  refine ⟨y, ⟨rfl, rfl, rfl, rfl, rfl, rfl⟩, ?_⟩
  rw [hd]
  split
  · exact .inr ⟨_, _, _, rfl⟩
  · exact .inl rfl

/-- A DOWN port that a good TRAINING block reaches on a usable lane enters TRAIN. -/
theorem Chip.takeTraining_down {c : Chip} {p : Nat} {b : TrainingBlock} (hg : b.check = .good) (hd : (c.port p).link = .down)
    (hb : bitAt (c.hereMask p) b.lane = true) : c.takeTraining p b =
      (c.setPort p { c.port p with link := .train, train := { entered := c.tb.lt }, goodRun := 0, missRun := 0 }).trainStep p b := by
  unfold Chip.takeTraining
  dsimp only
  rw [if_pos (Or.inr hd), if_neg (fun h => h hg), if_pos (Or.inr hd), hb, hd]
  rfl

/-- Settles O19: by what each block tells its port; a port that loses its last lane, or falls silent, is taken down. -/
theorem linkEventsComplete : Obligations.LinkEventsComplete := by
  intro c q p up hp
  have down : ∀ d : Chip, ∀ t, t = d.takeDown p .down false → (t.port p).link = .down := by
    rintro d t rfl
    exact (Chip.takeDown_port p .down false d).1
  refine ⟨fun b ht hg hd hb => ?_, fun hl ht hr => ?_, fun m hm marks good h => ?_, fun m hm marks good hf h => ?_, fun marks => ?_, fun hl => ?_⟩
  · refine Does.of_fabric (fun _ => rfl) (by rw [hp, ht]; rfl) up ?_
    rw [Chip.takeTraining_down hg hd hb]
    generalize hx : ({ c.port p with link := .train, train := { entered := c.tb.lt }, goodRun := 0, missRun := 0 } : Port) = x
    obtain ⟨y, told, e⟩ := Chip.trainStep_told p b (c.setPort p x)
    rw [show (c.setPort p x).port p = x from (Chip.port_setPort ..).trans (if_pos rfl)] at told
    have out : ((c.setPort p x).trainStep p b).outside { Foot.event with ports := true } = c.outside { Foot.event with ports := true } := by
      rcases e with e | ⟨code, cls, args, e⟩ <;> rw [e] <;> simp +decide
    have ports : ((c.setPort p x).trainStep p b).ports = ((c.setPort p x).setPort p y).ports := by
      rcases e with e | ⟨code, cls, args, e⟩
      · rw [e]
      · rw [e]; exact Part.Same.of_outside (p := .ports) (Chip.raise_outside _ _ _ _ (F := Foot.event) rfl) rfl
    have port : ∀ j, ((c.setPort p x).trainStep p b).port j = if j = p then y else c.port j := fun j => by
      rw [Chip.port, ports]
      refine (Chip.port_setPort j p y _).trans ?_
      split
      · rfl
      next h => exact (Chip.port_setPort ..).trans (if_neg h)
    have here := (port p).trans (if_pos rfl)
    refine ⟨?_, ?_, ?_, ?_, ?_, ?_, fun j hj => (port j).trans (if_neg hj), SameBut.of_outside out (by decide)⟩
    · rw [here, told.link, ← hx]
    · rw [here, told.locked, ← hx]; simp
    · rw [here, told.farDone]
    · rw [here, told.farName]
    · rw [here, told.farPort]
    · rw [here, told.farLanes]
  · refine Does.of_fabric (fun _ => rfl) hp up ?_
    have e : c.trainTimeout p = (c.setPort p { c.port p with train := { (c.port p).train with timeoutRaised := true } }).raise 0x0404 2 [(12, p)] :=
      if_pos ⟨hl, ht, by rw [hr]; rfl⟩
    have out := Chip.raise_outside 0x0404 2 [(12, p)] (c.setPort p { c.port p with train := { (c.port p).train with timeoutRaised := true } })
      (F := Foot.event) rfl
    have ports := Part.Same.of_outside (p := .ports) out rfl
    rw [e]
    refine ⟨fun x => ?_, ?_, ?_, SameBut.of_outside (F := { Foot.event with ports := true }) (by simp +decide) (by decide)⟩
    · rw [Chip.port, ports]; exact Chip.port_setPort ..
    · rw [ports]; rfl
    · rw [ports]; rfl
  · exact Does.of_fabric (fun _ => rfl) (by rw [hp, hm]; rfl) up (Chip.takeMarker_becomes marks good h)
  · refine Does.of_fabric (fun _ => rfl) (by rw [hp, hm]; rfl) up ⟨?_, SameBut.of_outside (Chip.takeMarker_outside p m c (F := { Foot.sending with xbar := true, due := true }) rfl) (by decide)⟩
    rw [Chip.takeMarker_good marks good]
    obtain ⟨-, width, here, -⟩ := Chip.noteFec_masks p m.fec c
    obtain ⟨d, e⟩ := Chip.hearLanes_lost (c := c.noteFec p m.fec) (y := (c.port p).marked m) hf marks (by rw [width, here]; exact h)
    exact down d _ e
  · exact Does.of_fabric (fun _ => rfl) hp up (Chip.missMarker_becomes marks)
  · have e : c.silence p = c.takeDown p .down false := if_pos hl
    obtain ⟨link, lanes, others⟩ := Chip.takeDown_port p .down false c
    refine Does.of_fabric (fun _ => rfl) hp up ?_
    rw [e]
    refine ⟨link, lanes, fun x hx => ?_, SameBut.of_outside (Chip.takeDown_outside p .down false c (F := { Foot.sending with xbar := true, due := true }) rfl) (by decide)⟩
    have u := others x hx
    have l := congrArg Port.link u
    have n := congrArg Port.lanes u
    exact ⟨l, n⟩

end Sys2Proof.Machine

/-! SUPPORT. The rings of a lane: sweeps, identity checks, locks, and the coming and going of light (R82 to R85, R101). -/

namespace Sys2Proof.Machine

set_option Elab.async false

open Sys2Proof

/-! ### The light of a lane that takes a value -/

/-- A lane takes a value, and with it nothing else of the light. -/
theorem Chip.updateLane_light (l : Nat) (v : Lane) (c : Chip) : (c.updateLane l v).light = (c.setLane l v).light := by
  have kept : ∀ {F : Foot} {d t : Chip}, t.outside F = d.outside F → F.keeps .light = true → t.light = d.light :=
    fun e h => Part.Same.of_outside (p := .light) e h
  unfold Chip.updateLane
  extract_lets was d
  split
  · rfl
  · split
    · exact kept (Chip.checkSpan_outside _ d (F := { Foot.event with xbar := true }) rfl) rfl
    · split
      · rfl
      · split
        · exact kept (Chip.portLostLane_outside _ d (F := { Foot.sending with xbar := true, due := true }) rfl) rfl
        · exact kept (Chip.portGainedLane_outside _ _ d (F := { ports := true, sent := true }) rfl) rfl

theorem Chip.lane_of_light {c d : Chip} (h : d.light = c.light) (j : Nat) : d.lane j = c.lane j := by rw [Chip.lane, Chip.lane, h]

theorem Chip.lane_updateLane (j l : Nat) (v : Lane) (c : Chip) : (c.updateLane l v).lane j = if j = l then v else c.lane j :=
  (Chip.lane_of_light (Chip.updateLane_light l v c) j).trans (Chip.lane_setLane ..)

theorem Chip.raise_light (code cls args) (c : Chip) : (c.raise code cls args).light = c.light :=
  Part.Same.of_outside (p := .light) (Chip.raise_outside code cls args c (F := Foot.event) rfl) rfl

theorem Lane.side_setSide (rx : Bool) (v : Side) (x : Lane) : (x.setSide rx v).side rx = v ∧ (x.setSide rx v).side (!rx) = x.side (!rx) := by
  cases rx <;> exact ⟨rfl, rfl⟩

/-! ### A sweep -/

/-- A side that steps one code below the end of the range. -/
def Side.swept (resonance : Bool) (s : Side) : Side :=
  { s with
    heater := s.heater + 1
    state := if resonance = true ∧ s.heater + 1 ∉ s.skip then .check else .sweep }

theorem Chip.sweepTick_step {c : Chip} {l : Nat} {rx : Bool} (hs : ((c.lane l).side rx).state = .sweep)
    (hk : ((c.lane l).side rx).keptCode = false) (hh : ((c.lane l).side rx).heater < 4094) (resonance : Bool) :
    c.sweepTick l rx resonance = c.setLane l ((c.lane l).setSide rx (((c.lane l).side rx).swept resonance)) := by
  have code : min 4095 (((c.lane l).side rx).heater + 1) = ((c.lane l).side rx).heater + 1 := Nat.min_eq_right (by omega)
  unfold Chip.sweepTick
  dsimp only
  split
  case h_2 h => exact absurd (hs.symm.trans h) (by decide)
  case h_3 h _ => exact absurd hs h
  rw [if_neg (by rw [hk]; exact Bool.false_ne_true), code, if_neg (by omega : ¬ 4095 ≤ ((c.lane l).side rx).heater + 1)]
  generalize (c.lane l).side rx = s at hs hk
  obtain ⟨state, heater, skip, outRun, kept, parked⟩ := s
  subst hs hk
  unfold Side.swept
  dsimp only
  split
  next h =>
    rw [if_pos]
    simpa using h
  next h =>
    rw [if_neg]
    simpa using h

/-! ### The identity check and the lock -/

/-- The first identity check that fails of three, at a code that shows another line. -/
theorem Chip.endCheck_other {c : Chip} {l : Nat} {rx : Bool} {tones : List Nat} (hs : ((c.lane l).side rx).state = .check)
    (hw : argMax tones ≠ laneWave l) (hf : (c.lane l).idFails < 2) : ∃ code cls args, c.endCheck l rx tones =
      (c.updateLane l (Lane.setSide rx { (c.lane l).side rx with
        state := .held, keptCode := false, skip := ((c.lane l).side rx).skip ++ [((c.lane l).side rx).heater], parked := false }
        { c.lane l with idFails := (c.lane l).idFails + 1 })).raise code cls args := by
  have n : min 3 ((c.lane l).idFails + 1) = (c.lane l).idFails + 1 := Nat.min_eq_right (by omega)
  unfold Chip.endCheck
  dsimp only
  rw [if_neg (fun h => h hs), if_pos hw]
  unfold Chip.failId
  dsimp only
  have few : decide (3 ≤ (c.lane l).idFails + 1) = false := decide_eq_false (by omega)
  rw [n, if_neg (fun h => by have := h.1; omega), few, Bool.false_and]
  exact ⟨_, _, _, rfl⟩

theorem Chip.endCheck_right {c : Chip} {l : Nat} {rx : Bool} {tones : List Nat} (hs : ((c.lane l).side rx).state = .check)
    (hw : argMax tones = laneWave l) (ht : (tones.eraseIdx (argMax tones)).foldl max 0 + 100 ≤ tones.getD (argMax tones) 0) :
    c.endCheck l rx tones = c.updateLane l (Lane.setSide rx { (c.lane l).side rx with
        state := .locked, skip := [], outRun := 0, keptCode := false } { c.lane l with idFails := 0 }) := by
  unfold Chip.endCheck
  dsimp only
  rw [if_neg (fun h => h hs), if_neg (fun h => h hw), if_neg (Nat.not_lt.mpr ht)]

theorem Chip.loopUpdate_held {c : Chip} {l : Nat} {rx : Bool} {code : Nat} {outside : Bool} (hs : ((c.lane l).side rx).state = .locked)
    (h0 : code ≠ 0) (h1 : code ≠ 4095) (hr : outside = true → ((c.lane l).side rx).outRun < 15) :
    c.loopUpdate l rx code outside = c.setLane l ((c.lane l).setSide rx { (c.lane l).side rx with
        heater := code, outRun := if outside then ((c.lane l).side rx).outRun + 1 else 0 }) := by
  unfold Chip.loopUpdate
  dsimp only
  rw [if_neg (fun h => h hs), if_neg]
  rintro (h | h | h)
  · exact h0 h
  · exact h1 h
  · split at h
    next ho => have := hr ho; omega
    next => omega

/-- A code at an end of the range gives the lock up; short of eight losses the lane stays. -/
theorem Chip.loopUpdate_lost {c : Chip} {l : Nat} {rx : Bool} {code : Nat} (outside : Bool) (hc : code = 0 ∨ code = 4095)
    (hs : ((c.lane l).side rx).state = .locked) (hl : (c.lane l).losses.length < 7) : ∃ v : Lane, ∃ ev cls args,
      v.side rx = { (c.lane l).side rx with
        state := .held, heater := code, skip := [], outRun := 0, keptCode := false, parked := false } ∧
      v.side (!rx) = (c.lane l).side (!rx) ∧
      c.loopUpdate l rx code outside = ((c.updateLane l v).bump (lockLosses l) 1).raise ev cls args := by
  have few : ¬ 8 ≤ (c.tb.lt :: (c.lane l).losses.filter (fun t => decide (c.tb.lt ≤ t + 2000000000))).length := by
    have := List.length_filter_le (fun t => decide (c.tb.lt ≤ t + 2000000000)) (c.lane l).losses
    rw [List.length_cons]; omega
  unfold Chip.loopUpdate
  dsimp only
  rw [if_neg (fun h => h hs), if_pos (hc.imp_right .inl), if_neg (fun h => few h.1), decide_eq_false few, Bool.false_and]
  refine ⟨_, _, _, _, ?_, ?_, rfl⟩
  · exact (Lane.side_setSide ..).1
  · refine (Lane.side_setSide ..).2.trans ?_
    cases rx <;> rfl

/-! ### Light -/

theorem Chip.loseLight_locked {c : Chip} {l : Nat} (hs : (c.lane l).rx.state = .locked) : c.loseLight l =
    (c.updateLane l { c.lane l with rx := { (c.lane l).rx with state := .nolight, keptCode := true, outRun := 0 } }).raise 0x0301 2 [(12, l)] := by
  unfold Chip.loseLight
  dsimp only
  rw [hs]

theorem Chip.gainLight_waiting {c : Chip} {l : Nat} (hs : (c.lane l).rx.state = .nolight) : c.gainLight l =
    c.setLane l { c.lane l with rx := { (c.lane l).rx with
      state := if (c.lane l).rx.parked then .held else .sweep
      heater := if (c.lane l).rx.keptCode then (c.lane l).rx.heater else 0
      keptCode := true } } := by
  unfold Chip.gainLight
  dsimp only
  rw [hs]

/-- Settles O22: by what each event leaves of the lane's side. -/
theorem ringEventsComplete : Obligations.RingEventsComplete := by
  intro c q l up hl
  have bumped : ∀ (f n) (d : Chip), (d.bump f n).light = d.light := fun f n d =>
    Part.Same.of_outside (p := .light) (Chip.bump_outside f n d (F := { ctr := true }) rfl) rfl
  refine ⟨fun rx resonance hs hk hh => ?_, fun rx tones ht hs hw hm => ?_, fun rx tones ht hs hw hf => ?_,
    fun rx code outside hc hs h0 h1 hr => ?_, fun rx code outside hc hs hn => ?_, fun hs => ?_, fun hs => ?_, fun h b hh hb hs => ?_⟩
  · refine Does.of_fabric (fun _ => rfl) hl up ?_
    rw [Chip.sweepTick_step hs hk hh]
    exact ⟨SameBut.of_outside (F := { light := true }) rfl (by decide), fun j => Chip.lane_setLane ..⟩
  · refine Does.of_fabric (fun _ => rfl) (by rw [hl, ht]; rfl) up
      ⟨fun j => ?_, SameBut.of_outside (Chip.endCheck_outside l rx tones c (F := Foot.reach) rfl) (by decide)⟩
    rw [Chip.endCheck_right hs hw hm]
    exact Chip.lane_updateLane ..
  · refine Does.of_fabric (fun _ => rfl) (by rw [hl, ht]; rfl) up
      ⟨fun j => ?_, SameBut.of_outside (Chip.endCheck_outside l rx tones c (F := Foot.reach) rfl) (by decide)⟩
    obtain ⟨code, cls, args, e⟩ := Chip.endCheck_other hs hw hf
    rw [e]
    exact (Chip.lane_of_light (Chip.raise_light ..) j).trans (Chip.lane_updateLane ..)
  · refine Does.of_fabric (fun _ => rfl) (by rw [hl, decide_eq_true hc]; rfl) up ?_
    rw [Chip.loopUpdate_held hs h0 h1 hr]
    exact ⟨fun j => Chip.lane_setLane .., SameBut.of_outside (F := { light := true }) rfl (by decide)⟩
  · have small : code < 4096 := by omega
    obtain ⟨v, ev, cls, args, hv, ho, e⟩ := Chip.loopUpdate_lost outside hc hs hn
    have lane : ∀ j, (c.loopUpdate l rx code outside).lane j = if j = l then v else c.lane j := fun j => by
      rw [e]
      exact (Chip.lane_of_light ((Chip.raise_light ..).trans (bumped ..)) j).trans (Chip.lane_updateLane ..)
    have here := (lane l).trans (if_pos rfl)
    refine Does.of_fabric (fun _ => rfl) (by rw [hl, decide_eq_true small]; rfl) up ⟨?_, ?_, ?_, ?_, fun j hj => (lane j).trans (if_neg hj),
      SameBut.of_outside (Chip.loopUpdate_outside l rx code outside c (F := Foot.reach) rfl) (by decide)⟩
    · rw [here, hv]
    · rw [here, hv]
    · rw [here, hv]
    · rw [here, ho]
  · refine Does.of_fabric (fun _ => rfl) hl up ⟨fun j => ?_, SameBut.of_outside (Chip.loseLight_outside l c
      (F := { Foot.sending with light := true, xbar := true, due := true }) rfl) (by decide)⟩
    rw [Chip.loseLight_locked hs]
    exact (Chip.lane_of_light (Chip.raise_light ..) j).trans (Chip.lane_updateLane ..)
  · refine Does.of_fabric (fun _ => rfl) hl up ?_
    rw [Chip.gainLight_waiting hs]
    exact ⟨fun j => Chip.lane_setLane .., SameBut.of_outside (F := { light := true }) rfl (by decide)⟩
  · have e : c.circuitDark h b = (c.setCircuit (512 * h + b) { c.circuit (512 * h + b) with dark := true }).raise 0x030C 2 [(12, 1024 * h + b)] :=
      if_neg hs
    refine Does.of_fabric (fun _ => rfl) (by rw [okHalf, decide_eq_true hh, decide_eq_true hb]; rfl) up ?_
    rw [e]
    refine ⟨fun k => ?_, fun j => Chip.lane_of_light (c := c.setCircuit _ _) (Chip.raise_light ..) j,
      SameBut.of_outside (F := { Foot.event with light := true }) (by simp +decide) (by decide)⟩
    rw [Chip.circuit, Chip.raise_light]
    refine (Tab.get_set ({} : Circuit) (512 * h + b) k _ c.light.circuits).trans ?_
    split
    next h => rw [h]
    next => rfl

end Sys2Proof.Machine

/-! SUPPORT. The lasers and their spares: samples, warming, aligning, readiness and failure (R41, R42, R90 to R94). -/

namespace Sys2Proof.Machine

set_option Elab.async false

open Sys2Proof

theorem Chip.laser_setLaser (j k : Nat) (v : Laser) (c : Chip) : (c.setLaser k v).laser j = if j = k then v else c.laser j := Tab.get_put ..

theorem Chip.laser_of_light {c d : Chip} (h : d.light = c.light) (j : Nat) : d.laser j = c.laser j := by rw [Chip.laser, Chip.laser, h]

theorem Chip.light_foldl {α : Type} {f : Chip → α → Chip} (hf : ∀ c x, (f c x).light = c.light) (l : List α) (c : Chip) :
    (l.foldl f c).light = c.light := by
  induction l generalizing c with
  | nil => rfl
  | cons x l ih => exact (ih _).trans (hf c x)

/-! ### Samples -/

/-- The samples of one laser enter its filter. -/
def Laser.sampled (l : List Nat) (x : Laser) : Laser := { x with hist := (l :: x.hist).take 16 }

theorem Chip.takeSamples_light {c : Chip} (hc : c.light.converting = true) (k : Nat) (l : List Nat) :
    (c.takeSamples [(k, l)]).light =
      { (c.setLaser k ((c.laser k).sampled l)).light with converting := false, freshSamples := true } := by
  have announced : ∀ d (c : Chip) l, (if (c.lane l).usable then c.announceLeave l d else c).light = c.light := fun d c l => by
    split
    · exact Part.Same.of_outside (p := .light) (Chip.announceLeave_outside l d c (F := { ports := true, sent := true }) rfl) rfl
    · rfl
  have adv : ∀ n, (c.advanceTo n).light = c.light := fun n =>
    Part.Same.of_outside (p := .light) (Chip.advanceTo_outside n c (F := { clock := true, ctr := true, sent := true }) rfl) rfl
  unfold Chip.takeSamples
  rw [if_neg (by rw [hc]; decide)]
  extract_lets d e x f deal lines g
  have hg : g.light = f.light :=
    Chip.light_foldl (f := fun c x => c.schedule deal (.fadeDrop x.1 x.2.1 x.2.2)) (fun _ _ => rfl) lines f
  have he : e.light = (c.setLaser k ((c.laser k).sampled l)).light := by
    have hd : d.light = c.light := adv _
    show (d.setLaser k ((d.laser k).sampled l)).light = _
    rw [Chip.laser_of_light hd, Chip.setLaser, hd]
    rfl
  refine (Chip.light_foldl (announced deal) _ g).trans (hg.trans ?_)
  exact congrArg (fun x : Light => { x with converting := false, freshSamples := true }) he

/-! ### A laser that serves at once -/

theorem Chip.lightLaser_laser (h p j : Nat) (c : Chip) : (c.lightLaser h p).laser j =
    if j = 32 * h + p then { c.laser j with state := .serving, readyAt := c.tb.lt } else c.laser j := by
  have key : ∀ (ls : List Nat) (f : Chip → Nat → Lane) (d : Chip), (ls.foldl (fun c l => c.setLane l (f c l)) d).light.lasers = d.light.lasers := fun ls f d => by
    induction ls generalizing d with
    | nil => rfl
    | cons l ls ih => exact (ih _).trans rfl
  unfold Chip.lightLaser
  extract_lets k x d
  rw [Chip.laser, key]
  refine (Chip.laser_setLaser j k _ c).trans ?_
  split
  next h => subst h; rfl
  next => rfl

/-! ### A spare that fails -/

theorem Chip.unrecorded_of_outside {F : Foot} {c t : Chip} (e : t.outside F = c.outside F) (h : F.unrecorded = false) :
    t.stew.unrecorded = c.stew.unrecorded := unblot h (congrArg (fun c : Chip => c.stew.unrecorded) e)

/-- A laser is FAILED and its failure is noted for PN_CAPS. -/
structure Chip.Failed (k : Nat) (e : Nat × Nat × Nat) (c : Chip) : Prop where
  state : (c.laser k).state = .failed
  noted : e ∈ c.stew.unrecorded

theorem Chip.Failed.of_same {k : Nat} {e : Nat × Nat × Nat} {c d : Chip} (h : Chip.Failed k e c) (hl : d.laser k = c.laser k)
    (hu : ∃ l, d.stew.unrecorded = c.stew.unrecorded ++ l) : Chip.Failed k e d where
  state := hl ▸ h.state
  noted := by
    obtain ⟨l, hu⟩ := hu
    rw [hu]
    exact List.mem_append_left l h.noted

theorem Chip.Failed.raise {k : Nat} {e : Nat × Nat × Nat} {c : Chip} (h : Chip.Failed k e c) (code cls args) :
    Chip.Failed k e (c.raise code cls args) := by
  have u := Chip.unrecorded_of_outside (Chip.raise_outside code cls args c (F := Foot.event) rfl) rfl
  have l := Chip.laser_of_light (Chip.raise_light code cls args c) k
  exact h.of_same l ⟨[], by rw [List.append_nil]; exact u⟩

/-- A free spare is a laser in state OFF. -/
theorem Chip.freeSpare_off {h p : Nat} {c : Chip} (e : c.freeSpare h = some p) : (c.laser (32 * h + p)).state = .off := by
  have := List.find?_some e
  exact beq_iff_eq.mp this

theorem Chip.Failed.startSwap {k : Nat} {e : Nat × Nat × Nat} {c : Chip} (f : Chip.Failed k e c) (h slot : Nat) :
    Chip.Failed k e (c.startSwap h slot) := by
  unfold Chip.startSwap
  split
  · exact f
  next p hp =>
    split
    · exact f.of_same rfl ⟨[], (List.append_nil _).symm⟩
    · extract_lets old x
      have g : Chip.Failed k e (c.setLaser (32 * h + p) { x with state := .warming, slot := slot, started := c.tb.lt, warn := false }) := by
        refine f.of_same ?_ ⟨[], (List.append_nil _).symm⟩
        refine (Chip.laser_setLaser ..).trans (if_neg fun hk => ?_)
        have off := Chip.freeSpare_off hp
        rw [← hk, f.state] at off
        exact absurd off (by decide)
      exact g.raise ..

theorem Chip.updateLane_laser (l : Nat) (v : Lane) (k : Nat) (c : Chip) : (c.updateLane l v).laser k = c.laser k :=
  Chip.laser_of_light (c := c.setLane l v) (Chip.updateLane_light l v c) k

theorem Chip.Failed.retireFor {k : Nat} {e : Nat × Nat × Nat} {c : Chip} (f : Chip.Failed k e c) (d l reason : Nat) :
    Chip.Failed k e (c.retireFor d l reason) := by
  unfold Chip.retireFor
  split
  · exact f
  · have u := Chip.unrecorded_of_outside (Chip.updateLane_outside l ((c.lane l).retire reason) c
      (F := { Foot.sending with light := true, xbar := true, due := true }) rfl) rfl
    have g : Chip.Failed k e (c.updateLane l ((c.lane l).retire reason)) :=
      f.of_same (Chip.updateLane_laser ..) ⟨[], by rw [List.append_nil]; exact u⟩
    exact (g.raise ..).of_same rfl ⟨_, rfl⟩

theorem Chip.Failed.giveUpSlot {k : Nat} {e : Nat × Nat × Nat} {c : Chip} (f : Chip.Failed k e c) (d h slot : Nat) :
    Chip.Failed k e (c.giveUpSlot d h slot) := by
  unfold Chip.giveUpSlot
  induction slotLanes h slot generalizing c with
  | nil => exact f
  | cons l ls ih =>
    rw [List.foldl_cons]
    apply ih
    dsimp only
    split
    · exact f.retireFor d l 3
    · exact f

theorem Chip.Failed.startWaiting {k : Nat} {e : Nat × Nat × Nat} (d h n : Nat) {c : Chip} (f : Chip.Failed k e c) :
    Chip.Failed k e (Chip.startWaiting d h n c) := by
  induction n generalizing c with
  | zero => exact f
  | succ n ih =>
    unfold Chip.startWaiting
    split
    · exact f
    next x _ =>
      split
      · exact f
      · extract_lets y t
        have ft : Chip.Failed k e t := f.of_same rfl ⟨[], (List.append_nil _).symm⟩
        split
        · exact ft.startSwap ..
        · exact ih (ft.giveUpSlot ..)

theorem Chip.spareTimeout_failed {h p : Nat} {c : Chip} (hp : 16 ≤ p)
    (hs : (c.laser (32 * h + p)).state = .warming ∨ (c.laser (32 * h + p)).state = .aligning) :
    Chip.Failed (32 * h + p) (c.effectDeal, 1, 32 * h + p) (c.spareTimeout h p) := by
  unfold Chip.spareTimeout
  extract_lets k x d e
  rw [if_neg (by omega), if_pos hs]
  let y := c.setLaser k { x with state := .failed }
  have u := Chip.unrecorded_of_outside (Chip.raise_outside 0x030A 3 [(1, h), (5, p)] y (F := Foot.event) rfl) rfl
  have l : d.laser k = y.laser k := Chip.laser_of_light (Chip.raise_light 0x030A 3 [(1, h), (5, p)] y) k
  have fd : Chip.Failed k (c.effectDeal, 1, k) d := by
    refine ⟨?_, List.mem_append_right _ (List.mem_singleton.mpr rfl)⟩
    rw [l]
    exact congrArg Laser.state ((Chip.laser_setLaser ..).trans (if_pos rfl))
  refine Chip.Failed.startWaiting _ _ _ ?_
  unfold e
  split
  · exact fd.startSwap ..
  · exact fd.giveUpSlot ..

/-- Settles O21: by what each event makes of its laser. -/
theorem laserEventsComplete : Obligations.LaserEventsComplete := by
  intro c q up
  have ok : ∀ {h p : Nat}, h < 2 → p < 20 → (okHalf h && decide (p < 20)) = true := fun hh hp => by
    rw [okHalf, decide_eq_true hh, decide_eq_true hp]; rfl
  refine ⟨?_, fun k l hk hl hc => ?_, fun h p hh hp hs => ?_, fun h p hh h16 hp hs => ?_, fun h p hh hp hs => ?_, fun h p hh h16 hp hs => ?_⟩
  · refine Does.of_fabric (fun _ => rfl) rfl up ⟨?_, fun hc => ?_, SameBut.of_outside (Chip.startConversion_outside c
      (F := { clock := true, light := true, ctr := true, sent := true }) rfl) (by decide)⟩
    · have := Part.Same.of_outside (p := .light) (Chip.advanceTo_outside (c.dealCycles / 2) c (F := { clock := true, ctr := true, sent := true }) rfl) rfl
      exact congrArg (fun x : Light => { x with converting := true }) this
    · have : c.advanceTo (c.dealCycles / 2) = c := if_neg (Nat.not_lt.mpr hc)
      rw [Chip.startConversion, this]
  · have ok : ([(k, l)].all fun x => okLaser x.1 && x.2.length == 8) = true := by
      simp [hk, hl]
    refine Does.of_fabric (fun _ => rfl) ok up ?_
    have e := Chip.takeSamples_light hc k l
    refine ⟨by rw [e], by rw [e], fun j => ?_, fun j => ?_, SameBut.of_outside (Chip.takeSamples_outside _ c
      (F := { clock := true, light := true, ports := true, ctr := true, due := true, sent := true }) rfl) (by decide)⟩
    · rw [Chip.laser, e]
      refine (congrArg Laser.hist (Chip.laser_setLaser j k _ c)).trans ?_
      split <;> rfl
    · rw [Chip.lane, e]; rfl
  · refine Does.of_fabric (f := fun c => if (c.laser (32 * h + p)).state = .warming then
        c.setLaser (32 * h + p) { c.laser (32 * h + p) with state := .aligning } else c) (fun _ => rfl) (ok hh hp) up ?_
    rw [if_pos hs]
    refine ⟨fun j => ?_, SameBut.of_outside (F := { light := true }) rfl (by decide)⟩
    refine (Chip.laser_setLaser ..).trans ?_
    split
    next h => rw [h]
    next => rfl
  · have e : c.spareReady h p = (c.setLaser (32 * h + p) { c.laser (32 * h + p) with state := .ready, readyAt := c.tb.lt }).schedule c.effectDeal (.lampSwap h p) := by
      unfold Chip.spareReady
      dsimp only
      rw [if_neg (fun x => by have := x.2; omega), if_pos hs]
    refine Does.of_fabric (fun _ => rfl) (ok hh hp) up ?_
    rw [e]
    refine ⟨fun j => ?_, rfl, SameBut.of_outside (F := { light := true, due := true }) rfl (by decide)⟩
    refine (Chip.laser_setLaser ..).trans ?_
    split
    next h => rw [h]
    next => rfl
  · have e : c.spareReady h p = c.lightLaser h p := if_pos ⟨hs, hp⟩
    refine Does.of_fabric (fun _ => rfl) (ok hh (by omega)) up ?_
    rw [e]
    exact ⟨fun j => Chip.lightLaser_laser h p j c, SameBut.of_outside (Chip.lightLaser_outside h p c (F := { light := true }) rfl) (by decide)⟩
  · have f := Chip.spareTimeout_failed h16 hs
    exact Does.of_fabric (fun _ => rfl) (ok hh hp) up ⟨f.state, f.noted, SameBut.of_outside (Chip.spareTimeout_outside h p c (F := Foot.reach) rfl) (by decide)⟩

end Sys2Proof.Machine
